-- ==== Sys2Proof/Word.lean ====
section
/-! DEFINITION. The word and index types of the trigger module (00_scope.md, R121). -/

namespace Sys2Proof

/-- A 64-bit register, record or tagged memory word (R121). -/
abbrev Word := BitVec 64

/-- One byte of memory. -/
abbrev Byte := BitVec 8

/-- A moment of device time in ticks of 1/128,000 ns: 125 ticks are one device-time unit of 2^-10 ns. -/
abbrev Time := Nat

/-- Front-end port 0 to 511 (R6). -/
abbrev PortId := Fin 512

/-- Row 0 to 31. -/
abbrev RowId := Fin 32

/-- Cluster 0 to 31. -/
abbrev ClusterId := Fin 32

/-- Core, numbered cluster × 16 + core of the cluster (Table 20.3). -/
abbrev CoreId := Fin 512

/-- Hardware context 0 to 3 of a core (R228). -/
abbrev CtxId := Fin 4

/-- Memory controller 0 to 3 (R333). -/
abbrev CtlId := Fin 4

/-- Ring port: 0 X+, 1 X−, 2 Y+, 3 Y− (R410). -/
abbrev RingPort := Fin 4

/-- Queue 0 to 32,767 (R444). -/
abbrev QueueId := Fin 32768

/-- Spike input 0 to 63. -/
abbrev SpikeId := Fin 64

/-- Region 0 to 4,095 (Table 2.6). -/
abbrev RegionId := Fin 4096

/-- Switched power domain 0 to 95 (Table 16.2). -/
abbrev DomainId := Fin 96

/-- A 5-bit register specifier (R167). -/
abbrev Reg5 := BitVec 5

end Sys2Proof
end

