-- ==== Sys2Proof/Syntax.lean ====
section
/-! DEFINITION. The commands of the block: one constructor per row of spec/opcode_table.json, with the row's operands.
A timed command carries `t`, the device time at which it happens. What physics decides and no rule computes (a parity
failure, a lane that disagrees, the result of a self-test) is an operand too. An Oxxus instruction names the core that
issues it; it runs in that core's running context, bank or trap window. -/

namespace Sys2Proof

/-- The three paths by which BAR0 is reached (R541). -/
inductive Path where
  | host
  | core
  | ring
  deriving DecidableEq, Repr

/-- Kind of a core's memory access (R308). -/
inductive Access where
  | fetch
  | load
  | store
  deriving DecidableEq, Repr

/-- The core-side holders of a line (Table 9.7). -/
inductive L1Kind where
  | instr
  | data
  | side
  deriving DecidableEq, Repr

/-- Requesters of a line snoop (R321). -/
inductive Snooper where
  | cluster (c : ClusterId)
  | host
  deriving DecidableEq, Repr

/-- Requesters of a memory read or write, as the error log names them (Table 10.7). -/
inductive Requester where
  | core
  | walker
  | dispatcher
  | row
  | readout
  | queue
  | host
  | controller
  deriving DecidableEq, Repr

/-- What the code checkers of a controller find on a line read (R337 to R341). -/
inductive ReadFinding where
  | clean
  /-- The light or symbol code corrects the words of the mask. -/
  | corrected (mask : BitVec 8)
  /-- The words of the mask are found uncorrectable. -/
  | uncorrectable (mask : BitVec 8)
  deriving DecidableEq, Repr

/-- A ring codeword as its decoder finds it (R387): wrong symbols, and messages that have a block in it. -/
structure Codeword where
  symbols : Nat
  messages : Nat
  deriving DecidableEq, Repr

/-- Head of a ring control block (R388, R394): its kind, and the message class of an IDLE block. -/
structure BlockHead where
  kind : BitVec 8
  cls : BitVec 3
  deriving DecidableEq, Repr

/-- A slice of a region: region and slice index within the frame (R279). -/
structure SliceKey where
  region : RegionId
  idx : Nat
  deriving DecidableEq, Repr

/-- What the self-checks of a reset interval find (R108, R581, R585). -/
structure DrainChecks where
  /-- Lanes that fail the lane check, as (row, lane). -/
  lanes : List (RowId × Fin 3)
  /-- Rows whose two voter copies differ. -/
  voters : List RowId
  /-- DEAD ports whose stitch self-check fails. -/
  stitches : List PortId
  /-- Some masthead copy fails its 256 test slots. -/
  masthead : Bool
  deriving DecidableEq, Repr

/-- A ring message (Table 12.2) with its body words. -/
structure RingMsg where
  cls : BitVec 3
  len : BitVec 5
  scope : BitVec 2
  radX : BitVec 8
  radY : BitVec 8
  typ : BitVec 6
  dst : BitVec 16
  src : BitVec 16
  seq : BitVec 32
  crc : BitVec 32
  body : List Word
  deriving DecidableEq, Repr

/-- The PLLs of Table 16.1 whose loss R494 decides. -/
inductive Pll where
  | row (r : RowId)
  | cluster (c : ClusterId)
  | optical (e : Fin 16)
  | hbm (m : CtlId)
  | masthead
  | timing
  | cxl
  | security
  deriving DecidableEq, Repr

/-- Causes of a stack failure (R584). -/
inductive StackCause where
  | pll
  | phy
  | supply
  deriving DecidableEq, Repr

/-- What a cluster self-test finds (Table 20.7). -/
structure BistFinding where
  cores : BitVec 16
  ways : BitVec 16
  tlb : Bool
  deriving DecidableEq, Repr

/-- The two SPDM transports (R488). -/
inductive Transport where
  | doe
  | mctp
  deriving DecidableEq, Repr

/-- The commands of the block, in the order of spec/opcode_table.json. -/
inductive Instr where
  | registerWrite (t : Time) (path : Path) (off : BitVec 26) (v : Word)
  | misalignedRegisterAccess (t : Time) (off : Nat) (size : Nat) (write : Bool) (v : Word)
  | frameMark (t : Time) (widthPs : Nat)
  | fmsoftWrite (t : Time) (v : Word)
  | frameEnd (t : Time)
  | drainComplete (t : Time) (chk : DrainChecks)
  | castOn (t : Time)
  | frameOverrun (t : Time) (chk : DrainChecks)
  | uplinkIdle (t : Time) (p : PortId)
  | uplinkTrain (t : Time) (p : PortId) (feType : BitVec 16) (serial : BitVec 24) (ack : Bool)
  | tick (t : Time) (p : PortId) (raw : BitVec 28)
  | echo (t : Time) (p : PortId) (ident : BitVec 8) (turnaround : BitVec 24)
  | status (t : Time) (p : PortId) (dlLock synced feFault : Bool) (word : BitVec 32)
  | scReply (t : Time) (p : PortId) (payload : BitVec 48)
  | credit (t : Time) (p : PortId) (grant : BitVec 16)
  | invalidUplinkBlock (t : Time) (p : PortId) (sync : BitVec 2) (block : Word)
  | hitBlock (t : Time) (p : PortId) (block : Word)
  | stitchPipeline (t : Time) (p : PortId) (fail : Bool)
  | blockLockGained (t : Time) (p : PortId)
  | blockLockLost (t : Time) (p : PortId)
  | trainTimeout (t : Time) (p : PortId)
  | syncCommand (t : Time) (p : PortId)
  | syncTimeout (t : Time) (p : PortId)
  | echoCommand (t : Time) (p : PortId)
  | echoTimeout (t : Time) (p : PortId)
  | prtEnable (t : Time) (p : PortId) (en : Bool)
  | prtForceDead (t : Time) (p : PortId) (set : Bool)
  | prtRetrain (t : Time) (p : PortId)
  | calStart (t : Time) (p : PortId)
  | fcsend (t : Time) (p : PortId) (v : Word)
  | slowControlSend (t : Time) (p : PortId) (v : Word)
  | readoutRecordSend (t : Time) (p : PortId) (q : QueueId)
  | regmapDataAccess (t : Time) (write : Bool) (v : Word)
  | chcntData1Read (t : Time)
  | automaskClear (t : Time) (v : Word)
  | rowHitArrival (t : Time) (r : RowId)
  | rowMergeSelect (t : Time) (r : RowId) (differ : BitVec 3) (voters : Bool)
  | rowFlush (t : Time) (r : RowId)
  | copyStage (t : Time) (r : RowId)
  | crossbarGrant (t : Time) (c : ClusterId)
  | watermarkMessage (t : Time) (r : RowId) (c : ClusterId)
  | streamStall (t : Time) (r : RowId) (s : Fin 16)
  | historyLineWrite (t : Time) (r : RowId)
  | dmapDataAccess (t : Time) (r : RowId) (data1 write : Bool) (v : Word)
  | dispatchWordArrival (t : Time) (c : ClusterId)
  | watermarkReceive (t : Time) (c : ClusterId)
  | sliceDispatch (t : Time) (c : ClusterId)
  | sliceStart (t : Time) (c : ClusterId) (k : SliceKey)
  | sliceCommit (t : Time) (c : ClusterId) (k : SliceKey)
  | sliceTimeout (t : Time) (c : ClusterId) (k : SliceKey)
  | unravel (t : Time) (c : ClusterId) (k : SliceKey)
  | provClear (core : CoreId) (ctx : CtxId)
  | candidateTransfer (t : Time) (c : ClusterId)
  | contextSwitch (core : CoreId)
  | ctxTimerExpiry (core : CoreId) (ctx : CtxId)
  | ctxTimerWrite (t : Time) (core : CoreId) (ctx : CtxId) (v : Word)
  | interruptTaken (core : CoreId)
  | fiqEntry (core : CoreId)
  | holdOverrun (core : CoreId)
  | twoPlyWord (core : CoreId) (w : BitVec 32)
  | nopS (core : CoreId)
  | add (core : CoreId) (rd ra rb : Reg5)
  | sub (core : CoreId) (rd ra rb : Reg5)
  | mul (core : CoreId) (rd ra rb : Reg5)
  | cmp (core : CoreId) (rd ra rb : Reg5)
  | min (core : CoreId) (rd ra rb : Reg5)
  | max (core : CoreId) (rd ra rb : Reg5)
  | addi (core : CoreId) (rd ra : Reg5) (imm : BitVec 15)
  | andR (core : CoreId) (rd ra rb : Reg5)
  | orR (core : CoreId) (rd ra rb : Reg5)
  | xorR (core : CoreId) (rd ra rb : Reg5)
  | andi (core : CoreId) (rd ra : Reg5) (imm : BitVec 15)
  | ori (core : CoreId) (rd ra : Reg5) (imm : BitVec 15)
  | xori (core : CoreId) (rd ra : Reg5) (imm : BitVec 15)
  | shl (core : CoreId) (rd ra rb : Reg5)
  | shr (core : CoreId) (rd ra rb : Reg5)
  | shru (core : CoreId) (rd ra rb : Reg5)
  | shli (core : CoreId) (rd ra : Reg5) (imm : BitVec 15)
  | shri (core : CoreId) (rd ra : Reg5) (imm : BitVec 15)
  | movi (core : CoreId) (rd : Reg5) (imm : BitVec 15)
  | mov (core : CoreId) (rd ra : Reg5)
  | tag (core : CoreId) (rd ra : Reg5)
  | eqR (core : CoreId) (rd ra rb : Reg5)
  | retag (core : CoreId) (rd ra rb : Reg5)
  | cvtf (core : CoreId) (rd ra : Reg5)
  | cvti (core : CoreId) (rd ra : Reg5)
  | tchk (core : CoreId) (rd ra : Reg5) (imm : BitVec 15)
  | fld (core : CoreId) (rd ra : Reg5) (sel : BitVec 15)
  | ld (core : CoreId) (rd base : Reg5) (post : Bool) (ofs : BitVec 14)
  | pageWalk (core : CoreId) (acc : Access) (va : Word) (speculative : Bool)
  | lineFill (core : CoreId) (kind : L1Kind) (pa : BitVec 46)
  | st (core : CoreId) (src base : Reg5) (post : Bool) (ofs : BitVec 14)
  | storeRelease (core : CoreId) (ctx : CtxId)
  | lda (core : CoreId) (rd : Reg5) (abs : BitVec 20)
  | sta (core : CoreId) (src : Reg5) (abs : BitVec 20)
  | car (core : CoreId) (rd ra : Reg5)
  | cdr (core : CoreId) (rd ra : Reg5)
  | ldp (core : CoreId) (rd ra : Reg5)
  | stp (core : CoreId) (src ra : Reg5)
  | setcar (core : CoreId) (ra rb : Reg5)
  | setcdr (core : CoreId) (ra rb : Reg5)
  | vld (core : CoreId) (rd ra rb : Reg5)
  | vst (core : CoreId) (src ra rb : Reg5)
  | vlen (core : CoreId) (rd ra : Reg5)
  | cons (core : CoreId) (rd ra rb : Reg5)
  | allocv (core : CoreId) (rd ra : Reg5)
  | cpyl (core : CoreId) (rd ra : Reg5)
  | assoc (core : CoreId) (rd ra rb : Reg5)
  | hlook (core : CoreId) (rd ra rb : Reg5)
  | hset (core : CoreId) (rd ra rb : Reg5) (mode : BitVec 4)
  | llen (core : CoreId) (rd ra : Reg5)
  | halloc (core : CoreId) (rd ra : Reg5) (mode : BitVec 4)
  | hgc (core : CoreId) (rd : Reg5)
  | collectionCycle (t : Time) (core : CoreId) (ctx : CtxId)
  | b (core : CoreId) (ofs : BitVec 25)
  | bS (core : CoreId) (ofs : BitVec 25)
  | call (core : CoreId) (ofs : BitVec 25)
  | callS (core : CoreId) (ofs : BitVec 25)
  | bc (core : CoreId) (rt : Reg5) (cond : BitVec 4) (ofs : BitVec 16)
  | bcS (core : CoreId) (rt : Reg5) (cond : BitVec 4) (ofs : BitVec 16)
  | ret (core : CoreId)
  | j (core : CoreId) (ra : Reg5)
  | callr (core : CoreId) (ra : Reg5)
  | eret (core : CoreId)
  | lbrk (core : CoreId)
  | wret (core : CoreId)
  | wcall (core : CoreId) (imm : BitVec 15)
  | loopr (core : CoreId) (ra : Reg5) (n : BitVec 9)
  | loopi (core : CoreId) (count : BitVec 10) (n : BitVec 9)
  | repr (core : CoreId) (ra : Reg5)
  | repi (core : CoreId) (count : BitVec 15)
  | sys (core : CoreId) (imm : BitVec 15)
  | mfs (core : CoreId) (rd : Reg5) (spec : BitVec 5)
  | mts (core : CoreId) (spec : BitVec 5) (ra : Reg5)
  | xmul (core : CoreId) (ra rb : Reg5)
  | xfma (core : CoreId) (ra rb : Reg5)
  | fence (core : CoreId)
  | dsync (core : CoreId)
  | tlbiA (core : CoreId) (ra : Reg5)
  | tlbiW (core : CoreId) (ra : Reg5)
  | tlbiAll (core : CoreId)
  | tlblk (core : CoreId) (ra : Reg5)
  | tlbul (core : CoreId) (ra : Reg5)
  | preload (core : CoreId) (rd ra rb : Reg5)
  | l2lock (core : CoreId) (ra : Reg5)
  | stage (core : CoreId) (ra : Reg5)
  | cx (core : CoreId) (slot : BitVec 5) (rd ra rb : Reg5) (mode : BitVec 4)
  | safePointOverrun (core : CoreId) (slot : BitVec 5) (maddr : BitVec 15)
  | decodeTableAccess (t : Time) (write : Bool) (v : Word)
  | cluL2lockWrite (t : Time) (c : ClusterId) (v : Word)
  | evictionAccept (t : Time) (c : ClusterId) (bank : Fin 8)
  | snoop (t : Time) (holder : ClusterId) (by_ : Snooper) (pa : BitVec 46) (write : Bool)
  | memoryRead (t : Time) (m : CtlId) (pa : BitVec 46) (req : Requester) (unit : BitVec 6) (found : ReadFinding)
  | pageDecode (t : Time) (m : CtlId) (pa : BitVec 46) (req : Requester) (unit : BitVec 6) (oneBurst : Bool)
  | memoryWrite (t : Time) (m : CtlId) (pa : BitVec 46) (mask : BitVec 8) (data : List Word)
  | mergeComplete (t : Time) (m : CtlId) (pa : BitVec 46)
  | flipArm (t : Time) (m : CtlId) (v : Word)
  | powerOnFill (t : Time) (m : CtlId) (fails : Bool)
  | fillDone (t : Time)
  | stackFailure (t : Time) (m : CtlId) (cause : StackCause)
  | candidateTake (t : Time)
  | doneTime (t : Time) (c : ClusterId)
  | slotReport (t : Time) (unit : Fin 64) (slot : BitVec 32)
  | slotCutoff (t : Time) (slot : BitVec 32) (differ : Bool)
  | systemCutoff (t : Time) (slot : BitVec 32) (differ : Bool)
  | readoutGather (t : Time) (slot : BitVec 32)
  | mstTabAccess (t : Time) (data1 write : Bool) (v : Word)
  | mastheadActivation (t : Time)
  | swap (t : Time) (v : Word)
  | fecCodeword (t : Time) (i : RingPort) (word : Codeword)
  | ringIdle (t : Time) (i : RingPort) (head : BlockHead) (credits : Nat)
  | tsyncSend (t : Time) (i : RingPort)
  | tsync (t : Time) (i : RingPort) (m : RingMsg)
  | decision (t : Time) (i : RingPort) (m : RingMsg)
  | cand (t : Time) (i : RingPort) (m : RingMsg)
  | done (t : Time) (i : RingPort) (m : RingMsg)
  | doneSend (t : Time)
  | loss (t : Time) (i : RingPort) (m : RingMsg)
  | contributorAbsent (t : Time) (k : Fin 64)
  | fcrel (t : Time) (i : RingPort) (m : RingMsg)
  | hello (t : Time) (i : RingPort) (m : RingMsg)
  | leave (t : Time) (i : RingPort) (m : RingMsg)
  | probe (t : Time) (i : RingPort) (m : RingMsg)
  | conflict (t : Time) (i : RingPort) (m : RingMsg)
  | rd (t : Time) (i : RingPort) (m : RingMsg)
  | wr (t : Time) (i : RingPort) (m : RingMsg)
  | ack (t : Time) (i : RingPort) (m : RingMsg)
  | mgmtRetransmit (t : Time) (seq : BitVec 32)
  | bwrite (t : Time) (i : RingPort) (m : RingMsg)
  | bdone (t : Time) (i : RingPort) (m : RingMsg)
  | ringLossOfSignal (t : Time) (i : RingPort) (partly : Bool)
  | ringPortTrained (t : Time) (i : RingPort)
  | join (t : Time)
  | joinComplete (t : Time)
  | leaveRequest (t : Time)
  | bypassClose (t : Time)
  | doorbellWrite (t : Time) (q : QueueId) (v : Word)
  | doorbellArm (t : Time) (q : QueueId)
  | queueInterrupt (t : Time) (q : QueueId)
  | queueEnable (t : Time) (q : QueueId) (v : Word)
  | queueDisable (t : Time) (q : QueueId)
  | abortRequest (t : Time) (v : Word)
  | abortDecide (t : Time)
  | norRead (t : Time) (q : QueueId)
  | norErase (t : Time) (q : QueueId)
  | norProgram (t : Time) (q : QueueId)
  | ringRd (t : Time) (q : QueueId)
  | ringWr (t : Time) (q : QueueId)
  | fcrelJob (t : Time) (q : QueueId)
  | bwriteJob (t : Time) (q : QueueId)
  | jobComplete (t : Time) (q : QueueId)
  | hitDecodeWork (t : Time) (p : PortId)
  | hitDecodeReply (t : Time) (reply : List Word)
  | orderingReply (t : Time) (reply : List Word)
  | ruleEvalReply (t : Time) (reply : List Word)
  | combineReply (t : Time) (reply : List Word)
  | heapKeepReply (t : Time) (reply : List Word)
  | linkCalReply (t : Time) (reply : List Word)
  | slowPathReply (t : Time) (reply : List Word)
  | haTimeout (t : Time) (f : Fin 8) (job : BitVec 24)
  | hostMemoryAccess (t : Time) (dpa : BitVec 46) (write : Bool) (v : Word)
  | cxlLinkTrained (t : Time) (gts : Nat) (width : Nat)
  | errorRecordWrite (t : Time)
  | clearLog (t : Time)
  | clearFirst (t : Time)
  | errInject (t : Time) (v : Word)
  | deviceReset (t : Time) (v : Word)
  | undervoltageRelease (t : Time)
  | enableHigh (t : Time)
  | enableLow (t : Time)
  | undervoltageTrip (t : Time)
  | overvoltageTrip (t : Time)
  | aoStart (t : Time)
  | aoPowerLoss (t : Time)
  | inputOvercurrent (t : Time)
  | resetN (t : Time)
  | perstN (t : Time)
  | laserWarmupDone (t : Time)
  | startLock (t : Time)
  | getVersion (x : Transport)
  | getCapabilities (x : Transport)
  | negotiateAlgorithms (x : Transport) (extAsym : Bool)
  | getDigests (x : Transport)
  | getCertificate (x : Transport) (slot : Nat) (offset length : Nat)
  | challenge (x : Transport) (summary : Bool) (nonce : BitVec 256)
  | getMeasurements (x : Transport) (index : BitVec 8) (signed : Bool) (nonce : BitVec 256)
  | chunkGet (x : Transport) (seq : Nat)
  | unsupportedSpdmRequest (x : Transport) (code : BitVec 8)
  | fuseProgram (t : Time) (v : Word)
  | fuseRevoke (t : Time) (v : Word)
  | fuseDone (t : Time) (readback : List Word)
  | domainRequest (t : Time) (d : DomainId) (req : BitVec 2)
  | domainTransitionDone (t : Time) (d : DomainId)
  | clusterIdle (t : Time) (c : ClusterId)
  | clusterWritebackDone (t : Time) (c : ClusterId)
  | hbmIdle (t : Time) (m : CtlId)
  | pllLockLoss (t : Time) (u : Pll)
  | crossingHold (t : Time) (pairs : List Bool)
  | crossingStallTimeout (t : Time) (cls : Fin 6) (d : DomainId)
  | temperatureSample (t : Time) (readings : List (BitVec 12))
  | syncEdge (t : Time) (widthPs : Nat)
  | sourceLost (t : Time)
  | timeLocked (t : Time)
  | sourceRestored (t : Time)
  | spikeEdge (t : Time) (s : SpikeId)
  | tdcCalStart (t : Time)
  | tdcCalDone (t : Time) (missing : List SpikeId)
  | bistStart (t : Time) (c : ClusterId)
  | bistDrain (t : Time) (c : ClusterId)
  | bistDone (t : Time) (c : ClusterId) (found : BistFinding)
  | fastCommandDeparture (t : Time) (p : PortId)
  | pllLockGained (t : Time) (u : Pll)
  | cxlLinkDown (t : Time)
  | alignBlock (t : Time) (i : RingPort)
  | illegalInstruction (core : CoreId) (w : BitVec 32)
  deriving DecidableEq, Repr

end Sys2Proof
end

