-- ==== Sys2Proof/Decode.lean ====
section
/-! DEFINITION. The command that a word of spec/opcode_table.json spells, and the instruction that a word of code memory holds
(05_oxxus_execution_model.md, 06_oxxus_instructions.md). No row of the table gives bits, so no table word spells a command. -/

namespace Sys2Proof

/-- The command of a table word: none, for the table gives no row any bits. -/
def decodeTableWord (_nbits _w : Nat) : Option Instr := none

/-! ### Instruction words (R166, R167, R203, R206) -/

/-- Bits [hi:lo] of an instruction word. -/
def wbits (w : BitVec 32) (hi lo : Nat) : Nat := w.toNat / 2 ^ lo % 2 ^ (hi + 1 - lo)

/-- A register specifier. -/
def spec5 (n : Nat) : Reg5 := BitVec.ofNat 5 n

/-- An instruction whose register specifiers name registers (R167) and whose unused fields hold zero (R203). -/
def wordIf (regs zeros : List Nat) (i : Instr) : Option Instr :=
  if regs.all (fun r => decide (r < 24)) && zeros.all (fun z => z == 0) then some i else none

/-- GEN, LOG and MOVE (Table 6.2). -/
def decodeMove (c : CoreId) (major rd ra rb fn : Nat) : Option Instr :=
  let d := spec5 rd
  let a := spec5 ra
  let b := spec5 rb
  match major, fn with
  | 1, 0 => wordIf [rd, ra, rb] [] (.add c d a b)
  | 1, 1 => wordIf [rd, ra, rb] [] (.sub c d a b)
  | 1, 2 => wordIf [rd, ra, rb] [] (.mul c d a b)
  | 1, 3 => wordIf [rd, ra, rb] [] (.cmp c d a b)
  | 1, 4 => wordIf [rd, ra, rb] [] (.min c d a b)
  | 1, 5 => wordIf [rd, ra, rb] [] (.max c d a b)
  | 2, 0 => wordIf [rd, ra, rb] [] (.andR c d a b)
  | 2, 1 => wordIf [rd, ra, rb] [] (.orR c d a b)
  | 2, 2 => wordIf [rd, ra, rb] [] (.xorR c d a b)
  | 2, 3 => wordIf [rd, ra, rb] [] (.shl c d a b)
  | 2, 4 => wordIf [rd, ra, rb] [] (.shr c d a b)
  | 2, 5 => wordIf [rd, ra, rb] [] (.shru c d a b)
  | 3, 0 => wordIf [rd, ra] [rb] (.mov c d a)
  | 3, 1 => wordIf [rd, ra] [rb] (.tag c d a)
  | 3, 2 => wordIf [rd, ra, rb] [] (.eqR c d a b)
  | 3, 3 => wordIf [rd, ra, rb] [] (.retag c d a b)
  | 3, 4 => wordIf [rd, ra] [rb] (.cvtf c d a)
  | 3, 5 => wordIf [rd, ra] [rb] (.cvti c d a)
  | _, _ => none

/-- SPEC, the multiplier and LIST (Tables 6.4, 6.5, 6.8). -/
def decodeList (c : CoreId) (major rd ra rb fn : Nat) : Option Instr :=
  let d := spec5 rd
  let a := spec5 ra
  let b := spec5 rb
  match major, fn with
  | 4, 0 => wordIf [rd] [ra] (.mfs c d b)
  | 4, 1 => wordIf [ra] [rd] (.mts c b a)
  | 5, 0 => wordIf [ra, rb] [rd] (.xmul c a b)
  | 5, 1 => wordIf [ra, rb] [rd] (.xfma c a b)
  | 6, 0 => wordIf [rd, ra] [rb] (.car c d a)
  | 6, 1 => wordIf [rd, ra] [rb] (.cdr c d a)
  | 6, 2 => wordIf [rd, ra, rb] [] (.cons c d a b)
  | 6, 3 => wordIf [ra, rb] [rd] (.setcar c a b)
  | 6, 4 => wordIf [ra, rb] [rd] (.setcdr c a b)
  | 6, 5 => wordIf [rd, ra] [rb] (.allocv c d a)
  | 6, 6 => wordIf [rd, ra, rb] [] (.vld c d a b)
  | 6, 7 => wordIf [rd, ra, rb] [] (.vst c d a b)
  | 6, 8 => wordIf [rd, ra] [rb] (.vlen c d a)
  | 6, 9 => wordIf [rd, ra] [rb] (.ldp c d a)
  | 6, 10 => wordIf [rd, ra] [rb] (.stp c d a)
  | _, _ => none

/-- SYS and CTRL (Tables 6.7, 6.9). -/
def decodeSys (c : CoreId) (major rd ra rb fn : Nat) : Option Instr :=
  let a := spec5 ra
  match major, fn with
  | 7, 0 => wordIf [] [rd, ra, rb] (.fence c)
  | 7, 1 => wordIf [] [rd, ra, rb] (.dsync c)
  | 7, 2 => wordIf [ra] [rd, rb] (.tlbiA c a)
  | 7, 3 => wordIf [ra] [rd, rb] (.tlbiW c a)
  | 7, 4 => wordIf [] [rd, ra, rb] (.tlbiAll c)
  | 7, 5 => wordIf [ra] [rd, rb] (.tlblk c a)
  | 7, 6 => wordIf [ra] [rd, rb] (.tlbul c a)
  | 7, 7 => wordIf [rd, ra, rb] [] (.preload c (spec5 rd) a (spec5 rb))
  | 7, 8 => wordIf [ra] [rd, rb] (.l2lock c a)
  | 7, 11 => wordIf [ra] [rd, rb] (.stage c a)
  | 8, 0 => wordIf [] [rd, ra, rb] (.ret c)
  | 8, 1 => wordIf [ra] [rd, rb] (.j c a)
  | 8, 2 => wordIf [ra] [rd, rb] (.callr c a)
  | 8, 3 => wordIf [] [rd, ra, rb] (.eret c)
  | 8, 4 => wordIf [] [rd, ra, rb] (.lbrk c)
  | 8, 5 => wordIf [] [rd, ra, rb] (.wret c)
  | _, _ => none

/-- Format RI (Tables 6.2, 6.3, 6.7). -/
def decodeImm (c : CoreId) (major rd ra imm : Nat) : Option Instr :=
  let d := spec5 rd
  let a := spec5 ra
  let i := BitVec.ofNat 15 imm
  let n := BitVec.ofNat 9 imm
  match major with
  | 0x10 => wordIf [rd, ra] [] (.addi c d a i)
  | 0x11 => wordIf [rd] [ra] (.movi c d i)
  | 0x12 => wordIf [rd, ra] [] (.andi c d a i)
  | 0x13 => wordIf [rd, ra] [] (.ori c d a i)
  | 0x14 => wordIf [rd, ra] [] (.xori c d a i)
  | 0x15 => wordIf [rd, ra] [imm / 64] (.shli c d a i)
  | 0x16 => wordIf [rd, ra] [imm / 64] (.shri c d a i)
  | 0x17 => if imm < 14 then wordIf [rd, ra] [] (.fld c d a i) else none
  | 0x18 => wordIf [rd, ra] [imm / 256] (.tchk c d a i)
  | 0x19 => wordIf [ra] [rd, imm / 512] (.loopr c a n)
  | 0x1A => wordIf [] [imm / 512] (.loopi c (BitVec.ofNat 10 (rd * 32 + ra)) n)
  | 0x1B => wordIf [ra] [rd, imm] (.repr c a)
  | 0x1C => wordIf [] [rd, ra] (.repi c i)
  | 0x1D => wordIf [] [rd, ra] (.sys c i)
  | 0x1E => wordIf [] [rd, ra] (.wcall c i)
  | _ => none

/-- Formats M, A, B and BC (Tables 6.4, 6.7). -/
def decodeReach (c : CoreId) (major : Nat) (w : BitVec 32) : Option Instr :=
  let r := wbits w 24 20
  let b := wbits w 19 15
  let post := wbits w 14 14 == 1
  let ofs := BitVec.ofNat 14 w.toNat
  let abs := BitVec.ofNat 20 w.toNat
  let far := BitVec.ofNat 25 w.toNat
  let cond := wbits w 19 16
  match major with
  | 0x20 => wordIf [r, b] [] (.ld c (spec5 r) (spec5 b) post ofs)
  | 0x21 => wordIf [r, b] [] (.st c (spec5 r) (spec5 b) post ofs)
  | 0x24 => wordIf [r] [] (.lda c (spec5 r) abs)
  | 0x25 => wordIf [r] [] (.sta c (spec5 r) abs)
  | 0x28 => some (.b c far)
  | 0x29 => some (.bS c far)
  | 0x2A => some (.call c far)
  | 0x2B => some (.callS c far)
  | 0x2C => if cond < 10 then wordIf [r] [] (.bc c (spec5 r) (BitVec.ofNat 4 cond) (BitVec.ofNat 16 w.toNat)) else none
  | 0x2D => if cond < 10 then wordIf [r] [] (.bcS c (spec5 r) (BitVec.ofNat 4 cond) (BitVec.ofNat 16 w.toNat)) else none
  | _ => none

/-- Format X: the vendor instructions of Table 6.6, and CX0 to CX31, whose binding is judged when they issue (R227). -/
def decodeExt (c : CoreId) (w : BitVec 32) : Option Instr :=
  let slot := wbits w 24 19
  let rd := wbits w 18 14
  let ra := wbits w 13 9
  let rb := wbits w 8 4
  let mode := wbits w 3 0
  let d := spec5 rd
  let a := spec5 ra
  let b := spec5 rb
  let m := BitVec.ofNat 4 mode
  match slot with
  | 0 => wordIf [rd, ra] [rb, mode] (.cpyl c d a)
  | 1 => wordIf [rd, ra, rb] [mode] (.assoc c d a b)
  | 2 => wordIf [rd, ra, rb] [mode] (.hlook c d a b)
  | 3 => wordIf [rd, ra, rb] [mode / 2] (.hset c d a b m)
  | 4 => wordIf [rd, ra] [rb, mode] (.llen c d a)
  | 5 => wordIf [rd, ra] [rb, mode / 2] (.halloc c d a m)
  | 6 => wordIf [rd] [ra, rb, mode] (.hgc c d)
  | _ => if 32 ≤ slot then wordIf [rd, ra, rb] [] (.cx c (BitVec.ofNat 5 slot) d a b m) else none

/-- The instruction that a word of code memory holds for a core; none where the word is illegal whatever the state (R166, R203, R206).
The plies of a two-ply word are judged when it issues. -/
def decodeWord (c : CoreId) (w : BitVec 32) : Option Instr :=
  if wbits w 31 31 = 1 then some (.twoPlyWord c w)
  else
    let major := wbits w 30 25
    let rd := wbits w 24 20
    let ra := wbits w 19 15
    let rb := wbits w 14 10
    let fn := wbits w 9 0
    if major < 4 then decodeMove c major rd ra rb fn
    else if major < 7 then decodeList c major rd ra rb fn
    else if major < 9 then decodeSys c major rd ra rb fn
    else if major < 0x20 then decodeImm c major rd ra (wbits w 14 0)
    else if major = 0x3F then decodeExt c w
    else decodeReach c major w

end Sys2Proof
end

