-- ==== Sys2Proof/Config.lean ====
section
/-! DEFINITION. What the spec leaves open and the model leaves free: opaque constants, which no proof can evaluate. -/

namespace Sys2Proof.Config

/-- The free values: value `n` is what the `n`-th open result of a run holds (log entry 1). -/
opaque freeWord : Nat → BitVec 64

/-- Phase of the AO clock against device time, in ticks: Table 16.1 fixes none (log entry 12). -/
opaque aoPhase : Nat

/-- The 144-bit word that a control-store word number holds in ROM or in the patch region of this part (R411; log entry 1). -/
opaque romWord : Nat → BitVec 144

/-- SHA3-256 of a list of bytes; FIPS 202 is named by the spec and not given in it (log entry 13). -/
opaque sha3 : List Byte → BitVec 256

/-- Whether an ML-DSA-44 signature verifies: public key, message, signature (FIPS 204, log entry 13). -/
opaque sigValid : List Byte → List Byte → List Byte → Bool

/-- The ML-DSA-44 signature of the device identity key over a message (R483, log entry 13). -/
opaque devSign : List Byte → List Byte

/-- SHA3-256 of the boot ROM followed by the control-store ROM (R486, log entry 13). -/
opaque romDigest : BitVec 256

/-- Bytes of the boot ROM and the control-store ROM that slot 0 measures (R486, log entry 13). -/
opaque romLen : Nat

/-- The fused vendor key digest (Table 15.10, log entry 13). -/
opaque vendorDigest : BitVec 256

/-- The module serial number (R548, log entry 13). -/
opaque serial : BitVec 48

/-- The key of the device certificate in a certificate chain equals the device identity key (R483, log entry 13). -/
opaque chainHasKey : List Byte → Bool

/-- The L2 or TLB victim way among those that may be filled, for the n-th choice (log entry 1). -/
opaque victim : Nat → Nat

/-- Set of the snoop filter that tracks a line; R329 gives no index (log entry 1). -/
opaque filterSet : Nat → Nat

/-- Address of the slice exit that LR holds at slice entry (R202); the spec names none (log entry 1). -/
opaque sliceExit : Nat

/-- Microaddress of the ROM routine of extended slots 0 to 6 (R217, R429); the spec names none (log entry 1). -/
opaque romEntry : Nat → Nat

end Sys2Proof.Config
end

