-- ==== Sys2Proof/Machine/Sparse.lean ====
section
/-! DEFINITION. Sparse tables: a list of (key, value) pairs in one canonical form, keys strictly rising and no
entry equal to what an unlisted key reads as. Memory, registers and every table of like units are held so. -/

namespace Sys2Proof.Machine

/-- A sparse table; for memory this is a list of `Host.Cell`. -/
abbrev Sparse (α : Type) := List (Nat × α)

/-- What key `k` reads as, `d` where the table lists nothing. -/
def sget {α : Type} (d : α) (k : Nat) : Sparse α → α
  | [] => d
  | (j, v) :: l => if j = k then v else sget d k l

/-- Put `(k, v)` before the first larger key. -/
def sinsert {α : Type} (k : Nat) (v : α) : Sparse α → Sparse α
  | [] => [(k, v)]
  | (j, w) :: l => if k < j then (k, v) :: (j, w) :: l else (j, w) :: sinsert k v l

/-- Remove every entry of key `k`. -/
def serase {α : Type} (k : Nat) : Sparse α → Sparse α
  | [] => []
  | (j, w) :: l => if j = k then serase k l else (j, w) :: serase k l

/-- Write key `k`; writing the value an unlisted key reads as removes the entry. -/
def sset {α : Type} [DecidableEq α] (d : α) (k : Nat) (v : α) (l : Sparse α) : Sparse α :=
  if v = d then serase k l else sinsert k v (serase k l)

/-- Every key of the table is above `k`. -/
def keysAbove {α : Type} (k : Nat) : Sparse α → Bool
  | [] => true
  | (j, _) :: l => decide (k < j) && keysAbove k l

/-- The canonical form: keys strictly rising, no entry equal to the unlisted value `d k` of its key. -/
def swf {α : Type} [DecidableEq α] (d : Nat → α) : Sparse α → Bool
  | [] => true
  | (j, v) :: l => decide (v ≠ d j) && keysAbove j l && swf d l

end Sys2Proof.Machine
end

