-- ==== Sys2Proof/Machine/State.lean ====
section
/-! DEFINITION. The state of the trigger module, all of it plain data. Registers of BAR0 have one home, `State.regs`, keyed by
BAR0 offset. The status that a register only shows (a link state, a queue index) has its home in the structures below and is
laid over the register when it is read. Tables of like units are sparse tables keyed by unit number. -/

namespace Sys2Proof.Machine

/-- Link states of a front-end port (Table 2.4), in the order of their codes. -/
inductive Link where
  | off
  | acquire
  | train
  | sync
  | measure
  | ready
  | up
  | dead
  deriving DecidableEq, Repr

/-- Code of a link state in PRT_STATUS.STATE. -/
def Link.code : Link → Nat
  | .off => 0
  | .acquire => 1
  | .train => 2
  | .sync => 3
  | .measure => 4
  | .ready => 5
  | .up => 6
  | .dead => 7

/-- An elastic-buffer entry (R66): a data block or a TICK, its arrival time, and whether hit 1 has been taken (R64). -/
structure Elastic where
  data : Bool
  block : Word
  arr : Nat
  hit2 : Bool
  deriving DecidableEq, Repr

/-- A fast command that holds a downlink block (R75). `ref` is the number of the block on the port's grid, `teff` its effective
time in ticks, `rank` its class, `soft` a command of PRT_FCSEND. -/
structure FastCmd where
  rank : Nat
  ref : Int
  teff : Int
  code : Nat
  arg : Nat
  fine : Nat
  phase : Int
  soft : Bool
  deriving DecidableEq, Repr

/-- One front-end port with its stitch (02_ports_and_stitches.md). -/
structure PortSt where
  /-- Link state (R53). -/
  link : Link
  /-- When the link state was entered. -/
  since : Time
  /-- Consecutive valid TRAIN blocks received, and of these the consecutive ones with ACK 1 (Table 2.4). -/
  trainRx : Nat
  trainAck : Nat
  /-- When the device began to send ACK 1. -/
  ackAt : Option Time
  /-- SYNCs sent in this stay in SYNC, and the effective time of the last, in 2^-10 ns. -/
  syncs : Nat
  syncEff : Option Nat
  /-- Calibration run (R79): running, round 1 to 4, echoes sent in the round, effective time of the next ECHO in ticks. -/
  calRun : Bool
  calRound : Nat
  calSent : Nat
  calNext : Int
  /-- Echoes of the round without a reply: identifier and effective time in ticks. -/
  echoes : List (Nat × Int)
  /-- Round trips of the round, in ticks. -/
  rtts : List Int
  /-- A run was requested for the next entry into MEASURE or the next reset interval. -/
  calReq : Bool
  /-- The port is in DEAD, or will enter it, because of a stitch failure (R56). -/
  failed : Bool
  /-- The self-check of the reset interval has passed (R581). -/
  checked : Bool
  /-- The stitch is closed for the frame (R29). -/
  closed : Bool
  /-- Port time in 15.625 ps units of device time (R50), none before the first. -/
  portTime : Option Int
  /-- Elastic buffer, oldest first (R66). -/
  buf : List Elastic
  /-- Deserialiser delay seen at the first presentation since TRAIN (R66), in ticks. -/
  delay : Option Nat
  /-- When the last block was presented. -/
  shown : Time
  /-- FE_FAULT record and elastic-overflow record written in this frame (R57, R36). -/
  faultRec : Bool
  ovfRec : Bool
  /-- Downlink blocks given to fast commands. -/
  cmds : List FastCmd
  /-- Credit count of a readout port (R82). -/
  credits : Nat
  /-- Readout record being sent: stream, sequence and the time its last block leaves. -/
  sending : Option (Nat × Nat × Time)
  /-- Slow-control block waiting to be sent (R48). -/
  scOut : Option Word
  /-- Block that the port sends whenever nothing else is due, none in OFF (Tables 2.3, 2.4). -/
  filler : Option Word
  /-- Blocks of the last command, slow-control word or readout record sent down the port, in order: data block or not, payload. -/
  sent : List (Bool × Word)
  /-- Blocks gathered for an F0 work item, oldest first, and the time of the first. -/
  gathered : List Elastic
  gatherAt : Time
  /-- Words of F0 replies that came to a closed stitch, with their device time in 15.625 ps: they wait for the next frame (R64). -/
  held : List (Int × Word)
  deriving DecidableEq, Repr

/-- A port after reset. -/
def PortSt.reset : PortSt :=
  { link := .off, since := 0, trainRx := 0, trainAck := 0, ackAt := none, syncs := 0, syncEff := none, calRun := false,
    calRound := 0, calSent := 0, calNext := 0, echoes := [], rtts := [], calReq := false, failed := false, checked := false, closed := true,
    portTime := none, buf := [], delay := none, shown := 0, faultRec := false, ovfRec := false, cmds := [], credits := 0,
    sending := none, scOut := none, filler := none, sent := [], gathered := [], gatherAt := 0, held := [] }

/-- Counters and noise masking of one global channel (R70 to R72). -/
structure ChanSt where
  fwd : Nat
  masked : Nat
  supp : Nat
  auto : Bool
  win : Nat
  cnt : Nat
  /-- Its auto-masking in this frame has been recorded (R72). -/
  told : Bool
  deriving DecidableEq, Repr

/-- A channel after reset. -/
def ChanSt.reset : ChanSt := { fwd := 0, masked := 0, supp := 0, auto := false, win := 0, cnt := 0, told := false }

/-- What a stream brings to its row: a hit with its region, a new stream time in key units, or the closing of the stream. -/
inductive RowIn where
  | hit (word : Word) (region : Nat)
  | time (key : Nat)
  | close
  deriving DecidableEq, Repr

/-- One input stream of a row (R87). -/
structure StreamSt where
  ts : Nat
  live : Bool
  lagging : Bool
  changed : Time
  seq : Nat
  deriving DecidableEq, Repr

/-- A stream that is not live. -/
def StreamSt.reset : StreamSt := { ts := 0, live := false, lagging := false, changed := 0, seq := 0 }

/-- A hit held in a row, with the row cycle in which it was selected or passed. -/
structure RowHit where
  key : Nat
  stream : Nat
  seq : Nat
  word : Word
  region : Nat
  behind : Bool
  cyc : Nat
  deriving DecidableEq, Repr

/-- A dispatch word (Table 3.3); `last` marks the last copy of its hit, `due` the end of its crossbar transit. -/
structure DispWord where
  word : Word
  target : Nat
  origin : Nat
  row : Nat
  stream : Nat
  halo : Bool
  behind : Bool
  eof : Bool
  last : Bool
  due : Time
  deriving DecidableEq, Repr

/-- One row (03_rows.md). The three lanes receive the same inputs, so one store stands for all of them. -/
structure RowSt where
  /-- Words and stream times on their way from stitches and spike channels: due time, stream, content. -/
  inbox : List (Time × Nat × RowIn)
  streams : Sparse StreamSt
  /-- Release time RT_r in key units (R90). -/
  rt : Nat
  /-- Hits waiting for selection, in the order of R89. -/
  store : List RowHit
  /-- Hits selected or passed, waiting for the copy stage. -/
  picked : List RowHit
  /-- Copy buffer of 32 words (R111). -/
  copies : List DispWord
  /-- Virtual output queues by cluster (R113). -/
  voq : Sparse (List DispWord)
  /-- Disabled lanes (R106). -/
  lanesOff : BitVec 3
  /-- 0 VOTE3, 1 VOTE2, 2 STOPPED (Table 3.1). -/
  vstate : Nat
  voterFault : Bool
  retired : Bool
  classMerged : Bool
  fanoutCut : Bool
  /-- Watermark classes as stream masks (R97), the classes before the last rebuild, and when the rebuild ends (R98). -/
  classes : List Nat
  oldClasses : List Nat
  rebuilt : Time
  /-- Hits emitted and not yet in a history line, in output order (R115, R117). -/
  line : List RowHit
  /-- Next bucket of the index ring without an entry (R118). -/
  bucket : Nat
  /-- The firm watermark has passed the frame end; the end-of-frame words have been sent (R30). -/
  flushing : Bool
  flushed : Bool
  /-- Clusters whose queue had no room for the end-of-frame word yet (R113). -/
  eof : List Nat
  /-- Regions served, with their class (R96, R97). -/
  served : List (Nat × Nat)
  /-- Watermarks that the host has delivered (F1, Table 14.9): PW, and FW by class, in 2^-6 ns. -/
  haPw : Nat
  haFw : Sparse Nat
  /-- Overflow record written in this frame (R95). -/
  ovfRec : Bool
  /-- When STALL_LIMIT was last written (R104). -/
  stallAt : Time
  deriving DecidableEq, Repr

/-- A row after reset. -/
def RowSt.reset : RowSt :=
  { inbox := [], streams := [], rt := 0, store := [], picked := [], copies := [], voq := [], lanesOff := 0, vstate := 0,
    voterFault := false, retired := false, classMerged := false, fanoutCut := false, classes := [], oldClasses := [],
    rebuilt := 0, line := [], bucket := 0, flushing := false,
    flushed := false, eof := [], served := [], haPw := 0, haFw := [], ovfRec := false, stallAt := 0 }

/-- What one row has sent one cluster on the watermark path (R101): the round-robin position and the last FW of each class. -/
structure WmSt where
  rr : Nat
  sent : Sparse Nat
  deriving DecidableEq, Repr

/-- A watermark message on its way to a cluster: row, PW, class and its FW in 2^-6 ns, and when it arrives (R101). -/
structure WmMsg where
  row : Nat
  pw : Nat
  cls : Nat
  fw : Nat
  due : Time
  deriving DecidableEq, Repr

/-- One spike channel (17_timing_and_spike_inputs.md). -/
structure SpikeSt where
  closed : Bool
  /-- Edges waiting for cast-on, in ticks (R529). -/
  buf : List Time
  lastEdge : Option Time
  /-- 10 µs window and the edges in it (R530). -/
  win : Nat
  cnt : Nat
  rateRec : Bool
  deriving DecidableEq, Repr

/-- A spike channel after reset. -/
def SpikeSt.reset : SpikeSt := { closed := true, buf := [], lastEdge := none, win := 0, cnt := 0, rateRec := false }

/-- The time base beside its registers (17_timing_and_spike_inputs.md): a step that waits, in 2^-10 ns; sensors and ring ports
with a record in this frame; start of a running TDC calibration; a calibration waits for the next reset interval. -/
structure TimeSt where
  step : Option Int
  hotRec : List Nat
  alignRec : List Nat
  tdc : Option Time
  tdcWait : Bool
  deriving DecidableEq, Repr

/-- Life of a frame (01_frame_path.md): no frame cast on, frame cast on and before its end, after its end, reset interval. -/
inductive Phase where
  | idle
  | running
  | draining
  | resetting
  deriving DecidableEq, Repr

/-- Frame state (R19 to R37). Times in 2^-10 ns. -/
structure FrameSt where
  phase : Phase
  /-- Frames cast on since start. -/
  count : Nat
  /-- Start and end of the current or last frame. -/
  start : Nat
  stop : Nat
  /-- Start of the next frame, once known. -/
  next : Option Nat
  /-- End of the reset interval. -/
  clear : Nat
  deriving DecidableEq, Repr

/-- An event on its way to the error writer (R578). `cause` is the number of the event it is a consequence of. -/
structure ErrEv where
  num : Nat
  time : Time
  cls : Nat
  src : Nat
  unit : Nat
  code : Nat
  frame : Nat
  slot : Nat
  d4 : Nat
  d5 : Nat
  d6 : Nat
  d7 : Nat
  cause : Option Nat
  deriving DecidableEq, Repr

/-- A fault that ends a run. -/
inductive Fault where
  /-- Raised by no command: every stop the spec describes is a next state of the block. Safe. -/
  | never
  deriving DecidableEq, Repr

/-- Why a command has no meaning here. -/
inductive Refusal where
  /-- No command is answered so once its meaning is written. Safe. -/
  | notModelled (mnemonic : String)
  deriving DecidableEq, Repr

/-- A job of a MGMT or BULK queue that the engine runs (R455): index, words, whether it is past its commit point, bytes sent, bytes
that the target has answered for, whether an answer was a refusal, and when the last message left. A ring request has been sent when
`progress` is not 0. -/
structure JobSt where
  idx : Nat
  words : List Word
  committed : Bool
  progress : Nat
  acked : Nat
  refused : Bool
  since : Time
  deriving DecidableEq, Repr

/-- What a queue holds beside its registers: completion index, job in the engine, jobs ended and not yet completed (index, status,
result), jobs aborted before the engine reached them, and entries written and not yet passed (index, time). -/
structure QSt where
  ci : Nat
  busy : Option JobSt
  ended : List (Nat × Nat × Word)
  aborted : List Nat
  fresh : List (Nat × Time)
  deriving DecidableEq, Repr

/-- A queue after reset. -/
def QSt.reset : QSt := { ci := 0, busy := none, ended := [], aborted := [], fresh := [] }

/-- An outstanding host-assisted work item (R466): job, unit, when it was sent, its deadline where it has one, what the model
keeps of the request, and the start of the frame it belongs to. -/
structure HaJob where
  job : Nat
  unit : Nat
  sent : Time
  deadline : Option Time
  op : Nat
  words : List Word
  base : Nat
  deriving DecidableEq, Repr

/-- A host-assisted function: next job number, outstanding jobs, and items that wait for queue space. -/
structure HaSt where
  next : Nat
  out : List HaJob
  stalled : List HaJob
  deriving DecidableEq, Repr

/-- A function after reset. -/
def HaSt.reset : HaSt := { next := 0, out := [], stalled := [] }

/-- One ring port (12_shroud_ring.md). -/
structure RingPortSt where
  /-- When it left LOOP: its ALIGN blocks leave every 13.1072 µs from then (R388). -/
  alignAt : Time
  /-- Arrival of the neighbour's last ALIGN block (R401). -/
  t2 : Option Time
  lastTsync : Time
  lastLeave : Option Time
  /-- Credits left by class, in blocks (Table 12.3). -/
  credits : Sparse Nat
  /-- Messages given to the output, with the time they have left by, and those that wait for credits. -/
  outq : List (Time × RingMsg)
  waitq : List RingMsg
  /-- Class 1 messages that came in here, for the reserved buffer of 128 blocks (Table 12.3). -/
  dec1 : List RingMsg
  /-- Blocks of buffer space freed since the port came UP, by class: the credits that its IDLE blocks return (R394). -/
  owed : Sparse Nat
  deriving DecidableEq, Repr

/-- A ring port after reset. -/
def RingPortSt.reset : RingPortSt :=
  { alignAt := 0, t2 := none, lastTsync := 0, lastLeave := none, credits := [], outq := [], waitq := [], dec1 := [], owed := [] }

/-- What a combiner knows of one contributor in the frame (R398). -/
structure ContribSt where
  seq : Nat
  /-- Done time in effect, and the one received last. -/
  done : Nat
  last : Nat
  absent : Bool
  heard : Time
  gap : Option Nat
  deriving DecidableEq, Repr

/-- A contributor at cast-on. -/
def ContribSt.reset : ContribSt := { seq := 0, done := 0, last := 0, absent := false, heard := 0, gap := none }

/-- A remote request without its ACK (R404): sequence, job's queue, sends, time of the next repeat, message. -/
structure PendReq where
  seq : Nat
  queue : Nat
  sends : Nat
  again : Time
  msg : RingMsg
  deriving DecidableEq, Repr

/-- The ring as seen by this device. -/
structure RingSt where
  ports : Sparse RingPortSt
  contribs : Sparse ContribSt
  /-- When the last HELLO was sent, and the PROBE (Table 12.8). -/
  helloAt : Time
  probeAt : Option Time
  leaveAt : Option Time
  /-- The device was JOINED at the last cast-on (R408). -/
  joined : Bool
  /-- SEQ of the next candidate-class message, when the last one was sent, the DONE sent last, MST_REEF bits told (R395, R396). -/
  candSeq : Nat
  candAt : Time
  doneSent : Nat
  reefTold : Nat
  /-- SEQ of the next management request, requests pending, and the last 256 executed with their answers (R403). -/
  mgmtSeq : Nat
  pend : List PendReq
  served : List (Nat × Nat × Nat × Word)
  deriving DecidableEq, Repr

/-- The ring after reset. -/
def RingSt.reset : RingSt :=
  { ports := [], contribs := [], helloAt := 0, probeAt := none, leaveAt := none, joined := false, candSeq := 0, candAt := 0, doneSent := 0, reefTold := 0,
    mgmtSeq := 0, pend := [], served := [] }

/-- What a masthead FIFO holds: a candidate record with its frame, or a done time in band (R365, R367), `contributor` the node of
a ring-port source. -/
inductive FifoItem where
  | cand (words : List Word) (frame : Nat)
  | done (d : Nat)
  | rdone (contributor d : Nat)
  deriving DecidableEq, Repr

/-- A slot whose readout is still to be gathered (R460): its record and when it was decided to be accepted. -/
structure RoJob where
  slot : Nat
  record : List Word
  cands : List (Nat × List Word)
  deriving DecidableEq, Repr

/-- The masthead (11_masthead.md); its two copies receive the same inputs, so one stands for both. -/
structure MastSt where
  fifos : Sparse (List FifoItem)
  /-- Done times in effect by source, in 2^-6 ns. -/
  done : Sparse Nat
  /-- Candidates taken by slot, in order: source and words. -/
  taken : Sparse (List (Nat × List Word))
  /-- Prescale counts by trigger bit (R372). -/
  counts : Sparse Nat
  /-- Accepted slots of the frame, newest first (R373). -/
  accepted : List Nat
  /-- Next slot to decide, and next slot to send to the host in F3 host-assisted mode. -/
  next : Nat
  asked : Nat
  /-- Next slot whose cut-off passes; the clusters report for it then (R39, R582). -/
  cut : Nat
  /-- Slot reports by slot, and reports too late for their slot (R378). -/
  slotReef : Sparse Nat
  lateReef : Nat
  /-- Sources and (slot, source) pairs with a record in this frame (R363, R365). -/
  badRec : List Nat
  lateRec : List (Nat × Nat)
  /-- Mismatches in the frame, and the masthead has failed (R585). -/
  mism : Nat
  failed : Bool
  /-- A mid-frame activation was asked for at this time (R546). -/
  swapAt : Option Time
  /-- Broadcast records received, by slot (R382), and F3 replies by slot (Table 14.9). -/
  bcast : Sparse (List Word)
  f3 : Sparse (List Word)
  /-- Slots, as times in 2^-6 ns from and to, that lost messages touch, slots named by LOSS, and loss for the rest of the frame
  (R398). -/
  sysRanges : List (Nat × Nat)
  sysSlots : List Nat
  sysAll : Bool
  /-- Readout still to gather, and records that wait for room by queue (R460). -/
  ro : List RoJob
  roOut : Sparse (List (List Word))
  /-- Last decision record delivered. -/
  record : List Word
  deriving DecidableEq, Repr

/-- The masthead after reset. -/
def MastSt.reset : MastSt :=
  { fifos := [], done := [], taken := [], counts := [], accepted := [], next := 0, asked := 0, cut := 0, slotReef := [],
    lateReef := 0, badRec := [], lateRec := [], mism := 0, failed := false, swapAt := none, bcast := [], f3 := [],
    sysRanges := [], sysSlots := [], sysAll := false, ro := [], roOut := [], record := [] }

/-- Special registers of a context or of the fast-interrupt bank (Table 5.7). -/
structure SpecSt where
  lr : Word
  bank : Word
  lc : Word
  rc : Word
  st : Word
  epc : Word
  esr : Word
  mrh : Word
  mrl : Word
  lb0 : Word
  lb1 : Word
  deriving DecidableEq, Repr

/-- Special registers after reset (Tables 5.7, 5.8). -/
def SpecSt.reset : SpecSt :=
  { lr := 0, bank := 0, lc := 0, rc := 0, st := 0x80100000, epc := 0, esr := 0, mrh := 0, mrl := 0, lb0 := 0, lb1 := 0 }

/-- An object that a promotion has traced (R158): virtual address, tag, words as they were copied. -/
structure Obj where
  va : Nat
  tag : Nat
  words : List Word
  deriving DecidableEq, Repr

/-- A word of an original that a promotion must replace by a FWD word: its address, that of its copy, the value copied, and whether it
is a header (R158 step 4, R159). -/
structure FwdWord where
  va : Nat
  copy : Nat
  val : Word
  head : Bool
  deriving DecidableEq, Repr

/-- A promotion under way (R158 to R160): virtual and physical target of the store, the pointer to store, pairs of original and copy, words still
to forward, failures of the compare on the first of them, and the registers that the word writes when the store has been made. -/
structure PromSt where
  va : Nat
  pa : Nat
  word : Word
  map : List (Nat × Nat)
  todo : List FwdWord
  tries : Nat
  writes : List (Nat × Word)
  deriving DecidableEq, Repr

/-- Micro-resume state (R418): instruction address and ply, nesting level, microaddress at which to continue, temporaries, operand
copies, micro-return stack; core cycles that the routine still needs before its next effect; the promotion that it runs. -/
structure MicroRec where
  pc : Nat
  ply : Bool
  level : Nat
  maddr : Nat
  temps : List Word
  operands : List Word
  stack : List Nat
  left : Nat
  prom : Option PromSt
  deriving DecidableEq, Repr

/-- A .S branch that waits for its slot (R188): its address, its target where it is taken, whether it is CALL.S, and the resume flags
of the branch itself (Table 5.9). -/
structure BranchSt where
  pc : Nat
  target : Option Nat
  call : Bool
  flags : Nat
  deriving DecidableEq, Repr

/-- A repetition (R196): address of the REP word, RC before it, whether its target has been checked, and the resume flags of the REP
word (Table 5.9). -/
structure RepSt where
  pc : Nat
  old : Word
  started : Bool
  flags : Nat
  deriving DecidableEq, Repr

/-- Where a program stands: the next instruction word, registers that a load has loaded and the load slot does not see yet (R173),
a .S branch before its slot, a repetition, only ply B is left to do (R171) with what ply A has loaded, the last word wrote ST (R198),
the next word is the first of a handler (R268), the word was reached by a transfer (R193), the microcode routine of the word between
two safe points (R416), and the TICK from which a loaded register can be used (Table 5.5). -/
structure Flow where
  pc : Nat
  pend : List (Nat × Word)
  branch : Option BranchSt
  rep : Option RepSt
  plyB : Bool
  aLoads : List (Nat × Word)
  afterSt : Bool
  first : Bool
  jumped : Bool
  run : Option MicroRec
  ready : List (Nat × Nat)
  deriving DecidableEq, Repr

/-- A program at an address, with nothing under way. -/
def Flow.start (pc : Nat) : Flow :=
  { pc := pc, pend := [], branch := none, rep := none, plyB := false, aLoads := [], afterSt := false, first := false, jumped := false,
    run := none, ready := [] }

/-- The program that the last exception interrupted: class, resume address, resume flags ESR[39:34], ST (R269). -/
structure ExcSt where
  cls : Nat
  epc : Nat
  flags : Nat
  st : Word
  deriving DecidableEq, Repr

/-- What a context in WAIT on F4 or F7 has under way (Table 14.9): function, job, register to write, and for F7 the parts of a result
object received so far. -/
structure SuspSt where
  func : Nat
  job : Nat
  rd : Nat
  /-- 0 a long operation, 1 ply A, 2 ply B. -/
  ply : Nat
  parts : Sparse (List Word)
  /-- Registers that the word writes when the host has made its store. -/
  writes : List (Nat × Word)
  /-- Where the customer routine goes on that made the store by SVC_STORE (Table 13.4). -/
  next : Option MicroRec
  /-- s6 as it was before the word, where a fault of its routine restores it (R415). -/
  s6 : Option Word
  deriving DecidableEq, Repr

/-- One hardware context (R228). Window registers and globals lie in the core's register file. -/
structure CtxSt where
  /-- State of Table 7.1, and what a context in WAIT waits for: 1 hits, 2 a queue, 3 the host. -/
  state : Nat
  waits : Nat
  flow : Flow
  spec : SpecSt
  /-- First group of the current window, and the world of each group (R179, R249). -/
  base : Nat
  groupW : Sparse Nat
  /-- On-core shadow entries, newest first (R261). -/
  shadow : List Word
  /-- Multiplier results in flight: TICK at which they were issued, MRH, MRL (R177). -/
  mult : List (Nat × Word × Word)
  /-- Store queue, oldest first: physical address and word (R275). -/
  storeQ : List (Nat × Word)
  /-- Exception nesting level (R288). -/
  level : Nat
  exc : ExcSt
  micro : List MicroRec
  /-- Chunk that the context allocates in, as a virtual address, by world (R146). -/
  chunk : Sparse Nat
  /-- Worlds of the groups that the context has spilled, newest first (R249). -/
  spillW : List Nat
  /-- Slices held, older first, and the one whose program runs (R283). -/
  slices : List SliceKey
  prog : Option SliceKey
  susp : Option SuspSt
  /-- Counts of the ERROR, CASTON and BINDOFF sources at the last time they were taken (R237). -/
  seenErr : Nat
  seenCast : Nat
  seenBind : Nat
  deriving DecidableEq, Repr

/-- A context after core reset. -/
def CtxSt.reset : CtxSt :=
  { state := 0, waits := 0, flow := .start 0, spec := .reset, base := 0, groupW := [], shadow := [], mult := [], storeQ := [],
    level := 0, exc := { cls := 0, epc := 0, flags := 0, st := 0 }, micro := [], chunk := [], spillW := [], slices := [], prog := none, susp := none,
    seenErr := 0, seenCast := 0, seenBind := 0 }

/-- A window trap or the double-fault handler (R248, R269): 1 overflow, 2 underflow, 3 double fault; its ST; the group moved and
its world; for a double fault, what the interrupted program resumes with. -/
structure TrapSt where
  kind : Nat
  flow : Flow
  st : Word
  group : Nat
  world : Nat
  exc : ExcSt
  deriving DecidableEq, Repr

/-- A TLB entry (R310): world, virtual base, log2 of the range it maps, physical base, U, W, X, and the lock of a cluster entry. -/
structure TlbEnt where
  world : Nat
  va : Nat
  log : Nat
  pa : Nat
  u : Bool
  w : Bool
  x : Bool
  locked : Bool
  deriving DecidableEq, Repr

/-- One core (05_oxxus_execution_model.md, 07_contexts_worlds_traps.md). -/
structure CoreSt where
  /-- Released from reset (R327, R470). -/
  up : Bool
  /-- Core cycles counted (TICK), and the device time up to which they are counted, in 1/384,000 ns (R506). -/
  tick : Nat
  sync : Nat
  /-- Running or last context, and whether one runs (Table 7.1). -/
  cur : Nat
  run : Bool
  ctxs : Sparse CtxSt
  /-- Registers: context j at 128j, its 72 window registers, then 8 globals for each world; bank window at 512, bank globals at 528,
  trap window at 544 (R179, R228, R238, R248). -/
  rf : Sparse Word
  bankOn : Bool
  /-- The bank has just been left: one word of the context issues before it is entered again (R240). -/
  bankGap : Bool
  bankFlow : Flow
  bank : SpecSt
  /-- Chunk that the bank allocates in, by world (R146). -/
  bankChunk : Sparse Nat
  bankErr : Nat
  bankCast : Nat
  bankBind : Nat
  trap : Option TrapSt
  /-- The bank or a trap window waits for the host's answer (R161). -/
  hostWait : Bool
  /-- TICK at which the hold count started (R267). -/
  holdAt : Nat
  /-- Out of dispatch after a triple fault (R271), retired or excluded by self-test. -/
  out : Bool
  /-- Decode copy (R431). -/
  dec : Sparse Word
  itlb : List TlbEnt
  dtlb : List TlbEnt
  /-- Generation count of both L1 TLBs, which every TLBI reaches together (R313). -/
  gen : Nat
  /-- L1 lines by set × ways + way, holding line number + 1; the side buffer, oldest first; the line an L1D miss waits for; the line
  of the last miss (R316 to R318). -/
  l1i : Sparse Nat
  l1d : Sparse Nat
  side : List Nat
  blocked : Option Nat
  lastMiss : Option Nat
  /-- Lines whose copy in an L1 or the side buffer has a parity error (R328). -/
  upset : List Nat
  deriving DecidableEq, Repr

/-- A core after reset. -/
def CoreSt.reset : CoreSt :=
  { up := false, tick := 0, sync := 0, cur := 0, run := false, ctxs := [], rf := [], bankOn := false, bankGap := false,
    bankFlow := .start 0, bank := .reset, bankChunk := [], bankErr := 0, bankCast := 0, bankBind := 0, trap := none,
    hostWait := false, holdAt := 0, out := false,
    dec := [], itlb := [], dtlb := [], gen := 0, l1i := [], l1d := [], side := [], blocked := none, lastMiss := none, upset := [] }

/-- A checkpoint (Table 8.3). -/
structure Ckpt where
  win : List Word
  globals : List Word
  spec : SpecSt
  base : Nat
  depth : Nat
  shadow : List Word
  spilled : Nat
  staged : Nat
  chunk : Sparse Nat
  deriving DecidableEq, Repr

/-- States of a slice (Table 8.2). -/
inductive SliceSt where
  | waiting
  | queued
  | build
  | provRun
  | provDone
  | firmRun
  deriving DecidableEq, Repr

/-- A slice descriptor (R280, R281). -/
structure Slice where
  key : SliceKey
  st : SliceSt
  /-- The program has ended (a slice that waits for its firm condition, an older slice or room, R290, R297). -/
  ended : Bool
  prov : Bool
  unravels : Nat
  holder : Option (Nat × Nat)
  ckpt : Option Ckpt
  /-- Staged candidates (R296). -/
  staged : List (List Word)
  /-- The late copy of an unravel request has come (R292). -/
  late : Bool
  /-- The build must start again, and when it began (R284). -/
  rebuild : Bool
  begun : Time
  /-- The core of the slice was lost (R582). -/
  lost : Bool
  /-- Allocation mark, the chunk that held it, and the chunks the context has taken since, as virtual addresses (R162). -/
  mark : Nat
  markChunk : Nat
  taken : List Nat
  deriving DecidableEq, Repr

/-- A line of an L2 (R316, R320, R325, R328): line number, dirty, preload mark, the victim whose eviction its data waits for, and the
words with one wrong bit, with two, and poisoned, as masks. -/
structure L2Line where
  line : Nat
  dirty : Bool
  mark : Bool
  behind : Option Nat
  one : Nat
  two : Nat
  lost : Nat
  deriving DecidableEq, Repr

/-- One cluster (08_provisional_execution.md, 09_translation_and_caches.md). -/
structure CluSt where
  /-- Cluster TLB: set and entry; its generation count (R310, R313). -/
  tlb : List (Nat × TlbEnt)
  gen : Nat
  /-- L2 by set × 16 + way; eviction registers by bank and evictions that wait for them (R320). -/
  l2 : Sparse (Option L2Line)
  evict : Sparse (Option L2Line)
  evWait : List L2Line
  /-- Next chunk of the frame heap by world (R146). -/
  chunk : Sparse Nat
  /-- Slices with a descriptor, and those that ended in the frame: key and whether committed (R280). -/
  slices : List Slice
  gone : List (SliceKey × Bool)
  /-- Hit copies by region, in order of arrival (R280). -/
  copies : Sparse (List DispWord)
  /-- Watermarks received: PW by row, FW by row × 64 + class, in 2^-6 ns (R100, R101). -/
  pw : Sparse Nat
  fw : Sparse Nat
  /-- Program-table entries in use in the frame (R277). -/
  progs : Sparse (List Word)
  badProg : List Nat
  fullRec : Bool
  covRec : Bool
  eofs : List Nat
  /-- Self-test: 0 none, 1 running, 5 draining (Table 20.7), and the domain state it returns to; ways and cores it failed; the time at
  which the cluster was last not quiet; a descent to OFF that writes back (R505). -/
  bist : Nat
  bistBack : Nat
  waysOff : Nat
  coresOff : Nat
  idleAt : Time
  writeback : Bool
  deriving DecidableEq, Repr

/-- A cluster after reset. -/
def CluSt.reset : CluSt :=
  { tlb := [], gen := 0, l2 := [], evict := [], evWait := [], chunk := [], slices := [], gone := [], copies := [], pw := [],
    fw := [], progs := [], badProg := [], fullRec := false, covRec := false, eofs := [], bist := 0, bistBack := 0, waysOff := 0,
    coresOff := 0, idleAt := 0, writeback := false }

/-- The world memory map (Table 15.8): 16-bit region entries by 32 MiB region, windows (base, log2 size, owner), frame heap log2
sizes by world, frame heap bases by world × 32 + cluster and those not created (R481), hold heap base and units by world. -/
structure WorldSt where
  regions : Sparse Nat
  windows : List (Nat × Nat × Nat)
  frameLog : Sparse Nat
  frameBase : Sparse Nat
  frameLost : List Nat
  holdBase : Sparse Nat
  holdUnits : Sparse Nat
  deriving DecidableEq, Repr

/-- No map loaded. -/
def WorldSt.reset : WorldSt :=
  { regions := [], windows := [], frameLog := [], frameBase := [], frameLost := [], holdBase := [], holdUnits := [] }

/-- The control store beyond its ROM (R411): master copy of patch RAM and customer region by microaddress, patch map; decode table,
staged and active (R429). -/
structure UcodeSt where
  ram : Sparse (Option (BitVec 144))
  patch : Sparse Nat
  decS : Sparse Word
  decA : Sparse Word
  deriving DecidableEq, Repr

/-- Halt microwords and nothing bound. -/
def UcodeSt.reset : UcodeSt := { ram := [], patch := [], decS := [], decA := [] }

/-- A PLL out of lock (R494): whether a relock attempt runs, and when it gained lock again. -/
structure PllSt where
  lost : Bool
  trying : Bool
  locked : Option Time
  deriving DecidableEq, Repr

/-- A PLL in lock. -/
def PllSt.reset : PllSt := { lost := false, trying := false, locked := none }

/-- Power beside the PWR registers (16_clocks_power_crossings.md, 19_module_hardware.md): by domain the state that a transition under
way goes to and the requests that wait; by controller its last access; PLLs by row, 32 + cluster, 64 + optical engine; the AO domain and when
its input failed, the input and the main switch with its latch; throttle and thermal shutdown with the start of a cool stretch; crossings with a stall record in the
frame. -/
structure PwrSt where
  going : Sparse (Option Nat)
  waitq : Sparse (List Nat)
  memAt : Sparse Time
  plls : Sparse PllSt
  ao : Bool
  lostAt : Option Time
  inRange : Bool
  enable : Bool
  lowAt : Option Time
  main : Bool
  latched : Bool
  throttled : Bool
  coolAt : Option Time
  shut : Bool
  shutCool : Option Time
  pulsed : Bool
  stalls : List (Nat × Nat)
  deriving DecidableEq, Repr

/-- Power before the input has come up. -/
def PwrSt.reset : PwrSt :=
  { going := [], waitq := [], memAt := [], plls := [], ao := false, lostAt := none, inRange := false, enable := false, lowAt := none, main := false,
    latched := false, throttled := false, coolAt := none, shut := false, shutCool := none, pulsed := false, stalls := [] }

/-- The fuses (R482, R553): digests of customer slots 0 and 1, none when blank, and their revocation bits; the operation that runs
(OP, slot and digest). -/
structure FuseSt where
  digest0 : Option (List Word)
  digest1 : Option (List Word)
  revoked0 : Bool
  revoked1 : Bool
  busy : Option (Nat × Nat × List Word)
  deriving DecidableEq, Repr

/-- Fuses as manufactured. -/
def FuseSt.reset : FuseSt := { digest0 := none, digest1 := none, revoked0 := false, revoked1 := false, busy := none }

/-- Start-up beside its registers (15_start_and_attestation.md): lasers warmed up; LCK fields locked and slots fixed; the words of the
header that was read; keys found available (KEY code and public key); what the digest of unknown sections covers. -/
structure BootSt where
  warm : Bool
  locked : Bool
  header : List Word
  keys : List (Nat × List Byte)
  unknown : List Byte
  deriving DecidableEq, Repr

/-- Before start-up. -/
def BootSt.reset : BootSt := { warm := false, locked := false, header := [], keys := [], unknown := [] }

/-- An SPDM response (Tables 15.13, 15.14). A measurement block is its index, its value type (0 immutable ROM, 1 mutable firmware,
2 hardware configuration, 3 firmware configuration, 4 freeform manifest), whether it is in raw form, and its value. -/
inductive SpdmResp where
  | version (v : Nat)
  | capabilities (cert chal measSig chunk : Bool) (transfer maxMsg : Nat)
  | algorithms (extAsym : Bool)
  | digests (d : BitVec 256)
  | certificate (portion : List Byte) (remainder : Nat)
  | challengeAuth (chain : BitVec 256) (summary : Option (BitVec 256)) (nonce : BitVec 256) (sig : List Byte)
  | measurements (blocks : List (Nat × Nat × Bool × List Byte)) (nonce : BitVec 256) (sig : Option (List Byte))
  | chunk (seq : Nat) (last : Bool) (start size : Nat)
  | errBusy
  | errUnspecified
  | errUnexpected
  | errUnsupported
  | errInvalid
  | errLarge
  deriving DecidableEq, Repr

/-- One SPDM connection (R488): what has been negotiated, the last response, and a response that is sent in chunks with the next
chunk. -/
structure SpdmSt where
  version : Bool
  caps : Bool
  algs : Option Bool
  resp : Option SpdmResp
  large : Option (SpdmResp × Nat)
  deriving DecidableEq, Repr

/-- No connection. -/
def SpdmSt.reset : SpdmSt := { version := false, caps := false, algs := none, resp := none, large := none }

/-- The CXL link (R436, R438): up, rate in GT/s and width; the 32 MiB regions with a refused access in this frame, and poison on the
last read of device memory by the host (R442). -/
structure CxlSt where
  up : Bool
  rate : Nat
  width : Nat
  refused : List Nat
  poison : Bool
  deriving DecidableEq, Repr

/-- The link before training. -/
def CxlSt.reset : CxlSt := { up := false, rate := 0, width := 0, refused := [], poison := false }

/-- The state of the block. -/
structure State where
  /-- Commands that wait, first in first out. -/
  pending : List Instr
  /-- Device time of the last command (R514). -/
  now : Time
  /-- The model's own: free values used so far (log entry 1). -/
  free : Nat
  /-- The part is PXZ-5122 (R1). -/
  small : Bool
  /-- What the last register or table read returned. -/
  rdata : Word
  /-- Registers of BAR0 by offset (00_scope.md, 18_pattern_table_and_registers.md). -/
  regs : Sparse Word
  /-- Registers as they stood at the last cast-on, for fields that take effect there. -/
  eff : Sparse Word
  /-- When hardware last set a RW1C bit, plus 1, by offset × 64 + bit (R11). -/
  raised : Sparse Nat
  /-- Error records on their way to the error writer, and the number of the next. -/
  errs : List ErrEv
  errNum : Nat
  frame : FrameSt
  ports : Sparse PortSt
  chans : Sparse ChanSt
  /-- Live tables (Table 18.5), staged and active: region map, dispatch map, masthead tables, decode table. -/
  regionS : Sparse Word
  regionA : Sparse Word
  dmapS : Sparse Word
  dmapA : Sparse Word
  rows : Sparse RowSt
  wms : Sparse WmSt
  /-- Round-robin position of the crossbar by cluster (R113), and words and watermark messages on their way to each cluster. -/
  xbar : Sparse Nat
  cluIn : Sparse (List DispWord)
  wmIn : Sparse (List WmMsg)
  spikes : Sparse SpikeSt
  time : TimeSt
  /-- Slot reports on their way to the masthead: reef bit and slot (R377). -/
  reports : List (Nat × Nat)
  /-- Queues beside their registers (14_host_queues_modes.md), host-assisted functions, and the last MSI-X vector sent. -/
  queues : Sparse QSt
  ha : Sparse HaSt
  lastMsi : Option Nat
  /-- How often the ERROR, CASTON and BINDOFF sources were raised, and the TIMER and QUEUE sources pending in each context
  (bit 1 and bit 2), by context number core × 4 + context (R237). -/
  irqErr : Nat
  irqCast : Nat
  irqBind : Nat
  irqs : Sparse Nat
  /-- Candidate output queues by cluster: records released and not yet in the masthead FIFO (R296), with their frame. -/
  outqs : Sparse (List (List Word × Nat))
  ring : RingSt
  mast : MastSt
  /-- Masthead tables by table × 512 + entry × 2 + word (Tables 11.2 to 11.5). -/
  mastS : Sparse Word
  mastA : Sparse Word
  /-- Words of a memory line, by line number, that are uncorrectable (bits 0 to 7) or poisoned (bits 8 to 15) (R343), words found
  uncorrectable that wait for a page decode (R339), and corruptions of R357: word and number of bits flipped. -/
  bad : Sparse Nat
  suspect : Sparse Nat
  /-- Page decodes by controller, page numbers in the order in which they were asked for; the first 4 run (R339). -/
  decodes : Sparse (List Nat)
  flips : Sparse (Nat × Nat)
  /-- Merge buffers by controller: line number, mask of words written, time of the first write; oldest first (R347). -/
  merges : Sparse (List (Nat × Nat × Time))
  /-- Cores by number cluster × 16 + core, clusters. -/
  cores : Sparse CoreSt
  clus : Sparse CluSt
  /-- Snoop filter by controller: lines tracked, oldest first; lines that the host holds, 1 shared, 2 owned (R329). -/
  filter : Sparse (List Nat)
  hostLines : Sparse Nat
  world : WorldSt
  ucode : UcodeSt
  /-- Collection cycles asked for by HGC: context number + 1, by world (R152). -/
  gc : Sparse Nat
  /-- The NOR flash by offset; an unlisted byte reads 0xFF (log entry 2). -/
  flash : Sparse Byte
  /-- Memory_Active of the CXL DVSEC (R354). -/
  memActive : Bool
  /-- Power, fuses, start-up, the two SPDM connections (0 DOE, 1 MCTP), the CXL link. -/
  pwr : PwrSt
  fuses : FuseSt
  boot : BootSt
  spdm : Sparse SpdmSt
  cxl : CxlSt
  /-- Memory by physical address, one byte an entry (R333). -/
  mem : List Host.Cell
  deriving DecidableEq, Repr
/-- The machine right after power-on reset: every register at the value `regReset` gives it, no frame, every link and domain off,
every core in reset, every memory byte at its unlisted value (R327, R353, R470, R554). -/
def State.reset : State :=
  { pending := [], now := 0, free := 0, small := false, rdata := 0, regs := [], eff := [], raised := [], errs := [], errNum := 0,
    frame := { phase := .idle, count := 0, start := 0, stop := 0, next := none, clear := 0 },
    ports := [], chans := [], regionS := [], regionA := [], dmapS := [], dmapA := [], rows := [], wms := [], xbar := [],
    cluIn := [], wmIn := [], spikes := [], time := { step := none, hotRec := [], alignRec := [], tdc := none, tdcWait := false },
    reports := [], queues := [], ha := [], lastMsi := none, irqErr := 0, irqCast := 0, irqBind := 0, irqs := [], outqs := [],
    ring := .reset, mast := .reset, mastS := [], mastA := [], bad := [], suspect := [], decodes := [], flips := [], merges := [], cores := [],
    clus := [], filter := [], hostLines := [], world := .reset, ucode := .reset, gc := [], flash := [], memActive := false,
    pwr := .reset, fuses := .reset, boot := .reset, spdm := [], cxl := .reset, mem := [] }

end Sys2Proof.Machine
end

