-- ==== Sys2Proof/Machine/Ops.lean ====
section
/-! DEFINITION. Operations that every chapter uses: bit fields, rounding, time, accessors of the tables of units, registers and
counters, error events, free values and memory bytes. -/

namespace Sys2Proof.Machine

/-- The answer of a command. -/
abbrev Out := Host.Outcome State Fault Refusal

/-! ### Bit fields and numbers -/

/-- Bits [hi:lo] of a word. -/
def bf (w : Word) (hi lo : Nat) : Nat := (w.toNat >>> lo) % 2 ^ (hi + 1 - lo)

/-- A word with bits [hi:lo] replaced by the low bits of `v`. -/
def setBf (w : Word) (hi lo v : Nat) : Word :=
  BitVec.ofNat 64 (w.toNat - (bf w hi lo) <<< lo + (v % 2 ^ (hi + 1 - lo)) <<< lo)

/-- One bit of a number. -/
def bit (n i : Nat) : Bool := n.testBit i

/-- Set bit `i` of a number. -/
def orBit (n i : Nat) : Nat := n ||| (1 <<< i)

/-- Set bits of a 64-bit number. -/
def bitsOf64 (n : Nat) : List Nat := (List.range 64).filter fun i => bit n i

/-- Value of a two's-complement field of `b` bits. -/
def sx (b v : Nat) : Int := if v < 2 ^ (b - 1) then (v : Int) else (v : Int) - (2 ^ b : Nat)

/-- The low `b` bits of an integer. -/
def lowBits (b : Nat) (i : Int) : Nat := (i % ((2 ^ b : Nat) : Int)).toNat

/-- round(a / b), an exact half away from zero (R591). -/
def roundDiv (a : Int) (b : Nat) : Int :=
  if 0 ≤ a then (2 * a + b) / (2 * b) else - ((2 * (-a) + b) / (2 * b))

/-- 0 or 1. -/
def b2n (b : Bool) : Nat := if b then 1 else 0

/-! ### Time in ticks of 1/128,000 ns -/

def nsT (n : Nat) : Nat := n * 128000
def usT (n : Nat) : Nat := n * 128000000
/-- Ticks of one 2^-10 ns unit, of 15.625 ps, of a stitch, row, masthead and AO cycle, of 12.8 ns. -/
def unitT : Nat := 125
def fineT : Nat := 2000
def stitchT : Nat := 327680
def rowT : Nat := 40960
def mastT : Nat := 81920
def aoT : Nat := 5120000
def hopT : Nat := 1638400

/-- Device time in 2^-10 ns units, 56 bits (Table 0.4). -/
def devUnits (t : Time) : Nat := t / unitT

/-- Device time in 15.625 ps units. -/
def fineUnits (t : Time) : Nat := t / fineT

/-- The state at the device time of a command. -/
def State.at (s : State) (t : Time) : State := { s with now := t }

/-! ### Free values -/

/-- The next free value (log entry 1). -/
def State.freeVal (s : State) : Word := Config.freeWord s.free

/-- The free value has been used. -/
def State.useFree (s : State) : State := { s with free := s.free + 1 }

/-! ### Tables of units -/

def State.port (s : State) (p : Nat) : PortSt := sget .reset p s.ports
def State.setPort (s : State) (p : Nat) (x : PortSt) : State := { s with ports := sset .reset p x s.ports }
def State.chan (s : State) (c : Nat) : ChanSt := sget .reset c s.chans
def State.setChan (s : State) (c : Nat) (x : ChanSt) : State := { s with chans := sset .reset c x s.chans }
def State.row (s : State) (r : Nat) : RowSt := sget .reset r s.rows
def State.setRow (s : State) (r : Nat) (x : RowSt) : State := { s with rows := sset .reset r x s.rows }
def State.spike (s : State) (i : Nat) : SpikeSt := sget .reset i s.spikes
def State.setSpike (s : State) (i : Nat) (x : SpikeSt) : State := { s with spikes := sset .reset i x s.spikes }
def State.queue (s : State) (q : Nat) : QSt := sget .reset q s.queues
def State.setQueue (s : State) (q : Nat) (x : QSt) : State := { s with queues := sset .reset q x s.queues }
def State.haFn (s : State) (f : Nat) : HaSt := sget .reset f s.ha
def State.setHa (s : State) (f : Nat) (x : HaSt) : State := { s with ha := sset .reset f x s.ha }
def RowSt.stream (x : RowSt) (i : Nat) : StreamSt := sget .reset i x.streams
def RowSt.setStream (x : RowSt) (i : Nat) (y : StreamSt) : RowSt := { x with streams := sset .reset i y x.streams }

/-- Do `f` for every number below `n`, in ascending order. -/
def forN (n : Nat) (f : State → Nat → State) (s : State) : State := (List.range n).foldl f s

/-! ### Register offsets (Table 18.3) -/

def oPort (p o : Nat) : Nat := 0x200000 + p * 0x200 + o
def oRow (r o : Nat) : Nat := 0x300000 + r * 0x1000 + o
def oClu (c o : Nat) : Nat := 0x400000 + c * 0x10000 + o
def oMem (m o : Nat) : Nat := 0x80000 + m * 0x4000 + o
def oTmg (o : Nat) : Nat := 0x70000 + o
def oFmt (o : Nat) : Nat := 0x40000 + o
def oMst (o : Nat) : Nat := 0x50000 + o
def oShr (o : Nat) : Nat := 0x60000 + o
def oPwr (o : Nat) : Nat := 0x20000 + o
def oSec (o : Nat) : Nat := 0x30000 + o
def oDev (o : Nat) : Nat := 0x10000 + o
def oUcs (o : Nat) : Nat := 0x100000 + o
def oQue (o : Nat) : Nat := 0x800000 + o
def oErr (o : Nat) : Nat := 0x1000000 + o

/-- Reset value of a register, zero but where a chapter states another (Tables 3.9, 3.11, 7.14, 8.8, 11.12, 12.14, 13.10, 14.14,
17.6, 18.10, 18.12). -/
def regReset (o : Nat) : Word :=
  if o < 0x20000 then 0
  else if o < 0x30000 then
    if o = 0x20008 then 0x1C
    else if 0x20100 + 92 * 8 ≤ o ∧ o < 0x20100 + 96 * 8 ∧ o % 8 = 0 then 0xA000000000000000
    else if 0x20400 ≤ o ∧ o < 0x20500 ∧ o % 8 = 0 then 0x5200000100000000
    else 0
  else if o < 0x60000 then
    if o = 0x50010 then 0x320
    else if o = 0x50028 then 0xFFFFFFFFF
    else 0
  else if o < 0x70000 then (if o = 0x60010 then 0xC000000000000000 else 0)
  else if o < 0x80000 then (if o = 0x70060 then 0x190 else 0)
  else if o < 0x90000 then
    (if o % 0x4000 = 0 then 3 else if o % 0x4000 = 8 then 0x8000000000000000 else 0)
  else if o < 0x300000 then (if o = 0x100018 then 0x20 else 0)
  else if o < 0x400000 then
    if o % 0x1000 = 0x40 ∧ o < 0x320000 then 0x100A
    else if o % 0x1000 = 8 ∧ o < 0x320000 then 0xE000000000000000
    else 0
  else if o < 0x600000 then
    if o % 0x10000 = 0x2020 then 0x1000
    else if o % 0x10000 = 0x3008 then 0x103
    else if 0x8000 ≤ o % 0x10000 ∧ o % 0x10000 < 0x9000 ∧ o % 0x100 = 0x18 then 0x64
    else 0
  else if o = 0x800100 then 0x40FFFF0000
  else 0

/-- What register `o` holds. -/
def State.reg (s : State) (o : Nat) : Word := sget (regReset o) o s.regs

/-- Write register `o` whole. -/
def State.setReg (s : State) (o : Nat) (v : Word) : State := { s with regs := sset (regReset o) o v s.regs }

/-- Write one field of a register. -/
def State.setField (s : State) (o hi lo v : Nat) : State := s.setReg o (setBf (s.reg o) hi lo v)

/-- One field of a register. -/
def State.field (s : State) (o hi lo : Nat) : Nat := bf (s.reg o) hi lo

/-- Hardware sets RW1C bit `b` of register `o`; the time is kept for R11. -/
def State.raiseBit (s : State) (o b : Nat) : State :=
  { s.setField o b b 1 with raised := sset 0 (o * 64 + b) (s.now + 1) s.raised }

/-- The RW1C bit was set in this cycle: a clear that a write asks for at the same device time has no effect (R11, log entry 98). -/
def State.justRaised (s : State) (o b : Nat) : Bool := sget 0 (o * 64 + b) s.raised == s.now + 1

/-- Register `o` as of the last cast-on, for fields that take effect at a cast-on (R79, R87, R103). -/
def State.effReg (s : State) (o : Nat) : Word := sget (regReset o) o s.eff

/-- Register `o` as in effect, for fields whose writes act at once before the first cast-on after start (R58, R507). -/
def State.effNow (s : State) (o : Nat) : Word := if s.frame.count = 0 then s.reg o else s.effReg o

/-- Raise a counter by `n`; it stays at its maximum (R84). -/
def State.bumpN (s : State) (o n : Nat) : State :=
  s.setReg o (BitVec.ofNat 64 (min (2 ^ 64 - 1) ((s.reg o).toNat + n)))

/-- Raise a counter by one. -/
def State.bump (s : State) (o : Nat) : State := s.bumpN o 1

/-! ### Error events (R575 to R579) -/

/-- Send one event to the error writer; `cause` names the event it is a consequence of. -/
def State.errWith (s : State) (cls src unit code slot d4 d5 d6 d7 : Nat) (cause : Option Nat) : State :=
  { s with
    errs := s.errs ++ [{ num := s.errNum, time := s.now, cls := cls, src := src, unit := unit, code := code,
                         frame := s.frame.count % 2 ^ 32, slot := slot % 2 ^ 32, d4 := d4, d5 := d5, d6 := d6, d7 := d7,
                         cause := cause }],
    errNum := s.errNum + 1 }

/-- No slot is concerned (Table 20.2). -/
def noSlot : Nat := 0xFFFFFFFF

/-- Send one event with its object in word 4. -/
def State.err (s : State) (cls src unit code d4 : Nat) : State := s.errWith cls src unit code noSlot d4 0 0 0 none

/-! ### Frame -/

/-- A frame is cast on: from its cast-on to the start of its reset interval. -/
def State.castOn (s : State) : Bool := s.frame.phase == .running || s.frame.phase == .draining

/-- Frame length L in 15.625 ps units, held to its range (R527). -/
def State.lenL (s : State) : Nat := max 64000 (min 268435456 (s.field (oTmg 0x18) 28 0))

/-- Frame length in key units (R87). -/
def State.keyL (s : State) : Nat := s.lenL * 16

/-- The device runs in MARK mode (Table 17.9). -/
def State.markMode (s : State) : Bool := s.field (oTmg 0x18) 63 63 == 1

/-! ### Reports to the masthead (R377) -/

/-- A sticky report of reef bit `b`: row r is bit r, cluster c bit 32 + c. -/
def State.sticky (s : State) (b : Nat) : State :=
  s.setReg (oMst 0x30) (BitVec.ofNat 64 (orBit (s.reg (oMst 0x30)).toNat b))

/-- A slot report of reef bit `b` for slot `k` sets out. -/
def State.slotRep (s : State) (b k : Nat) : State := { s with reports := s.reports ++ [(b, k)] }

/-- Slot width W in 15.625 ps units (R359); MST_TIMING holds it. -/
def State.slotW (s : State) : Nat := max 800 (s.field (oMst 0x10) 27 0)

/-- Decision horizon H in ticks: 800 ns and H_N steps of 12.8 ns (R359). -/
def State.horizon (s : State) : Nat := nsT 800 + s.field (oMst 0x10) 42 32 * hopT

/-- Start of the current or last frame in ticks. -/
def State.startT (s : State) : Nat := s.frame.start * unitT

/-- Slot time of slot `k` and its cut-off, in ticks of device time (R26, R27). -/
def State.slotT (s : State) (k : Nat) : Nat := s.startT + k * s.slotW * fineT
def State.cutoffT (s : State) (k : Nat) : Nat := s.slotT k + s.horizon - nsT 256

/-- Slot that holds the device time `t`, in ticks, of the current frame. -/
def State.slotAt (s : State) (t : Nat) : Nat := (t - s.startT) / (s.slotW * fineT)

/-- Slots of a frame: those whose start lies below L (R22). -/
def State.slotCount (s : State) : Nat := (s.lenL + s.slotW - 1) / s.slotW

/-! ### Live tables (R542 to R547) -/

/-- A write to live table `k` leaves it pending (R543). -/
def State.tabPend (s : State) (k : Nat) : State := s.setField (oDev 0x20) k k 1
def State.tabPending (s : State) (k : Nat) : Bool := s.field (oDev 0x20) k k == 1
def State.tabWaiting (s : State) (k : Nat) : Bool := s.field (oDev 0x20) (4 + k) (4 + k) == 1

/-- GEN of table `k` advances, PENDING and WAIT clear (R543, R546). -/
def State.tabActivated (s : State) (k : Nat) : State :=
  let g := s.field (oDev 0x20) (39 + 8 * k) (32 + 8 * k)
  ((s.setField (oDev 0x20) (39 + 8 * k) (32 + 8 * k) ((g + 1) % 256)).setField (oDev 0x20) k k 0).setField
    (oDev 0x20) (4 + k) (4 + k) 0

/-! ### CRC-32C (R48, R535, Table 11.7) -/

/-- One bit of CRC-32C, reflected form. -/
def crc32cBit (c : Nat) : Nat := if c % 2 = 1 then Nat.xor (c / 2) 0x82F63B78 else c / 2

/-- CRC-32C of a list of bytes. -/
def crc32c (bs : List Byte) : Nat :=
  Nat.xor 0xFFFFFFFF (bs.foldl (fun c b => (List.range 8).foldl (fun c _ => crc32cBit c) (Nat.xor c b.toNat)) 0xFFFFFFFF)

/-! ### Host-assisted modes -/

/-- Deadline of a work item sent now: TIMEOUT in 0.1 µs, or with TIMEOUT 0 the function's own deadline (Table 14.13). -/
def State.haDeadline (s : State) (f : Nat) (own : Option Time) : Option Time :=
  let k := bf (s.effReg (oQue (f * 0x10 + 8))) 15 0
  if k = 0 then own else some (s.now + k * 12800000)


/-- Function `f` is in host-assisted mode for unit `u` of its scope (R465). -/
def State.haOn (s : State) (f u : Nat) : Bool :=
  s.field (oQue (f * 0x10)) 62 62 == 1 && (decide (2 < f) || bit (s.field (oQue (f * 0x10)) 31 0) u)

/-! ### Power -/

/-- State of a power domain (Table 16.3): 0 OFF, 1 WARM, 2 HOT. -/
def State.domain (s : State) (d : Nat) : Nat := s.field (oPwr (0x100 + d * 8)) 61 60

/-- A power domain is HOT. -/
def State.hot (s : State) (d : Nat) : Bool := s.domain d == 2

/-- State that a transition under way goes to (R498). -/
def State.moving (s : State) (d : Nat) : Option Nat := sget none d s.pwr.going

/-- The units of a domain serve: it is HOT and is not leaving (R500, R501, log entry 34). -/
def State.inService (s : State) (d : Nat) : Bool := s.hot d && (s.moving d).isNone

/-- A row is in service. -/
def State.rowIn (s : State) (r : Nat) : Bool := s.inService (32 + r)

/-- PLL of row `u`, of cluster `u - 32`, of optical engine `u - 64` (R494). -/
def State.pll (s : State) (u : Nat) : PllSt := sget .reset u s.pwr.plls
def State.setPll (s : State) (u : Nat) (x : PllSt) : State :=
  { s with pwr := { s.pwr with plls := sset .reset u x s.pwr.plls } }

/-! ### Memory bytes -/

/-- What an unlisted byte reads as: in memory class a byte of an UNINIT word with the payload of the power-on fill (R353); in host
memory 0 (log entry 3). -/
def memDefault (a : Nat) : Byte := if a % 8 = 7 ∧ a < 0x300000000000 then 0x01 else 0

/-- Read one byte. -/
def mrd (a : Nat) (m : List Host.Cell) : Byte := sget (memDefault a) a m

/-- Write one byte. -/
def mwr (a : Nat) (b : Byte) (m : List Host.Cell) : List Host.Cell := sset (memDefault a) a b m

/-- The canonical form of memory. -/
abbrev Memory.wf (m : List Host.Cell) : Bool := swf memDefault m

/-- Read the 64-bit word at address `a`, byte 0 lowest. -/
def mrdW (a : Nat) (m : List Host.Cell) : Word :=
  BitVec.ofNat 64 ((List.range 8).foldr (fun i n => n * 256 + (mrd (a + i) m).toNat) 0)

/-- Byte `i` of a word. -/
def wordByte (w : Word) (i : Nat) : Byte := BitVec.ofNat 8 (w.toNat >>> (8 * i))

/-- Write the 64-bit word at address `a`, byte 0 lowest. -/
def mwrW (a : Nat) (w : Word) (m : List Host.Cell) : List Host.Cell :=
  (List.range 8).foldl (fun m i => mwr (a + i) (wordByte w i) m) m

/-- The bytes of words, lowest address first. -/
def wordBytes (ws : List Word) : List Byte := ws.flatMap fun w => (List.range 8).map fun i => wordByte w i

/-- Write consecutive words. -/
def mwrWs (a : Nat) (ws : List Word) (m : List Host.Cell) : List Host.Cell :=
  match ws with
  | [] => m
  | w :: ws => mwrWs (a + 8) ws (mwrW a w m)

/-- Write consecutive bytes. -/
def mwrBs (a : Nat) (bs : List Byte) (m : List Host.Cell) : List Host.Cell :=
  match bs with
  | [] => m
  | b :: bs => mwrBs (a + 1) bs (mwr a b m)

/-- Read `n` consecutive words. -/
def mrdWs (a n : Nat) (m : List Host.Cell) : List Word := (List.range n).map fun i => mrdW (a + 8 * i) m

/-- Bytes of one stack (R334). -/
def stackSize : Nat := 0xC00000000

/-- Controller of a memory-class address. -/
def ctlOf (pa : Nat) : Nat := pa / stackSize

/-- Stacks installed (R1). -/
def State.stacks (s : State) : Nat := if s.small then 2 else 4

/-- MEM_STATUS bits. -/
def State.memFailed (s : State) (m : Nat) : Bool := s.field (oMem m 8) 60 60 == 1
/-- The stack does not answer: it is being filled (R356), or its controller is OFF (R500). -/
def State.memFilling (s : State) (m : Nat) : Bool := s.field (oMem m 8) 61 61 == 1 || s.domain (80 + m) == 0

/-- No stack answers at a memory-class address. -/
def State.memDead (s : State) (pa : Nat) : Bool :=
  decide (pa < 0x100000000000) && (decide (s.stacks ≤ ctlOf pa) || s.memFailed (ctlOf pa) || s.memFilling (ctlOf pa))

/-- A controller takes an access: a WARM one wakes (R500), and its idle time starts again (R502). -/
def State.touchMem (s : State) (pa : Nat) : State :=
  if 0x100000000000 ≤ pa then s
  else
    let m := ctlOf pa
    let s := { s with pwr := { s.pwr with memAt := sset 0 m s.now s.pwr.memAt } }
    if s.domain (80 + m) = 1 then s.setField (oPwr (0x100 + (80 + m) * 8)) 61 60 2 else s

/-- A word of tag `t` and payload `v` (R121). -/
def mkTag (t v : Nat) : Word := BitVec.ofNat 64 (t * 2 ^ 56 + v % 2 ^ 56)

/-- The UNINIT word of the power-on fill. -/
def uninit : Word := mkTag 0x01 0

/-- NIL (R112). -/
def nilW : Word := mkTag 0x02 0

/-! ### The masthead's source FIFOs, as its status shows them -/

/-- Candidate records in a FIFO. -/
def candCount (l : List FifoItem) : Nat := (l.filter fun x => match x with
  | .cand _ _ => true
  | _ => false).length

/-- Sources held now (R366). -/
def State.heldMask (s : State) : Nat :=
  (List.range 36).foldl (fun a i =>
    let n := candCount (sget [] i s.mast.fifos)
    let held := if i < 32 then decide (64 ≤ n) && !(sget [] i s.outqs).isEmpty else decide (64 < n)
    if held then orBit a i else a) 0

end Sys2Proof.Machine
end

