-- ==== Sys2Proof/Machine/Lines.lean ====
section
/-! DEFINITION. Lines of memory and of the caches: accessors of cores, contexts and clusters, the core clock, what an L2 holds, the
codes and merge buffers of the controllers, the error log, snoops, and the device's own reads and writes of memory
(09_translation_and_caches.md, 10_hbm_and_error_protection.md). The value of a memory word is held once, in `State.mem`: R329 to R331
make every cache coherent, so the caches hold which lines are present and what marks and errors they carry (log entry 20). -/

namespace Sys2Proof.Machine

/-! ### Accessors -/

def State.core (s : State) (c : Nat) : CoreSt := sget .reset c s.cores
def State.setCore (s : State) (c : Nat) (x : CoreSt) : State := { s with cores := sset .reset c x s.cores }
def CoreSt.ctx (x : CoreSt) (j : Nat) : CtxSt := sget .reset j x.ctxs
def CoreSt.setCtx (x : CoreSt) (j : Nat) (y : CtxSt) : CoreSt := { x with ctxs := sset .reset j y x.ctxs }
def State.ctx (s : State) (c j : Nat) : CtxSt := (s.core c).ctx j
def State.setCtx (s : State) (c j : Nat) (y : CtxSt) : State := s.setCore c ((s.core c).setCtx j y)
def State.clu (s : State) (k : Nat) : CluSt := sget .reset k s.clus
def State.setClu (s : State) (k : Nat) (x : CluSt) : State := { s with clus := sset .reset k x s.clus }

/-- Cluster of a core, and its number in the cluster (Table 20.3). -/
def cluOf (c : Nat) : Nat := c / 16
def oCore (c o : Nat) : Nat := oClu (cluOf c) (0x8000 + c % 16 * 0x100 + o)
/-- Cores 14 and 15 of a cluster are fit cores (R175). -/
def isFit (c : Nat) : Bool := decide (14 ≤ c % 16)

/-! ### The core clock (R494, R500, R505 to R508, R586) -/

/-- A cluster's core clock runs: the domain is HOT and stays so, its PLL holds lock, no self-test runs (R494, R500, R505, R586). -/
def State.clocked (s : State) (k : Nat) : Bool :=
  s.inService k && !(s.pll (32 + k)).lost && (s.clu k).bist != 1

/-- Length of a core cycle in 1/384,000 ns: 1.0, 1.5 or 2.0 GHz by STEP, 1.0 GHz while the clusters are throttled (R506 to R508). -/
def State.cycleU (s : State) (k : Nat) : Nat :=
  let f := if s.pwr.throttled then 0 else bf (s.effNow (oPwr (0x400 + k * 8))) 57 56
  if f = 0 then 384000 else if f = 1 then 256000 else 192000

/-- Core cycles that have passed on a running clock beyond those that the core's own words have taken (log entry 70). -/
def State.idleCycles (s : State) (c : Nat) : Nat :=
  if (s.core c).up && s.clocked (cluOf c) then (s.now * 3 - (s.core c).sync) / s.cycleU (cluOf c) else 0

/-- TICK (Table 5.7): core cycles counted while the core clock runs; it wraps at 56 bits. -/
def State.tick (s : State) (c : Nat) : Nat := ((s.core c).tick + s.idleCycles c) % 2 ^ 56

/-- A word or an entry takes `n` core cycles. -/
def State.spend (s : State) (c n : Nat) : State :=
  let x := s.core c
  let m := s.idleCycles c
  s.setCore c { x with tick := (x.tick + m + n) % 2 ^ 56, sync := x.sync + (m + n) * s.cycleU (cluOf c) }

/-- Core cycles since TICK was `t`. -/
def State.since (s : State) (c t : Nat) : Nat := (s.tick c + 2 ^ 56 - t % 2 ^ 56) % 2 ^ 56

/-- A stall of a length the spec does not fix: a free number of core cycles. -/
def State.stall (s : State) (c : Nat) : State := (s.spend c s.freeVal.toNat).useFree

/-- The cycles of a cluster's cores are counted up to now: its clock stops or changes its step. -/
def State.settle (s : State) (k : Nat) : State :=
  (List.range 16).foldl (fun s i => if (s.core (k * 16 + i)).up then s.spend (k * 16 + i) 0 else s) s

/-- The cycles of every core are counted up to now. -/
def State.settleAll (s : State) : State := forN 32 (fun s k => s.settle k) s

/-- A cluster's clock starts: its cores count from now. -/
def State.restart (s : State) (k : Nat) : State :=
  (List.range 16).foldl (fun s i =>
    if (s.core (k * 16 + i)).up then s.setCore (k * 16 + i) { s.core (k * 16 + i) with sync := s.now * 3 } else s) s

/-! ### What an L2 holds (R316, R320 to R325) -/

def oCnt (k o : Nat) : Nat := oClu k o

/-- Way of a cluster's L2 that holds a line. -/
def State.l2Find (s : State) (k line : Nat) : Option Nat :=
  (List.range 16).find? fun w => match sget none (line % 4096 * 16 + w) (s.clu k).l2 with
    | some l => l.line == line
    | none => false

/-- Line in a way of its set. -/
def State.l2At (s : State) (k line w : Nat) : Option L2Line := sget none (line % 4096 * 16 + w) (s.clu k).l2

def State.l2Set (s : State) (k line w : Nat) (x : Option L2Line) : State :=
  s.setClu k { s.clu k with l2 := sset none (line % 4096 * 16 + w) x (s.clu k).l2 }

/-- Ways that fills never choose by CLU_L2LOCK, and ways retired by self-test (R323, R589). -/
def State.lockMask (s : State) (k : Nat) : Nat := s.field (oClu k 0x4010) 15 0 ||| (s.clu k).waysOff

/-- Remove a line from the L1s and side buffers of a cluster, but for one core's data cache; a fill of it that is under way stores
nothing (R316). -/
def State.l1Drop (s : State) (k line : Nat) (keep : Option Nat) : State :=
  (List.range 16).foldl (fun s i =>
    let c := k * 16 + i
    let x := s.core c
    let y := { x with l1i := x.l1i.filter (fun e => e.2 != line + 1) }
    let y := if keep = some c then y
      else { y with l1d := y.l1d.filter (fun e => e.2 != line + 1), side := y.side.filter (fun l => l != line),
                    blocked := y.blocked.filter fun l => l != line, upset := y.upset.filter fun l => l != line }
    s.setCore c y) s

/-- A line sits in an eviction register or waits for one (R321). -/
def State.evicting (s : State) (k line : Nat) : Bool :=
  (s.clu k).evict.any (fun e => e.2.any fun x => x.line == line) || (s.clu k).evWait.any fun x => x.line == line

/-- Controller that the snoop filter of a memory-class line belongs to. -/
def lineCtl (line : Nat) : Nat := ctlOf (line * 64)

/-- Some L2 or the host holds a line. -/
def State.lineHeld (s : State) (line : Nat) : Bool :=
  (List.range 32).any (fun k => (s.l2Find k line).isSome) || sget 0 line s.hostLines != 0

/-! ### Codes and the error log of a controller (R334 to R351) -/

/-- The line lies in a LIGHT region of PXZ-5124 (R335). -/
def State.isLight (s : State) (pa : Nat) : Bool :=
  let i := pa % stackSize / 0x2000000
  bit (s.reg (oMem (ctlOf pa) (0x1000 + i / 64 * 8))).toNat (i % 64)

/-- The page code protects the line: a PAGE region of PXZ-5124. -/
def State.isPage (s : State) (pa : Nat) : Bool := !s.small && !s.isLight pa

/-- The address lies in a page-check region (R334). -/
def State.isCheck (s : State) (pa : Nat) : Bool :=
  !s.small && decide (pa < 0x100000000000 ∧ 0xBD0000000 ≤ pa % stackSize)

/-- Check block of the page of a line (R338). -/
def checkBlock (pa : Nat) : Nat := ctlOf pa * stackSize + 0xBD0000000 + pa % stackSize / 4096 * 64

/-- SOURCE code of a requester (Table 10.7). -/
def reqCode : Requester → Nat
  | .core => 0
  | .walker => 1
  | .dispatcher => 2
  | .row => 3
  | .readout => 4
  | .queue => 5
  | .host => 6
  | .controller => 7

/-- A set of bits as a list of positions. -/
def bitsOf (n : Nat) : List Nat := (List.range 64).filter fun i => bit n i

def oLog (m i w : Nat) : Nat := oMem m (0x2000 + i * 0x20 + w * 8)

/-- Valid record with this kind and line. -/
def State.logFind (s : State) (m kind pa : Nat) : Option Nat :=
  (List.range 256).find? fun i =>
    let w := s.reg (oLog m i 0)
    bf w 63 63 == 1 && bf w 62 60 == kind && bf (s.reg (oLog m i 1)) 45 6 == pa / 64

/-- The record that an event takes when none is free: the valid one of kind 1, 2 or 5 with the oldest TIME (R350). -/
def State.logVictim (s : State) (m : Nat) : Option Nat :=
  ((List.range 256).filter fun i => [1, 2, 5].contains (s.field (oLog m i 0) 62 60)).foldl
    (fun a i => match a with
      | none => some i
      | some j => if s.field (oLog m i 3) 55 0 < s.field (oLog m j 3) 55 0 then some i else some j) none

/-- VALID shows the valid records, NEWEST the one created or merged last (Table 10.11). -/
def State.logShow (s : State) (m newest : Nat) : State :=
  let n := ((List.range 256).filter fun i => s.field (oLog m i 0) 63 63 == 1).length
  (s.setField (oMem m 0x10) 40 32 n).setField (oMem m 0x10) 7 0 newest

/-- The error-queue record of an event: class by kind (Table 10.6); corrected kinds only with ERRQ_CE. -/
def State.logErr (s : State) (m kind pa cause : Nat) : State :=
  if kind = 1 ∨ kind = 2 ∨ kind = 5 then
    if s.field (oMem m 0) 1 1 = 1 then s.err 0 5 m kind (pa / 64 * 64) else s
  else s.errWith (if kind = 6 then 3 else 2) 5 m kind noSlot (pa / 64 * 64) cause 0 0 none

/-- An event merges into the record of its kind and line (R350). -/
def State.logMerge (s : State) (m i mask : Nat) : State :=
  let s := s.setField (oLog m i 0) 47 32 (min 65535 (s.field (oLog m i 0) 47 32 + 1))
  let s := s.setField (oLog m i 0) 31 24 (s.field (oLog m i 0) 31 24 ||| mask)
  (s.setField (oLog m i 3) 55 0 (devUnits s.now % 2 ^ 56)).logShow m i

/-- Word 0 of a log record (Table 10.7). -/
def State.logWord0 (s : State) (kind mask src unit : Nat) : Word :=
  setBf (setBf (setBf (setBf (setBf (setBf (setBf 0 63 63 1) 62 60 kind) 59 58
    (if s.small then 2 else if kind = 2 ∨ kind = 5 then 1 else 0)) 57 54 src) 53 48 (if src ≤ 3 then unit else 0)) 47 32 1) 31 24 mask

/-- Word 2 of a log record: the channel; die, bank and row are internal to the controller and left free. -/
def State.logWord2 (s : State) (pa : Nat) : Word :=
  let f := s.freeVal.toNat
  setBf (setBf (setBf (setBf 0 63 59 (pa / 256 % 32)) 58 55 (f % 16)) 54 49 (f / 16 % 48)) 48 32 (f / 1024)

/-- An event takes record `i` of the log (Table 10.7). -/
def State.logCreate (s : State) (m i kind pa mask src unit : Nat) : State :=
  let s := ((s.setReg (oLog m i 0) (s.logWord0 kind mask src unit)).raiseBit (oLog m i 0) 63).setReg (oLog m i 1)
    (BitVec.ofNat 64 (pa / 64 * 64))
  let s := (s.setReg (oLog m i 2) (s.logWord2 pa)).useFree
  (s.setReg (oLog m i 3) (BitVec.ofNat 64 (devUnits s.now % 2 ^ 56))).logShow m i

/-- Record that a new event takes: a free one, or for kinds 3, 4 and 6 the one it replaces (R350). -/
def State.logSlot (s : State) (m kind : Nat) : Option Nat :=
  ((List.range 256).find? fun i => s.field (oLog m i 0) 63 63 == 0).or
    (if kind = 3 ∨ kind = 4 ∨ kind = 6 then s.logVictim m else none)

/-- Log an event: merge, take a free record, replace, or drop (R350). -/
def State.memLog (s : State) (m kind pa mask src unit cause : Nat) : State :=
  if kind = 1 ∧ s.field (oMem m 0) 0 0 = 0 then s
  else match s.logFind m kind pa with
    | some i => s.logMerge m i mask
    | none => match s.logSlot m kind with
      | none => (s.setField (oMem m 0x10) 63 48 (min 65535 (s.field (oMem m 0x10) 63 48 + 1))).logErr m kind pa cause
      | some i => (s.logCreate m i kind pa mask src unit).logErr m kind pa cause

/-- Uncorrectable or poisoned words of a line. -/
def State.badMask (s : State) (pa : Nat) : Nat :=
  let b := sget 0 (pa / 64) s.bad
  (b % 256) ||| (b / 256)

/-- An L2 holds the word at an address as poison: two of its bits were wrong in a dirty line (R328). -/
def State.cachePoison (s : State) (pa : Nat) : Bool :=
  (List.range 32).any fun k => match s.l2Find k (pa / 64) with
    | some w => (s.l2At k (pa / 64) w).any fun x => bit x.lost (pa / 8 % 8)
    | none => false

/-- Why an access to a memory-class word gets a bus error (Tables 10.4, 10.5): cause, controller, mask of failing words. No access
reaches a check block (R300). -/
def State.busErr (s : State) (pa : Nat) : Option (Nat × Nat × Nat) :=
  let m := ctlOf pa
  if s.stacks ≤ m then some (4, 0, 0xFF)
  else if s.isCheck pa || s.memFailed m || s.memFilling m then some (1, m, 0xFF)
  else
    let b := sget 0 (pa / 64) s.bad
    if bit b (pa / 8 % 8) then some (1, m, s.badMask pa)
    else if bit b (8 + pa / 8 % 8) then some (2, m, s.badMask pa)
    else if s.cachePoison pa then some (3, m, 1 <<< (pa / 8 % 8))
    else none

/-- A bus error is returned: counted, and logged unless the stack is being refilled (R345, R349, R356). -/
def State.busErrLog (s : State) (pa src unit : Nat) : State :=
  let m := ctlOf pa
  if s.stacks ≤ m then s
  else
    let s := s.bump (oMem m 0x110)
    if s.memFilling m || s.memFailed m then s else s.memLog m 3 pa (s.badMask pa) src unit 0

/-! ### Reads and corrections (R337 to R342) -/

/-- Words of a stored line that the code finds wrong: masks of those it corrects and of those it reports. A flip of several bits on
PXZ-5122 is corrected when the bits lie on one die, which the spec leaves to the controller: it is a free value (log entry 105). -/
def State.wrongWords (s : State) (line : Nat) : State × Nat × Nat :=
  let fl := sget (0, 0) line s.flips
  if fl.2 = 0 then (s, 0, 0)
  else if fl.2 = 1 then (s, 1 <<< fl.1, 0)
  else if s.small then
    (if bit s.freeVal.toNat 0 then (s.useFree, 1 <<< fl.1, 0) else (s.useFree, 0, 1 <<< fl.1))
  else (s, 0, 1 <<< fl.1)

/-- Words of a line are corrected and written back at once: counted and logged (R342, R349). -/
def State.corrected (s : State) (m pa mask src unit : Nat) : State :=
  if mask = 0 then s
  else
    ({ s with flips := serase (pa / 64) s.flips }.bumpN (oMem m 0x100) (bitsOf mask).length).memLog m 1 pa mask src unit 0

/-- The page of an address is under decode, or waits for one (R339). -/
def State.decoding (s : State) (pa : Nat) : Bool := (sget [] (ctlOf pa) s.decodes).contains (pa / 4096)

/-- Words that the light code reports uncorrectable ask for a decode of their page. -/
def State.decodeAsk (s : State) (m pa mask : Nat) : State :=
  let s := { s with suspect := sset 0 (pa / 64) (sget 0 (pa / 64) s.suspect ||| mask) s.suspect }
  if s.decoding pa then s else { s with decodes := sset [] m (sget [] m s.decodes ++ [pa / 4096]) s.decodes }

/-- A decode of the page of an address ends: the page is corrected, or the words are lost (R339). A check block that is itself
uncorrectable fails it (R340). -/
def State.decodeEnd (s : State) (m pa : Nat) (fits : Bool) (src unit : Nat) : State :=
  let page := pa / 4096
  let mine := s.suspect.filter fun e => e.1 / 64 == page
  let mask := mine.foldl (fun a e => a ||| e.2) 0
  let first := (mine.headD (pa / 64, 0)).1
  let s := { s with decodes := sset [] m ((sget [] m s.decodes).filter fun p => p != page) s.decodes }.bump (oMem m 0x118)
  let r := s.wrongWords (checkBlock pa / 64)
  let s := r.1.corrected m (checkBlock pa) r.2.1 7 0
  let rest := s.suspect.filter fun e => e.1 / 64 != page
  if fits ∧ r.2.2 = 0 then
    ({ s with suspect := rest, flips := s.flips.filter fun e => e.1 / 64 != page }.bump (oMem m 0x108)).memLog m 2 (first * 64) mask
      src unit 0
  else
    { s with suspect := rest, flips := s.flips.filter (fun e => !(mine.any fun x => x.1 == e.1)),
             bad := mine.foldl (fun b e => sset 0 e.1 (sget 0 e.1 b ||| e.2) b) s.bad }

/-- An access to a page under decode waits for its end (R339); whether the errors fit one burst is then a free value. -/
def State.awaitPage (s : State) (pa : Nat) : State :=
  if s.decoding pa then (s.decodeEnd (ctlOf pa) pa (bit s.freeVal.toNat 0) 7 0).useFree else s

/-- A line is read from its stack for the controller's own use or for an access that waits: single errors are corrected, uncorrectable
words of a PAGE region run a page decode, others are lost (R337 to R342). -/
def State.scan (s : State) (pa src unit : Nat) : State :=
  let m := ctlOf pa
  let s := s.awaitPage pa
  let r := s.wrongWords (pa / 64)
  let s := r.1.corrected m pa r.2.1 src unit
  if r.2.2 = 0 then s
  else if s.isPage pa then ((s.decodeAsk m pa r.2.2).decodeEnd m pa (bit s.freeVal.toNat 0) src unit).useFree
  else { s with bad := sset 0 (pa / 64) (sget 0 (pa / 64) s.bad ||| r.2.2) s.bad, flips := serase (pa / 64) s.flips }

/-! ### Writes and merges (R340, R343, R347, R357) -/

/-- An armed corruption hits the line write just made, or the check block that a line write of a PAGE region writes (R357). -/
def State.flipHook (s : State) (m pa : Nat) : State :=
  let c := s.reg (oMem m 0x20)
  if bf c 63 63 = 1 ∧ (bf c 62 62 = 0 ∨ bf c 45 6 = pa / 64) ∧ (bf c 61 61 = 0 ∨ s.isPage pa = true) then
    let n := (bitsOf (s.reg (oMem m 0x18)).toNat).length + (bitsOf (bf c 57 50)).length
    let line := (if bf c 61 61 = 1 then checkBlock pa else pa) / 64
    ({ s with flips := sset (0, 0) line (bf c 60 58, n) s.flips }).setField (oMem m 0x20) 63 63 0
  else s

/-- A line write of a PAGE region folds its difference into the check block; one that is uncorrectable is rebuilt and logged (R340). -/
def State.checkFold (s : State) (pa src unit : Nat) : State :=
  let m := ctlOf pa
  let b := checkBlock pa
  let r := s.wrongWords (b / 64)
  let s := r.1.corrected m b r.2.1 src unit
  if r.2.2 = 0 then s
  else ({ s with flips := serase (b / 64) s.flips }.bump (oMem m 0x128)).memLog m 5 b r.2.2 src unit 0

/-- A line write, `mask` marking the words written: the hidden read of a PAGE region and the read of a read-modify-write apply the codes
to the old words (R340, R342, R347), then uncorrectable words are good or poison as R343 states. -/
def State.lineWrite (s : State) (pa mask src unit : Nat) : State :=
  let m := ctlOf pa
  let line := pa / 64
  let s := s.awaitPage pa
  let s := if s.isPage pa ∨ mask ≠ 0xFF then s.scan pa src unit else s
  let was := s.badMask pa
  let s := { s with flips := serase line s.flips, suspect := serase line s.suspect }
  let s := if s.isPage pa then s.checkFold pa src unit else s
  let s :=
    if was = 0 then s
    else if s.small then
      if mask = 0xFF then { s with bad := serase line s.bad }
      else ({ s with bad := sset 0 line (0xFF * 256) s.bad }).memLog m 4 pa 0xFF src unit 0
    else
      let left := was &&& (0xFF - mask)
      let s := { s with bad := sset 0 line (left * 256) s.bad }
      let s := if left = 0 then s else s.memLog m 4 pa left src unit 0
      if s.isPage pa then (s.bump (oMem m 0x128)).memLog m 5 pa left src unit 0 else s
  s.flipHook m pa

/-- Complete the merge-buffer entry of a line (R347): words missing make it a read-modify-write. -/
def State.mergeDone (s : State) (m line : Nat) : State :=
  let l := sget [] m s.merges
  match l.find? fun e => e.1 == line with
  | none => s
  | some (_, mask, _) =>
    let s := { s with merges := sset [] m (l.filter fun e => e.1 != line) s.merges }
    let s := if mask = 0xFF then s else s.bump (oMem m 0x120)
    s.lineWrite (line * 64) mask 7 0

/-- An entry with all 8 words written is completed (R347). -/
def State.mergeFull (s : State) (m line : Nat) : State :=
  if (sget [] m s.merges).any fun e => e.1 == line && e.2.1 == 0xFF then s.mergeDone m line else s

/-- A partial write enters the merge buffer (R347); the oldest entry is completed when all 32 are in use. -/
def State.mergePut (s : State) (m line mask : Nat) : State :=
  let s := s.awaitPage (line * 64)
  let l := sget [] m s.merges
  match l.find? fun e => e.1 == line with
  | some _ =>
    { s with merges := sset [] m (l.map fun e => if e.1 = line then (line, e.2.1 ||| mask, e.2.2) else e) s.merges }
  | none =>
    let s := if 32 ≤ l.length then s.mergeDone m ((l.headD (0, 0, 0)).1) else s
    { s with merges := sset [] m (sget [] m s.merges ++ [(line, mask, s.now)]) s.merges }

/-- Write the words that `mask` marks of the line at `pa`. -/
def State.putWords (s : State) (pa mask : Nat) (data : List Word) : State :=
  (List.range 8).foldl (fun s i =>
    if bit mask i then { s with mem := mwrW (pa / 64 * 64 + 8 * i) (data.getD i 0) s.mem } else s) s

/-- A controller reads a line for an access that waits for the data: its merge-buffer entry is completed first (R347, R348). -/
def State.ctlRead (s : State) (pa src unit : Nat) : State :=
  let m := ctlOf pa
  if 0x100000000000 ≤ pa ∨ s.stacks ≤ m ∨ s.isCheck pa ∨ s.memFailed m ∨ s.memFilling m then s
  else ((s.touchMem pa).mergeDone m (pa / 64)).scan pa src unit

/-! ### Dirty lines, errors of the caches (R320, R328, R343) -/

/-- The words that a write-back loses: those found wrong beyond correction, and those poisoned before. -/
def L2Line.poison (x : L2Line) : Nat := x.lost ||| x.two

/-- A controller accepts a line write from an L2 (R320); poisoned words are written back as uncorrectable ones (R328, R343). -/
def State.acceptLine (s : State) (x : L2Line) : State :=
  let pa := x.line * 64
  let m := ctlOf pa
  if s.stacks ≤ m ∨ s.memFailed m ∨ s.memFilling m then s
  else
    let s := ((s.touchMem pa).mergeDone m x.line).lineWrite pa 0xFF 7 0
    if x.poison = 0 then s
    else ({ s with bad := sset 0 x.line (x.poison * 256) s.bad }).memLog m 4 pa x.poison 7 0 0

/-- A dirty victim goes to the eviction register of its bank, or waits for it (R320). -/
def State.evictLine (s : State) (k : Nat) (v : L2Line) : State :=
  let s := s.bump (oCnt k 0x4120)
  let x := s.clu k
  match sget none (v.line % 8) x.evict with
  | none => s.setClu k { x with evict := sset none (v.line % 8) (some v) x.evict }
  | some _ => s.setClu k { x with evWait := x.evWait ++ [v] }

/-- An eviction has been accepted: data that waited for it is in its way (R320). -/
def CluSt.unblock (x : CluSt) (line : Nat) : CluSt :=
  { x with l2 := x.l2.map fun e => (e.1, e.2.map fun a => if a.behind = some line then { a with behind := none } else a) }

/-- The controller accepts the eviction that stands in the register of a bank; the next one of the bank takes the register (R320). -/
def State.evictAccept (s : State) (k bank : Nat) : State :=
  let x := s.clu k
  match sget none bank x.evict with
  | none => s
  | some v =>
    let next := x.evWait.find? fun l => l.line % 8 == bank
    let wait := match next with
      | some l => x.evWait.erase l
      | none => x.evWait
    (s.setClu k ({ x with evict := sset none bank next x.evict, evWait := wait }.unblock v.line)).acceptLine v

/-- A request waits until the eviction of its line has been accepted (R321): the evictions of the bank are accepted in order. -/
def State.awaitEvict (s : State) (k line : Nat) : Nat → State
  | 0 => s
  | n + 1 => if s.evicting k line then (s.evictAccept k (line % 8)).awaitEvict k line n else s

/-- Evictions of a bank: that of its register and those that wait. -/
def State.evictions (s : State) (k : Nat) : Nat := (s.clu k).evWait.length + 1

/-- A cache error has been corrected or recovered (R328). -/
def State.cacheErr (s : State) (k line : Nat) : State := (s.bump (oCnt k 0x4138)).err 0 2 k 5 (line * 64)

/-- Drop a line from a cluster's L2 with its L1 copies: a locked way that loses a line is counted (R323). -/
def State.l2Drop (s : State) (k line : Nat) (store : Bool) : State :=
  match s.l2Find k line with
  | none => s
  | some w =>
    let s := if store ∧ bit (s.field (oClu k 0x4010) 15 0) w then s.bump (oCnt k 0x4128) else s
    (s.l2Set k line w none).l1Drop k line none

/-- The line is read out of an L2 (R328): single errors are corrected in place; a clean line with a double error is invalidated, to be
fetched again; a dirty one is poisoned. -/
def State.l2Check (s : State) (k line : Nat) : State :=
  match s.l2Find k line with
  | none => s
  | some w => match s.l2At k line w with
    | none => s
    | some x =>
      if x.one = 0 ∧ x.two = 0 then s
      else
        let s := (bitsOf x.one).foldl (fun s _ => s.cacheErr k line) s
        if x.two = 0 then s.l2Set k line w (some { x with one := 0 })
        else if x.dirty then s.l2Set k line w (some { x with one := 0, two := 0, lost := x.poison })
        else (s.cacheErr k line).l2Drop k line false

/-- The line is brought where its reader can judge it: checked in the L2, or read by its controller. -/
def State.probe (s : State) (k pa src unit : Nat) : State :=
  let s := s.l2Check k (pa / 64)
  if (s.l2Find k (pa / 64)).isSome then s else s.ctlRead pa src unit

/-- Why a line cannot be filled (R300, R328, R344 to R346): cause and ESR.DETAIL[10:0]. -/
def State.fillErr (s : State) (k pa : Nat) : Option (Nat × Nat) :=
  let line := pa / 64
  match (s.l2Find k line).bind (s.l2At k line) with
  | some x => if x.lost = 0 then none else some (3, (if 0x100000000000 ≤ pa then 4 else ctlOf pa) + x.lost * 8)
  | none =>
    if 0x100000000000 ≤ pa then none
    else if s.stacks * stackSize ≤ pa then some (4, 0xFF * 8)
    else if s.isCheck pa then some (1, ctlOf pa + 0xFF * 8)
    else
      let m := ctlOf pa
      if s.memFailed m || s.memFilling m then some (1, m + 0xFF * 8)
      else
        let b := sget 0 line s.bad
        if b % 256 ≠ 0 then some (1, m + s.badMask pa * 8)
        else if b ≠ 0 then some (2, m + s.badMask pa * 8)
        else none

/-! ### Snoops and the snoop filter (R321, R329) -/

/-- The snoop filter tracks a memory-class line; a full set gives up its oldest line in every holder (R329). The set of a line is
open; it is an opaque constant's. -/
def State.track (s : State) (line : Nat) : State :=
  let m := lineCtl line
  let l := (sget [] m s.filter).filter fun x => s.lineHeld x
  if l.contains line then { s with filter := sset [] m l s.filter }
  else if l.length < 16 then { s with filter := sset [] m (l ++ [line]) s.filter }
  else
    let peers := l.filter fun x => Config.filterSet x == Config.filterSet line
    let s :=
      if 16 ≤ peers.length then
        let old := peers.headD 0
        let s := (List.range 32).foldl (fun s k =>
          match s.l2Find k old with
          | none => s
          | some w =>
            let s := match s.l2At k old w with
              | some x => if x.dirty then s.acceptLine x else s
              | none => s
            (s.l2Drop k old false).bump (oCnt k 0x4130)) s
        { s with hostLines := serase old s.hostLines }
      else s
    let l := (sget [] m s.filter).filter fun x => s.lineHeld x
    { s with filter := sset [] m (l ++ [line]) s.filter }

/-- A snoop of cluster `h` for a line (R321, R329): an eviction register answers and stands; a read leaves a clean shared copy, a
write takes the line away, and a dirty copy is written back first. -/
def State.snoopLine (s : State) (h line : Nat) (write : Bool) : State :=
  match (s.l2Find h line).bind fun w => (s.l2At h line w).map fun x => (w, x) with
  | none => s
  | some (w, x) =>
    let s := if x.dirty then s.acceptLine x else s
    if write then s.l2Drop h line true
    else s.l2Set h line w (some (if x.dirty then { x with dirty := false, two := 0, lost := x.poison } else x))

/-- Every holder but cluster `k` is snooped before a line is read or written; the host by back-invalidation (R329). -/
def State.snoopOthers (s : State) (k line : Nat) (write : Bool) : State :=
  let s := (List.range 32).foldl (fun s h => if h = k then s else s.snoopLine h line write) s
  if write then { s with hostLines := serase line s.hostLines }
  else if sget 0 line s.hostLines = 2 then { s with hostLines := sset 0 line 1 s.hostLines } else s

/-! ### Reads and writes by units of the device -/

/-- A unit of the device writes words of one line: every holder loses the line first (R329), and the controller takes a full line, or a
partial write into its merge buffer (R343, R347). -/
def State.putLine (s : State) (src unit a : Nat) (ws : List Word) : State :=
  let line := a / 64
  let m := ctlOf a
  let s := (s.touchMem a).snoopOthers 32 line true
  if s.memDead a || s.isCheck a then s
  else if 0x100000000000 ≤ a then { s with mem := mwrWs a ws s.mem }
  else if 8 ≤ ws.length then
    let s := s.mergeDone m line
    { s with mem := mwrWs a ws s.mem }.lineWrite a 0xFF src unit
  else
    ({ s with mem := mwrWs a ws s.mem }.mergePut m line ((2 ^ ws.length - 1) * 2 ^ (a / 8 % 8))).mergeFull m line

/-- Write whole words, line by line. -/
def State.putBy (s : State) (src unit : Nat) (fuel a : Nat) (ws : List Word) : State :=
  match fuel, ws with
  | 0, _ => s
  | _, [] => s
  | fuel + 1, ws =>
    let n := 8 - a / 8 % 8
    (s.putLine src unit a (ws.take n)).putBy src unit fuel (a + 8 * (ws.take n).length) (ws.drop n)

/-- Write whole words for requester `src` of Table 10.7. -/
def State.memPutBy (s : State) (src unit a : Nat) (ws : List Word) : State := s.putBy src unit ws.length a ws

/-- Write whole words for the queue engine. -/
def State.memPut (s : State) (a : Nat) (ws : List Word) : State := s.memPutBy 5 0 a ws

/-- A unit of the device reads a line: the L2 that holds it and its controller judge it (R328, R337 to R342). -/
def State.devLine (s : State) (src unit a : Nat) : State :=
  ((List.range 32).foldl (fun s k => s.l2Check k (a / 64)) s).ctlRead a src unit

/-- A unit of the device reads one word: the line is judged as its reader finds it, and the bus error it gets is answered (Table 10.4). -/
def State.devGet (s : State) (src unit a : Nat) : State × Option (Nat × Nat × Nat) :=
  let s := s.devLine src unit a
  match s.busErr a with
  | some e => if 0x100000000000 ≤ a then (s, none) else (s.busErrLog a src unit, some e)
  | none => (s, none)

end Sys2Proof.Machine
end

