-- ==== Sys2Proof/Machine/Hbm.lean ====
section
/-! DEFINITION. The commands of HBM memory and error protection (10_hbm_and_error_protection.md): reads, decodes, writes, merges,
armed corruption, fill and stack failure. -/

namespace Sys2Proof.Machine

/-! ### Commands -/

/-- MEMORY_READ (R337 to R342): corrections are written back and logged; an uncorrectable word waits for a page decode in a PAGE
region and returns a bus error elsewhere. A page under decode is waited for first (R339). -/
def execMemoryRead (t : Time) (m : CtlId) (pa : BitVec 46) (req : Requester) (unit : BitVec 6) (found : ReadFinding)
    (s : State) : Out :=
  let s := s.at t
  let a := pa.toNat
  let line := a / 64
  let src := reqCode req
  if ctlOf a ≠ m.val ∨ s.stacks ≤ m.val ∨ s.isCheck a = true then .next s
  else if s.memFailed m || s.memFilling m then .next ((s.touchMem a).busErrLog a src unit.toNat)
  else
    let s := ((s.touchMem a).mergeDone m line).awaitPage a
    let r := s.wrongWords line
    let one := (match found with
      | .corrected k => k.toNat
      | _ => 0) ||| r.2.1
    let two := (match found with
      | .uncorrectable k => k.toNat
      | _ => 0) ||| r.2.2
    let s := r.1.corrected m a one src unit.toNat
    let s :=
      if two = 0 then s
      else if s.isPage a then s.decodeAsk m a two
      else { s with bad := sset 0 line (sget 0 line s.bad ||| two) s.bad, flips := serase line s.flips }
    .next (if s.badMask a = 0 then s else s.busErrLog a src unit.toNat)

/-- PAGE_DECODE (R339, R340): one of the first 4 decodes of the controller ends; a further one waits. Words that it does not save return
a bus error to the read that started it. -/
def execPageDecode (t : Time) (m : CtlId) (pa : BitVec 46) (req : Requester) (unit : BitVec 6) (oneBurst : Bool)
    (s : State) : Out :=
  let s := s.at t
  let a := pa.toNat
  if ctlOf a ≠ m.val ∨ ((sget [] m.val s.decodes).take 4).contains (a / 4096) = false then .next s
  else
    let s := s.decodeEnd m a oneBurst (reqCode req) unit.toNat
    .next (if s.badMask a = 0 then s else s.busErrLog a (reqCode req) unit.toNat)

/-- MEMORY_WRITE: a full line is written whole; fewer words enter the merge buffer, where they are visible at once (R343, R347,
R348). A failed or missing stack takes nothing, and no access reaches a check block (R300). -/
def execMemoryWrite (t : Time) (m : CtlId) (pa : BitVec 46) (mask : BitVec 8) (data : List Word) (s : State) : Out :=
  let s := (s.at t).touchMem pa.toNat
  let a := pa.toNat
  if ctlOf a ≠ m.val ∨ s.stacks ≤ m.val ∨ s.isCheck a = true ∨ s.memFailed m ∨ s.memFilling m then .next s
  else
    let s := if mask = 0xFF then s.mergeDone m (a / 64) else s
    let s := s.putWords a mask.toNat data
    .next (if mask = 0xFF then s.lineWrite a 0xFF 7 0 else (s.mergePut m (a / 64) mask.toNat).mergeFull m (a / 64))

/-- MERGE_COMPLETE (R347). -/
def execMergeComplete (t : Time) (m : CtlId) (pa : BitVec 46) (s : State) : Out :=
  .next ((s.at t).mergeDone m (pa.toNat / 64))

/-- FLIP_ARM: a write of MEM_FLIPCTL (R357); while ARM is 1 only a write of ARM 0 acts. -/
def execFlipArm (t : Time) (m : CtlId) (v : Word) (s : State) : Out :=
  let s := s.at t
  let old := s.reg (oMem m 0x20)
  if s.stacks ≤ m.val ∨ (bf old 63 63 = 1 ∧ bf v 63 63 = 1) then .next s
  else
    let target := if s.small ∧ bf v 61 61 = 1 then bf old 61 61 else bf v 61 61
    .next (s.setReg (oMem m 0x20) (setBf (setBf (setBf (setBf (setBf (setBf 0 63 63 (bf v 63 63)) 62 62 (bf v 62 62))
      61 61 target) 60 58 (bf v 60 58)) 57 50 (bf v 57 50)) 45 6 (bf v 45 6)))

/-- POWER_ON_FILL: every word of the stack becomes UNINIT with valid codes, or the stack fails (R353, R355). -/
def execPowerOnFill (t : Time) (m : CtlId) (fails : Bool) (s : State) : Out :=
  let s := s.at t
  if s.stacks ≤ m.val ∨ s.field (oMem m 8) 61 61 = 0 then .next s
  else if fails then
    .next (((s.setField (oMem m 8) 61 61 0).setField (oMem m 8) 60 60 1).memLog m 6 (m.val * stackSize) 0xFF 7 0 0)
  else
    let inStack := fun (a : Nat) => ctlOf a == m.val
    let s := { s with
      mem := s.mem.filter (fun e => !inStack e.1)
      bad := s.bad.filter (fun e => !inStack (e.1 * 64))
      suspect := s.suspect.filter (fun e => !inStack (e.1 * 64))
      decodes := sset [] m.val [] s.decodes
      flips := s.flips.filter (fun e => !inStack (e.1 * 64))
      merges := sset [] m.val [] s.merges }
    .next ((s.setField (oMem m 8) 61 61 0).setField (oMem m 8) 62 62 1)

/-- A stack fails (R584): logged, MEM_STATUS.FAILED set; page decodes in progress fail. -/
def State.stackFail (s : State) (m cause : Nat) : State :=
  if s.stacks ≤ m then s
  else
    let s := (s.setField (oMem m 8) 60 60 1).setField (oMem m 8) 61 61 0
    let s := { s with suspect := s.suspect.filter (fun e => ctlOf (e.1 * 64) != m), decodes := sset [] m [] s.decodes }
    s.memLog m 6 (m * stackSize) 0xFF 7 0 cause

/-- STACK_FAILURE (R584). -/
def execStackFailure (t : Time) (m : CtlId) (cause : StackCause) (s : State) : Out :=
  .next ((s.at t).stackFail m (match cause with
    | .pll => 1
    | .phy => 2
    | .supply => 3))

end Sys2Proof.Machine
end

