-- ==== Sys2Proof/Machine/Num.lean ====
section
/-! DEFINITION. Tagged words (Table 4.1), binary64 arithmetic with rounding to nearest even (R131), and the operand tables of the
generic operations (R130 to R138). -/

namespace Sys2Proof.Machine

/-! ### Tags -/

/-- Tag and payload of a word (R121). -/
def tagOf (w : Word) : Nat := bf w 63 56
def pay (w : Word) : Nat := bf w 55 0

def tFix : Nat := 0x00
def tUninit : Nat := 0x01
def tNil : Nat := 0x02
def tTrue : Nat := 0x03
def tSym : Nat := 0x08
def tHit : Nat := 0x10
def tSpike : Nat := 0x11
def tTime : Nat := 0x12
def tSpan : Nat := 0x13
def tChan : Nat := 0x14
def tRegion : Nat := 0x15
def tSflt : Nat := 0x18
def tCons : Nat := 0x20
def tVec : Nat := 0x21
def tBox : Nat := 0x22
def tCode : Nat := 0x23
def tFwd : Nat := 0x2F

/-- Customer tags 0xC0 to 0xEF. -/
def isCustomer (t : Nat) : Bool := decide (0xC0 ≤ t ∧ t ≤ 0xEF)

/-- A tag that Table 4.1 does not list (R122). -/
def isReserved (t : Nat) : Bool :=
  !([0x00, 0x01, 0x02, 0x03, 0x08, 0x10, 0x11, 0x12, 0x13, 0x14, 0x15, 0x18, 0x20, 0x21, 0x22, 0x23, 0x2F].contains t) &&
    !isCustomer t

/-- CONS, VEC, BOX or CODE. -/
def isObject (t : Nat) : Bool := decide (tCons ≤ t ∧ t ≤ tCode)

/-- A FIX word of an integer, by its low 56 bits. -/
def fixW (i : Int) : Word := mkTag 0 (lowBits 56 i)

/-- A FIX word of an address or count. -/
def fixN (n : Nat) : Word := mkTag 0 n

/-- Signed value of a FIX or TIME payload. -/
def fixI (w : Word) : Int := sx 56 (pay w)

def trueW : Word := mkTag tTrue 0

/-- An integer is in FIX range. -/
def inFix (i : Int) : Bool := decide (-(2 ^ 55) ≤ i ∧ i < 2 ^ 55)

/-- A word whose payload fails the check of Table 4.1 (R123, R126). -/
def malformed (w : Word) : Bool :=
  let t := tagOf w
  let p := pay w
  if t = tNil ∨ t = tTrue then p != 0
  else if t = tSym ∨ t = tChan then bf w 55 32 != 0
  else if t = tRegion then bf w 55 28 != 0
  else if t = tSpan then decide (2 ^ 28 < bf w 55 28 + bf w 27 0)
  else if t = tCons then bf w 55 47 != 0 || bf w 3 0 != 0
  else if t = tVec ∨ t = tBox ∨ t = tCode ∨ t = tFwd then bf w 55 47 != 0 || bf w 2 0 != 0
  else false

/-! ### Causes of a tag fault (Table 4.4) -/

def cUninit : Nat := 1
def cReserved : Nat := 2
def cNoComb : Nat := 3
def cMalformed : Nat := 4
def cRange : Nat := 5
def cFwdChain : Nat := 6
def cHeader : Nat := 7
def cCustom : Nat := 8
def cFwdSource : Nat := 9

/-- Steps 1 and 2 of R204 and R130: a reserved tag, an UNINIT word. -/
def readCause (w : Word) : Option Nat :=
  if isReserved (tagOf w) then some cReserved else if tagOf w = tUninit then some cUninit else none

/-- Steps 1 to 4 of R204 for an operand that the instruction accepts by `ok`. -/
def srcCause (ok : Word → Bool) (w : Word) : Option Nat :=
  match readCause w with
  | some c => some c
  | none => if !ok w then some cNoComb else if malformed w then some cMalformed else none

/-! ### binary64 -/

/-- A binary64 value: NaN, an infinity, or (−1)^neg × m × 2^e. -/
inductive FVal where
  | nan
  | inf (neg : Bool)
  | fin (neg : Bool) (m : Nat) (e : Int)
  deriving DecidableEq, Repr

/-- The value of 64 bits. -/
def fdec (b : Nat) : FVal :=
  let neg := b.testBit 63
  let ex : Nat := b / 2 ^ 52 % 2048
  let fr : Nat := b % 2 ^ 52
  if ex = 2047 then (if fr = 0 then .inf neg else .nan)
  else if ex = 0 then .fin neg fr (-1074)
  else .fin neg (2 ^ 52 + fr) ((ex : Int) - 1075)

/-- Quotient by 2^k rounded to nearest even. -/
def shrEven (m k : Nat) : Nat :=
  let q := m / 2 ^ k
  let r := m % 2 ^ k
  if 2 * r < 2 ^ k then q else if 2 ^ k < 2 * r then q + 1 else q + q % 2

/-- Sign bit. -/
def signBit (neg : Bool) : Nat := if neg then 2 ^ 63 else 0

/-- Bits of an infinity. -/
def infBits (neg : Bool) : Nat := signBit neg + 2047 * 2 ^ 52

/-- Bits of m × 2^e rounded to nearest even. -/
def fround (neg : Bool) (m : Nat) (e : Int) : Nat :=
  if m = 0 then signBit neg
  else
    let q : Int := max (e + (Nat.log2 m : Int) - 52) (-1074)
    let mag := if q ≤ e then m * 2 ^ (e - q).toNat else shrEven m (q - e).toNat
    let bits := if mag < 2 ^ 52 then mag else (q + 1075).toNat * 2 ^ 52 + (mag - 2 ^ 52)
    if 2047 * 2 ^ 52 ≤ bits then infBits neg else signBit neg + bits

/-- Bits of a value that is no NaN. -/
def fbits : FVal → Nat
  | .nan => 2047 * 2 ^ 52 + 1
  | .inf neg => infBits neg
  | .fin neg m e => fround neg m e

/-- Signed integer of a magnitude. -/
def sgn (neg : Bool) (m : Nat) : Int := if neg then -(m : Int) else m

/-- Exact sum; an exact zero from operands of unlike sign is +0. -/
def fadd : FVal → FVal → FVal
  | .nan, _ => .nan
  | _, .nan => .nan
  | .inf a, .inf b => if a = b then .inf a else .nan
  | .inf a, _ => .inf a
  | _, .inf b => .inf b
  | .fin a m e, .fin b n f =>
    let g := min e f
    let v := sgn a (m * 2 ^ (e - g).toNat) + sgn b (n * 2 ^ (f - g).toNat)
    if v = 0 then .fin (a && b) 0 0 else .fin (decide (v < 0)) v.natAbs g

def fneg : FVal → FVal
  | .nan => .nan
  | .inf a => .inf (!a)
  | .fin a m e => .fin (!a) m e

/-- Exact product. -/
def fmul : FVal → FVal → FVal
  | .nan, _ => .nan
  | _, .nan => .nan
  | .inf a, .inf b => .inf (Bool.xor a b)
  | .inf a, .fin b n _ => if n = 0 then .nan else .inf (Bool.xor a b)
  | .fin a m _, .inf b => if m = 0 then .nan else .inf (Bool.xor a b)
  | .fin a m e, .fin b n f => .fin (Bool.xor a b) (m * n) (e + f)

/-- Numeric comparison, none when unordered (R137). -/
def fcmp : FVal → FVal → Option Int
  | .nan, _ => none
  | _, .nan => none
  | .inf a, .inf b => some (if a = b then 0 else if a then -1 else 1)
  | .inf a, _ => some (if a then -1 else 1)
  | _, .inf b => some (if b then 1 else -1)
  | .fin a m e, .fin b n f =>
    let g := min e f
    let x := sgn a (m * 2 ^ (e - g).toNat)
    let y := sgn b (n * 2 ^ (f - g).toNat)
    some (if x < y then -1 else if x = y then 0 else 1)

/-- An integer as a value. -/
def fint (i : Int) : FVal := .fin (decide (i < 0)) i.natAbs 0

/-- An integer converted to binary64 (R131). -/
def fofInt (i : Int) : FVal := fdec (fbits (fint i))

/-- Truncation toward zero; none for NaN and infinities (R209). -/
def ftrunc : FVal → Option Int
  | .nan => none
  | .inf _ => none
  | .fin neg m e => some (sgn neg (if 0 ≤ e then m * 2 ^ e.toNat else m / 2 ^ (-e).toNat))

/-- SFLT payload of binary64 bits: rounded to nearest even at bit 8 (R131). -/
def sfltPay (b : Nat) : Nat :=
  let mag := b % 2 ^ 63
  (b / 2 ^ 63) * 2 ^ 55 + shrEven mag 8

/-! ### Numeric operands and results (Table 4.5) -/

/-- A numeric operand: an integer and whether it is a bignum, a float and whether it is a binary64 BOX. -/
inductive Num where
  | int (i : Int) (big : Bool)
  | flt (v : FVal) (box : Bool)
  deriving DecidableEq, Repr

/-- A numeric result: an integer (a bignum when outside FIX range), an SFLT, or a binary64 BOX; the value exact. -/
inductive NumRes where
  | int (i : Int)
  | sflt (v : FVal)
  | b64 (v : FVal)
  deriving DecidableEq, Repr

/-- A number as a binary64 value. -/
def Num.val : Num → FVal
  | .int i _ => fofInt i
  | .flt v _ => v

/-- A number as an exact value, for comparison. -/
def Num.exact : Num → FVal
  | .int i _ => fint i
  | .flt v _ => v

/-- ADD 0, SUB 1, MUL 2 of numbers (Table 4.5). -/
def numOp (op : Nat) (a b : Num) : NumRes :=
  match a, b with
  | .int i _, .int j _ => .int (if op = 0 then i + j else if op = 1 then i - j else i * j)
  | _, _ =>
    let v := if op = 0 then fadd a.val b.val else if op = 1 then fadd a.val (fneg b.val) else fmul a.val b.val
    let box := match a, b with
      | .flt _ true, _ => true
      | _, .flt _ true => true
      | _, _ => false
    if box then .b64 v else .sflt v

/-- CMP of numbers (R137). -/
def numCmp (a b : Num) : Option Int := fcmp a.exact b.exact

/-! ### Time-like operands (R133 to R137) -/

/-- A point: HIT, SPIKE or TIME. -/
def isPoint (w : Word) : Bool := tagOf w = tHit || tagOf w = tSpike || tagOf w = tTime

/-- Time of a point in 2^-10 ns units (R133). -/
def timeOf (w : Word) : Int :=
  if tagOf w = tHit then (bf w 27 0 * 16 : Nat) else if tagOf w = tSpike then (bf w 49 0 : Nat) else fixI w

def spanStart (w : Word) : Nat := bf w 55 28
def spanLen (w : Word) : Nat := bf w 27 0
/-- Duration of a SPAN (R133). -/
def durOf (w : Word) : Int := (spanLen w * 16 : Nat)

/-- A SPAN word. -/
def spanW (start len : Nat) : Word := mkTag tSpan (start * 2 ^ 28 + len)

/-- A TIME result, or cause RANGE (R136). -/
def timeRes (i : Int) : Word ⊕ Nat := if inFix i then .inl (mkTag tTime (lowBits 56 i)) else .inr cRange

/-- A SPAN result, or cause RANGE (R136). -/
def spanRes (start : Nat) (len : Int) : Word ⊕ Nat :=
  if 0 ≤ len ∧ len ≤ 2 ^ 28 - 1 ∧ (start : Int) + len ≤ 2 ^ 28 then .inl (spanW start len.toNat) else .inr cRange

def isNum (w : Word) : Bool := tagOf w = tFix || tagOf w = tSflt || tagOf w = tBox

/-- ADD, SUB, MUL of well-formed operands that are not both numbers (Tables 4.6 to 4.8). -/
def timeArith (op : Nat) (a b : Word) : Word ⊕ Nat :=
  let ta := tagOf a
  let tb := tagOf b
  if op = 0 then
    if ta = tFix ∧ isPoint b then timeRes (timeOf b + fixI a)
    else if isPoint a ∧ tb = tFix then timeRes (timeOf a + fixI b)
    else if isPoint a ∧ tb = tSpan then timeRes (timeOf a + durOf b)
    else if ta = tSpan ∧ isPoint b then timeRes (timeOf b + durOf a)
    else if ta = tSpan ∧ tb = tSpan then spanRes (spanStart a) ((spanLen a + spanLen b : Nat) : Int)
    else .inr cNoComb
  else if op = 1 then
    if isPoint a ∧ tb = tFix then timeRes (timeOf a - fixI b)
    else if ta = tHit ∧ tb = tHit then
      let x := bf a 27 0
      let y := bf b 27 0
      spanRes (min x y) ((max x y - min x y : Nat) : Int)
    else if isPoint a ∧ isPoint b then timeRes (timeOf a - timeOf b)
    else if isPoint a ∧ tb = tSpan then timeRes (timeOf a - durOf b)
    else if ta = tSpan ∧ tb = tSpan then spanRes (spanStart a) ((spanLen a : Int) - spanLen b)
    else .inr cNoComb
  else
    if ta = tFix ∧ tb = tTime then timeRes (fixI b * fixI a)
    else if ta = tTime ∧ tb = tFix then timeRes (fixI a * fixI b)
    else if ta = tFix ∧ tb = tSpan then spanRes (spanStart b) ((spanLen b : Int) * fixI a)
    else if ta = tSpan ∧ tb = tFix then spanRes (spanStart a) ((spanLen a : Int) * fixI b)
    else .inr cNoComb

/-- −1, 0 or 1. -/
def cmpInt (x y : Int) : Int := if x < y then -1 else if x = y then 0 else 1

/-- "in" of R137: where a point lies to a SPAN. -/
def inSpan (p sp : Word) : Int :=
  let t := timeOf p
  if t < ((spanStart sp * 16 : Nat) : Int) then -1
  else if t < (((spanStart sp + spanLen sp) * 16 : Nat) : Int) then 0 else 1

/-- CMP of well-formed operands that are not both numbers (Table 4.9); none is no combination. -/
def timeCmp (a b : Word) : Option Int :=
  let ta := tagOf a
  let tb := tagOf b
  if isPoint a ∧ isPoint b then some (cmpInt (timeOf a) (timeOf b))
  else if isPoint a ∧ tb = tSpan then some (inSpan a b)
  else if ta = tSpan ∧ isPoint b then some (-(inSpan b a))
  else if ta = tSpan ∧ tb = tSpan then
    some (if spanStart a = spanStart b then cmpInt (spanLen a) (spanLen b) else cmpInt (spanStart a) (spanStart b))
  else if ta = tb ∧ (ta = tSym ∨ ta = tChan ∨ ta = tRegion) then some (cmpInt (pay a) (pay b))
  else none

/-- MIN and MAX exclude a point with a SPAN (R138). -/
def minMaxBars (a b : Word) : Bool := (isPoint a && tagOf b = tSpan) || (tagOf a = tSpan && isPoint b)

/-- Rules 1 to 5 of R130 but for customer tags: the cause of the first operand check that fails, `none` when all pass; a customer
operand before any failing check is reported by `some 0`. -/
def genericCause (a b : Word) : Option Nat :=
  if isReserved (tagOf a) ∨ isReserved (tagOf b) then some cReserved
  else if tagOf a = tUninit ∨ tagOf b = tUninit then some cUninit
  else if isCustomer (tagOf a) ∨ isCustomer (tagOf b) then some 0
  else if tagOf a = tFwd ∨ tagOf b = tFwd then some cNoComb
  else if malformed a ∨ malformed b then some cMalformed
  else none

/-! ### Logic and shifts (R207, R208) -/

/-- Shift of a 56-bit payload: 0 left, 1 arithmetic right, 2 logical right, by 0 to 63. -/
def shift56 (kind : Nat) (p n : Nat) : Nat :=
  if kind = 0 then (if 56 ≤ n then 0 else p * 2 ^ n % 2 ^ 56)
  else if kind = 1 then lowBits 56 (sx 56 p / ((2 ^ n : Nat) : Int))
  else p / 2 ^ n

end Sys2Proof.Machine
end

