-- ==== Sys2Proof/Machine/Cores.lean ====
section
/-! DEFINITION. Region owners, fills of an L2, page walks, TLBs and the translation of a core's access
(09_translation_and_caches.md). -/

namespace Sys2Proof.Machine

/-! ### World memory map (R255, R441) -/

/-- Owner of a physical page of 2^log bytes (Table 7.7). Addresses beyond installed memory pass for both worlds (R300). -/
def State.ownerAt (s : State) (pa log : Nat) : Nat :=
  if pa < 0x100000000000 then
    if s.stacks * stackSize ≤ pa then 3
    else if s.isCheck pa then 4
    else sget 0 (pa / 0x2000000) s.world.regions % 8
  else if pa < 0x200000000000 then 0
  else
    match s.world.windows.find? fun w => decide (w.1 ≤ pa ∧ pa + 2 ^ log ≤ w.1 + 2 ^ w.2.1) with
    | some w => w.2.2
    | none => 0

/-- World `w` may reach a region of this owner. -/
def reaches (w owner : Nat) : Bool := owner == 3 || owner == w + 1

/-- Every 32 MiB region that a leaf covers, or the window that holds it, may be reached (R307). -/
def State.leafReach (s : State) (w pa log : Nat) : Bool :=
  if pa < 0x100000000000 ∧ 25 < log then
    (List.range (2 ^ (log - 25))).all fun i => reaches w (s.ownerAt (pa + i * 0x2000000) 25)
  else reaches w (s.ownerAt pa log)

/-- An address lies in a world's hold heap, which is host-visible by default (R441). -/
def State.inHoldHeap (s : State) (pa : Nat) : Bool :=
  [0, 1].any fun w =>
    let b := sget 0 w s.world.holdBase
    decide (b ≤ pa ∧ pa < b + sget 0 w s.world.holdUnits * 0x2000000)

/-- A memory-class address is host-visible (R441, R442). -/
def State.hostSees (s : State) (pa : Nat) : Bool :=
  decide (pa < s.stacks * stackSize) && !s.isCheck pa && (bit (sget 0 (pa / 0x2000000) s.world.regions) 4 || s.inHoldHeap pa)

/-- Frame heap of a cluster and world: physical base and size (Table 15.8). -/
def State.frameSize (s : State) (k w : Nat) : Nat :=
  let n := sget 0 w s.world.frameLog
  if n = 0 ∨ s.world.frameLost.contains (w * 32 + k) then 0 else 2 ^ n

/-- Virtual base of the frame heap of cluster `k` (Table 4.2). -/
def frameVa (k : Nat) : Nat := 0x400000000000 + k * 0x100000000

def isFrameVa (va : Nat) : Bool := decide (0x400000000000 ≤ va ∧ va < 0x500000000000)
def isHoldVa (va : Nat) : Bool := decide (0x500000000000 ≤ va ∧ va < 0x600000000000)

/-- Physical address of a frame-heap address of a cluster and world. -/
def State.framePa (s : State) (k w va : Nat) : Nat := sget 0 (w * 32 + k) s.world.frameBase + (va - frameVa k)

/-- Physical address of offset `o` of a world's hold heap. -/
def State.holdPa (s : State) (w o : Nat) : Nat := sget 0 w s.world.holdBase + o

def blockSize : Nat := 0x2000000

/-- Blocks of a world's hold heap. -/
def State.holdBlocks (s : State) (w : Nat) : Nat := sget 0 w s.world.holdUnits

/-- Physical address of a heap address of a world, none outside its heaps. -/
def State.heapPa (s : State) (w va : Nat) : Option Nat :=
  if isHoldVa va then
    (if va - 0x500000000000 < s.holdBlocks w * blockSize then some (s.holdPa w (va - 0x500000000000)) else none)
  else if isFrameVa va then
    (let k := (va - 0x400000000000) / 0x100000000
     if k < 32 ∧ va - frameVa k < s.frameSize k w then some (s.framePa k w va) else none)
  else none

/-! ### L2 fills (R320 to R322) -/

/-- Allocate a way for a line that missed (R320, R322): none when every way is locked, retired or marked. Its data waits for a dirty
victim's eviction. -/
def State.l2Alloc (s : State) (k line : Nat) (dirty : Bool) : State :=
  let free := (List.range 16).filter fun w => !bit (s.lockMask k) w && (match s.l2At k line w with
    | some l => !l.mark
    | none => true)
  let empty := free.filter fun w => (s.l2At k line w).isNone
  let put := fun (s : State) (w : Nat) (behind : Option Nat) =>
    let s := s.l2Set k line w (some { line := line, dirty := dirty, mark := false, behind := behind, one := 0, two := 0, lost := 0 })
    if line * 64 < 0x100000000000 then s.track line else s
  match empty, free with
  | w :: _, _ => put s w none
  | [], [] => s
  | [], f :: fs =>
    let w := (f :: fs).getD (Config.victim s.free % (fs.length + 1)) f
    let s := s.useFree
    match s.l2At k line w with
    | none => put s w none
    | some v =>
      let s := (s.l2Set k line w none).l1Drop k v.line none
      if v.dirty then put (s.evictLine k v) w (some v.line) else put s w none

/-- A miss of a line is counted; it waits for an eviction of the line (R321), and other holders give up what they hold dirty (R329). -/
def State.l2Miss (s : State) (k line : Nat) (write : Bool) : State :=
  (((s.touchMem (line * 64)).bump (oCnt k 0x4118)).snoopOthers k line write).awaitEvict k line (s.evictions k)

/-- A cluster reads a line: a miss fills the L2 (R320). A line whose data waits for an eviction is waited for. -/
def State.l2Read (s : State) (k line : Nat) : State :=
  match (s.l2Find k line).bind (s.l2At k line) with
  | some x => match x.behind with
    | some v => s.awaitEvict k v (s.evictions k)
    | none => s
  | none => (s.l2Miss k line false).l2Alloc k line false

/-! ### TLBs (R310 to R314) -/

/-- Cluster-TLB set of an entry (R310). -/
def tlbSet (va log : Nat) : Nat :=
  let b := if log = 14 ∨ log = 25 ∨ log = 36 then log else log - 4
  va / 2 ^ (b + 4) % 128

/-- An entry translates an address of a world. -/
def TlbEnt.hits (e : TlbEnt) (w va : Nat) : Bool := e.world == w && decide (e.va ≤ va ∧ va < e.va + 2 ^ e.log)

/-- Put an entry into an L1 TLB of `n` entries; which entry goes is open. -/
def State.l1Tlb (s : State) (c : Nat) (fetch : Bool) (e : TlbEnt) : State :=
  let x := s.core c
  let l := if fetch then x.itlb else x.dtlb
  let n := if fetch then 32 else 64
  let l' := if n ≤ l.length then l.eraseIdx (Config.victim s.free % n) else l
  let l' := l' ++ [{ e with locked := false }]
  let s := s.useFree
  s.setCore c (if fetch then { x with itlb := l' } else { x with dtlb := l' })

/-- Put an entry into the cluster TLB: an unlocked way of its set goes when all 8 are in use. -/
def State.cluTlb (s : State) (k : Nat) (e : TlbEnt) : State :=
  let x := s.clu k
  let set := tlbSet e.va e.log
  let mine := x.tlb.filter fun a => a.1 == set
  let open_ := mine.filter fun a => !a.2.locked
  let tlb :=
    if mine.length < 8 then x.tlb
    else match open_ with
      | [] => x.tlb
      | a :: l => x.tlb.erase ((a :: l).getD (Config.victim s.free % (l.length + 1)) a)
  if s.field (oClu k 0x5000) 0 0 = 1 then s else (s.setClu k { x with tlb := tlb ++ [(set, e)] }).useFree

/-- A fault of an instruction word: class (Table 7.4), cause, DETAIL, and the faulting virtual address. -/
structure Flt where
  cls : Nat
  cause : Nat
  detail : Nat
  va : Nat
  deriving DecidableEq, Repr

def xItrans : Nat := 0x04
def xIdata : Nat := 0x05
def xIllegalInstr : Nat := 0x06
def xIllegalPair : Nat := 0x07
def xPrivileged : Nat := 0x08
def xIllegalOp : Nat := 0x09
def xTag : Nat := 0x0A
def xControlFlow : Nat := 0x0B
def xOverflow : Nat := 0x0C
def xUnderflow : Nat := 0x0D
def xSyscall : Nat := 0x0E
def xWorldCall : Nat := 0x0F
def xHeap : Nat := 0x10
def xAlign : Nat := 0x11
def xDtrans : Nat := 0x12
def xWalkBus : Nat := 0x13
def xWalkDevice : Nat := 0x14
def xDataError : Nat := 0x15
def xProvStore : Nat := 0x16
def xEscape : Nat := 0x17
def xForgery : Nat := 0x18

/-- A fault without address or detail. -/
def flt (cls cause : Nat) : Flt := { cls := cls, cause := cause, detail := 0, va := 0 }

/-- Word of a page-table walk (R302, R303). -/
def ptBase (w : Word) : Nat := bf w 45 14 * 2 ^ 14

/-- Index of an address in the table of a level, and log2 of what a leaf of the level maps (Table 9.2). -/
def walkIdx (va level : Nat) : Nat :=
  if level = 1 then va / 2 ^ 36 % 2048 else if level = 2 then va / 2 ^ 25 % 2048 else va / 2 ^ 14 % 2048
def walkLog (level : Nat) : Nat := if level = 1 then 36 else if level = 2 then 25 else 14

/-- What the walker finds in an entry that it has read, steps 3 to 5 of R307 and the leaf's own checks: a fault, a next table, or a
leaf entry. -/
def State.walkEntry (s : State) (w va level ea : Nat) (tr : Nat → Nat → Flt) : (Flt ⊕ Nat) ⊕ TlbEnt :=
  let log := walkLog level
  let e := mrdW ea s.mem
  if !reaches w (s.ownerAt ea 3) then .inl (.inl (tr 3 level))
  else if bf e 55 55 = 0 then .inl (.inl (tr 1 level))
  else
    let leaf := level = 3 ∨ bf e 54 54 = 0
    let bad := bf e 63 56 ≠ 0 ∨ bf e 49 46 ≠ 0 ∨ (level = 3 ∧ bf e 54 54 = 1) ∨
      (¬ leaf ∧ bf e 53 50 ≠ 0) ∨ (leaf ∧ ptBase e % 2 ^ log ≠ 0)
    if bad then .inl (.inl (tr 2 level))
    else if leaf then
      if s.leafReach w (ptBase e) log then
        let contig := bf e 53 53 = 1
        let big := if contig then log + 4 else log
        let vb := va / 2 ^ big * 2 ^ big
        let off := if contig then walkIdx va level % 16 * 2 ^ log else 0
        .inr { world := w, va := vb, log := big, pa := (ptBase e + 2 ^ 46 - off) % 2 ^ 46, u := bf e 52 52 == 1,
               w := bf e 51 51 == 1, x := bf e 50 50 == 1, locked := false }
      else .inl (.inl (tr 3 level))
    else .inl (.inr (ptBase e))

/-- One level of a walk (R306, R307): the entry is read through the L2. A table in a page-check region is of owner HARDWARE and is not
read (R300). A speculative walk records nothing (R274). -/
def State.walkLevel (s : State) (k w va level table : Nat) (tr : Nat → Nat → Flt) (spec : Bool) : State × ((Flt ⊕ Nat) ⊕ TlbEnt) :=
  let ea := table + 8 * walkIdx va level
  if 0x100000000000 ≤ table then (s, .inl (.inl { (tr 0 level) with cls := xWalkDevice }))
  else if s.stacks * stackSize ≤ ea then (s, .inl (.inl { (tr 2 level) with cls := xWalkBus }))
  else if s.isCheck ea then (s, .inl (.inl (tr 3 level)))
  else
    let s := s.probe k ea 1 k
    if (s.fillErr k ea).isSome then
      (if spec then s else s.busErrLog ea 1 k, .inl (.inl { (tr 1 level) with cls := xWalkBus }))
    else
      let s := s.l2Read k (ea / 64)
      (s, s.walkEntry w va level ea tr)

/-- The levels of a walk from a table on, `n + 1` of them. -/
def State.walkFrom (s : State) (k w va : Nat) (tr : Nat → Nat → Flt) (spec : Bool) (table : Nat) : Nat → State × (Flt ⊕ TlbEnt)
  | 0 => (s, .inl (tr 2 3))
  | n + 1 => match s.walkLevel k w va (3 - n) table tr spec with
    | (s, .inr e) => (s, .inr e)
    | (s, .inl (.inl f)) => (s, .inl f)
    | (s, .inl (.inr t)) => s.walkFrom k w va tr spec t n

/-- A walk (R302 to R309): `tr cause level` is the fault of the access. -/
def State.walk (s : State) (k w va : Nat) (tr : Nat → Nat → Flt) (spec : Bool) : State × (Flt ⊕ TlbEnt) :=
  let s := s.bump (oCnt k 0x4108)
  let ttb := s.reg (oClu k (0x4000 + w * 8))
  if bf ttb 63 63 = 0 then (s, .inl (tr 6 1)) else s.walkFrom k w va tr spec (ptBase ttb) 3

/-- Walk until no TLBI has come between (R313): a fill of an older generation is discarded and counted, and the fifth attempt answers
the access alone. The Boolean says whether the TLBs are filled. -/
def State.walkFill (s : State) (k w va : Nat) (tr : Nat → Nat → Flt) (spec : Bool) : Nat → State × (Flt ⊕ (TlbEnt × Bool))
  | 0 => (s, .inl (tr 1 1))
  | n + 1 =>
    let g := (s.clu k).gen
    match s.walk k w va tr spec with
    | (s, .inl f) => (s, .inl f)
    | (s, .inr e) =>
      if (s.clu k).gen = g then (s, .inr (e, true))
      else if n = 0 then (s, .inr (e, false))
      else (s.bump (oCnt k 0x4110)).walkFill k w va tr spec n

/-- Translation fault of an access (R308, R309). -/
def accFault (acc : Access) (va cause level : Nat) : Flt :=
  { cls := if acc = .fetch then xItrans else xDtrans, cause := cause,
    detail := level + (if acc = .store then 4 else 0), va := va % 2 ^ 47 }

/-- The permission check of R304. -/
def TlbEnt.allows (e : TlbEnt) (acc : Access) (sup : Bool) : Bool :=
  (sup || e.u) && (match acc with
    | .fetch => e.x
    | .load => true
    | .store => e.w)

/-- The entry that translates an address: L1 TLB, cluster TLB, or a walk that fills both (R310, R313). -/
def State.lookup (s : State) (c w : Nat) (acc : Access) (va : Nat) (spec : Bool) : State × (Flt ⊕ TlbEnt) :=
  let x := s.core c
  let k := cluOf c
  match (if acc = .fetch then x.itlb else x.dtlb).find? fun e => e.hits w va with
  | some e => (s, .inr e)
  | none =>
    match (s.clu k).tlb.find? fun e => e.2.hits w va with
    | some e => ((s.spend c 8).l1Tlb c (decide (acc = .fetch)) e.2, .inr e.2)
    | none =>
      let s := s.bump (oCnt k 0x4100)
      match s.walkFill k w va (accFault acc va) spec 5 with
      | (s, .inl f) => (s.stall c, .inl f)
      | (s', .inr (e, fill)) =>
        let levels : Nat := if e.log < 20 then 3 else if e.log < 31 then 2 else 1
        let s' := s'.spend c (12 + 18 * levels)
        let s' := if s'.reg (oCnt k 0x4118) = s.reg (oCnt k 0x4118) then s' else s'.stall c
        (if fill then (s'.cluTlb k e).l1Tlb c (decide (acc = .fetch)) e else s', .inr e)

/-- Translate an access of a core in world `w` at a level (R307, R308). -/
def State.translate (s : State) (c w : Nat) (sup : Bool) (acc : Access) (va : Nat) : State × (Flt ⊕ Nat) :=
  match s.lookup c w acc va false with
  | (s, .inl f) => (s, .inl f)
  | (s, .inr e) =>
    if e.allows acc sup then (s, .inr ((e.pa + (va - e.va)) % 2 ^ 46))
    else (s, .inl (accFault acc va 4 0))

end Sys2Proof.Machine
end

