-- ==== Sys2Proof/Machine/QueueOps.lean ====
section
/-! DEFINITION. Queues (R444 to R454), event records (R459), host-assisted work items (R466) and interrupt sources (R237). -/

namespace Sys2Proof.Machine

def oQcfg (q : Nat) : Nat := oQue (0x100000 + q * 0x40)
def oQbase (q : Nat) : Nat := oQue (0x100008 + q * 0x40)
def oQidx (q : Nat) : Nat := oQue (0x100010 + q * 0x40)
def oQbind (q : Nat) : Nat := oQue (0x100018 + q * 0x40)

/-- Type of a queue (Table 14.3), 0 none. -/
def State.qType (s : State) (q : Nat) : Nat := s.field (oQcfg q) 62 60
/-- STATE of a queue: 0 DISABLED, 1 ACTIVE, 2 ERROR. -/
def State.qState (s : State) (q : Nat) : Nat := s.field (oQcfg q) 31 30
def State.qDepth (s : State) (q : Nat) : Nat := 2 ^ (s.field (oQcfg q) 59 55)
def State.qDev (s : State) (q : Nat) : Nat := s.field (oQidx q) 63 32
def State.qHost (s : State) (q : Nat) : Nat := s.field (oQidx q) 31 0
/-- Physical address of the entry of index `i`. -/
def State.qAddr (s : State) (q i : Nat) : Nat := s.field (oQbase q) 45 12 * 4096 + (i % s.qDepth q) * 64
/-- Completion queue of a MGMT or BULK queue. -/
def State.qCq (s : State) (q : Nat) : Nat := s.field (oQbind q) 14 0

/-- Difference of two 32-bit indexes (R449). -/
def idxSub (a b : Nat) : Nat := (a + 2 ^ 32 - b % 2 ^ 32) % 2 ^ 32

/-- The ACTIVE queues of one type, in ascending order. -/
def State.activeQueues (s : State) (ty : Nat) : List Nat :=
  s.regs.filterMap fun e =>
    if oQue 0x100000 ≤ e.1 ∧ e.1 < oQue 0x300000 ∧ e.1 % 0x40 = 0 ∧ bf e.2 31 30 = 1 ∧ bf e.2 62 60 = ty then
      some ((e.1 - oQue 0x100000) / 0x40)
    else none

/-- A queue that some enabled MGMT or BULK queue names as completion queue is device-produced (R448). -/
def State.isCq (s : State) (q : Nat) : Bool := (s.activeQueues 6 ++ s.activeQueues 7).any fun j => s.qCq j == q

/-- The device writes the entries of the queue (Table 14.3, R448). -/
def State.devProduced (s : State) (q : Nat) : Bool :=
  let t := s.qType q
  t == 1 || t == 2 || t == 4 || t == 5 || (t == 3 && s.isCq q)

/-- The ring has no room (R453). -/
def State.qFull (s : State) (q : Nat) : Bool := decide (s.qDepth q ≤ idxSub (s.qDev q) (s.qHost q))

/-- PHASE of entry `i` (R453). -/
def State.qPhase (s : State) (q i : Nat) : Nat := (i / s.qDepth q + 1) % 2

/-- Write one entry of an ACTIVE queue with room; its PHASE goes into bit 63 of word 0 (R453). -/
def State.qPut (s : State) (q : Nat) (ws : List Word) : State :=
  let i := s.qDev q
  let w0 := setBf (ws.headD 0) 63 63 (s.qPhase q i)
  let s := s.memPut (s.qAddr q i) (w0 :: (List.range 7).map fun k => ws.getD (k + 1) 0)
  let s := s.setQueue q { s.queue q with fresh := (s.queue q).fresh ++ [(i, s.now)] }
  s.setField (oQidx q) 63 32 ((i + 1) % 2 ^ 32)

/-- Count a dropped entry; DROPS saturates (Table 14.16). -/
def State.qDrop (s : State) (q : Nat) : State :=
  s.setField (oQcfg q) 15 0 (min 0xFFFF (s.field (oQcfg q) 15 0 + 1))

/-- Write an entry, or drop it and count it when the ring is full (Table 14.3). -/
def State.qPutOrDrop (s : State) (q : Nat) (ws : List Word) : State :=
  if s.qState q ≠ 1 then s else if s.qFull q then s.qDrop q else s.qPut q ws

/-- Send a record to every ACTIVE queue of a type (R445). -/
def State.qBroadcast (s : State) (ty : Nat) (ws : List Word) : State :=
  (s.activeQueues ty).foldl (fun s q => s.qPutOrDrop q ws) s

/-- An event record (R459). -/
def State.event (s : State) (code unit : Nat) (ws : List Word) : State :=
  s.qBroadcast 5
    ((setBf (setBf (setBf 0 62 59 7) 55 40 code) 31 0 unit) :: (BitVec.ofNat 64 (devUnits s.now % 2 ^ 56)) :: ws)

/-! ### Interrupt sources (Table 7.3) -/

def irqTimer : Nat := 1
def irqQueue : Nat := 2
def irqError : Nat := 3
def irqCaston : Nat := 4
def irqBindoff : Nat := 5

/-- Raise TIMER or QUEUE in one context; those of context 0 also serve the core's fast-interrupt bank (R238), which keeps its own
pending bits at 10000 + core. -/
def State.raiseCtx (s : State) (ctx code : Nat) : State :=
  let l := sset 0 ctx (orBit (sget 0 ctx s.irqs) code) s.irqs
  let b := 10000 + ctx / 4
  { s with irqs := if ctx % 4 = 0 then sset 0 b (orBit (sget 0 b l) code) l else l }

/-! ### Host-assisted work items -/

/-- Word 0 of a work item (Table 14.8). -/
def haWord0 (f op job unit : Nat) : Word :=
  setBf (setBf (setBf (setBf (setBf 0 62 59 6) 58 56 f) 55 52 op) 47 24 job) 23 0 unit

/-- Write one work item into the function's HA_SUB queue and count it outstanding. -/
def State.haPut (s : State) (f : Nat) (j : HaJob) : State :=
  let q := s.field (oQue (f * 0x10)) 61 47
  let s := s.qPut q (haWord0 f j.op j.job j.unit :: j.words)
  s.setHa f { s.haFn f with out := (s.haFn f).out ++ [{ j with sent := s.now }] }

/-- Send a work item of function `f`; it waits while the queue is full (R467). A work item whose queue is no longer ACTIVE is
outstanding and gets no reply. -/
def State.haSend (s : State) (f op unit : Nat) (deadline : Option Time) (ws : List Word) : State :=
  let h := s.haFn f
  let j : HaJob := { job := h.next, unit := unit, sent := s.now, deadline := deadline, op := op, words := ws, base := s.frame.start }
  let s := s.setHa f { h with next := (h.next + 1) % 2 ^ 24 }
  let q := s.field (oQue (f * 0x10)) 61 47
  if s.qState q = 1 ∧ s.qFull q then s.setHa f { s.haFn f with stalled := (s.haFn f).stalled ++ [j] }
  else if s.qState q = 1 then s.haPut f j
  else s.setHa f { s.haFn f with out := (s.haFn f).out ++ [j] }

/-- Core clock cycles of cluster `k` in `t` ticks, at its STEP or throttled to 1.0 GHz (R506 to R508). -/
def State.coreCycles (s : State) (k t : Nat) : Nat :=
  let step := if s.pwr.throttled then 0 else bf (s.effNow (oPwr (0x400 + k * 8))) 57 56
  t * (2 + step) / 256000

/-- Device clock cycles of the unit that waited on function `f`: stitch, row, masthead, or core (R467). -/
def State.haCycles (s : State) (f unit t : Nat) : Nat :=
  if f = 0 ∨ f = 6 then t / stitchT
  else if f = 1 then t / rowT
  else if f = 3 then t / mastT
  else s.coreCycles (unit / 2 ^ 19) t

/-- Items of function `f` that waited enter its queue while there is room; the wait is counted (R467). -/
def State.haUnstall (s : State) (f : Nat) : State :=
  match (s.haFn f).stalled with
  | [] => s
  | j :: rest =>
    let q := s.field (oQue (f * 0x10)) 61 47
    if s.qState q = 1 ∧ s.qFull q = false then
      let s := s.setHa f { s.haFn f with stalled := rest }
      let s := s.bumpN (oQue 0x218) (s.haCycles f j.unit (s.now - j.sent))
      s.haPut f j
    else s

/-- Drop every outstanding and waiting item of function `f` that `p` selects: its replies are stale from then on (R466). -/
def State.haForget (s : State) (f : Nat) (p : HaJob → Bool) : State :=
  let h := s.haFn f
  s.setHa f { h with out := h.out.filter fun j => !p j, stalled := h.stalled.filter fun j => !p j }

/-- The outstanding job that a reply names; `none` makes the reply stale. -/
def State.haFind (s : State) (f : Nat) (reply : List Word) : Option HaJob :=
  (s.haFn f).out.find? fun j => j.job == bf (reply.headD 0) 47 24 && bf (reply.headD 0) 58 56 == f

/-- The device takes the next reply of function `f` from its completion queue (R449, R452). -/
def State.cqTake (s : State) (f : Nat) : State :=
  let q := s.field (oQue (f * 0x10)) 46 32
  if s.qState q = 1 ∧ s.qDev q ≠ s.qHost q then
    let s := s.setQueue q { s.queue q with fresh := (s.queue q).fresh ++ [(s.qDev q, s.now)] }
    s.setField (oQidx q) 63 32 ((s.qDev q + 1) % 2 ^ 32)
  else s

/-- Take a job out of the outstanding ones. -/
def State.haDone (s : State) (f job : Nat) : State :=
  s.setHa f { s.haFn f with out := (s.haFn f).out.filter fun j => j.job != job }

/-- A stale reply is counted (R466). -/
def State.haStale (s : State) : State := s.bump (oQue 0x210)

end Sys2Proof.Machine
end

