-- ==== Sys2Proof/Machine/Port.lean ====
section
/-! DEFINITION. Front-end ports, the Lenol link and the stitch engines (02_ports_and_stitches.md): operations. -/

namespace Sys2Proof.Machine

/-! ### Blocks and descriptors -/

/-- One step of the CRC-8 x^8 + x^2 + x + 1 over one payload bit (R44). -/
def crc8Step (c : Nat) (b : Bool) : Nat :=
  let f := Nat.xor (c / 128) (b2n b)
  Nat.xor ((c * 2) % 256) (if f = 1 then 7 else 0)

/-- CRC-8 over payload bits 63 down to 8 (R44). -/
def crc8 (w : Word) : Nat := (List.range 56).foldl (fun c i => crc8Step c (bit w.toNat (63 - i))) 0

/-- A block with its CRC-8 put into [7:0]. -/
def withCrc8 (w : Word) : Word := setBf w 7 0 (crc8 w)

/-- The format descriptor in effect of a port (R58). -/
def State.descA (s : State) (p : Nat) : Word := s.effNow (oFmt (bf (s.effNow (oPort p 0)) 11 8 * 0x10))
def State.descB (s : State) (p : Nat) : Word := s.effNow (oFmt (bf (s.effNow (oPort p 0)) 11 8 * 0x10 + 8))

/-- MODE of a descriptor: 0 OFF, 1 HIT, 2 READOUT. -/
def dMode (a : Word) : Nat := bf a 63 62
def dHpb (a : Word) : Nat := bf a 61 61
def dCheck (a : Word) : Nat := bf a 60 60
def dCount (a : Word) : Nat := bf a 59 52
def dChanPos (a : Word) : Nat := bf a 51 46
def dChanW (a : Word) : Nat := bf a 45 43
def dValPos (a : Word) : Nat := bf a 42 37
def dValW (a : Word) : Nat := bf a 36 33
def dRsh (a : Word) : Nat := bf a 32 30
def dTimePos (a : Word) : Nat := bf a 29 24
def dTimeW (a : Word) : Nat := bf a 23 19
def dUnit (a : Word) : Nat := bf a 18 15
def dOfs (b : Word) : Int := sx 24 (bf b 63 40)
def dStride (b : Word) : Nat := bf b 39 34
def dValid2 (b : Word) : Nat := bf b 33 27
def dFcMask (b : Word) : Nat := bf b 26 19

/-- A field of width `w` at `pos` lies outside the bits it may use (R59). -/
def fieldBad (pos w low : Nat) : Bool := decide (w ≠ 0 ∧ (64 < pos + w ∨ pos < low))

/-- A descriptor is invalid (R59). -/
def descBad (a b : Word) : Bool :=
  let low := if dCheck a = 1 then 8 else 0
  let fields := [(dChanPos a, dChanW a), (dValPos a, dValW a), (dTimePos a, dTimeW a)]
  fields.any (fun f => fieldBad f.1 f.2 low) ||
  (dHpb a == 1 && fields.any (fun f => decide (f.2 ≠ 0 ∧ f.1 < low + dStride b))) ||
  decide (dValid2 b ≠ 127 ∧ 64 ≤ dValid2 b) || decide (28 < dTimeW a + dUnit a) || decide (dTimeW a < 8) ||
  decide (dCount a = 0 ∨ 128 < dCount a)

/-- The port's descriptor in effect makes it a hit port, or a readout port. -/
def State.isHit (s : State) (p : Nat) : Bool := dMode (s.descA p) == 1
def State.isReadout (s : State) (p : Nat) : Bool := dMode (s.descA p) == 2

/-- A field of a data block, hit 2 lying STRIDE bits below hit 1 (R60). -/
def blockField (blk pos w : Nat) : Nat := (blk >>> pos) % 2 ^ w

/-- Time field of hit 1 or hit 2 of a data block. -/
def hitRaw (a b : Word) (blk : Word) (second : Bool) : Nat :=
  blockField blk.toNat (dTimePos a - (if second then dStride b else 0)) (dTimeW a)

/-- Hit 2 is present (R60). -/
def hit2Present (a b : Word) (blk : Word) : Bool :=
  dHpb a == 1 && (dValid2 b == 127 || bit blk.toNat (dValid2 b))

/-- Widening of a time field to full device time (R51). -/
def widen (arr raw w u : Nat) : Int :=
  let m : Int := ((2 ^ (w + u) : Nat) : Int)
  (arr : Int) - (((arr : Int) - ((raw * 2 ^ u : Nat) : Int)) % m)

/-- Correction of a port's times (R51): active TCORR and PHASE, and the descriptor's offset. -/
def State.corr (s : State) (p : Nat) : Int :=
  sx 24 (bf (s.effReg (oPort p 0x18)) 23 0) + roundDiv (sx 12 (bf (s.effReg (oPort p 0x30)) 11 0) * 1500) 15625
    + dOfs (s.descB p)

/-- Corrected device time of an elastic-buffer entry, by its first hit still to be taken (R67). -/
def State.entryTime (s : State) (p : Nat) (e : Elastic) : Int :=
  let a := s.descA p
  if e.data then widen e.arr (hitRaw a (s.descB p) e.block e.hit2) (dTimeW a) (dUnit a) + s.corr p
  else widen e.arr (bf e.block 55 28) 28 0 + s.corr p

/-- Start and end of the current or last frame in 15.625 ps units. -/
def State.startFine (s : State) : Int := ((s.frame.start / 16 : Nat) : Int)
def State.stopFine (s : State) : Int := s.startFine + (s.lenL : Int)

/-! ### What the row hears from a stitch -/

/-- Insert by due time, behind what is due at the same time. -/
def insertDue (e : Time × Nat × RowIn) : List (Time × Nat × RowIn) → List (Time × Nat × RowIn)
  | [] => [e]
  | d :: l => if d.1 ≤ e.1 then d :: insertDue e l else e :: d :: l

/-- A stream event sets out to row `r` and arrives `cycles` stitch cycles later. -/
def State.toRow (s : State) (r stream cycles : Nat) (x : RowIn) : State :=
  let w := s.row r
  s.setRow r { w with inbox := insertDue (s.now + cycles * stitchT, stream, x) w.inbox }

/-- Port p is stream p mod 16 of row p / 16 (R85). -/
def State.portToRow (s : State) (p cycles : Nat) (x : RowIn) : State := s.toRow (p / 16) (p % 16) cycles x

/-! ### Fast commands (R73 to R77, R592) -/

/-- Argument of a software command: FE_RESET carries zero (Table 2.8). -/
def softArg (code arg : Nat) : Nat := if code = 0x0B then 0 else arg

/-- The device sends a command of class `rank` in this link state (R592). Classes: 0 decision, 1 SYNC, 2 ECHO, 3 CAL_PULSE,
4 FE_RESET, 5 CUSTOM. -/
def sendable (l : Link) (rank : Nat) : Bool :=
  if rank = 0 then l == .up
  else if rank = 1 then l == .sync
  else if rank = 2 then l == .measure || l == .ready || l == .up
  else l == .ready || l == .up

/-- Reference time in ticks of block `j` of a port whose phase is `ph` steps of 1.5 ps (R74). -/
def refTicks (j ph : Int) : Int := j * 327680 + ph * 192

/-- The active phase of a port. -/
def State.phase (s : State) (p : Nat) : Int := sx 12 (bf (s.effReg (oPort p 0x30)) 11 0)

/-- The block numbers that a command of effective time `teff` (ticks) may take, latest first (R75). -/
def blockWindow (teff ph : Int) : List Int :=
  let j0 := (teff - ph * 192) / 327680
  ((List.range 26).map fun i => j0 - (i : Int)).filter fun j => decide (teff - 65535 * 125 ≤ refTicks j ph)

/-- Command `c` outranks command `d` for a block: lower class, or the earlier effective time within a class (R75). -/
def outranks (rank : Nat) (teff : Int) (d : FastCmd) : Bool :=
  decide (rank < d.rank) || (rank == d.rank && decide (teff < d.teff))

/-- Give a command its block; a displaced command is scheduled again (R75). -/
def State.placeCmd (fuel : Nat) (s : State) (p rank : Nat) (teff : Int) (code arg : Nat) (soft : Bool) : State :=
  match fuel with
  | 0 => s
  | fuel + 1 =>
    let x := s.port p
    let ph := s.phase p
    let ok := fun (j : Int) => decide ((s.now : Int) ≤ refTicks j ph) &&
      x.cmds.all (fun d => d.ref != j || outranks rank teff d)
    match (blockWindow teff ph).find? ok with
    | none => (s.bump (oPort p 0x150)).err 1 0 p 5 (code % 64)
    | some j =>
      let c : FastCmd := { rank := rank, ref := j, teff := teff, code := code, arg := arg,
                           fine := lowBits 16 (roundDiv (teff - refTicks j ph) 125), phase := ph, soft := soft }
      let out := x.cmds.filter fun d => d.ref == j
      let s := s.setPort p { x with cmds := c :: x.cmds.filter (fun d => d.ref != j) }
      out.foldl (fun s d => s.placeCmd fuel p d.rank d.teff d.code d.arg d.soft) s

/-- Issue a command; more often than there are commands nothing is displaced. -/
def State.sendCmd (s : State) (p rank : Nat) (teff : Int) (code arg : Nat) (soft : Bool) : State :=
  if sendable (s.port p).link rank then s.placeCmd ((s.port p).cmds.length + 2) p rank teff code arg soft
  else s.bump (oPort p 0x150)

/-! ### Closing a stitch and changing the link state -/

/-- Corrected times of what a port holds: blocks gathered for the host, words of its replies, buffered blocks. -/
def State.heldTimes (s : State) (p : Nat) : List Int :=
  let x := s.port p
  x.gathered.map (s.entryTime p) ++ x.held.map (·.1) ++ x.buf.map (s.entryTime p)

/-- Count the blocks of an elastic buffer that leave it with the port (R67). -/
def State.emptyBuf (s : State) (p : Nat) : State :=
  let s := (s.heldTimes p).foldl (fun s t =>
    if s.frame.count ≠ 0 ∧ t < s.stopFine then s.bump (oPort p 0x140) else s.bump (oPort p 0x138)) s
  s.setPort p { s.port p with buf := [], gathered := [], held := [] }

/-- The row's reef bit and PRT_STATUS.REEF are set (R55, R57, R104). -/
def State.portReef (s : State) (p : Nat) : State := (s.sticky (p / 16)).setField (oPort p 8) 7 7 1

/-- Close the stitch of a port that stays UP: drop the buffered blocks of the frame (R67) and report E(n), behind the hits that are
still in the pipeline (R63, R94). -/
def State.closeStitch (s : State) (p : Nat) : State :=
  let x := s.port p
  let stays := fun (e : Elastic) => !decide (s.entryTime p e < s.stopFine)
  let late := (s.heldTimes p).filter fun t => decide (t < s.stopFine)
  let s := s.setPort p { x with closed := true, buf := x.buf.filter stays, gathered := x.gathered.filter stays,
                                held := x.held.filter fun w => !decide (w.1 < s.stopFine) }
  let s := s.bumpN (oPort p 0x140) late.length
  s.portToRow p 5 .close

/-- A port leaves UP (R54 to R56, R82). `quiet`: software or a stitch failure caused it, so no record of R55 is written. -/
def State.departUp (s : State) (p : Nat) (quiet : Bool) : State :=
  let x := s.port p
  let s := s.bump (oPort p 0x158)
  if s.isReadout p then
    match x.sending with
    | some (st, sq, t) => if s.now < t then s.errWith 1 0 p 7 noSlot st sq 0 0 none else s
    | none => s
  else
    let s := if s.castOn then
        let s := if x.closed then s else (s.portReef p).portToRow p 5 .close
        if quiet then s else s.err 1 0 p 1 0
      else s
    let s := s.setPort p { s.port p with closed := true }
    s.emptyBuf p

/-- Commands that the new state does not send are discarded and counted (R592). -/
def State.discardCmds (s : State) (p : Nat) (l : Link) : State :=
  let x := s.port p
  let gone := x.cmds.filter fun c => !sendable l c.rank
  (s.setPort p { x with cmds := x.cmds.filter fun c => sendable l c.rank }).bumpN (oPort p 0x150) gone.length

/-- First block reference of a port at least 1 µs after now, in ticks (R79). -/
def State.firstEcho (s : State) (p : Nat) : Int :=
  let ph := s.phase p
  let want : Int := (s.now : Int) + 128000000
  let j := (want - ph * 192 + 327679) / 327680
  refTicks j ph

/-- A calibration run begins (R79). -/
def State.calBegin (s : State) (p : Nat) : State :=
  let s := s.setPort p { s.port p with
    calRun := true, calRound := 1, calSent := 0, calNext := s.firstEcho p, echoes := [], rtts := [], calReq := false }
  s.setField (oPort p 0x28) 58 56 1

/-- Code of PORT_STATE (Table 14.6). -/
def State.portEvent (s : State) (p : Nat) : State :=
  s.event 3 p [BitVec.ofNat 64 (s.port p).link.code]

/-- Block of a port with nothing else to send (Tables 2.3, 2.4): TRAIN with the port number and ACK while the port trains. -/
def fillerOf (p : Nat) (l : Link) (ack : Bool) : Option Word :=
  match l with
  | .off => none
  | .acquire => some (withCrc8 (setBf (setBf 0 63 56 0x1B) 48 40 p))
  | .train => some (withCrc8 (setBf (setBf (setBf 0 63 56 0x1B) 48 40 p) 8 8 (b2n ack)))
  | _ => some (withCrc8 (setBf 0 63 56 0x0F))

/-- Enter a link state (Table 2.4). Departures from UP are counted and reported here. DESIGN CHOICE (log
entry 101): RESULT of a run that ends so stays RUNNING. -/
def State.enter (s : State) (p : Nat) (l : Link) (quiet : Bool) : State :=
  let s := if (s.port p).link = .up ∧ l ≠ .up then s.departUp p quiet else s
  let s := s.discardCmds p l
  let x := s.port p
  let x := { x with link := l, since := s.now, filler := fillerOf p l false }
  let hit := s.isHit p
  let s := s.setPort p (match l with
    | .off => { x with trainRx := 0, trainAck := 0, ackAt := none, calRun := false, echoes := [], delay := none }
    | .acquire => { x with trainRx := 0, trainAck := 0, ackAt := none, syncs := 0, syncEff := none, calRun := false,
                           echoes := [] }
    | .train => { x with trainRx := 0, trainAck := 0, ackAt := none, delay := none }
    | .sync => { x with syncs := 0, syncEff := none, calRun := false, echoes := [] }
    | .up => { x with credits := 0, scOut := if hit then none else x.scOut,
                      sent := (match hit, x.scOut with
                        | true, some w => [(true, w)]
                        | _, _ => x.sent) }
    | .dead => { x with calRun := false, echoes := [], checked := false }
    | _ => x)
  let s := if l = .measure then s.calBegin p else s
  s.portEvent p

/-- The ports below `p` with MODE READOUT: the first 64 in ascending order are readout ports (R80). -/
def State.countReadout (s : State) (p : Nat) : Nat :=
  ((List.range p).filter fun q => dMode (s.descA q) == 2).length

/-- The port asks for READOUT beyond the 64th (R80). -/
def State.roRefused (s : State) (p : Nat) : Bool := dMode (s.descA p) == 2 && decide (64 ≤ s.countReadout p)

/-- MODE_REFUSED and READOUT show what the descriptor in effect makes of the port (R80). -/
def State.reshow (s : State) (p : Nat) : State :=
  (s.setField (oPort p 8) 5 5 (b2n (dMode (s.descA p) == 2 && !s.roRefused p))).setField (oPort p 8) 4 4 (b2n (s.roRefused p))

/-- Show the mode; each new refusal writes a record (R80). -/
def State.showMode (s : State) (p : Nat) : State :=
  (if s.roRefused p ∧ s.field (oPort p 8) 4 4 = 0 then s.err 1 0 p 6 0 else s).reshow p

/-- The port may leave OFF (Table 2.4, R41, R80): ENABLE, a descriptor with a MODE, its engine and its row HOT (R501), and not
refused as a 65th readout port. -/
def State.mayLeaveOff (s : State) (p : Nat) : Bool :=
  s.boot.warm && s.field (oPort p 0) 0 0 == 1 && dMode (s.descA p) != 0 && s.inService (64 + p / 32) && s.rowIn (p / 16) &&
    !s.roRefused p

/-- A port in OFF leaves it when it may: to DEAD while FORCE_DEAD or a stitch failure holds it, else to ACQUIRE (R56). A refused
port shows that it is. -/
def State.tryLeaveOff (s : State) (p : Nat) : State :=
  if (s.port p).link = .off ∧ s.mayLeaveOff p then
    let s := s.showMode p
    if (s.port p).failed ∨ s.field (oPort p 0) 1 1 = 1 then s.enter p .dead true else s.enter p .acquire true
  else if (s.port p).link = .off ∧ s.field (oPort p 0) 0 0 = 1 ∧ s.roRefused p then s.showMode p
  else s

/-- A stitch failure (R581). -/
def State.stitchFail (s : State) (p : Nat) : State :=
  let s := s.err 2 0 p 8 0
  let s := s.setPort p { s.port p with failed := true }
  let s := if s.castOn then s.portReef p else s
  if (s.port p).link = .off then s else s.enter p .dead true

/-! ### The entry stage (R66 to R68) -/

/-- What the entry stage of a closed stitch does with a block (R67). -/
inductive Judge where
  | late
  | gap
  | store
  deriving DecidableEq, Repr

/-- Judge a block of a closed stitch by its corrected time (R67). -/
def State.judge (s : State) (p : Nat) (e : Elastic) : Judge :=
  let t := s.entryTime p e
  if s.frame.count ≠ 0 ∧ t < s.stopFine then .late
  else match s.frame.next with
    | some n => if t < ((n / 16 : Nat) : Int) then .gap else .store
    | none => if t + 8192 ≤ (e.arr : Int) then .gap else .store

/-- Put a block into the elastic buffer: a TICK overwrites a newest TICK (R68); a full buffer discards the block (R36). -/
def State.bufPut (s : State) (p : Nat) (e : Elastic) : State :=
  let x := s.port p
  let tickLast := match x.buf.getLast? with
    | some l => !l.data
    | none => false
  if !e.data && tickLast then s.setPort p { x with buf := x.buf.dropLast ++ [e] }
  else if x.buf.length < 3125 then s.setPort p { x with buf := x.buf ++ [e] }
  else
    let s := s.bump (oPort p 0x148)
    if x.ovfRec then s else (s.setPort p { s.port p with ovfRec := true }).err 1 0 p 3 0

/-- A valid data block or TICK at the entry stage (R66, R67). The stitch of a DEAD port is closed: it counts the late and gap hits
that reach it and stores none (R29, R21). -/
def State.entryStage (s : State) (p : Nat) (e : Elastic) : State :=
  let x := s.port p
  if x.link = .up ∧ x.closed = false then s.bufPut p e
  else if x.link = .up ∨ x.link = .ready ∨ x.link = .dead then
    match s.judge p e with
    | .late => s.bump (oPort p 0x140)
    | .gap => s.bump (oPort p 0x138)
    | .store => if x.link = .dead then s else s.bufPut p e
  else s

/-- The port holds block lock and can receive blocks. -/
def PortSt.hears (x : PortSt) : Bool := x.link != .off && x.link != .acquire

/-! ### Stitch pipeline (Table 2.7) -/

/-- AUTOMASKED of a channel has just been set (R11). -/
def State.raiseChan (s : State) (g : Nat) : State := { s with raised := sset 0 ((2 ^ 32 + g) * 64 + 63) (s.now + 1) s.raised }

/-- Channel stage of one hit (R65, R70 to R72): masking, counting, and the HIT word sent to the row. DESIGN CHOICE (log entry
100): an auto-masked channel drops its hits while NOISE_MAX is 0 as well. -/
def State.channelStage (s : State) (p chan val : Nat) (tf : Nat) (cycles : Nat) : State :=
  if dCount (s.descA p) ≤ chan then s.bump (oPort p 0x128)
  else
    let g := p * 128 + chan
    let e := sget 0 g s.regionA
    let c := s.chan g
    if bf e 31 31 = 0 then s.setChan g { c with masked := min (2 ^ 24 - 1) (c.masked + 1) }
    else
      let cfg := s.reg (oFmt 0x128)
      let max := bf cfg 47 32
      let win := tf / (64000 * 2 ^ (bf cfg 11 8))
      let n := if max = 0 then c.cnt else (if c.win = win then c.cnt else 0) + 1
      let c := if max = 0 then c else { c with win := win, cnt := n }
      let trip := decide (max ≠ 0 ∧ max < n) && bf e 30 30 == 0 && !c.auto
      let s := if trip ∧ c.told = false then s.err 1 0 p 4 chan else s
      let s := if trip then s.raiseChan g else s
      let c := { c with auto := c.auto || trip, told := c.told || trip }
      if c.auto ∧ bf e 30 30 = 0 then s.setChan g { c with masked := min (2 ^ 24 - 1) (c.masked + 1) }
      else if val < bf e 27 16 then s.setChan g { c with supp := min (2 ^ 24 - 1) (c.supp + 1) }
      else
        let s := s.setChan g { c with fwd := min (2 ^ 48 - 1) (c.fwd + 1) }
        let s := s.bump (oPort p 0x108)
        s.portToRow p cycles (.hit (mkTag 0x10 (val * 2 ^ 44 + g * 2 ^ 28 + tf % 2 ^ 28)) (bf e 11 0))

/-- Class of a corrected time (R64). -/
inductive Class where
  | order
  | gap
  | close
  | pass
  deriving DecidableEq, Repr

/-- The classify stage (R64). -/
def State.classify (s : State) (p : Nat) (t : Int) : Class :=
  let behind := match (s.port p).portTime with
    | some pt => decide (t < pt)
    | none => false
  if behind then .order
  else if t < s.startFine then .gap
  else if s.stopFine ≤ t then .close
  else .pass

/-- The largest corrected time so far is the port time (R50). -/
def State.advance (s : State) (p : Nat) (t : Int) : State := s.setPort p { s.port p with portTime := some t }

/-- Report the port time to the row (R63); a closed stitch reports E(n) (R64). -/
def State.reportTime (s : State) (p cycles : Nat) : State :=
  match (s.port p).portTime with
  | some t => s.portToRow p cycles (.time (((t - s.startFine) * 16).toNat))
  | none => s

/-- The stitch closes by rule 3 of R64; the block stays at the head of the buffer. -/
def State.closeByTime (s : State) (p : Nat) (e : Elastic) (cycles : Nat) : State :=
  let x := s.port p
  (s.setPort p { x with closed := true, buf := e :: x.buf.drop 1 }).portToRow p cycles .close

/-- One hit of a block; answers whether the block closes the stitch. -/
def State.oneHit (s : State) (p : Nat) (e : Elastic) (second : Bool) : State × Bool :=
  let a := s.descA p
  let b := s.descB p
  let d := if second then dStride b else 0
  let t := widen e.arr (hitRaw a b e.block second) (dTimeW a) (dUnit a) + s.corr p
  match s.classify p t with
  | .order => (s.bump (oPort p 0x130), false)
  | .gap => (s.bump (oPort p 0x138), false)
  | .close => (s, true)
  | .pass =>
    let s := s.advance p t
    let chan := if dChanW a = 0 then 0 else blockField e.block.toNat (dChanPos a - d) (dChanW a)
    let val := (if dValW a = 0 then 0 else blockField e.block.toNat (dValPos a - d) (dValW a)) / 2 ^ (dRsh a)
    (s.channelStage p chan val (t - s.startFine).toNat 5, false)

/-- A block at the deserialiser output goes through the pipeline (Table 2.7). -/
def State.pipeline (s : State) (p : Nat) (e : Elastic) : State :=
  if e.data then
    let (s, shut) := if e.hit2 then (s, false) else s.oneHit p e false
    if shut then s.closeByTime p e 5
    else
      let (s, shut2) := if e.hit2 || hit2Present (s.descA p) (s.descB p) e.block then s.oneHit p e true else (s, false)
      if shut2 then (s.reportTime p 5).closeByTime p { e with hit2 := true } 5
      else (s.setPort p { s.port p with buf := (s.port p).buf.drop 1 }).reportTime p 5
  else
    let t := s.entryTime p e
    match s.classify p t with
    | .order => (s.bump (oPort p 0x130)).setPort p { s.port p with buf := (s.port p).buf.drop 1 }
    | .gap => (s.bump (oPort p 0x138)).setPort p { s.port p with buf := (s.port p).buf.drop 1 }
    | .close => s.closeByTime p e 5
    | .pass => ((s.advance p t).setPort p { (s.advance p t).port p with buf := (s.port p).buf.drop 1 }).reportTime p 5

/-! ### Calibration (R78, R79) -/

/-- The event record CAL_DONE (Table 14.6). -/
def State.calEvent (s : State) (p : Nat) : State :=
  s.event 4 p [BitVec.ofNat 64 (s.field (oPort p 0x20) 23 0), BitVec.ofNat 64 (s.field (oPort p 0x20) 47 24),
    BitVec.ofNat 64 (s.field (oPort p 0x28) 58 56)]

/-- A round succeeded: PRT_RTT, RESULT DONE, and TCORR by the device or through F6 (R79, Table 14.9). -/
def State.calSuccess (s : State) (p : Nat) (rtts : List Int) : State :=
  let mean := roundDiv (rtts.foldl (· + ·) 0) (16 * 128)
  let lo := rtts.foldl min (rtts.headD 0)
  let hi := rtts.foldl max (rtts.headD 0)
  let spread := roundDiv (hi - lo) 128
  let s := s.setReg (oPort p 0x20) (setBf (setBf (setBf 0 63 63 1) 47 24 (lowBits 24 spread)) 23 0 (lowBits 24 mean))
  let s := s.setField (oPort p 0x28) 58 56 3
  let s := s.setPort p { s.port p with calRun := false, echoes := [], rtts := [] }
  let s :=
    if s.haOn 6 0 then
      s.haSend 6 0 p (s.haDeadline 6 none) [BitVec.ofNat 64 (lowBits 24 mean), BitVec.ofNat 64 (lowBits 24 spread),
        BitVec.ofNat 64 (bf (s.effReg (oPort p 0x18)) 23 0)]
    else
      let asym := sx 16 (s.field (oPort p 0x18) 55 40)
      s.setField (oPort p 0x18) 23 0 (lowBits 24 (roundDiv ((mean + 2 * asym) * 32) 1000))
  let s := s.calEvent p
  if (s.port p).link = .measure then s.enter p .ready true else s

/-- A round with a missing reply: it is repeated, or the run fails after four (R79). -/
def State.calMissing (s : State) (p : Nat) : State :=
  let x := s.port p
  if x.calRound < 4 then
    s.setPort p { x with calRound := x.calRound + 1, calSent := 0, calNext := s.firstEcho p, echoes := [], rtts := [] }
  else
    let s := s.setField (oPort p 0x20) 63 63 0
    let s := s.setField (oPort p 0x28) 58 56 4
    let s := s.setPort p { s.port p with calRun := false, echoes := [], rtts := [] }
    let s := s.err 1 0 p 10 0
    let s := s.calEvent p
    if (s.port p).link = .measure then s.enter p .ready true else s

/-! ### Training -/

/-- First 2^28-unit boundary of device time at least 128 ns after `x`, both in 2^-10 ns (R53). -/
def syncBoundary (x : Nat) : Nat := ((x + 131072 + 2 ^ 32 - 1) / 2 ^ 32) * 2 ^ 32

/-- Send one SYNC with this effective time (R53). -/
def State.sendSync (s : State) (p eff : Nat) : State :=
  let s := s.setPort p { s.port p with syncs := (s.port p).syncs + 1, syncEff := some eff }
  s.sendCmd p 1 ((eff * unitT : Nat) : Int) 0x08 0 false

/-- The port has trained: 16 consecutive TRAIN blocks with ACK received and 16 sent (Table 2.4). -/
def State.trained (s : State) (p : Nat) : Bool :=
  let x := s.port p
  decide (16 ≤ x.trainAck) && (match x.ackAt with
    | some t => decide (t + 16 * stitchT ≤ s.now)
    | none => false)

/-- Front-end fault seen in a frame (R57): sticky report, record once a frame, and the close of an open stitch if configured. -/
def State.feFaultIn (s : State) (p : Nat) : State :=
  let s := s.portReef p
  let s := if (s.port p).faultRec then s else (s.setPort p { s.port p with faultRec := true }).err 1 0 p 9 0
  if s.field (oPort p 0) 3 3 = 1 ∧ (s.port p).closed = false then s.closeStitch p else s

end Sys2Proof.Machine
end

