-- ==== Sys2Proof/Machine/Row.lean ====
section
/-! DEFINITION. Rows (03_rows.md): merge, watermarks, voter, halo copies, crossbar and hit history: operations. -/

namespace Sys2Proof.Machine

/-! ### Stream times and the release time -/

/-- Merge key of a HIT or SPIKE word (R86). -/
def wordKey (w : Word) : Nat := if bf w 63 56 = 0x11 then bf w 49 0 else bf w 27 0 * 16

/-- SLOW in effect for a row (R103). -/
def State.slow (s : State) (r : Nat) : Nat := bf (s.effReg (oRow r 0)) 17 0

/-- Least value of a list, `d` when it is empty. -/
def minOr (d : Nat) : List Nat → Nat
  | [] => d
  | x :: l => l.foldl min x

/-- Recompute the overtaken states and RT_r from the stream times (R90 to R92). -/
def State.rowTick (s : State) (r : Nat) : State :=
  let x := s.row r
  let slow := s.slow r
  let ids := List.range 18
  let live := ids.filter fun i => (x.stream i).live
  let lead := (live.map fun i => (x.stream i).ts).foldl max 0
  let lag := fun i =>
    let y := x.stream i
    y.live && !bit slow i && (if y.lagging then decide (y.ts < x.rt) else decide (y.ts + 2621440 < lead))
  let entered := (live.filter fun i => lag i && !(x.stream i).lagging).length
  let p := live.filter fun i => !bit slow i && !lag i
  let m := if p ≠ [] then minOr 0 (p.map fun i => (x.stream i).ts)
    else if live ≠ [] then minOr 0 (live.map fun i => (x.stream i).ts)
    else s.keyL
  let x := ids.foldl (fun x i => x.setStream i { x.stream i with lagging := lag i }) x
  (s.setRow r { x with rt := max x.rt m }).bumpN (oRow r 0x118) entered

/-- Set the time of a stream. -/
def State.streamTime (s : State) (r i k : Nat) : State :=
  let x := s.row r
  let y := x.stream i
  if y.live then
    (s.setRow r (x.setStream i { y with ts := k, changed := if y.ts = k then y.changed else s.now })).rowTick r
  else s

/-- A stream closes for the frame: it is live no longer and its time is L (R87). -/
def State.streamClose (s : State) (r i : Nat) : State :=
  let x := s.row r
  (s.setRow r (x.setStream i { x.stream i with live := false, ts := s.keyL, changed := s.now })).rowTick r

/-- Stream time of a spike channel now, in key units of the current frame (R529). -/
def State.spikeTime (s : State) (i : Nat) : Nat :=
  min s.keyL (s.now / unitT - 13107 - bf (s.effReg (oTmg (0x200 + i * 8))) 19 0 - s.frame.start)

/-- The spike streams of a row report their times every row cycle (R529). -/
def State.rowNow (s : State) (r : Nat) : State :=
  [0, 1].foldl (fun s i =>
    let y := (s.row r).stream (16 + i)
    if y.live ∧ y.ts < s.spikeTime (r * 2 + i) then s.streamTime r (16 + i) (s.spikeTime (r * 2 + i)) else s) s

/-! ### Watermark classes (R96 to R98) -/

/-- Streams of row r that feed each region directly: active region-map entries with EN 1 and enabled spike inputs. The entries of a
readout port have no effect (R81). -/
def State.feeds (s : State) (r : Nat) : Sparse Nat :=
  let m := s.regionA.foldl (fun m e =>
    if e.1 / 2048 = r ∧ bf e.2 31 31 = 1 ∧ s.isReadout (e.1 / 128) = false then
      sset 0 (bf e.2 11 0) (orBit (sget 0 (bf e.2 11 0) m) (e.1 / 128 % 16)) m
    else m) []
  let sp := s.effReg (oRow r 0x10)
  let m := if bf sp 31 31 = 1 then sset 0 (bf sp 27 16) (orBit (sget 0 (bf sp 27 16) m) 16) m else m
  if bf sp 63 63 = 1 then sset 0 (bf sp 59 48) (orBit (sget 0 (bf sp 59 48) m) 17) m else m

/-- Dispatch-map entry of a region: DATA0 and DATA1 of a copy. -/
def dmapD0 (m : Sparse Word) (g : Nat) : Word := sget 0 (g * 2) m
def dmapD1 (m : Sparse Word) (g : Nat) : Word := sget 0 (g * 2 + 1) m

/-- Regions with EN 1 in the dispatch map, ascending. -/
def dmapOn (m : Sparse Word) : List Nat :=
  m.filterMap fun e => if e.1 % 2 = 0 ∧ bf e.2 63 63 = 1 then some (e.1 / 2) else none

/-- Regions with an entry in the dispatch map, ascending. -/
def dmapAll (m : Sparse Word) : List Nat := (m.map fun e => e.1 / 2).eraseDups

/-- Halo sources of a region (Table 3.2), itself and repeats left out (R110). -/
def haloOf (m : Sparse Word) (g : Nat) : List Nat :=
  let d0 := dmapD0 m g
  let d1 := dmapD1 m g
  let src := [bf d0 47 36, bf d0 35 24, bf d0 23 12, bf d0 11 0, bf d1 47 36, bf d1 35 24, bf d1 23 12, bf d1 11 0]
  ((src.take (bf d0 62 59)).filter (· != g)).eraseDups

/-- The regions that name `x` as a halo source, before the limit of 8 (R110). -/
def haloNamers (m : Sparse Word) (x : Nat) : List Nat := (dmapOn m).filter fun g => (haloOf m g).contains x

/-- Reverse list of a region: at most 8, ascending (R110). -/
def reverseList (m : Sparse Word) (x : Nat) : List Nat := (haloNamers m x).take 8

/-- Insert a number into an ascending list. -/
def insertNat (n : Nat) : List Nat → List Nat
  | [] => [n]
  | m :: l => if n ≤ m then n :: m :: l else m :: insertNat n l

/-- The regions whose reverse list was cut, ascending. -/
def cutRegions (m : Sparse Word) : List Nat :=
  (((dmapOn m).flatMap fun g => haloOf m g).eraseDups.filter fun x => decide (8 < (haloNamers m x).length)).foldr insertNat []

/-- Contributing sets of a row: region and stream mask, by ascending region (R96). -/
def State.contrib (s : State) (r : Nat) : Sparse Nat :=
  let own := s.feeds r
  let regions := (own.map (·.1) ++ dmapAll s.dmapA).eraseDups
  regions.foldl (fun m g =>
    sset 0 g ((haloOf s.dmapA g).foldl (fun a h => a ||| sget 0 h own) (sget 0 g own)) m) []

/-- Stream mask of a class as in force now (R98). -/
def State.classMask (s : State) (r k : Nat) : Nat :=
  let x := s.row r
  let m := x.classes.getD k 0
  if s.now < x.rebuilt then m ||| x.oldClasses.getD k 0 else m

/-- Build the watermark classes of a row (R97). The sets in force before stay united with the new for 2,048 row cycles, the longest
that R98 allows (log entry 103). -/
def State.buildClasses (s : State) (r : Nat) : State :=
  let c := s.contrib r
  let sets := (c.map (·.2)).eraseDups
  let merged := decide (64 < sets.length)
  let classes := if merged then sets.take 63 ++ [0x3FFFF] else sets
  let served := c.map fun e => (e.1, ((sets.take (if merged then 63 else 64)).findIdx? (· == e.2)).getD 63)
  let x := s.row r
  let before := (List.range (max x.classes.length x.oldClasses.length)).map (s.classMask r)
  let s := s.setRow r { x with classes := classes, oldClasses := before, rebuilt := s.now + 2048 * rowT,
                               served := served, classMerged := merged }
  if merged then s.err 1 1 r 2 0 else s

/-- Build the reverse lists of every row after an activation of the dispatch map; one record names the first HOT row (R110). -/
def State.fanoutBuild (s : State) : State :=
  let cut := cutRegions s.dmapA
  let s := forN 32 (fun s r => s.setRow r { s.row r with fanoutCut := !cut.isEmpty }) s
  match cut with
  | [] => s
  | x :: _ => s.err 1 1 (((List.range 32).find? fun r => s.hot (32 + r)).getD 0) 6 x

/-- Firm watermark of a class in key units (R99). -/
def State.classFw (s : State) (r k : Nat) : Nat :=
  let x := s.row r
  let m := s.classMask r k
  ((List.range 18).filter fun i => bit m i && (x.stream i).live).foldl (fun a i => min a (x.stream i).ts) x.rt

/-! ### Hit history (R115 to R119) -/

def State.histLog (s : State) (r : Nat) : Nat := s.field (oRow r 0x40) 12 8
def State.histIdx (s : State) (r : Nat) : Nat := s.field (oRow r 0x40) 3 0
/-- The row writes history: its sizes are in range (R119). -/
def State.histOn (s : State) (r : Nat) : Bool :=
  decide (16 ≤ s.histLog r ∧ s.histLog r ≤ 20 ∧ 10 ≤ s.histIdx r ∧ s.histIdx r ≤ 14)

/-- Write index entries for the buckets from `a` up to `b` (R118); of more than the ring holds, the last ones stay. -/
def State.histIndex (s : State) (r a b n : Nat) : State :=
  let a := max a (b + 1 - 2 ^ s.histIdx r)
  (List.range (b + 1 - a)).foldl (fun s i =>
    let pos := (a + i) % 2 ^ s.histIdx r
    let base := s.field (oRow r 0x38) 45 0 + pos * 4
    let m := mwrBs base ((List.range 4).map fun k => BitVec.ofNat 8 (n >>> (8 * k))) s.mem
    s.memPutBy 3 r (base / 8 * 8) [mrdW (base / 8 * 8) m]) s

/-- Write a line of the first 7 hits that the row gathers (Table 3.4, R117). -/
def State.writeLine (s : State) (r : Nat) (last stop : Bool) : State :=
  let x := s.row r
  let line := x.line.take 7
  match line with
  | [] => s
  | h :: _ =>
    let n := s.field (oRow r 0x48) 31 0
    let beh := ((List.range 7).filter fun i => (line.map (·.behind)).getD i false).foldl (fun a i => orBit a (i + 1)) 0
    let w0 := setBf (setBf (setBf (setBf (setBf (setBf 0 63 48 s.frame.count) 47 45 line.length) 41 41 (b2n last))
      40 40 (b2n stop)) 39 8 h.key) 7 1 (beh / 2)
    let words := (List.range 7).map fun i => (line.map (·.word)).getD i uninit
    let top := (line.map (·.key)).foldl max 0 / 2 ^ 17
    let s :=
      if s.histOn r then
        let a := s.field (oRow r 0x30) 45 0 + (n % 2 ^ s.histLog r) * 64
        let s := s.memPutBy 3 r a (w0 :: words)
        let s := s.histIndex r x.bucket top n
        s.setField (oRow r 0x48) 31 0 ((n + 1) % 2 ^ 32)
      else s
    s.setRow r { s.row r with line := x.line.drop 7, bucket := max x.bucket (top + 1) }

/-- The first 7 hits of a row's line come from row cycles before `c`, so nothing goes between them any more (R115). -/
def RowSt.lineFull (x : RowSt) (c : Nat) : Bool := decide (7 ≤ x.line.length) && (x.line.take 7).all fun h => decide (h.cyc < c)

/-- Write every line that is full. -/
def State.fullLines (s : State) (r : Nat) : Nat → State
  | 0 => s
  | n + 1 => if (s.row r).lineFull (s.now / rowT) then (s.writeLine r false false).fullLines r n else s

/-- Write what is left of the frame: lines, LAST in the last one, and the index entries of the buckets after the last hit, which take
the number of the next line (R117, R118). -/
def State.endLines (s : State) (r : Nat) (stop : Bool) : Nat → State
  | 0 => s
  | n + 1 =>
    if 7 < (s.row r).line.length then (s.writeLine r false false).endLines r stop n
    else
      let s := s.writeLine r true stop
      let top := (s.keyL - 1) / 2 ^ 17
      let s := if s.histOn r then s.histIndex r (s.row r).bucket top (s.field (oRow r 0x48) 31 0) else s
      s.setRow r { s.row r with bucket := max (s.row r).bucket (top + 1) }

/-- The frame's history of the row ends. -/
def State.histEnd (s : State) (r : Nat) (stop : Bool) : State := s.endLines r stop ((s.row r).line.length / 7 + 1)

/-! ### Store, selection and copies -/

/-- Order of R89. -/
def hitBefore (a b : RowHit) : Bool :=
  decide (a.key < b.key) || (a.key == b.key && (decide (a.stream < b.stream) || (a.stream == b.stream && decide (a.seq < b.seq))))

/-- Insert a hit by the order of R89. -/
def insertHit (h : RowHit) : List RowHit → List RowHit
  | [] => [h]
  | g :: l => if hitBefore h g then h :: g :: l else g :: insertHit h l

/-- A behind hit goes ahead of the merge output of its own row cycle (R93). -/
def insertBehind (h : RowHit) : List RowHit → List RowHit
  | [] => [h]
  | g :: l => if g.cyc = h.cyc ∧ g.behind = false then h :: g :: l else g :: insertBehind h l

/-- A hit that the voter emits enters the line in output order: a behind hit ahead of the merge output of its row cycle (R93, R115). -/
def State.lineAdd (s : State) (r : Nat) (h : RowHit) : State :=
  let s := s.fullLines r ((s.row r).line.length / 7)
  let x := s.row r
  s.setRow r { x with line := if h.behind then insertBehind h x.line else x.line ++ [h] }

/-- Hits that count against the store of 32,768 (R95). -/
def RowSt.held (x : RowSt) : Nat := x.store.length + x.picked.length + (x.copies.filter (·.last)).length

/-- The voter emits a hit: counted and written into the history (R115). -/
def State.emit (s : State) (r : Nat) (h : RowHit) : State := (s.bump (oRow r 0x100)).lineAdd r h

/-- Word of the end of frame on a dispatch stream (Table 3.3). -/
def eofWord (r : Nat) : DispWord :=
  { word := nilW, target := 0, origin := 0, row := r, stream := 0, halo := false, behind := false, eof := true,
    last := false, due := 0 }

/-- End-of-frame words enter the queues that have room for them (R113). -/
def RowSt.eofMove (x : RowSt) (r : Nat) : RowSt :=
  x.eof.foldl (fun y c =>
    if (sget [] c y.voq).length < 256 then { y with voq := sset [] c (sget [] c y.voq ++ [eofWord r]) y.voq }
    else { y with eof := y.eof ++ [c] }) { x with eof := [] }

/-- The end-of-frame word enters every dispatch stream, and the row has flushed (R30). `stop`: the row enters STOPPED. -/
def State.rowEof (s : State) (r : Nat) (stop : Bool) : State :=
  let x := s.row r
  (s.setRow r (({ x with flushed := true, flushing := false, eof := List.range 32 } : RowSt).eofMove r)).histEnd r stop

/-- A lane is disabled: record and count (R106). -/
def State.laneOff (s : State) (r i : Nat) : State :=
  let x := s.row r
  ((s.setRow r { x with lanesOff := x.lanesOff ||| BitVec.ofNat 3 (1 <<< i) }).bump (oRow r 0x138)).err 0 1 r 4 i

/-- A row enters STOPPED (R107). The stop is a consequence of the events the row has just sent, if `after`. -/
def State.rowStop (s : State) (r : Nat) (after : Bool) : State :=
  let x := s.row r
  let cause := if after then some (s.errNum - 1) else none
  let s := s.bumpN (oRow r 0x130) x.held
  let s := s.setRow r { x with
    store := [], picked := [], copies := [], vstate := 2, rt := s.keyL,
    streams := (List.range 18).foldl (fun l i => sset .reset i { x.stream i with live := false, ts := s.keyL } l) x.streams }
  let s := if (s.row r).flushed then s else s.rowEof r true
  let s := s.errWith 2 1 r 5 noSlot 0 0 0 0 cause
  s.sticky r

/-- A hit of the frame reaches a row that has been flushed by an overrun (R33). -/
def State.lateHit (s : State) (r stream : Nat) : State :=
  if stream < 16 then s.bump (oPort (r * 16 + stream) 0x140) else s.bump (oTmg (0x818 + (r * 2 + stream - 16) * 0x20))

/-- A hit reaches the row (R93, R95). -/
def State.rowHit (s : State) (r stream : Nat) (word : Word) (region : Nat) : State :=
  let x := s.row r
  let y := x.stream stream
  if x.vstate = 2 then s.bump (oRow r 0x130)
  else if x.flushed then s.lateHit r stream
  else
    let h : RowHit := { key := wordKey word, stream := stream, seq := y.seq, word := word, region := region,
                        behind := decide (wordKey word < x.rt), cyc := s.now / rowT }
    let x := x.setStream stream { y with seq := y.seq + 1 }
    if 32768 ≤ x.held then
      let s := (s.setRow r x).bump (oRow r 0x110)
      let s := s.slotRep r (h.key / 16 / s.slotW)
      if x.ovfRec then s else (s.setRow r { s.row r with ovfRec := true }).err 1 1 r 1 0
    else if h.behind then
      ((s.setRow r { x with picked := insertBehind h x.picked }).bump (oRow r 0x108)).emit r h
    else s.setRow r { x with store := insertHit h x.store }

/-- Select up to `n` hits below RT_r (R91). -/
def State.select (s : State) (r : Nat) : Nat → State
  | 0 => s
  | n + 1 =>
    let x := s.row r
    match x.store with
    | [] => s
    | h :: rest =>
      if h.key < x.rt then
        let h := { h with cyc := s.now / rowT }
        ((s.setRow r { x with store := rest, picked := x.picked ++ [h] }).emit r h).select r n
      else s

/-- Cluster that runs a region's slices (Table 3.2). -/
def State.clusterOf (s : State) (g : Nat) : Nat := bf (dmapD0 s.dmapA g) 52 48

/-- Regions that a hit of region x is copied to: itself unless EN is 0, then its reverse list (R111). -/
def State.targets (s : State) (x : Nat) : List Nat :=
  (if bf (dmapD0 s.dmapA x) 63 63 = 1 then [x] else []) ++ reverseList s.dmapA x

/-- The dispatch words of one hit (R111, Table 3.3). -/
def State.copyWords (s : State) (r : Nat) (h : RowHit) : List DispWord :=
  let ts := s.targets h.region
  (List.range ts.length).map fun i =>
    let g := ts.getD i 0
    { word := h.word, target := g, origin := h.region, row := r, stream := h.stream, halo := g != h.region,
      behind := h.behind, eof := false, last := i + 1 == ts.length, due := 0 }

/-- Form the copies of up to `n` hits while the copy buffer has room for the most one hit can need. DESIGN CHOICE (log
entry 104): only the hit's own copy counts as not dispatched. -/
def State.formCopies (s : State) (r : Nat) : Nat → State
  | 0 => s
  | n + 1 =>
    let x := s.row r
    match x.picked with
    | [] => s
    | h :: rest =>
      if x.copies.length + 9 ≤ 32 then
        let s := if bf (dmapD0 s.dmapA h.region) 63 63 = 1 then s else s.bump (oRow r 0x128)
        (s.setRow r { x with picked := rest, copies := x.copies ++ s.copyWords r h }).formCopies r n
      else s

/-- Move what is left of the frame's copies and, once none is left, the end-of-frame words (R30, R113). -/
def State.eofStep (s : State) (r : Nat) : State :=
  let x := s.row r
  if x.flushing ∧ x.store = [] ∧ x.picked = [] ∧ x.copies = [] then s.rowEof r false else s.setRow r (x.eofMove r)

/-- Move up to `n` copies into their virtual output queues; a full queue stalls the stage (R113). -/
def State.moveCopies (s : State) (r : Nat) : Nat → State
  | 0 => s
  | n + 1 =>
    let x := s.row r
    match x.copies with
    | [] => s
    | d :: rest =>
      let c := s.clusterOf d.target
      let q := sget [] c x.voq
      if q.length < 256 then
        ((s.setRow r { x with copies := rest, voq := sset [] c (q ++ [d]) x.voq }).bump (oRow r 0x140)).moveCopies r n
      else s

/-- Key of the oldest copy for a cluster that is not granted, behind copies left out (R101). A hit below RT_r that still waits for
selection counts too, so that no watermark passes it (R100; log entry 17). -/
def State.clampKey (s : State) (r c : Nat) : Nat :=
  let x := s.row r
  let inFlight := (x.copies.filter fun d => s.clusterOf d.target == c) ++ sget [] c x.voq
  let a := (inFlight.filter fun d => !d.behind && !d.eof).map fun d => wordKey d.word
  let mine := x.picked ++ x.store.filter fun h => decide (h.key < x.rt)
  let b := (mine.filter fun h => !h.behind && (s.targets h.region).any fun g => s.clusterOf g == c).map (·.key)
  minOr (2 ^ 32) (a ++ b)

/-- Grant up to `n` words into cluster c, one word per row per turn from the round-robin position (R113). -/
def State.grant (s : State) (c : Nat) : Nat → State
  | 0 => s
  | n + 1 =>
    let pos := sget 0 c s.xbar
    match ((List.range 32).map fun i => (pos + i) % 32).find? fun r => !(sget [] c (s.row r).voq).isEmpty with
    | none => s
    | some r =>
      let x := s.row r
      match sget [] c x.voq with
      | [] => s
      | d :: rest =>
        let s := s.setRow r { x with voq := sset [] c rest x.voq }
        let d := { d with due := s.now + 6 * rowT }
        { s with xbar := sset 0 c ((r + 1) % 32) s.xbar, cluIn := sset [] c (sget [] c s.cluIn ++ [d]) s.cluIn }.grant c n

/-! ### Commands -/

/-- ROW_HIT_ARRIVAL: the first word or stream time due at the row's input is taken (R87, R93, R95); with F1 in host-assisted mode
it goes to the host (Table 14.9). -/
def execRowHitArrival (t : Time) (r : RowId) (s : State) : Out :=
  let s := (s.at t).rowNow r
  match (s.row r).inbox with
  | [] => .next s
  | (due, i, x) :: rest =>
    if t < due then .next s
    else
      let s := s.setRow r { s.row r with inbox := rest }
      let ha := s.haOn 1 r
      match x with
      | .hit w g =>
        if ha ∧ (s.row r).vstate ≠ 2 then
          .next (s.haSend 1 0 r (s.haDeadline 1 (some (s.cutoffT (wordKey w / 16 / s.slotW))))
            ([w] ++ List.replicate 5 uninit ++ [BitVec.ofNat 64 i]))
        else .next (s.rowHit r i w g)
      | .time k =>
        let s := s.streamTime r i k
        .next (if ha then s.haSend 1 1 r (s.haDeadline 1 (some (s.cutoffT (k / 16 / s.slotW))))
            ([setBf (setBf 0 4 0 i) 63 32 k] ++ List.replicate 6 0)
          else s)
      | .close => .next (s.streamClose r i)

/-- ROW_MERGE_SELECT: the lanes select, the voter compares (R91, R105 to R107). `differ` marks the enabled lanes that differ from
the majority, `voters` that the two voter copies differ. The voter compares in every row cycle; selection waits while the copy buffer
lacks room (R111), and with F1 in host-assisted mode the host orders the hits. -/
def execRowMergeSelect (t : Time) (r : RowId) (differ : BitVec 3) (voters : Bool) (s : State) : Out :=
  let s := (s.at t).rowNow r
  let x := s.row r
  let pick := fun (s : State) => if 14 < x.copies.length ∨ s.haOn 1 r then s else s.select r 2
  if x.vstate = 2 then .next s
  else if voters then
    .next ((s.setRow r { x with voterFault := true, retired := x.retired || x.voterFault }).rowStop r false)
  else
    let bad := (List.range 3).filter fun i => bit differ.toNat i && !bit x.lanesOff.toNat i
    if bad.length = 0 then .next (pick s)
    else if x.vstate = 0 ∧ bad.length = 1 then
      let s := s.setRow r { x with vstate := 1 }
      .next (pick (s.laneOff r (bad.headD 0)))
    else .next (s.rowStop r false)

/-- The firm watermark of every region the row serves has passed E(n) (R30); with F1 in host-assisted mode the host gives it. -/
def State.rowPassed (s : State) (r : Nat) : Bool :=
  let x := s.row r
  decide (s.keyL ≤ x.rt) && (List.range x.classes.length).all fun k =>
    decide (s.keyL ≤ if s.haOn 1 r then sget 0 k x.haFw * 16 else s.classFw r k)

/-- ROW_FLUSH (R30): the merge goes on with the remaining hits, all below RT_r now; the end-of-frame words follow them. -/
def execRowFlush (t : Time) (r : RowId) (s : State) : Out :=
  let s := (s.at t).rowNow r
  let x := s.row r
  if s.castOn ∧ x.flushed = false ∧ x.flushing = false ∧ (s.rowPassed r ∨ x.vstate = 2) then
    .next ((s.setRow r { x with flushing := true }).eofStep r)
  else .next s

/-- COPY_STAGE: one row cycle of the copy stage (R111, R113). -/
def execCopyStage (t : Time) (r : RowId) (s : State) : Out :=
  .next ((((s.at t).formCopies r 2).moveCopies r 2).eofStep r)

/-- CROSSBAR_GRANT: up to two words into one cluster (R113). -/
def execCrossbarGrant (t : Time) (c : ClusterId) (s : State) : Out := .next ((s.at t).grant c 2)

/-- WATERMARK_MESSAGE: the row's PW and the FW of one class, both clamped, set out to a cluster (R101). Those of a stopped row are L
(R107). -/
def execWatermarkMessage (t : Time) (r : RowId) (c : ClusterId) (s : State) : Out :=
  let s := (s.at t).rowNow r
  let x := s.row r
  let key := r.val * 32 + c.val
  let wm := sget { rr := 0, sent := [] } key s.wms
  let clamp := s.clampKey r c
  let ha := s.haOn 1 r && x.vstate != 2
  let fwOf := fun k => (min (if ha then sget 0 k x.haFw * 16 else s.classFw r k) clamp) / 16
  let pw := (min (if ha then x.haPw * 16 else x.rt) clamp) / 16
  let n := x.classes.length
  let order := (List.range n).map fun i => (wm.rr + i) % n
  let k := (order.find? fun k => fwOf k != sget 0 k wm.sent).getD (wm.rr % max 1 n)
  let m : WmMsg := { row := r, pw := pw, cls := if n = 0 then 64 else k, fw := fwOf k, due := t + 8 * rowT }
  .next { s with
    wms := sset { rr := 0, sent := [] } key { rr := if n = 0 then 0 else (k + 1) % n, sent := sset 0 k (fwOf k) wm.sent } s.wms,
    wmIn := sset [] c.val (sget [] c.val s.wmIn ++ [m]) s.wmIn }

/-- STREAM_STALL (R104): a live stitch stream whose time has stood for STALL_LIMIT µs is closed as if its port had left UP. -/
def execStreamStall (t : Time) (r : RowId) (i : Fin 16) (s : State) : Out :=
  let s := s.at t
  let x := s.row r
  let y := x.stream i
  let k := s.field (oRow r 0) 63 56
  let p := r.val * 16 + i.val
  if k ≠ 0 ∧ y.live ∧ y.ts < s.keyL ∧ s.castOn ∧ max y.changed x.stallAt + usT k ≤ t ∧ (s.port p).closed = false then
    .next ((((s.closeStitch p).portReef p).bump (oRow r 0x120)).err 1 1 r 3 i)
  else .next s

/-- HISTORY_LINE_WRITE (R117): a full line, from the row cycle after its last hit (Table 3.5), or one 64 row cycles old. -/
def execHistoryLineWrite (t : Time) (r : RowId) (s : State) : Out :=
  let s := s.at t
  let x := s.row r
  let old : Bool := match x.line with
    | h :: _ => decide (h.cyc + 64 ≤ t / rowT)
    | [] => false
  .next (if x.lineFull (t / rowT) ∨ old then s.writeLine r false false else s)

/-- Legal bits of a dispatch-map entry: HALO_N above 8 keeps its value (R13, Table 3.2). -/
def dmapMerge0 (old v : Word) : Word :=
  let n := if bf v 62 59 ≤ 8 then bf v 62 59 else bf old 62 59
  setBf (setBf (setBf (setBf 0 63 63 (bf v 63 63)) 62 59 n) 52 48 (bf v 52 48)) 47 0 (bf v 47 0)

/-- DMAP_DATA_ACCESS (R109). The index is that of the row instance used. -/
def execDmapDataAccess (t : Time) (r : RowId) (data1 write : Bool) (v : Word) (s : State) : Out :=
  let s := s.at t
  let g := s.field (oRow r 0x18) 11 0
  let k := g * 2 + b2n data1
  let s : State :=
    if write then
      let w := if data1 then setBf 0 47 0 (bf v 47 0) else dmapMerge0 (sget 0 k s.dmapS) v
      ({ s with dmapS := sset 0 k w s.dmapS }).tabPend 1
    else { s with rdata := sget 0 k (if s.field (oRow r 0x18) 62 62 = 1 then s.dmapA else s.dmapS) }
  .next (if data1 ∧ s.field (oRow r 0x18) 63 63 = 1 then s.setField (oRow r 0x18) 11 0 ((g + 1) % 4096) else s)

/-- ORDERING_REPLY (Table 14.9): OP 0 words in release order go to the copy stage and the history; OP 1 carries watermarks. -/
def execOrderingReply (t : Time) (reply : List Word) (s : State) : Out :=
  let s := s.at t
  let s := s.cqTake 1
  match s.haFind 1 reply with
  | none => .next s.haStale
  | some j =>
    let s := s.haDone 1 j.job
    let r := j.unit % 32
    if bf (reply.headD 0) 55 52 = 1 then
      let x := s.row r
      .next (s.setRow r { x with haPw := bf (reply.getD 3 0) 27 0,
                                 haFw := sset 0 (bf (reply.getD 1 0) 5 0) (bf (reply.getD 2 0) 27 0) x.haFw })
    else
      let w7 := reply.getD 7 0
      .next ((List.range 6).foldl (fun s i =>
        let w := reply.getD (i + 1) uninit
        let tag := bf w 63 56
        if (tag = 0x10 ∨ tag = 0x11) ∧ (s.row r).vstate ≠ 2 then
          let st := bf w7 (5 * i + 4) (5 * i)
          let sp := s.effReg (oRow r 0x10)
          let region := if tag = 0x10 then bf (sget 0 (bf w 43 28) s.regionA) 11 0
            else if bf w 50 50 = 0 then bf sp 27 16 else bf sp 59 48
          let h : RowHit := { key := wordKey w, stream := st, seq := 0, word := w, region := region, behind := false,
                              cyc := t / rowT }
          (s.setRow r { s.row r with picked := (s.row r).picked ++ [h] }).emit r h
        else s) s)

end Sys2Proof.Machine
end

