-- ==== Sys2Proof/Machine/CoreOps.lean ====
section
/-! DEFINITION. Cores and contexts (07_contexts_worlds_traps.md): modes, registers, the scheduler, exception entry, double and triple
faults, window shifts and the shadow stack. -/

namespace Sys2Proof.Machine

/-! ### ST (Table 5.8) -/

def stSup (w : Word) : Nat := bf w 31 31
def stWorld (w : Word) : Nat := bf w 30 30
def stIe (w : Word) : Nat := bf w 29 29
def stProv (w : Word) : Nat := bf w 28 28
def stHeld (w : Word) : Nat := bf w 27 27
def stLdep (w : Word) : Nat := bf w 26 25
def stWres (w : Word) : Nat := bf w 23 20

/-- ST after reset, by world. -/
def stReset (world : Nat) : Word := setBf 0x80100000 30 30 world

/-! ### Modes: context, trap window, fast-interrupt bank -/

/-- The context that runs, or ran last. -/
def CoreSt.me (x : CoreSt) : CtxSt := x.ctx x.cur

/-- A word can issue: the core is released, a context or the bank runs, and neither the bank nor a trap window waits for the host. -/
def CoreSt.live (x : CoreSt) : Bool := x.up && (x.bankOn || x.run) && !x.hostWait

def CoreSt.flow (x : CoreSt) : Flow :=
  if x.bankOn then x.bankFlow
  else match x.trap with
    | some t => t.flow
    | none => x.me.flow

def CoreSt.setFlow (x : CoreSt) (f : Flow) : CoreSt :=
  if x.bankOn then { x with bankFlow := f }
  else match x.trap with
    | some t => { x with trap := some { t with flow := f } }
    | none => x.setCtx x.cur { x.me with flow := f }

/-- ST as the running word sees it. -/
def CoreSt.st (x : CoreSt) : Word :=
  if x.bankOn then x.bank.st
  else match x.trap with
    | some t => t.st
    | none => x.me.spec.st

def CoreSt.setSt (x : CoreSt) (w : Word) : CoreSt :=
  if x.bankOn then { x with bank := { x.bank with st := w } }
  else match x.trap with
    | some t => { x with trap := some { t with st := w } }
    | none => x.setCtx x.cur { x.me with spec := { x.me.spec with st := w } }

/-- LR, BANK, LC, RC, LB0 and LB1 of the running word: the bank's own in the bank, else the context's (R238, R248). -/
def CoreSt.spec (x : CoreSt) : SpecSt := if x.bankOn then x.bank else x.me.spec

def CoreSt.setSpec (x : CoreSt) (p : SpecSt) : CoreSt :=
  if x.bankOn then { x with bank := p } else x.setCtx x.cur { x.me with spec := p }

def State.flow (s : State) (c : Nat) : Flow := (s.core c).flow
def State.setFlow (s : State) (c : Nat) (f : Flow) : State := s.setCore c ((s.core c).setFlow f)
def State.st (s : State) (c : Nat) : Word := (s.core c).st
def State.setSt (s : State) (c : Nat) (w : Word) : State := s.setCore c ((s.core c).setSt w)
def State.spec (s : State) (c : Nat) : SpecSt := (s.core c).spec
def State.setSpec (s : State) (c : Nat) (p : SpecSt) : State := s.setCore c ((s.core c).setSpec p)
def State.setMe (s : State) (c : Nat) (y : CtxSt) : State := s.setCore c ((s.core c).setCtx (s.core c).cur y)

/-- World, level and PROV of the running word. -/
def State.world_ (s : State) (c : Nat) : Nat := stWorld (s.st c)
def State.sup (s : State) (c : Nat) : Bool := stSup (s.st c) == 1

/-! ### Registers (R167, R179, R228, R238, R248) -/

/-- Key of global `i` of a world in a context. -/
def globKey (j world i : Nat) : Nat := j * 128 + 72 + world * 8 + i

/-- Key of a window register of a context, by register number 0 to 15. -/
def winKey (j base r : Nat) : Nat := j * 128 + (base + r / 8) % 9 * 8 + r % 8

/-- Physical register of a specifier; none for 24 to 31. -/
def CoreSt.key (x : CoreSt) (r : Nat) : Option Nat :=
  if 24 ≤ r then none
  else if x.bankOn then some (if r < 16 then 512 + r else 528 + (r - 16))
  else if 16 ≤ r then some (globKey x.cur (stWorld x.st) (r - 16))
  else match x.trap with
    | some t => some (if r < 8 ∨ t.kind = 3 then 544 + r else x.cur * 128 + t.group * 8 + (r - 8))
    | none => some (winKey x.cur x.me.base r)

/-- Value of a physical register. -/
def State.rf (s : State) (c k : Nat) : Word := sget 0 k (s.core c).rf

/-- Write a physical register. -/
def State.rput (s : State) (c k : Nat) (v : Word) : State :=
  s.setCore c { s.core c with rf := sset 0 k v (s.core c).rf }

/-- Read a register by specifier. -/
def State.rget (s : State) (c r : Nat) : Word :=
  match (s.core c).key r with
  | some k => s.rf c k
  | none => 0

/-- Write a register by specifier. -/
def State.rset (s : State) (c r : Nat) (v : Word) : State :=
  match (s.core c).key r with
  | some k => s.rput c k v
  | none => s

/-- Loaded values become visible (R173), those of ply A of a split word too. -/
def State.showLoads (s : State) (c : Nat) : State :=
  let f := s.flow c
  ((f.pend ++ f.aLoads).foldl (fun s e => s.rput c e.1 e.2) s).setFlow c { f with pend := [], aLoads := [] }

/-- Multiplier results of operations issued four cycles ago or more have reached MRH and MRL (R177). -/
def State.multDue (s : State) (c : Nat) : State :=
  let y := (s.core c).me
  match (y.mult.filter fun e => decide (4 ≤ s.since c e.1)).getLast? with
  | none => s
  | some e => s.setMe c { y with mult := y.mult.filter (fun e => decide (s.since c e.1 < 4)),
                                 spec := { y.spec with mrh := e.2.1, mrl := e.2.2 } }

/-- The cycles from which a loaded register can be used (Table 5.5): a word that reads one sooner waits. The load slot reads the old
value and does not wait. -/
def State.await (s : State) (c : Nat) (uses : List Reg5) : State :=
  let x := s.core c
  let f := x.flow
  let left := fun (e : Nat × Nat) =>
    if (uses.any fun r => x.key r.toNat == some e.1) && !(f.pend.any fun q => q.1 == e.1) then
      (let n := (e.2 + 2 ^ 56 - s.tick c) % 2 ^ 56
       if n ≤ 3 then n else 0)
    else 0
  let n := f.ready.foldl (fun a e => max a (left e)) 0
  if n = 0 then s else s.spend c n

/-! ### Micro-resume records (R417, R418) -/

/-- Save micro-resume state in a free record of the context, or count a restart: the bank and the trap window have no records. The
microaddress of a ROM routine is free. -/
def State.saveMicro (s : State) (c : Nat) (r : MicroRec) : State :=
  let y := (s.core c).me
  if (s.core c).bankOn ∨ (s.core c).trap.isSome ∨ 2 ≤ y.micro.length then s.bump (oUcs 0x110)
  else if r.maddr = 0 then
    (s.setMe c { y with micro := { r with level := y.level, maddr := 1 + s.freeVal.toNat % 0x5FFF } :: y.micro }).useFree
  else s.setMe c { y with micro := { r with level := y.level } :: y.micro }

/-- An event is taken at the safe point at which the running word's routine stands: the routine's state goes into a record (R417). -/
def State.stopRun (s : State) (c : Nat) : State :=
  let f := s.flow c
  match f.run with
  | none => s
  | some r => (s.setFlow c { f with run := none }).saveMicro c r

/-- The running word's routine stands at a safe point, or has left it. -/
def State.setRun (s : State) (c : Nat) (r : Option MicroRec) : State := s.setFlow c { s.flow c with run := r }

/-- Every multiplier operation that a context has in flight writes its result (R178). -/
def State.multOf (s : State) (c j : Nat) : State :=
  let y := s.ctx c j
  match y.mult.getLast? with
  | none => s
  | some e => s.setCtx c j { y with mult := [], spec := { y.spec with mrh := e.2.1, mrl := e.2.2 } }

/-- Those of the running context. -/
def State.multAll (s : State) (c : Nat) : State := s.multOf c (s.core c).cur

/-! ### Store queue (R275, R301, R316) -/

/-- A number without a bit. -/
def clearBit (n i : Nat) : Nat := if bit n i then n - 2 ^ i else n

/-- A line whose word `i` has been written: that word's errors are gone. -/
def L2Line.written (x : L2Line) (i : Nat) : L2Line :=
  { x with dirty := true, one := clearBit x.one i, two := clearBit x.two i, lost := clearBit x.lost i }

/-- A store reaches L2 and becomes visible: other copies are invalidated, and a miss fills the line; a failed fill or a set without a
way passes the word to the controller as a partial write (R316, R320 to R322, R344). -/
def State.storeOut (s : State) (c pa : Nat) (w : Word) : State :=
  let k := cluOf c
  let line := pa / 64
  let s := (s.awaitEvict k line (s.evictions k)).snoopOthers k line true
  let s :=
    if (s.l2Find k line).isSome then s.l2Read k line
    else
      let s := (s.l2Miss k line true).ctlRead pa 0 k
      if (s.fillErr k pa).isSome then s else s.l2Alloc k line true
  let s := s.l1Drop k line (some c)
  match s.l2Find k line with
  | some way =>
    { s.l2Set k line way ((s.l2At k line way).map fun x => x.written (pa / 8 % 8)) with mem := mwrW pa w s.mem }
  | none =>
    if 0x100000000000 ≤ pa then { s with mem := mwrW pa w s.mem }
    else if s.memDead pa || s.isCheck pa then s
    else ({ s with mem := mwrW pa w s.mem }.mergePut (ctlOf pa) line (1 <<< (pa / 8 % 8))).mergeFull (ctlOf pa) line

def isDevice (pa : Nat) : Bool := decide (0x200000000000 ≤ pa ∧ pa < 0x300000000000)

/-- Where a store that leaves its queue goes: a word that a promotion has replaced by a FWD word since the store was checked sends it on
to the copy (R155, R159). -/
def State.finalPa (s : State) (w pa : Nat) : Nat → Nat
  | 0 => pa
  | n + 1 =>
    let v := mrdW pa s.mem
    if tagOf v = tFwd ∧ malformed v = false then
      match s.heapPa w (pay v) with
      | some p => s.finalPa w p n
      | none => pa
    else pa

/-- The oldest store of a context leaves its queue; a word of an entry frame that lies in a device window stays there (R301), for the
device takes it in CoreMem. -/
def State.release1 (s : State) (c j : Nat) : State :=
  let y := s.ctx c j
  match y.storeQ with
  | [] => s
  | (pa, v) :: rest =>
    if isDevice pa then s
    else (s.setCtx c j { y with storeQ := rest }).storeOut c (s.finalPa (stWorld y.spec.st) pa 8) v

/-- Stores of a context leave its queue, in order (R223). -/
def State.drainQ (s : State) (c j : Nat) : State := (s.ctx c j).storeQ.foldl (fun s _ => s.release1 c j) s

/-- Word that a context reads at a physical address: its own youngest store to it, or memory (R275). -/
def State.seen (s : State) (c pa : Nat) : Word :=
  match ((s.core c).me.storeQ.filter fun e => e.1 == pa).getLast? with
  | some e => e.2
  | none => mrdW pa s.mem

/-! ### Slices: descriptors (R280, R281) -/

def State.slice (s : State) (k : Nat) (key : SliceKey) : Option Slice := (s.clu k).slices.find? fun x => x.key == key

def State.setSlice (s : State) (k : Nat) (x : Slice) : State :=
  s.setClu k { s.clu k with slices := (s.clu k).slices.map fun y => if y.key = x.key then x else y }

/-- Word `i` of the program-table entry in use for a region (Table 8.1). -/
def State.progWord (s : State) (k g i : Nat) : Word := (sget [] g (s.clu k).progs).getD i 0

/-- Slots per slice of a region. -/
def State.sliceK (s : State) (k g : Nat) : Nat := bf (s.progWord k g 2) 39 32

/-- Interval of a slice in 2^-6 ns units, dispatch target, first slot, and the slot after its last (R279). -/
def State.sliceS (s : State) (k : Nat) (key : SliceKey) : Nat := key.idx * s.sliceK k key.region * s.slotW
def State.sliceE (s : State) (k : Nat) (key : SliceKey) : Nat := min ((key.idx + 1) * s.sliceK k key.region * s.slotW) s.lenL
def State.sliceTarget (s : State) (k : Nat) (key : SliceKey) : Nat :=
  min (s.sliceE k key + bf (s.progWord k key.region 2) 15 0) s.lenL
def State.sliceFirst (s : State) (k : Nat) (key : SliceKey) : Nat := key.idx * s.sliceK k key.region
def State.sliceAfter (s : State) (k : Nat) (key : SliceKey) : Nat := min ((key.idx + 1) * s.sliceK k key.region) s.slotCount

/-! ### Interrupt sources and the scheduler (R231 to R237) -/

/-- Sources pending in a context, bit = code (Table 7.3). -/
def State.irqMask (s : State) (c j : Nat) : Nat :=
  let y := s.ctx c j
  let m := sget 0 (c * 4 + j) s.irqs
  let m := if y.seenErr ≠ s.irqErr then orBit m irqError else m
  let m := if y.seenCast ≠ s.irqCast then orBit m irqCaston else m
  if y.seenBind ≠ s.irqBind then orBit m irqBindoff else m

/-- Pending sources that INTMASK enables. -/
def State.irqOn (s : State) (c j : Nat) : Nat := s.irqMask c j &&& (s.field (oCore c 0) (16 * j + 12) (16 * j + 8) * 2)

/-- The source that the context takes next, lowest code first, when ST.IE allows it. -/
def State.irqNext (s : State) (c j : Nat) : Option Nat :=
  if stIe (s.ctx c j).spec.st = 0 then none else [1, 2, 3, 4, 5].find? fun k => bit (s.irqOn c j) k

/-- State of a context (Table 7.1): an IDLE context with a pending interrupt that INTMASK and ST.IE allow is READY (R237). -/
def State.ctxState (s : State) (c j : Nat) : Nat :=
  if (s.ctx c j).state = 0 ∧ (s.irqNext c j).isSome then 2 else (s.ctx c j).state

/-- A context can be chosen: it is READY (R233). -/
def State.ready (s : State) (c j : Nat) : Bool := s.ctxState c j == 2

/-- Rank of a context (R233), lower first: pending interrupt, then the cut-off of its slice, then the others; ties by number. -/
def State.rank (s : State) (c j : Nat) : Nat × Nat :=
  if (s.irqNext c j).isSome then (0, 0)
  else match (s.ctx c j).prog with
    | some key => (1, s.cutoffT (s.sliceFirst (cluOf c) key))
    | none => (2, 0)

/-- Cut-off of the slice that a context runs. -/
def State.sliceCut (s : State) (c j : Nat) : Option Nat :=
  (s.ctx c j).prog.map fun key => s.cutoffT (s.sliceFirst (cluOf c) key)

def rankLt (a b : Nat × Nat) : Bool := decide (a.1 < b.1 ∨ (a.1 = b.1 ∧ a.2 < b.2))

/-- The highest-ranked context of a list. -/
def State.bestOf (s : State) (c : Nat) : List Nat → Option Nat
  | [] => none
  | j :: l => match s.bestOf c l with
    | none => some j
    | some b => some (if rankLt (s.rank c b) (s.rank c j) then b else j)

/-- Switch the core to context `j` (R236, R417, R431). -/
def State.switchTo (s : State) (c j : Nat) : State :=
  let s := (s.multAll c).stopRun c
  let x := s.core c
  let x := if x.run ∧ x.me.state = 3 then x.setCtx x.cur { x.me with state := 2 } else x
  let x := { x with cur := j, run := true, dec := s.ucode.decA }
  (s.setCore c (x.setCtx j { x.ctx j with state := 3 })).spend c 2

/-- The core runs the highest-ranked READY context when none runs (R234). -/
def State.schedule (s : State) (c : Nat) : State :=
  if (s.core c).run ∨ (s.core c).up = false then s
  else match s.bestOf c ((List.range 4).filter fun j => s.ready c j) with
    | none => s
    | some j => s.switchTo c j

/-- The running context stops in a state of Table 7.1; another is chosen. -/
def State.stopCtx (s : State) (c j state waits : Nat) : State :=
  let s := s.setCtx c j { s.ctx c j with state := state, waits := waits }
  if (s.core c).cur = j ∧ (s.core c).run then
    let x := s.core c
    (s.setCore c { x with run := false, trap := none, hostWait := x.hostWait && x.bankOn }).schedule c
  else s

/-! ### Release of a slice (R264, R281, R468) -/

/-- The jobs of F2, F4 and F7 of a context become stale (R466); that of the bank, which is no context's, stands. -/
def State.forgetJobs (s : State) (c j : Nat) : State :=
  let unit := c * 32768 + j * 8192
  let bank := fun (f : Nat) (h : HaJob) => (s.core c).bankOn && (s.ctx c 4).susp.any fun x => x.func == f && x.job == h.job
  let mine := fun (f : Nat) (h : HaJob) => decide (h.unit = unit) && !bank f h
  ((s.haForget 2 (mine 2)).haForget 4 (mine 4)).haForget 7 (mine 7)

/-- Empty the shadow stack of a context (R264). -/
def State.shadowEmpty (s : State) (c j : Nat) : State :=
  (s.setCtx c j { s.ctx c j with shadow := [] }).setField (oCore c (0xC0 + j * 8)) 55 43 0

/-- World that a context is assigned (R229). -/
def State.ctxWorld (s : State) (c j : Nat) : Nat := s.field (oCore c 0) (16 * j + 15) (16 * j + 15)

/-- A context gives up a slice; a program that still runs for it stops, and the context is in its assigned world again (R229). -/
def State.dropSlice (s : State) (c j : Nat) (key : SliceKey) : State :=
  let y := s.ctx c j
  let rest := y.slices.filter fun k => k != key
  let s := s.setCtx c j { y with slices := rest }
  if y.prog = some key then
    let s := (s.forgetJobs c j).shadowEmpty c j
    let y := s.ctx c j
    let s := s.setCtx c j { y with prog := none, flow := .start 0, level := 0, micro := [], susp := none,
                                   spec := { y.spec with st := setBf (setBf (setBf y.spec.st 30 30 (s.ctxWorld c j)) 28 28 0) 27 27 0 } }
    s.stopCtx c j (if rest = [] then 0 else 1) (if rest = [] then 0 else 1)
  else if rest = [] ∧ y.prog = none ∧ y.state = 1 then s.stopCtx c j 0 0
  else s

/-- A descriptor is released: committed, timed out or abandoned. -/
def State.sliceGone (s : State) (k : Nat) (x : Slice) (committed : Bool) : State :=
  let z := s.clu k
  let s := s.setClu k { z with slices := z.slices.filter (fun y => y.key != x.key), gone := (x.key, committed) :: z.gone }
  match x.holder with
  | some (c, j) => s.dropSlice c j x.key
  | none => s

/-- A lost slice that is given up will not commit: its slots whose cut-off has not passed are reported (R582). -/
def State.lostReports (s : State) (k : Nat) (x : Slice) : State :=
  if x.lost then
    ((List.range (s.sliceAfter k x.key - s.sliceFirst k x.key)).filter fun i =>
      decide (s.mast.cut ≤ s.sliceFirst k x.key + i)).foldl (fun s i => s.slotRep (32 + k) (s.sliceFirst k x.key + i)) s
  else s

/-- A slice of a core that is reset cannot be dispatched again: it times out (R28, R271). -/
def State.giveUp (s : State) (k : Nat) (x : Slice) : State :=
  ((s.lostReports k x).bump (oCnt k 0x3130)).sliceGone k x false

/-- A slice is abandoned, counted, with its staged candidates (Table 8.2). -/
def State.abandon (s : State) (k : Nat) (x : Slice) : State :=
  ((s.lostReports k x).bump (oCnt k 0x3138)).sliceGone k x false

/-! ### Windows and shadow stack (R179, R249 to R263) -/

def oSpill (c j w : Nat) : Nat := oCore c (0x80 + j * 0x10 + w * 8)
def oSsp (c j w : Nat) : Nat := oCore c (0x40 + j * 0x10 + w * 8)
def oShadow (c j : Nat) : Nat := oCore c (0xC0 + j * 8)

/-- A shadow entry (Table 7.10). -/
def shadowW (kind sup world ra : Nat) : Word := setBf (setBf (setBf (setBf 0 55 54 kind) 53 53 sup) 52 52 world) 46 0 ra

/-- Physical address of word `i` of a context's shadow spill region. -/
def State.shadowPa (s : State) (c j i : Nat) : Nat := s.field (oShadow c j) 30 0 * 32768 + i * 8

/-- Push a shadow entry; with 32 on-core the oldest 16 are spilled first (R263). A full region answers the cause SHADOW_FULL. -/
def State.shadowPush (s : State) (c : Nat) (w : Word) : State ⊕ Nat :=
  let j := (s.core c).cur
  let y := (s.core c).me
  if y.shadow.length < 32 then .inl (s.setMe c { y with shadow := w :: y.shadow })
  else
    let n := s.field (oShadow c j) 55 43
    if 4096 < n + 16 then .inr 4
    else
      let old := (y.shadow.drop 16).reverse
      let s := (s.memPutBy 0 (cluOf c) (s.shadowPa c j n) old).setField (oShadow c j) 55 43 (n + 16)
      .inl ((s.setMe c { y with shadow := w :: y.shadow.take 16 }).spend c 24)

/-- Before a pop with no entry on-core, the newest 16 spilled entries are read back (R263); an uncorrectable word answers the cause
SHADOW_LOST. -/
def State.shadowRefill (s : State) (c : Nat) : State × Option Nat :=
  let j := (s.core c).cur
  let y := (s.core c).me
  let k := cluOf c
  let n := s.field (oShadow c j) 55 43
  if y.shadow ≠ [] ∨ n = 0 then (s, none)
  else
    let m := min 16 n
    let a := s.shadowPa c j (n - m)
    let s := (List.range m).foldl (fun s i => s.probe k (a + 8 * i) 0 k) s
    match (List.range m).find? fun i => (s.fillErr k (a + 8 * i)).isSome with
    | some i => (s.busErrLog (a + 8 * i) 0 k, some 5)
    | none => (((s.setMe c { y with shadow := (mrdWs a m s.mem).reverse }).setField (oShadow c j) 55 43 (n - m)).spend c 24, none)

/-- Groups: the one a call would reuse, and the caller's (R250, R251). -/
def victimGroup (y : CtxSt) : Nat := (y.base + 9 - (stWres y.spec.st - 1)) % 9
def callerGroup (y : CtxSt) : Nat := (y.base + 8) % 9

/-- Shift the window as a call; the new group belongs to `world`. -/
def CtxSt.shiftIn (y : CtxSt) (world : Nat) : CtxSt :=
  { y with base := (y.base + 1) % 9, groupW := sset 0 ((y.base + 2) % 9) world y.groupW,
           spec := { y.spec with st := setBf y.spec.st 23 20 (stWres y.spec.st + 1) } }

/-- Shift the window back as a return. -/
def CtxSt.shiftOut (y : CtxSt) : CtxSt :=
  { y with base := (y.base + 8) % 9,
           spec := { y.spec with st := setBf y.spec.st 23 20 (max 1 (stWres y.spec.st - 1)) } }

/-! ### Faults, exception entry, double and triple fault (R241 to R271) -/

/-- Virtual base of a world's vectors (R242). -/
def State.vbase (s : State) (c w : Nat) : Nat := s.field (oClu (cluOf c) (0x2000 + w * 8)) 46 12 * 4096

/-- ESR of a fault with its resume flags (Table 5.9). -/
def esrW (cls cause flags detail : Nat) : Word :=
  setBf (setBf (setBf (setBf 0 55 48 cls) 47 40 cause) 39 34 flags) 33 0 detail

/-- A core out of reset: every context IDLE in its assigned world, no source pending (R271, R327, R470). `out` keeps it out of
dispatch. -/
def State.coreFresh (s : State) (c : Nat) (up out : Bool) : CoreSt :=
  let ctx := fun (j : Nat) =>
    let w := s.field (oCore c 0) (16 * j + 15) (16 * j + 15)
    { CtxSt.reset with spec := { SpecSt.reset with st := stReset w }, seenErr := s.irqErr, seenCast := s.irqCast,
                       seenBind := s.irqBind }
  let x := { CoreSt.reset with up := up, sync := s.now * 3, out := out, dec := s.ucode.decA, bankErr := s.irqErr, bankCast := s.irqCast,
                               bankBind := s.irqBind }
  [0, 1, 2, 3].foldl (fun x j => x.setCtx j (ctx j)) x

/-! ### The program table and the coverage of regions (R277, R278, R583) -/

/-- Address of the program-table entry of a region. -/
def State.progAddr (s : State) (k g : Nat) : Nat := s.field (oClu k 0x3000) 45 17 * 131072 + g * 32

/-- The table lies where the dispatcher reads it: memory of owner SHARED or HARDWARE (Table 8.6). -/
def State.progMem (s : State) (k g : Nat) : Bool :=
  let a := s.progAddr k g
  let w := s.ownerAt a 5
  decide (a < s.stacks * stackSize) && (w == 3 || w == 4) && (List.range 4).all fun i => (s.busErr (a + 8 * i)).isNone

/-- The words of an entry are valid (R278); W is the slot width. -/
def progOk (w : Nat) (ws : List Word) : Bool :=
  let w0 := ws.getD 0 0
  let w1 := ws.getD 1 0
  let w2 := ws.getD 2 0
  let w3 := ws.getD 3 0
  let n := bf w2 39 32
  (w0 == nilW || (tagOf w0 == tCode && !malformed w0)) && tagOf w1 == tFix && tagOf w2 == tFix && tagOf w3 == tFix &&
    bf w1 55 47 == 0 && bf w1 19 0 == 0 && bf w2 52 40 == 0 && bf w2 31 16 == 0 && bf w3 55 47 == 0 &&
    n != 0 && decide (n * w ≤ 102400) && bf w3 3 0 == 0

/-- The entry as memory holds it now, none when it is invalid. -/
def State.progPeek (s : State) (k g : Nat) : Option (List Word) :=
  let ws := mrdWs (s.progAddr k g) 4 s.mem
  if s.progMem k g && progOk s.slotW ws then some ws else none

/-- The entry in use in the frame: that of the region's first copy, else what memory holds (R277). -/
def State.progNow (s : State) (k g : Nat) : Option (List Word) :=
  if (s.clu k).badProg.contains g then none
  else match sget [] g (s.clu k).progs with
    | [] => s.progPeek k g
    | ws => some ws

/-- The cluster runs the region's slices. -/
def State.runsRegion (s : State) (k g : Nat) : Bool :=
  match s.progNow k g with
  | none => false
  | some ws => ws.getD 0 0 != nilW

/-- No core of the cluster can run the slices of a region that it runs: its entry has FIT 1 and both fit cores are out of dispatch, or
every core is (R583). -/
def State.uncovered (s : State) (k g : Nat) : Bool :=
  match s.progNow k g with
  | none => false
  | some ws => ws.getD 0 0 != nilW && (List.range 16).all fun i =>
      (bf (ws.getD 2 0) 54 54 == 1 && !isFit i) || (s.core (k * 16 + i)).out

/-- In a frame, a cluster reports the loss of coverage for a region that the dispatch map gives it, with one record a frame (R583). -/
def State.coverage (s : State) (k : Nat) : State :=
  if s.castOn = false ∨ (s.core (k * 16 + 14)).out = false ∨ (s.core (k * 16 + 15)).out = false then s
  else match (dmapOn s.dmapA).find? fun g => s.clusterOf g == k && s.uncovered k g with
    | none => s
    | some g =>
      let s := s.sticky (32 + k)
      if (s.clu k).covRec then s else (s.setClu k { s.clu k with covRec := true }).err 2 2 k 7 g

/-! ### Core reset (R271) -/

/-- Core reset of R271, by a triple fault or by the loss of the cluster's PLL (R494): stores that have committed complete first. -/
def State.coreLost (s : State) (c : Nat) : State :=
  let k := cluOf c
  let s := [0, 1, 2, 3].foldl (fun s j => ((s.drainQ c j).forgetJobs c j).shadowEmpty c j) s
  let mine := (s.clu k).slices.filter fun x => match x.holder with
    | some h => h.1 == c
    | none => false
  let x := s.core c
  let fresh := fun (j : Nat) =>
    let y := x.ctx j
    let w := s.field (oCore c 0) (16 * j + 15) (16 * j + 15)
    { CtxSt.reset with spec := { SpecSt.reset with st := stReset w }, seenErr := y.seenErr, seenCast := y.seenCast,
                       seenBind := y.seenBind }
  let x := { x with tick := 0, sync := s.now * 3, run := false, trap := none, hostWait := false, bankOn := false, bankGap := false,
                    out := true, l1i := [], l1d := [], side := [], blocked := none, lastMiss := none, upset := [], dec := s.ucode.decA }
  let x := ([0, 1, 2, 3].foldl (fun x j => x.setCtx j (fresh j)) x).setCtx 4 .reset
  let s := s.setCore c x
  mine.foldl (fun s z =>
    let z := { z with holder := none, ckpt := none, staged := [], lost := true, ended := false, late := false, taken := [] }
    if s.now < s.cutoffT (s.sliceAfter k z.key - 1) then s.setSlice k { z with st := .queued }
    else s.giveUp k z) s

/-- A triple fault (R271). The record's word 5 is open: four EPCs do not fit it (log entry 21). -/
def State.tripleFault (s : State) (c : Nat) : State :=
  (((s.errWith 2 3 c 2 noSlot 0 s.freeVal.toNat 0 0 none).useFree).coreLost c).coverage (cluOf c)

/-- The running word leaves the core's hands for good: loads become visible, and no routine of it goes on. -/
def State.leaveWord (s : State) (c : Nat) : State :=
  (s.showLoads c).setRun c none

/-- Double-fault entry (R269): `e` is the first exception, `f` the fault that made it double, `w` the current world. The hold count
starts again. -/
def State.doubleFault (s : State) (c : Nat) (e : ExcSt) (f : Flt) (flags w : Nat) : State :=
  let x := s.core c
  let y := x.me
  let detail := e.cls % 256 * 2 ^ 26 + f.cls % 256 * 2 ^ 18 + f.cause % 256 * 2 ^ 10
  let st := setBf (setBf (setBf (setBf y.spec.st 31 31 1) 30 30 w) 29 29 0) 27 27 1
  let y := { y with exc := e, level := y.level + 1,
                    spec := { y.spec with epc := fixN e.epc, esr := esrW 1 0 e.flags detail } }
  let t : TrapSt := { kind := 3, flow := { Flow.start (s.vbase c w + 0x40) with first := true }, st := st, group := 0, world := w,
                      exc := e }
  let s := s.setCore c ({ x with trap := some t, hostWait := false, holdAt := s.tick c }.setCtx x.cur y)
  ((s.rput c 544 (fixN f.va)).rput c 545 (esrW f.cls f.cause flags f.detail)).spend c 8

/-- The bank ends on a fault or a hold overrun (R241). -/
def State.bankFault (s : State) (c cls cause : Nat) : State :=
  let x := s.core c
  let s := s.setCore c { x with bankOn := false, bankGap := true, hostWait := false }
  (s.raiseBit (oCore c 0x10) 62).errWith 1 3 c 1 noSlot 0 cls cause 0 none

/-- Put a word of an entry frame into memory; the frame is written by the device (R244). A word for a device window stands in the store
queue until the device takes it, uncached and in order (R301). -/
def State.framePut (s : State) (c w : Nat) (a : Nat) (v : Word) : State × Option Flt :=
  if a % 8 ≠ 0 then (s, some { cls := xAlign, cause := 0, detail := 0, va := a })
  else match s.translate c w true .store a with
    | (s, .inl f) => (s, some f)
    | (s, .inr pa) =>
      let y := (s.core c).me
      if pa < 0x100000000000 ∧ s.stacks * stackSize ≤ pa then
        (s, some { cls := xDataError, cause := 4, detail := 0xFF * 8, va := a })
      else if isDevice pa ∨ y.storeQ ≠ [] then (s.setMe c { y with storeQ := y.storeQ ++ [(pa, v)] }, none)
      else (s.storeOut c pa v, none)

/-- Write the words of an entry frame in order, up to the first that faults. -/
def State.frameWrite (s : State) (c w : Nat) (a : Nat) : List Word → State × Option Flt
  | [] => (s, none)
  | v :: l => match s.framePut c w a v with
    | (s, some f) => (s, some f)
    | (s, none) => s.frameWrite c w (a + 8) l

/-- The faulting address goes into the frame for these classes (Table 7.5). -/
def showsVa (cls : Nat) : Bool := [xItrans, xDtrans, xWalkBus, xWalkDevice, xDataError, xAlign, xProvStore, xEscape].contains cls

/-- Exchange s7 of a world with CTX_SSP (R243, R245). -/
def State.swapSsp (s : State) (c j w : Nat) : State :=
  let old := s.rf c (globKey j w 7)
  let sp := s.field (oSsp c j w) 46 3
  (s.rput c (globKey j w 7) (fixN (sp * 8))).setField (oSsp c j w) 46 3 (bf old 46 3)

/-- Exception entry in the context (R243). A fault of the entry is a double fault (R268). The hold count starts at its first cycle
(R267). -/
def State.enterExc (s : State) (c : Nat) (f : Flt) (epc flags : Nat) : State :=
  let s := (s.multAll c).leaveWord c
  let j := (s.core c).cur
  let y := (s.core c).me
  let at_ := s.tick c
  let st := y.spec.st
  let w := stWorld st
  let e : ExcSt := { cls := f.cls, epc := epc, flags := flags, st := st }
  let s := s.drainQ c j
  let s := if stSup st = 0 then s.swapSsp c j w else s
  let sp := (bf (s.rf c (globKey j w 7)) 46 0 + 2 ^ 47 - 32) % 2 ^ 47
  let frame := [setBf st 63 56 0, y.spec.epc, y.spec.esr, fixN (if showsVa f.cls then f.va else 0)]
  match s.frameWrite c w sp frame with
  | (s, some g) => s.doubleFault c e g 0 w
  | (s, none) =>
    let s := s.rput c (globKey j w 7) (fixN sp)
    let y := (s.core c).me
    let held := if f.cls = 2 then 0 else bf (s.reg (oClu (cluOf c) (0x2010 + w * 8))) f.cls f.cls
    let st := setBf (setBf (setBf st 31 31 1) 29 29 0) 27 27 held
    let y := { y with exc := e, level := y.level + 1,
                      flow := { Flow.start (s.vbase c w + f.cls * 0x40) with first := true },
                      spec := { y.spec with epc := fixN epc, esr := esrW f.cls f.cause flags f.detail, st := st } }
    let x := s.core c
    (s.setCore c ({ x with holdAt := if held = 1 then at_ else x.holdAt }.setCtx j y)).spend c 10

/-- Resume flags of a fault (Table 5.9), bit 5 DS to bit 0 SHADOW. -/
def Flow.flags (f : Flow) (ply split : Bool) : Nat :=
  b2n f.branch.isSome * 32 + b2n ply * 16 + b2n split * 8 + b2n f.rep.isSome * 4 + b2n (!f.pend.isEmpty) * 2 + b2n f.afterSt

/-- A fault of the running word, with the resume point and the resume flags given (R241, R266 to R270). -/
def State.raiseAt (s : State) (c : Nat) (f : Flt) (epc flags : Nat) : State :=
  let s := s.leaveWord c
  let x := s.core c
  if x.bankOn then s.bankFault c f.cls f.cause
  else match x.trap with
    | some t => if t.kind = 3 then s.tripleFault c else s.doubleFault c t.exc f flags t.world
    | none =>
      if stHeld x.me.spec.st = 1 ∨ x.flow.first then
        (s.setMe c { x.me with level := x.me.level - 1 }).doubleFault c x.me.exc f flags (stWorld x.me.spec.st)
      else s.enterExc c f epc flags

/-- A fault of the running word (R170, R174, R188, R196). -/
def State.raise (s : State) (c : Nat) (f : Flt) (ply split : Bool) : State :=
  let fl := s.flow c
  let epc := match fl.branch with
    | some b => b.pc
    | none => fl.pc
  s.raiseAt c f epc (fl.flags ply (split || fl.plyB))

/-- Enter a window trap (R248 to R253): 1 overflow, 2 underflow. The flags are those of the call or return, which executes again; the
hold count starts unless a held handler is at work (R267). -/
def State.windowTrap (s : State) (c kind group world : Nat) : State :=
  let fl := (s.core c).me.flow
  let s := s.leaveWord c
  let x := s.core c
  let y := x.me
  let cls := if kind = 1 then xOverflow else xUnderflow
  let e : ExcSt := { cls := cls, epc := fl.pc, flags := ({ fl with branch := none }).flags false fl.plyB, st := y.spec.st }
  let sp := s.reg (oSpill c x.cur world)
  let depth := bf sp 63 48
  let base := bf sp 46 14 * 2 ^ 14
  let st := setBf (setBf (setBf (setBf y.spec.st 31 31 1) 30 30 world) 29 29 0) 27 27 1
  let t : TrapSt := { kind := kind, flow := { Flow.start (s.vbase c world + cls * 0x40) with first := true }, st := st,
                      group := group, world := world, exc := e }
  let s := (s.setCore c { x with trap := some t, holdAt := if stHeld y.spec.st = 1 then x.holdAt else s.tick c }).rput c 544
    (fixN (base + (if kind = 1 then depth else depth - 1) * 64))
  if kind = 1 ∧ depth * 64 = 2 ^ 14 * 2 ^ (bf sp 3 0) then
    s.doubleFault c e { cls := cls, cause := 0, detail := 0, va := 0 } e.flags world
  else s.spend c 6

/-- A call with 8 windows resident traps first (R179). -/
def State.needOverflow (s : State) (c : Nat) : Bool := stWres (s.core c).me.spec.st == 8

def State.overflowTrap (s : State) (c : Nat) : State :=
  let y := (s.core c).me
  s.windowTrap c 1 (victimGroup y) (sget 0 (victimGroup y) y.groupW)

/-- A return into a spilled window traps first (R179). -/
def State.needUnderflow (s : State) (c : Nat) : Bool :=
  let y := (s.core c).me
  stWres y.spec.st == 1 && !y.spillW.isEmpty

def State.underflowTrap (s : State) (c : Nat) : State :=
  let y := (s.core c).me
  s.windowTrap c 2 (callerGroup y) (y.spillW.headD 0)

/-! ### Completion of a word (R173, R188, R191, R196) -/

/-- Loop state of ST, LC, LB0, LB1. -/
def SpecSt.loopEnd (p : SpecSt) (st : Word) (fuel : Nat) (pc : Nat) : SpecSt × Word × Option Nat :=
  match fuel with
  | 0 => (p, st, none)
  | fuel + 1 =>
    let first := bf p.lb0 46 0
    let last := first + bf p.lb0 55 47 * 4
    if stLdep st = 0 ∨ pc ≠ last then (p, st, none)
    else if 1 < bf p.lc 27 0 then
      ({ p with lc := setBf p.lc 27 0 (bf p.lc 27 0 - 1) }, st, some first)
    else
      let p := { p with lb0 := p.lb1, lc := setBf 0 27 0 (bf p.lc 55 28), lb1 := 0 }
      p.loopEnd (setBf st 26 25 (stLdep st - 1)) fuel pc

/-- The word at `pc` completes in sequence; a loop whose last word it is goes round or ends (R191). -/
def State.inSeq (s : State) (c pc : Nat) (f : Flow) : State :=
  let x := s.core c
  let r := x.spec.loopEnd x.st 2 pc
  let s := (s.setSpec c { r.1 with st := (s.spec c).st }).setSt c r.2.1
  s.setFlow c { f with pc := match r.2.2 with
    | some t => t
    | none => (pc + 4) % 2 ^ 47 }

/-- Where a word goes on: in sequence, in sequence with a new ST for the next word (R198), to a target, into the slot of a .S branch, or
to a REP target. -/
inductive Nxt where
  | seq
  | seqSt (st : Word)
  | jump (target : Nat)
  | slot (b : BranchSt)
  | rep (r : RepSt)
  deriving DecidableEq, Repr

/-- What a word's own work answers: done, with the registers that it loads; a fault; or the state in which the word has left the
core's hands (a trap, a wait, a switch). -/
inductive Res where
  | ok (s : State) (n : Nxt) (loads : List (Nat × Word))
  | bad (s : State) (f : Flt)
  | taken (s : State)
  deriving DecidableEq, Repr

/-- The effects of a CALL.S that its slot completes (R188): the window was checked at the branch. -/
def State.callEffects (s : State) (c ra : Nat) (world : Nat) : State ⊕ Nat :=
  match s.shadowPush c (shadowW 0 0 0 ra) with
  | .inr e => .inr e
  | .inl s =>
    let y := (s.core c).me.shiftIn world
    .inl (s.setMe c { y with spec := { y.spec with lr := fixN ra } })

/-- ST after an MTS: SUP, IE and LDEP are writable; LDEP 3 leaves the field (Table 5.8). -/
def stWritten (old v : Word) : Word :=
  let st := setBf (setBf old 31 31 (bf v 31 31)) 29 29 (bf v 29 29)
  if bf v 26 25 = 3 then st else setBf st 26 25 (bf v 26 25)

/-- Cycles left until a loaded register can be used, for the entries that still count (Table 5.5). -/
def State.readyOf (s : State) (c : Nat) (old : List (Nat × Nat)) (loads : List (Nat × Word)) : List (Nat × Nat) :=
  let t := s.tick c
  (old.filter fun e => decide ((e.2 + 2 ^ 56 - t) % 2 ^ 56 ≤ 3)) ++ loads.map fun e => (e.1, (t + 3) % 2 ^ 56)

/-- A word has completed. -/
def State.complete (s : State) (c : Nat) (n : Nxt) (loads : List (Nat × Word)) : State :=
  let f := s.flow c
  let loads := f.aLoads ++ loads
  let s := (s.setFlow c { f with aLoads := [] }).showLoads c
  let x := s.core c
  let s := if x.bankOn then s else s.setCore c { x with bankGap := false }
  let st : Option Word := match n with
    | .seqSt v => some v
    | _ => none
  let put := fun (s : State) => match st with
    | some v => s.setSt c (stWritten (s.st c) v)
    | none => s
  let g : Flow := { f with pend := loads, plyB := false, aLoads := [], afterSt := st.isSome, first := false, jumped := false, run := none,
                           ready := s.readyOf c f.ready loads }
  match f.branch with
  | some b =>
    let after := (b.pc + 8) % 2 ^ 47
    let g := { g with branch := none, rep := none, jumped := b.target.isSome }
    if b.call then
      match s.callEffects c after (stWorld x.st) with
      | .inl s => put (s.setFlow c { g with pc := b.target.getD after })
      | .inr e => (s.setFlow c { f with pend := loads, aLoads := [] }).raise c (flt xControlFlow e) false false
    else put (s.setFlow c { g with pc := b.target.getD after })
  | none =>
    match n with
    | .jump t => s.setFlow c { g with pc := t % 2 ^ 47, rep := none, jumped := true }
    | .slot b => s.setFlow c { g with pc := (f.pc + 4) % 2 ^ 47, branch := some b, plyB := f.plyB }
    | .rep r => s.setFlow c { g with pc := (f.pc + 4) % 2 ^ 47, rep := some r }
    | _ =>
      match f.rep with
      | some r =>
        let p := s.spec c
        let left := bf p.rc 27 0 - 1
        let s := s.setSpec c { p with rc := setBf p.rc 27 0 left }
        if left = 0 then s.inSeq c f.pc { g with rep := none }
        else s.setFlow c { g with jumped := f.jumped, rep := some { r with started := true } }
      | none => put (s.inSeq c f.pc g)

/-! ### Issue of a word -/

/-- What a word is, for the checks of slots, REP targets and loop ends (R187, R193, R197), and the registers it reads. -/
structure Kind where
  /-- Its register specifiers and fields are defined; else it is an illegal instruction whatever stands around it (R167, R203). -/
  legal : Bool := true
  /-- Branch, call, RET, J, WCALL, WRET, ERET or SYS. -/
  transfer : Bool := false
  /-- WRET, ERET and SYS, which R193 does not bar from a loop's last word. -/
  lastOk : Bool := false
  /-- LOOP, LBRK or REP. -/
  loop : Bool := false
  /-- A .S branch, whose slot is judged when it issues (R187); a REP, whose target is (R197). -/
  slot : Bool := false
  rep : Bool := false
  writesRc : Bool := false
  writesSt : Bool := false
  twoPly : Bool := false
  uses : List Reg5 := []
  deriving DecidableEq, Repr

/-- What the instruction of a word of code memory is. -/
def kindOf : Instr → Kind
  | .twoPlyWord _ _ => { twoPly := true }
  | .b _ _ => { transfer := true }
  | .bS _ _ => { transfer := true }
  | .bc _ _ _ _ => { transfer := true }
  | .bcS _ _ _ _ => { transfer := true }
  | .call _ _ => { transfer := true }
  | .callS _ _ => { transfer := true }
  | .callr _ _ => { transfer := true }
  | .ret _ => { transfer := true }
  | .j _ _ => { transfer := true }
  | .wcall _ _ => { transfer := true }
  | .wret _ => { transfer := true }
  | .eret _ => { transfer := true }
  | .sys _ _ => { transfer := true }
  | .loopr _ _ _ => { loop := true }
  | .loopi _ _ _ => { loop := true }
  | .lbrk _ => { loop := true }
  | .repr _ _ => { loop := true }
  | .repi _ _ => { loop := true }
  | .mts _ n _ => { writesRc := n.toNat == 3, writesSt := n.toNat == 4 }
  | _ => {}

/-- The word at `pc` is the last word of an active loop body. -/
def State.isLast (s : State) (c pc : Nat) : Bool :=
  let p := s.spec c
  let d := stLdep (s.st c)
  (d != 0 && pc == bf p.lb0 46 0 + bf p.lb0 55 47 * 4) || (d == 2 && pc == bf p.lb1 46 0 + bf p.lb1 55 47 * 4)

/-- Records of the context's level that name another word are discarded when a word issues (R419). -/
def State.pruneMicro (s : State) (c : Nat) : State :=
  let x := s.core c
  if x.bankOn ∨ x.trap.isSome then s
  else
    let y := x.me
    s.setMe c { y with micro := y.micro.filter fun m => m.level != y.level || m.pc == y.flow.pc }

/-! #### L1I (R317, R319, R328) -/

/-- Put a line into a set-associative L1; which way goes is open. -/
def l1Put (sets ways line pick : Nat) (l : Sparse Nat) : Sparse Nat :=
  let at_ := fun w => line % sets * ways + w
  let empty := (List.range ways).find? fun w => sget 0 (at_ w) l == 0
  sset 0 (at_ (empty.getD (pick % ways))) (line + 1) l

/-- An L1 holds a line. -/
def l1Has (line : Nat) (l : Sparse Nat) : Bool := l.any fun e => e.2 == line + 1

/-- An L1 finds a parity error in a line that it holds: the line is invalidated, to be fetched again from L2 (R328). -/
def State.l1Check (s : State) (c line : Nat) : State :=
  let x := s.core c
  if x.upset.contains line then
    (s.setCore c { x with upset := x.upset.filter (fun l => l != line), l1i := x.l1i.filter (fun e => e.2 != line + 1),
                          l1d := x.l1d.filter (fun e => e.2 != line + 1), side := x.side.filter fun l => l != line }).cacheErr (cluOf c) line
  else s

/-- A line comes into L1I through the L2 (R317): a line that takes no way there takes none here (R322). -/
def State.l1iFill (s : State) (c line : Nat) : State :=
  let k := cluOf c
  let s := s.l2Read k line
  if (s.l2Find k line).isNone then s
  else (s.setCore c { s.core c with l1i := l1Put 256 2 line (Config.victim s.free) (s.core c).l1i }).useFree

/-- The words of a fetched line: L1I, or a miss that delays the fetch by 20 core cycles when the L2 holds the line and by memory's
latency when it does not (R317). The error of a fill is answered. -/
def State.fetchLine (s : State) (c pa : Nat) : State × Option (Nat × Nat) :=
  let k := cluOf c
  let line := pa / 64
  let s := s.l1Check c line
  if isDevice pa || l1Has line (s.core c).l1i then (s, none)
  else
    let s := s.probe k pa 0 k
    match s.fillErr k pa with
    | some e => (s.busErrLog pa 0 k, some e)
    | none => ((if (s.l2Find k line).isSome then s.spend c 20 else s.stall c).l1iFill c line, none)

/-- Fetch the word that the flow names (R165, R308). -/
def State.fetch (s : State) (c : Nat) : State × Option Flt :=
  let s := s.pruneMicro c
  match s.translate c (s.world_ c) (s.sup c) .fetch (s.flow c).pc with
  | (s, .inl f) => (s, some f)
  | (s, .inr pa) => match s.fetchLine c pa with
    | (s, some e) => (s, some { cls := xIdata, cause := e.1, detail := e.2, va := 0 })
    | (s, none) => (s, none)

/-- The word of code memory at an address, as predecode sees it; none where it cannot be read. -/
def State.codeAt (s : State) (c pc : Nat) : Option (BitVec 32) :=
  match (s.translate c (s.world_ c) (s.sup c) .fetch pc).2 with
  | .inl _ => none
  | .inr pa =>
    if isDevice pa || (s.fillErr (cluOf c) pa).isSome then none
    else some (BitVec.ofNat 32 ((mrdW (pa / 8 * 8) s.mem).toNat / 2 ^ (pa % 8 * 8)))

/-- What the next word in sequence is, by code memory. -/
def State.nextKind (s : State) (c : Nat) : Kind :=
  match (s.codeAt c (((s.flow c).pc + 4) % 2 ^ 47)).bind (decodeWord (Fin.ofNat 512 c)) with
  | some i => kindOf i
  | none => {}

/-- The slot of a .S branch, or the target of a REP, is one that it may not have (R187, R197). -/
def State.badNext (s : State) (c : Nat) (k : Kind) : Bool :=
  let n := s.nextKind c
  (k.slot && (n.transfer || n.loop || s.isLast c (((s.flow c).pc + 4) % 2 ^ 47))) ||
    (k.rep && (n.transfer || n.loop || n.writesRc || n.writesSt || n.twoPly))

/-- A rule that the word breaks where it stands: in a slot, as a REP target, or as the last word of a loop, reached in sequence
(R187, R193, R197). -/
def State.misplacedWord (s : State) (c : Nat) (k : Kind) : Bool :=
  let f := s.flow c
  let last := s.isLast c f.pc
  (f.branch.isSome && (k.transfer || k.loop || last)) ||
    ((f.rep.any fun r => !r.started) && (k.transfer || k.loop || k.writesRc || k.writesSt || k.twoPly)) ||
    (last && !f.jumped && ((k.transfer && !k.lastOk) || k.loop))

/-- The fault of a misplaced word is the branch's or the REP's, with nothing executed and RC as it was (R187, R193, R197). -/
def State.raiseMisplaced (s : State) (c : Nat) : State :=
  let f := s.flow c
  match f.branch, f.rep with
  | some b, _ => (s.setFlow c { f with pc := b.pc, branch := none }).raiseAt c (flt xIllegalOp 0) b.pc b.flags
  | none, some r =>
    if r.started then s.raise c (flt xIllegalOp 0) false false
    else
      let s := s.setSpec c { s.spec c with rc := r.old }
      (s.setFlow c { f with pc := r.pc, rep := none }).raiseAt c (flt xIllegalOp 0) r.pc r.flags
  | none, none => s.raise c (flt xIllegalOp 0) false false

/-- Words of a core can issue. -/
def State.runs (s : State) (c : Nat) : Bool := (s.core c).live && s.clocked (cluOf c)

/-- What a word's work of `n` core cycles leads to. -/
def act (c n : Nat) : Res → State
  | .ok s nx loads => if (s.core c).up then (s.spend c n).complete c nx loads else s
  | .bad s f => s.raise c f false false
  | .taken s => s

/-- Issue one word of `n` core cycles (R172): a core on which nothing runs leaves the state as it is (the word cannot issue); a word
whose routine stands at a safe point goes on; else a fault of fetch, a wait for a loaded register, a misplaced word, a REP target with
count 0, or the word's own work. -/
def State.issue (s : State) (c : Nat) (k : Kind) (n : Nat) (body : State → Res) : State :=
  if s.runs c = false then s
  else if (s.flow c).run.isSome then act c n (body s)
  else match s.fetch c with
    | (s, some f) => s.raise c f false false
    | (s, none) =>
      let s := (s.await c k.uses).multDue c
      if k.legal && s.misplacedWord c k then s.raiseMisplaced c
      else if (s.flow c).rep.isSome && bf (s.spec c).rc 27 0 == 0 then
        (s.showLoads c).inSeq c (s.flow c).pc
          { s.flow c with rep := none, pend := [], plyB := false, aLoads := [], afterSt := false, first := false, jumped := false }
      else if k.legal && s.badNext c k then s.raise c (flt xIllegalOp 0) false false
      else act c n (body s)

/-- No bank, trap window or loss of clock keeps an event from a context of the core (log entry 61). -/
def State.ctxFree (s : State) (c : Nat) : Bool := !(s.core c).bankOn && (s.core c).trap.isNone && (s.core c).up

/-- Do `f` with context `j` as the current one, so that its word completes or faults; then it is READY, or the running context if a
window trap or the double-fault handler has been entered. -/
def State.asCtx (s : State) (c j : Nat) (f : State → State) : State :=
  let s := s.spend c 0
  let x := s.core c
  let s := f (s.setCore c { x with cur := j, run := true, up := false })
  let y := { s.core c with up := x.up }
  if y.out && !x.out then s.setCore c y
  else if y.trap.isSome then
    let y := if x.run then y.setCtx x.cur { y.ctx x.cur with state := 2 } else y
    s.setCore c (y.setCtx j { y.ctx j with state := 3 })
  else
    let y := if y.run then y.setCtx j { y.ctx j with state := 2, waits := 0 } else y
    (s.setCore c { y with cur := x.cur, run := x.run }).schedule c

/-- A word that names a register 24 to 31, or sets a field that must be zero, is illegal (R167, R203). -/
def regsOk (l : List Reg5) : Bool := l.all fun r => decide (r.toNat < 24)

end Sys2Proof.Machine
end

