-- ==== Sys2Proof/Machine/CoreRegs.lean ====
section
/-! DEFINITION. Registers of cores and clusters whose writes act: CLU_L2LOCK, CTX_TIMER, the decode table (07, 09, 13). -/

namespace Sys2Proof.Machine

/-- Bits set of a 16-bit mask. -/
def popcount16 (n : Nat) : Nat := ((List.range 16).filter fun i => bit n i).length

/-- A write of CLU_L2LOCK clears the preload marks (R324, R325). -/
def State.setL2lock (s : State) (k mask : Nat) : State :=
  let s := s.setReg (oClu k 0x4010) (BitVec.ofNat 64 (mask % 65536))
  let x := s.clu k
  s.setClu k { x with l2 := x.l2.map fun e => (e.1, e.2.map fun l => { l with mark := false }) }

/-- CLU_L2LOCK_WRITE (R324): more than 12 bits are a reserved encoding, which leaves the register and the marks. -/
def State.l2lockWrite (s : State) (k : Nat) (v : Word) : State :=
  if 12 < popcount16 (bf v 15 0) then s else s.setL2lock k (bf v 15 0)

/-- What UCS_DEC_DATA shows for a slot. Slots 0 to 6 name ROM routines whose addresses the spec leaves open. -/
def State.decRead (s : State) (slot : Nat) (active : Bool) : Word :=
  if slot < 7 then setBf (setBf 0 63 63 1) 14 0 (Config.romEntry slot % 0x6000)
  else if slot < 32 then 0
  else sget 0 slot (if active then s.ucode.decA else s.ucode.decS)

/-- One access to UCS_DEC_DATA. -/
def State.decAccess (s : State) (write : Bool) (v : Word) : State :=
  let idx := s.reg (oUcs 0x18)
  let slot := bf idx 5 0
  let s :=
    if write then
      let e := setBf (setBf 0 63 61 (bf v 63 61)) 14 0 (bf v 14 0)
      if slot < 32 ∨ (bf v 63 63 = 1 ∧ (bf v 14 0 < 0x7800 ∨ 0x7FFF < bf v 14 0)) then s
      else { s with ucode := { s.ucode with decS := sset 0 slot e s.ucode.decS } }.tabPend 3
    else
      { s with rdata := s.decRead slot (bf idx 62 62 == 1) }
  if bf idx 63 63 = 1 then s.setField (oUcs 0x18) 5 0 (if slot = 63 then 32 else slot + 1) else s

def oTimer (c j : Nat) : Nat := oCore c (0x20 + j * 8)

/-- Clear bit `code` of the pending sources at a key. -/
def State.irqClear (s : State) (key code : Nat) : State :=
  let m := sget 0 key s.irqs
  { s with irqs := sset 0 key (if bit m code then m - 2 ^ code else m) s.irqs }

/-- A write of CTX_TIMER: the compare value, and TIMER is no longer pending (R237). -/
def State.timerWrite (s : State) (c j : Nat) (v : Word) : State :=
  let s := (s.setReg (oTimer c j) (BitVec.ofNat 64 (bf v 55 0))).irqClear (c * 4 + j) irqTimer
  if j = 0 then s.irqClear (10000 + c) irqTimer else s

end Sys2Proof.Machine
end

