-- ==== Sys2Proof/Machine/PortCmds.lean ====
section
/-! DEFINITION. Meanings of the commands of front-end ports (02_ports_and_stitches.md) and of F0 and F6 replies. -/

namespace Sys2Proof.Machine

/-- A valid block reaches port p: it is counted, and any block but TRAIN ends a run of TRAIN blocks (R84, Table 2.4). -/
def State.heard (s : State) (p : Nat) (train : Bool) : State :=
  let s := s.bump (oPort p 0x100)
  if train then s else s.setPort p { s.port p with trainRx := 0, trainAck := 0 }

/-- Do `f` when the port can receive blocks. -/
def whenHears (s : State) (p : Nat) (f : State → State) : Out := .next (if (s.port p).hears then f s else s)

/-- A block that the port's kind does not take is discarded and counted (R47); it ends a run of TRAIN blocks. -/
def State.misplaced (s : State) (p : Nat) : State :=
  (s.setPort p { s.port p with trainRx := 0, trainAck := 0 }).bump (oPort p 0x120)

/-- UPLINK_IDLE: not stored (R66); the buffer drains meanwhile (R68). -/
def execUplinkIdle (t : Time) (p : PortId) (s : State) : Out := whenHears (s.at t) p fun s => s.heard p false

/-- UPLINK_TRAIN: front-end type and serial, and the counts of Table 2.4. -/
def execUplinkTrain (t : Time) (p : PortId) (feType : BitVec 16) (serial : BitVec 24) (ack : Bool) (s : State) : Out :=
  whenHears (s.at t) p fun s =>
    let s := s.heard p true
    let s := (s.setField (oPort p 8) 63 48 feType.toNat).setField (oPort p 8) 47 24 serial.toNat
    let x := s.port p
    if x.link = .train then
      let n := x.trainRx + 1
      let s := s.setPort p { x with trainRx := n, trainAck := if ack then x.trainAck + 1 else 0,
                                    ackAt := if x.ackAt.isNone && decide (16 ≤ n) then some s.now else x.ackAt,
                                    filler := fillerOf p .train (x.ackAt.isSome || decide (16 ≤ n)) }
      if s.trained p then s.enter p (if s.isReadout p then .ready else .sync) true else s
    else s

/-- TICK: stored in the elastic buffer (R50, R66). -/
def execTick (t : Time) (p : PortId) (raw : BitVec 28) (s : State) : Out :=
  whenHears (s.at t) p fun s =>
    if s.isReadout p then s.misplaced p
    else (s.heard p false).entryStage p
      { data := false, block := setBf (setBf 0 63 56 0x2D) 55 28 raw.toNat, arr := fineUnits t, hit2 := false }

/-- ECHO: one round trip of the calibration run (R78, R79); its receipt is stamped in whole ps, 128 ticks (log entry 86). -/
def execEcho (t : Time) (p : PortId) (ident : BitVec 8) (turnaround : BitVec 24) (s : State) : Out :=
  whenHears (s.at t) p fun s =>
    if s.isReadout p then s.misplaced p
    else
      let s := s.heard p false
      let x := s.port p
      match x.echoes.find? fun e => e.1 == ident.toNat with
      | none => s
      | some e =>
        if x.calRun ∧ (t : Int) ≤ e.2 + (usT 64 : Int) then
          let rtts := x.rtts ++ [((t / 128 * 128 : Nat) : Int) - e.2 - ((turnaround.toNat * 128 : Nat) : Int)]
          let s := s.setPort p { x with echoes := x.echoes.filter fun f => f.1 != ident.toNat, rtts := rtts }
          if rtts.length = 16 then s.calSuccess p rtts else s
        else s

/-- STATUS: status word, front-end fault (R57) and the link transitions of Table 2.4 and R54. -/
def execStatus (t : Time) (p : PortId) (dlLock synced feFault : Bool) (word : BitVec 32) (s : State) : Out :=
  whenHears (s.at t) p fun s =>
    let s := (s.heard p false).setReg (oPort p 0x10) (BitVec.ofNat 64 word.toNat)
    let was := s.field (oPort p 8) 2 2
    let s := s.setField (oPort p 8) 2 2 (b2n feFault)
    let s := if was = 0 ∧ feFault then s.bump (oPort p 0x160) else s
    let s := if was = 0 ∧ feFault ∧ s.castOn then s.feFaultIn p else s
    let x := s.port p
    if x.link = .dead then s
    else if dlLock = false then s.enter p .acquire false
    else if s.isReadout p then s
    else if synced = false ∧ (x.link = .measure ∨ x.link = .ready ∨ x.link = .up) then s.enter p .sync false
    else if synced ∧ x.link = .sync then
      match x.syncEff with
      | some e => if e * unitT ≤ t ∧ t ≤ e * unitT + usT 64 then s.enter p .measure true else s
      | none => s
    else s

/-- SC_REPLY: PRT_SCIN shows the reply (Table 2.17). -/
def execScReply (t : Time) (p : PortId) (payload : BitVec 48) (s : State) : Out :=
  whenHears (s.at t) p fun s =>
    if s.isReadout p then s.misplaced p
    else ((s.heard p false).setField (oPort p 0x50) 55 8 payload.toNat).raiseBit (oPort p 0x50) 63

/-- CREDIT: the grant is added up to 65,535 (R82). -/
def execCredit (t : Time) (p : PortId) (grant : BitVec 16) (s : State) : Out :=
  whenHears (s.at t) p fun s =>
    if s.isReadout p then
      let s := s.heard p false
      s.setPort p { s.port p with credits := min 65535 ((s.port p).credits + grant.toNat) }
    else s.misplaced p

/-- An uplink control block has a type of Table 2.2, zero where the table gives zero, and suits the kind of port (R47). -/
def uplinkKnown (readout : Bool) (w : Word) : Bool :=
  match bf w 63 56 with
  | 0x0F => bf w 55 8 == 0
  | 0x1B => bf w 15 9 == 0
  | 0x2D => bf w 27 8 == 0 && !readout
  | 0x4E => bf w 23 8 == 0 && !readout
  | 0x55 => bf w 52 40 == 0
  | 0x63 => !readout
  | 0x72 => bf w 39 8 == 0 && readout
  | _ => false

/-- INVALID_UPLINK_BLOCK: discarded and counted by what is wrong with it (R44, R47); it ends a run of TRAIN blocks. -/
def execInvalidUplinkBlock (t : Time) (p : PortId) (sync : BitVec 2) (block : Word) (s : State) : Out :=
  whenHears (s.at t) p fun s =>
    let bad := crc8 block != bf block 7 0
    let count := fun (o : Nat) =>
      (s.setPort p { s.port p with trainRx := 0, trainAck := 0 }).bump (oPort p o)
    if sync = 2 then
      if bad then count 0x110 else if uplinkKnown (s.isReadout p) block then s else count 0x120
    else if sync = 1 then
      if dCheck (s.descA p) = 1 ∧ bad then count 0x110 else s
    else count 0x118

/-- HIT_BLOCK: checked, stamped and stored, or counted as late or gap (R66, R67). -/
def execHitBlock (t : Time) (p : PortId) (block : Word) (s : State) : Out :=
  whenHears (s.at t) p fun s =>
    if dCheck (s.descA p) = 1 ∧ crc8 block ≠ bf block 7 0 then
      (s.setPort p { s.port p with trainRx := 0, trainAck := 0 }).bump (oPort p 0x110)
    else
      let s := s.heard p false
      if s.isHit p then s.entryStage p { data := true, block := block, arr := fineUnits t, hit2 := false } else s

/-- A block of the buffer may be presented now (R66): its delay has passed, one stitch cycle after the block before it. -/
def State.presentable (s : State) (p : Nat) (e : Elastic) : Bool :=
  let x := s.port p
  decide (e.arr * fineT + (x.delay.getD (nsT 12 + 102400)) ≤ s.now) && (x.shown == 0 || decide (x.shown + stitchT ≤ s.now))

/-- One word of an F0 reply, at device time `t`: classify, channel and output stages (Table 14.9, R64). At a closed stitch it is a
late hit, or it waits for the next frame. -/
def State.replyWord (s : State) (p : Nat) (t : Int) (w : Word) : State :=
  let wait := fun (s : State) => s.setPort p { s.port p with held := (s.port p).held ++ [(t, w)] }
  if (s.port p).closed then (if t < s.stopFine then s.bump (oPort p 0x140) else wait s)
  else
    match s.classify p t with
    | .order => s.bump (oPort p 0x130)
    | .gap => s.bump (oPort p 0x138)
    | .close => wait ((s.setPort p { s.port p with closed := true }).portToRow p 3 .close)
    | .pass =>
      let s := s.advance p t
      if bf w 63 56 = 0x12 then s
      else s.channelStage p (bf w 43 28 % 128) (bf w 55 44) (t - s.startFine).toNat 3

/-- A word that waited over a cast-on is classified under the new frame. -/
def State.heldStep (s : State) (p : Nat) (t : Int) (w : Word) : State :=
  let s := (s.setPort p { s.port p with held := (s.port p).held.drop 1 }).replyWord p t w
  if (s.port p).closed then s else s.reportTime p 3

/-- The stitch of an UP port is open: from its cast-on until it closes, also past an overrun, whose row counts what still comes as
late (R33). -/
def State.stitchOpen (s : State) (p : Nat) : Bool :=
  (s.port p).link == .up && !(s.port p).closed && s.frame.phase != .idle

/-- STITCH_PIPELINE: the head block is presented and processed (R63 to R65); in F0 host-assisted mode it is gathered for the host
(Table 14.9); words that waited for this frame go first; a failed check is a stitch failure (R581). -/
def execStitchPipeline (t : Time) (p : PortId) (fail : Bool) (s : State) : Out :=
  let s := s.at t
  if fail then .next (s.stitchFail p)
  else
    let x := s.port p
    match x.held, x.buf with
    | (u, w) :: _, _ => .next (if s.stitchOpen p then s.heldStep p u w else s)
    | [], [] => .next s
    | [], e :: _ =>
      if s.stitchOpen p ∧ s.presentable p e then
        let s := s.setPort p { x with shown := t, delay := x.delay.or (some (min 1966080 (t - e.arr * fineT))) }
        if s.haOn 0 (p / 16) then
          let x := s.port p
          .next (s.setPort p { x with buf := x.buf.drop 1, gathered := x.gathered ++ [e],
                                      gatherAt := if x.gathered.isEmpty then t else x.gatherAt })
        else .next (s.pipeline p e)
      else .next s

/-- BLOCK_LOCK_GAINED: ACQUIRE to TRAIN (R53). -/
def execBlockLockGained (t : Time) (p : PortId) (s : State) : Out :=
  let s := s.at t
  .next (if (s.port p).link = .acquire then s.enter p .train true else s)

/-- BLOCK_LOCK_LOST: to ACQUIRE from every state but OFF and DEAD (R54). -/
def execBlockLockLost (t : Time) (p : PortId) (s : State) : Out :=
  let s := s.at t
  .next (if (s.port p).link = .off ∨ (s.port p).link = .dead then s else s.enter p .acquire false)

/-- TRAIN_TIMEOUT: 1 ms in TRAIN without mutual acknowledgement (Table 2.4). -/
def execTrainTimeout (t : Time) (p : PortId) (s : State) : Out :=
  let s := s.at t
  .next (if (s.port p).link = .train ∧ (s.port p).since + usT 1000 ≤ t then s.enter p .acquire true else s)

/-- SYNC_COMMAND: the first SYNC of a stay in SYNC (R53). -/
def execSyncCommand (t : Time) (p : PortId) (s : State) : Out :=
  let s := s.at t
  let x := s.port p
  .next (if x.link = .sync ∧ x.syncs = 0 then s.sendSync p (syncBoundary (devUnits x.since)) else s)

/-- SYNC_TIMEOUT: another SYNC, or ACQUIRE after the fourth (Table 2.4). -/
def execSyncTimeout (t : Time) (p : PortId) (s : State) : Out :=
  let s := s.at t
  let x := s.port p
  match x.syncEff with
  | none => .next s
  | some e =>
    .next (if x.link = .sync ∧ e * unitT + usT 64 < t then
        if 4 ≤ x.syncs then s.enter p .acquire true else s.sendSync p (syncBoundary e)
      else s)

/-- ECHO_COMMAND: the next ECHO of a run, 256 ns after the one before (R79). -/
def execEchoCommand (t : Time) (p : PortId) (s : State) : Out :=
  let s := s.at t
  let x := s.port p
  .next (if x.calRun ∧ x.calSent < 16 then
      let ident := (x.calRound * 16 + x.calSent) % 256
      let eff := x.calNext
      let s := s.setPort p { x with calSent := x.calSent + 1, calNext := eff + 32768000, echoes := x.echoes ++ [(ident, eff)] }
      s.sendCmd p 2 eff 0x09 (ident * 2 ^ 14) false
    else s)

/-- ECHO_TIMEOUT: a reply is missing 64 µs after its command (R79). -/
def execEchoTimeout (t : Time) (p : PortId) (s : State) : Out :=
  let s := s.at t
  let x := s.port p
  .next (if x.calRun ∧ x.echoes.any (fun e => decide (e.2 + (usT 64 : Int) < (t : Int))) then s.calMissing p else s)

/-- PRT_ENABLE: ENABLE 1 lets the port leave OFF, ENABLE 0 returns it to OFF (R56). -/
def execPrtEnable (t : Time) (p : PortId) (en : Bool) (s : State) : Out :=
  let s := (s.at t).setField (oPort p 0) 0 0 (b2n en)
  .next (if en then s.tryLeaveOff p else if (s.port p).link = .off then s else s.enter p .off true)

/-- PRT_FORCE_DEAD (R54, R56). -/
def execPrtForceDead (t : Time) (p : PortId) (set : Bool) (s : State) : Out :=
  let s := (s.at t).setField (oPort p 0) 1 1 (b2n set)
  .next (if set ∧ (s.port p).link ≠ .off ∧ (s.port p).link ≠ .dead then s.enter p .dead true else s)

/-- PRT_RETRAIN (R54). -/
def execPrtRetrain (t : Time) (p : PortId) (s : State) : Out :=
  let s := s.at t
  .next (if (s.port p).link = .off ∨ (s.port p).link = .dead then s else s.enter p .acquire true)

/-- CAL_START (R79). -/
def execCalStart (t : Time) (p : PortId) (s : State) : Out :=
  let s := s.at t
  let x := s.port p
  .next (if s.isReadout p then s.setField (oPort p 0x28) 58 56 4
    else if x.calRun ∨ x.link = .measure then s
    else if (x.link = .ready ∨ x.link = .up) ∧ s.castOn = false then s.calBegin p
    else (s.setPort p { x with calReq := true }).setField (oPort p 0x28) 58 56 2)

/-- Class and FC_MASK bit of a software command code, if the code is allowed (R77). -/
def softClass (code : Nat) : Option (Nat × Nat) :=
  if code = 0x0A then some (3, 3) else if code = 0x0B then some (4, 5)
  else if 0x20 ≤ code ∧ code ≤ 0x2F then some (5, 4) else none

/-- FCSEND: issue or refuse a software command (R77, R592); a readout port receives none (R81). -/
def execFcsend (t : Time) (p : PortId) (v : Word) (s : State) : Out :=
  let s := s.at t
  let x := s.port p
  if x.cmds.any (·.soft) then .next s
  else match softClass (bf v 63 58) with
    | none => .next s
    | some (rank, maskBit) =>
      let eff := s.field (oPort p 0x38) 55 0
      .next (if eff * unitT < t + usT 1 ∨ bit (dFcMask (s.descB p)) maskBit = false ∨ s.isReadout p then s.bump (oPort p 0x150)
        else s.sendCmd p rank ((eff * unitT : Nat) : Int) (bf v 63 58) (softArg (bf v 63 58) (bf v 57 36)) true)

/-- SLOW_CONTROL_SEND: the bits leave in the next downlink slow-control block, which only an UP hit port sends (R48). -/
def execSlowControlSend (t : Time) (p : PortId) (v : Word) (s : State) : Out :=
  let s := s.at t
  let x := s.port p
  .next (if x.link = .up ∧ s.isHit p then s.setPort p { x with sent := [(true, withCrc8 v)] }
    else s.setPort p { x with scOut := some (withCrc8 v) })

/-- Entry of a queue as its eight words. -/
def State.qEntry (s : State) (q i : Nat) : List Word := mrdWs (s.qAddr q i) 8 s.mem

/-- The ten blocks of a readout record (Table 2.3): RO_START, the record in eight data blocks without check, RO_END. -/
def roBlocks (stream seq : Nat) (ws : List Word) : List (Bool × Word) :=
  let start := withCrc8 (setBf (setBf (setBf 0 63 56 0x96) 55 48 stream) 47 32 seq)
  let fin := withCrc8 (setBf (setBf 0 63 56 0xA5) 55 24 (crc32c (wordBytes ws)))
  (false, start) :: (ws.map fun w => (true, w)) ++ [(false, fin)]

/-- READOUT_RECORD_SEND: one record goes as RO_START, eight data blocks and RO_END and uses one credit (R82, R464). -/
def execReadoutRecordSend (t : Time) (p : PortId) (q : QueueId) (s : State) : Out :=
  let s := s.at t
  let x := s.port p
  let b := s.reg (oQbind q)
  let idle : Bool := match x.sending with
    | some (_, _, e) => decide (e ≤ t)
    | none => true
  if x.link = .up ∧ s.isReadout p ∧ 0 < x.credits ∧ idle ∧ s.qState q = 1 ∧ s.qType q = 1 ∧ bf b 52 52 = 1 ∧
      bf b 51 43 = p.val ∧ s.qHost q ≠ s.qDev q then
    let i := s.qHost q
    let s := s.setPort p { x with credits := x.credits - 1, sent := roBlocks (bf b 42 35) (i % 65536) (s.qEntry q i),
                                  sending := some (bf b 42 35, i % 65536, t + 10 * stitchT) }
    let s := s.setQueue q { s.queue q with fresh := (s.queue q).fresh.filter fun e => e.1 != i }
    .next (s.setField (oQidx q) 31 0 ((i + 1) % 2 ^ 32))
  else .next s

/-- Advance an index field of `b` bits when AUTOINC (bit 63) is 1 (R62, R109). -/
def State.autoInc (s : State) (o b : Nat) : State :=
  if s.field o 63 63 = 1 then s.setField o (b - 1) 0 ((s.field o (b - 1) 0 + 1) % 2 ^ b) else s

/-- REGMAP_DATA_ACCESS (R62): writes go to the staged copy, reads to the copy ACTIVE_VIEW selects. -/
def execRegmapDataAccess (t : Time) (write : Bool) (v : Word) (s : State) : Out :=
  let s := s.at t
  let c := s.field (oFmt 0x100) 15 0
  let s :=
    if write then
      let e := setBf (setBf (setBf (setBf 0 31 31 (bf v 31 31)) 30 30 (bf v 30 30)) 27 16 (bf v 27 16)) 11 0 (bf v 11 0)
      ({ s with regionS := sset 0 c e s.regionS }).tabPend 0
    else { s with rdata := sget 0 c (if s.field (oFmt 0x100) 62 62 = 1 then s.regionA else s.regionS) }
  .next (s.autoInc (oFmt 0x100) 16)

/-- FMT_CHCNT_DATA1 of the channel that the index names (Table 2.21). -/
def State.chcnt1 (s : State) : Word :=
  let c := s.chan (s.field (oFmt 0x110) 15 0)
  setBf (setBf (setBf 0 63 63 (b2n c.auto)) 47 24 c.masked) 23 0 c.supp

/-- CHCNT_DATA1_READ (R70). -/
def execChcntData1Read (t : Time) (s : State) : Out :=
  let s := s.at t
  .next (({ s with rdata := s.chcnt1 }).autoInc (oFmt 0x110) 16)

/-- AUTOMASK_CLEAR (R72). -/
def execAutomaskClear (t : Time) (v : Word) (s : State) : Out :=
  let s := s.at t
  let c := s.field (oFmt 0x110) 15 0
  .next (if bf v 63 63 = 1 ∧ s.justRaised (2 ^ 32 + c) 63 = false then s.setChan c { s.chan c with auto := false, cnt := 0 } else s)

/-- The effective time of an ECHO is that of the block that carried it (R74, R78). -/
def PortSt.echoLeft (x : PortSt) (d : FastCmd) : PortSt :=
  if d.code = 0x09 then
    { x with echoes := x.echoes.map fun e =>
        if e.1 = d.arg / 2 ^ 14 then (e.1, refTicks d.ref d.phase + ((d.fine * 125 : Nat) : Int)) else e }
  else x

/-- FAST_COMMAND_DEPARTURE: the earliest block that carries a command leaves at its reference time (R74). -/
def execFastCommandDeparture (t : Time) (p : PortId) (s : State) : Out :=
  let s := s.at t
  let x := s.port p
  match x.cmds.filter (fun c => decide (refTicks c.ref c.phase ≤ (t : Int))) with
  | [] => .next s
  | c :: l =>
    let d := l.foldl (fun a b => if b.ref < a.ref then b else a) c
    let w := withCrc8 (setBf (setBf (setBf (setBf 0 63 56 0x87) 55 50 d.code) 49 34 d.fine) 33 12 d.arg)
    .next (s.setPort p { x.echoLeft d with cmds := x.cmds.filter (fun c => c.ref != d.ref), sent := [(false, w)] })

/-- HIT_DECODE_WORK: 3 gathered blocks, or what 10 stitch cycles have gathered, go to the host (Table 14.9). -/
def execHitDecodeWork (t : Time) (p : PortId) (s : State) : Out :=
  let s := s.at t
  let x := s.port p
  if s.haOn 0 (p / 16) ∧ x.gathered ≠ [] ∧ (3 ≤ x.gathered.length ∨ x.gatherAt + 10 * stitchT ≤ t) then
    let g := x.gathered.take 3
    let ws := g.flatMap fun e => [BitVec.ofNat 64 e.arr, e.block]
    let ws := (ws ++ List.replicate (6 - ws.length) 0) ++ [BitVec.ofNat 64 g.length]
    let s := s.setPort p { x with gathered := x.gathered.drop 3 }
    .next (s.haSend 0 0 p (s.haDeadline 0 (some (s.cutoffT (s.slotAt t)))) ws)
  else .next s

/-- Frame-relative time of a reply word: of a HIT its time, of a TIME word its payload, which is 16 times the TICK's (Table 14.9). -/
def replyTime (w : Word) : Nat := if bf w 63 56 = 0x12 then bf w 55 0 / 16 else bf w 27 0

/-- HIT_DECODE_REPLY: the words enter stage 3 of the stitch (R63); their times count from the start of the frame that the work item
belonged to. -/
def execHitDecodeReply (t : Time) (reply : List Word) (s : State) : Out :=
  let s := s.at t
  let s := s.cqTake 0
  match s.haFind 0 reply with
  | none => .next s.haStale
  | some j =>
    let s := s.haDone 0 j.job
    let p := j.unit % 512
    let ws := (reply.drop 1).take (min 6 (bf (reply.getD 7 0) 2 0))
    let s := ws.foldl (fun s w => s.replyWord p (((j.base / 16 + replyTime w : Nat)) : Int) w) s
    .next (if (s.port p).closed then s else s.reportTime p 3)

/-- LINK_CAL_REPLY: a new TCORR, in effect at the next cast-on (Table 14.9, R79). -/
def execLinkCalReply (t : Time) (reply : List Word) (s : State) : Out :=
  let s := s.at t
  let s := s.cqTake 6
  match s.haFind 6 reply with
  | none => .next s.haStale
  | some j => .next ((s.haDone 6 j.job).setField (oPort (j.unit % 512) 0x18) 23 0 (bf (reply.getD 1 0) 23 0))

end Sys2Proof.Machine
end

