-- ==== Sys2Proof/Machine/Timing.lean ====
section
/-! DEFINITION. Frame marks, the time base and the spike channels (01_frame_path.md, 17_timing_and_spike_inputs.md). -/

namespace Sys2Proof.Machine

/-- Drain bound D in ticks: its range, never below H, in steps of 0.1 µs (R18). -/
def State.drainD (s : State) : Nat :=
  let k := max (min (s.field (oTmg 0x20) 9 0) 640) (max 10 ((s.horizon + 12800000 - 1) / 12800000))
  k * 12800000

/-- Frame gap G in ticks, never below D + 2 µs (R18). -/
def State.gapG (s : State) : Nat := max (s.field (oTmg 0x20) 47 24 * 12800000) (s.drainD + usT 2)

/-- Frame end E(n) of the current or last frame in ticks. -/
def State.endT (s : State) : Nat := s.startT + s.lenL * fineT

/-- MARKQ held to 4 to 20 (R527). -/
def State.markQ (s : State) : Nat := max 4 (min 20 (s.field (oTmg 0x18) 60 56))

/-- A mark time reaches the frame logic (R19, R20, R37; DESIGN CHOICE, log entry 99: a mark while a start waits counts as early, and
the shortfall is rounded up); before the device is ready it is ignored and not counted (R472). -/
def State.markNow (s : State) (m : Nat) : State :=
  let s := (s.setField (oTmg 0x48) 55 0 m).bump (oTmg 0x600)
  let f := s.frame
  if s.markMode then
    let early := (decide (f.count ≠ 0) && decide (m * unitT < s.endT)) ||
      (match f.next with
        | some _ => true
        | none => false)
    if early then (s.bump (oTmg 0x608)).err 1 7 0 1 0
    else
      let s := { s with frame := { f with next := some m } }
      let need := s.endT + s.drainD + usT 2
      if f.count ≠ 0 ∧ m * unitT < need then
        (s.bump (oTmg 0x610)).errWith 1 7 0 2 noSlot 0 ((need - m * unitT + 12799999) / 12800000) 0 0 none
      else s
  else if f.count = 0 ∧ f.next.isNone then { s with frame := { f with next := some m } }
  else s

/-- One mark time. -/
def State.markAt (s : State) (m : Nat) : State := if s.field (oDev 8) 63 63 = 1 then s.markNow m else s

/-- FRAME_MARK (R515, R526). -/
def execFrameMark (t : Time) (widthPs : Nat) (s : State) : Out :=
  let s := s.at t
  if widthPs < 5000 then .next (s.bump (oTmg 0x628))
  else if s.field (oTmg 0) 56 56 = 1 then .next s
  else
    let m := devUnits t - s.field (oTmg 0x28) 63 40
    .next (s.markAt (m / 2 ^ s.markQ * 2 ^ s.markQ))

/-- FMSOFT_WRITE: one mark time, when FMSRC is 1 (R526). -/
def execFmsoftWrite (t : Time) (v : Word) (s : State) : Out :=
  let s := s.at t
  .next (if s.field (oTmg 0) 56 56 = 1 then s.markAt (bf v 55 0) else s)

/-- A step of device time moves the count and every frame start scheduled (R520). -/
def State.applyStep (s : State) (d : Int) : State :=
  let s := { s with
    now := ((s.now : Int) + d * 125).toNat,
    frame := { s.frame with next := s.frame.next.map fun n => ((n : Int) + d).toNat },
    time := { s.time with step := none } }
  ((s.bump (oTmg 0x620)).setField (oTmg 8) 58 58 0).setField (oTmg 8) 60 60 1

/-- A step is asked for: at once before the first cast-on, otherwise at the start of the next reset interval (R520). -/
def State.askStep (s : State) (d : Int) : State :=
  if s.frame.count = 0 then s.applyStep d
  else ({ s with time := { s.time with step := some d } }).setField (oTmg 8) 58 58 1

/-- SYNC_EDGE (R522, R523). -/
def execSyncEdge (t : Time) (widthPs : Nat) (s : State) : Out :=
  let s := s.at t
  if widthPs < 5000 then .next (s.bump (oTmg 0x628))
  else
    let at0 : Int := (devUnits t : Int) - (s.field (oTmg 0x28) 39 16 : Int)
    let val := s.field (oTmg 0x30) 55 0
    if s.field (oTmg 0) 55 55 = 1 then
      .next ((s.setField (oTmg 0) 55 55 0).askStep ((val : Int) - at0))
    else
      let e := at0 - (val : Int)
      let s := s.setField (oTmg 0x40) 55 0 (lowBits 56 e)
      let s := s.setField (oTmg 0x30) 55 0 (val + s.field (oTmg 0x38) 55 0)
      .next (if s.field (oTmg 0) 31 16 * 1024 < e.natAbs then s.err 1 7 0 4 0 else s)

def State.tstate (s : State) : Nat := s.field (oTmg 8) 63 61

/-- TSTATE follows the source selected: FREE, or ACQUIRE toward another source, COARSE being left at once (R516, R517, R521). -/
def State.sourceTake (s : State) : State :=
  if s.field (oTmg 0) 63 62 = 0 then s.setField (oTmg 8) 63 61 0
  else if s.field (oTmg 8) 63 61 = 0 then s.setField (oTmg 8) 63 61 1
  else s

/-- SOURCE_LOST: LOCKED to HOLDOVER (R517, R518). -/
def execSourceLost (t : Time) (s : State) : Out :=
  let s := s.at t
  .next (if s.tstate = 2 then ((s.setField (oTmg 8) 63 61 3).bump (oTmg 0x618)).err 1 7 0 3 0 else s)

/-- TIME_LOCKED: ACQUIRE to LOCKED (R517). -/
def execTimeLocked (t : Time) (s : State) : Out :=
  let s := s.at t
  .next (if s.tstate = 1 then s.setField (oTmg 8) 63 61 2 else s)

/-- SOURCE_RESTORED: HOLDOVER to ACQUIRE (R517). -/
def execSourceRestored (t : Time) (s : State) : Out :=
  let s := s.at t
  .next (if s.tstate = 3 then s.setField (oTmg 8) 63 61 1 else s)

/-! ### Spike channels -/

def oSpk (i o : Nat) : Nat := oTmg (0x800 + i * 0x20 + o)

/-- Spike input i is enabled, and its region, as in effect (R88). -/
def State.spikeOn (s : State) (i : Nat) : Bool :=
  let w := s.effReg (oRow (i / 2) 0x10)
  s.rowIn (i / 2) && (if i % 2 = 0 then bf w 31 31 == 1 else bf w 63 63 == 1)
def State.spikeRegion (s : State) (i : Nat) : Nat :=
  let w := s.effReg (oRow (i / 2) 0x10)
  if i % 2 = 0 then bf w 27 16 else bf w 59 48

/-- Frame-relative time of an edge, rounded to the nearest unit (R528). -/
def State.spikeRel (s : State) (i : Nat) (t : Time) : Int :=
  roundDiv (t : Int) 125 - (bf (s.effReg (oTmg (0x200 + i * 8))) 19 0 : Int) - (s.frame.start : Int)

/-- An edge of a closed channel: it waits for the next frame or is a gap spike (R529). -/
def State.spikeWait (s : State) (i : Nat) (t : Time) : State :=
  let x := s.spike i
  let later : Bool := match s.frame.next with
    | some n => decide ((n : Int) ≤ roundDiv (t : Int) 125 - (bf (s.effReg (oTmg (0x200 + i * 8))) 19 0 : Int))
    | none => false
  if later ∧ x.buf.length < 256 then s.setSpike i { x with buf := x.buf ++ [t] } else s.bump (oSpk i 0x18)

/-- An edge of an open channel: gap spike, closing edge, or a SPIKE word on its way to the row (R528). -/
def State.spikeEdge (s : State) (i : Nat) (t : Time) : State :=
  let rel := s.spikeRel i t
  if rel < 0 then s.bump (oSpk i 0x18)
  else if (s.keyL : Int) ≤ rel then
    let s := s.setSpike i { s.spike i with closed := true }
    (s.toRow (i / 2) (16 + i % 2) 5 .close).spikeWait i t
  else
    let w := mkTag 0x11 (i * 2 ^ 50 + rel.toNat)
    (s.bump (oSpk i 0)).toRow (i / 2) (16 + i % 2) 5 (.hit w (s.spikeRegion i))

/-- A calibration of the TDCs has begun and not ended: the inputs capture nothing (R531). -/
def State.tdcRuns (s : State) : Bool :=
  match s.time.tdc with
  | some t0 => decide (t0 ≤ s.now)
  | none => false

/-- SPIKE_EDGE (R528 to R531). -/
def execSpikeEdge (t : Time) (i : SpikeId) (s : State) : Out :=
  let s := s.at t
  let x := s.spike i
  if s.spikeOn i = false then .next s
  else if s.tdcRuns then .next (s.bump (oSpk i 0x18))
  else
    let s := s.setSpike i { x with lastEdge := some t }
    let double : Bool := match x.lastEdge with
      | some l => decide (t < l + 153600)
      | none => false
    if double then .next (s.bump (oSpk i 8))
    else
      let win := (t - s.startT) / usT 10
      let n := (if x.win = win then x.cnt else 0) + 1
      let s := s.setSpike i { s.spike i with win := win, cnt := n }
      if s.castOn ∧ 1000 < n then
        let s := s.bump (oSpk i 0x10)
        .next (if x.rateRec then s else (s.setSpike i { s.spike i with rateRec := true }).err 1 7 i 6 0)
      else .next (if x.closed then s.spikeWait i t else s.spikeEdge i t)

/-- A calibration of the TDCs begins (R531). -/
def State.tdcBegin (s : State) : State :=
  ({ s with time := { s.time with tdc := some s.now, tdcWait := false } }).setField (oTmg 0x58) 58 56 1

/-- TDC_CAL_START (R531). -/
def execTdcCalStart (t : Time) (s : State) : Out :=
  let s := s.at t
  .next (if s.time.tdc.isSome then s
    else if s.castOn then ({ s with time := { s.time with tdcWait := true } }).setField (oTmg 0x58) 58 56 2
    else s.tdcBegin)

/-- TDC_CAL_DONE: after 1.05 ms; inputs with a missing bin keep their tables and are named (R531). -/
def execTdcCalDone (t : Time) (missing : List SpikeId) (s : State) : Out :=
  let s := s.at t
  match s.time.tdc with
  | none => .next s
  | some t0 =>
    if t < t0 + usT 1050 then .next s
    else
      let s := { s with time := { s.time with tdc := none } }
      if missing = [] then .next (s.setField (oTmg 0x58) 58 56 3)
      else .next (missing.foldl (fun s i => s.err 1 7 i 7 0) (s.setField (oTmg 0x58) 58 56 4))

end Sys2Proof.Machine
end

