-- ==== Sys2Proof/Machine/Ring.lean ====
section
/-! DEFINITION. The shroud ring (12_shroud_ring.md): addresses, routing, ports, join and leave, time, relayed commands. -/

namespace Sys2Proof.Machine

def State.rport (s : State) (i : Nat) : RingPortSt := sget .reset i s.ring.ports
def State.setRport (s : State) (i : Nat) (x : RingPortSt) : State :=
  { s with ring := { s.ring with ports := sset .reset i x s.ring.ports } }

def oPstat (i : Nat) : Nat := oShr (0x100 + i * 0x20)
def oRcnt (i o : Nat) : Nat := oShr (0x300 + i * 0x40 + o)

/-! ### Addresses and routing (R389 to R391) -/

def State.node (s : State) : Nat := s.field (oShr 8) 15 0
def State.nx (s : State) : Nat := max 1 (s.field (oShr 8) 24 16)
def State.ny (s : State) : Nat := max 1 (s.field (oShr 8) 40 32)
def State.posX (s : State) : Nat := s.node / 256
def State.posY (s : State) : Nat := s.node % 256

/-- The configuration is bad by its own values (R389). -/
def State.badNode (s : State) : Bool :=
  decide (256 < s.nx ∨ 256 < s.ny ∨ s.nx ≤ s.posX ∨ s.ny ≤ s.posY)

/-- The port is used: X ports when NX is above 1, Y ports when NY is (R389). -/
def State.portUsed (s : State) (i : Nat) : Bool := if i < 2 then decide (1 < s.nx) else decide (1 < s.ny)

/-- Distance from a to b in the rising direction of a ring of n positions. -/
def ringDist (a b n : Nat) : Nat := (b + n - a % n) % n

/-- STATE of a ring port (Table 12.7), RSTATE of the device (Table 12.12). -/
def State.pstate (s : State) (i : Nat) : Nat := s.field (oPstat i) 63 60
def State.rstate (s : State) : Nat := s.field (oShr 0x10) 61 60

/-- Output port of a unicast message for `d`, none when it is delivered here (R390). -/
def State.route (s : State) (d : Nat) : Option Nat :=
  let dx := d / 256
  let dy := d % 256
  if dx ≠ s.posX then some (if ringDist s.posX dx s.nx ≤ s.nx / 2 then 0 else 1)
  else if dy ≠ s.posY then some (if ringDist s.posY dy s.ny ≤ s.ny / 2 then 2 else 3)
  else none

/-- A unicast message that arrives on port i may still be on its way to `d` (R390); it travels in the direction opposite to the
port's name. -/
def State.onWay (s : State) (i d : Nat) : Bool :=
  let dx := d / 256
  let dy := d % 256
  let x := s.posX
  let y := s.posY
  if i = 1 then decide (dx = x ∨ (0 < ringDist x dx s.nx ∧ ringDist x dx s.nx ≤ s.nx / 2))
  else if i = 0 then decide (dx = x ∨ (0 < ringDist dx x s.nx ∧ ringDist dx x s.nx ≤ (s.nx + 1) / 2 - 1))
  else if i = 3 then decide (dx = x ∧ (dy = y ∨ (0 < ringDist y dy s.ny ∧ ringDist y dy s.ny ≤ s.ny / 2)))
  else decide (dx = x ∧ (dy = y ∨ (0 < ringDist dy y s.ny ∧ ringDist dy y s.ny ≤ (s.ny + 1) / 2 - 1)))

/-- Limit of a broadcast in the direction of output port o (R391). -/
def State.limit (s : State) (m : RingMsg) (o : Nat) : Nat :=
  if o = 0 then min m.radX.toNat (s.nx / 2)
  else if o = 1 then min m.radX.toNat ((s.nx + 1) / 2 - 1)
  else if o = 2 then min m.radY.toNat (s.ny / 2)
  else min m.radY.toNat ((s.ny + 1) / 2 - 1)

/-- Distance of this device from the source of a broadcast, in the direction of output port o. -/
def State.bcastDist (s : State) (m : RingMsg) (o : Nat) : Nat :=
  let sx := m.src.toNat / 256
  let sy := m.src.toNat % 256
  if o = 0 then ringDist sx s.posX s.nx
  else if o = 1 then ringDist s.posX sx s.nx
  else if o = 2 then ringDist sy s.posY s.ny
  else ringDist s.posY sy s.ny

/-! ### Sending (R394) -/

/-- Messages still in a port's output at this time. -/
def State.queued (s : State) (i : Nat) : List RingMsg :=
  let x := s.rport i
  (x.outq.filter fun e => decide (s.now < e.1)).map (·.2) ++ x.waitq

/-- Blocks of a message on the link, as time. -/
def msgTime (m : RingMsg) : Time := m.len.toNat * mastT

/-- Messages that follow one another from time `t`, each no earlier than before. -/
def sendFrom (t : Time) (q : List (Time × RingMsg)) : List (Time × RingMsg) :=
  match q with
  | [] => []
  | (e, m) :: rest =>
    let e' := max e (t + msgTime m)
    (e', m) :: sendFrom e' rest

/-- Give a message to the output at the end of the pass-through (Table 12.5). Messages that have begun by then, or are of its class or
a higher one, go before it; the others after it (R394). The time kept is when the last bit has left. -/
def State.putOut (s : State) (i : Nat) (m : RingMsg) : State :=
  let x := s.rport i
  let q := x.outq.filter fun e => decide (s.now < e.1)
  let t0 := s.now + 10649600
  let first := fun (e : Time × RingMsg) => decide (e.1 ≤ t0 + msgTime e.2) || decide (e.2.cls.toNat ≤ m.cls.toNat)
  let p := q.takeWhile first
  s.setRport i { x with outq := p ++ sendFrom ((p.map (·.1)).foldl max t0) ((t0, m) :: q.dropWhile first) }

/-- Send a message on a port that is UP; classes 2 to 5 use credits and wait without them (Table 12.3). -/
def State.sendOn (s : State) (i : Nat) (m : RingMsg) : State :=
  let c := m.cls.toNat
  let x := s.rport i
  if s.pstate i ≠ 4 then s
  else if c < 2 then s.putOut i m
  else
    let have_ := sget 0 c x.credits
    if m.len.toNat ≤ have_ ∧ x.waitq.all (fun w => w.cls != m.cls) then
      (s.setRport i { x with credits := sset 0 c (have_ - m.len.toNat) x.credits }).putOut i m
    else s.setRport i { x with waitq := x.waitq ++ [m] }

/-- Originate a message: unicast by R390, broadcast by R391, link-local on a named port. A message to the device itself is not
sent. Origination begins with JOINED, but for PROBE and CONFLICT, and ends with a leave (Table 12.8, R409). -/
def State.originate (s : State) (m : RingMsg) : State :=
  if s.rstate ≠ 2 ∧ ¬ (s.rstate = 1 ∧ m.cls = 4 ∧ (m.typ = 2 ∨ m.typ = 3)) then s
  else if m.scope = 0 then
    match s.route m.dst.toNat with
    | some o => s.sendOn o m
    | none => s
  else
    let dirs := if m.scope = 1 then [0, 1] else [0, 1, 2, 3]
    dirs.foldl (fun s o => if 0 < s.limit m o then s.sendOn o m else s) s

/-- A unicast message of this device leaves at once: the device is JOINED and the port of its route is UP. -/
def State.departs (s : State) (d : Nat) : Bool :=
  s.rstate == 2 && (match s.route d with
    | some o => s.pstate o == 4
    | none => false)

/-- Words of a message, with CRC zero (Table 12.2). -/
def msgWords (m : RingMsg) : List Word :=
  let w0 := setBf (setBf (setBf (setBf 0 63 61 m.cls.toNat) 60 56 m.len.toNat) 55 54 m.scope.toNat) 53 46 m.radX.toNat
  let w0 := setBf (setBf (setBf (setBf w0 45 38 m.radY.toNat) 37 32 m.typ.toNat) 31 16 m.dst.toNat) 15 0 m.src.toNat
  (w0 :: setBf 0 63 32 m.seq.toNat :: m.body ++ List.replicate (4 * m.len.toNat - 2 - m.body.length) 0).take (4 * m.len.toNat)

/-- CRC-32C of a message, taken with its field as zero (Table 12.2). -/
def msgSum (m : RingMsg) : Nat := crc32c (wordBytes (msgWords m))

/-- A message with its CRC. -/
def sealMsg (m : RingMsg) : RingMsg := { m with crc := BitVec.ofNat 32 (msgSum m) }

/-- A message of this device. -/
def State.mkMsg (s : State) (cls len typ scope dst seq : Nat) (body : List Word) : RingMsg :=
  sealMsg
    { cls := BitVec.ofNat 3 cls, len := BitVec.ofNat 5 len, scope := BitVec.ofNat 2 scope, radX := 128, radY := 128,
      typ := BitVec.ofNat 6 typ, dst := BitVec.ofNat 16 dst, src := BitVec.ofNat 16 s.node, seq := BitVec.ofNat 32 seq,
      crc := 0, body := body }

/-! ### Receiving (R393) -/

/-- LEN that a type requires: at least and at most (Table 12.4). -/
def lenOf (cls typ : Nat) : Option (Nat × Nat) :=
  match cls, typ with
  | 0, 0 => some (1, 1)
  | 1, 0 => some (3, 3)
  | 2, 0 => some (3, 3)
  | 2, 1 => some (1, 1)
  | 2, 2 => some (1, 1)
  | 3, 0 => some (3, 3)
  | 4, 0 => some (1, 1)
  | 4, 1 => some (1, 1)
  | 4, 2 => some (1, 1)
  | 4, 3 => some (1, 1)
  | 4, 4 => some (1, 1)
  | 4, 5 => some (1, 1)
  | 4, 6 => some (1, 1)
  | 5, 0 => some (2, 20)
  | 5, 1 => some (1, 1)
  | _, _ => none

/-- The message is sound and is of the type that the command names (R393). -/
def msgSound (cls typ : Nat) (m : RingMsg) : Bool :=
  m.cls.toNat == cls && m.typ.toNat == typ && m.crc.toNat == msgSum m && decide (m.radX.toNat ≤ 128 ∧ m.radY.toNat ≤ 128) &&
  (match lenOf cls typ with
    | some (a, b) => decide (a ≤ m.len.toNat ∧ m.len.toNat ≤ b)
    | none => false)

/-- The device becomes ready when its join has ended, in JOINED or in OUT (Table 15.1, step 9). -/
def State.joinEnded (s : State) : State := if s.field (oDev 8) 61 58 = 9 then s.setField (oDev 8) 63 63 1 else s

/-- Close both bypasses; the ports return to LOOP (R405, R409). -/
def State.closeBypasses (s : State) : State :=
  let s := (s.setField (oShr 0x10) 63 62 3).setField (oShr 0x10) 61 60 0
  let s := forN 4 (fun s i =>
    let s := s.setRport i { RingPortSt.reset with alignAt := s.now }
    if s.pstate i = 0 then s else ((s.setField (oPstat i) 63 60 1).setField (oPstat i) 58 58 0).setField (oShr (0x108 + i * 0x20)) 63 63 0) s
  ({ s with ring := { s.ring with probeAt := none, leaveAt := none } }).joinEnded

/-- The event record RING_STATE (Table 14.6). -/
def State.ringEvent (s : State) (i : Nat) : State :=
  s.event 5 i [BitVec.ofNat 64 (s.pstate i), BitVec.ofNat 64 s.rstate]

/-- The configuration is found bad (R389). -/
def State.configBad (s : State) : State :=
  ((s.setField (oShr 0x10) 58 58 1).closeBypasses).err 3 6 0 3 s.node

/-- Class 1 messages that came in on port i and are not yet being built into codewords for every output they go to (Table 12.5). -/
def State.decHeld (s : State) (i : Nat) : List RingMsg :=
  (s.rport i).dec1.filter fun m => (List.range 4).any fun o =>
    (s.rport o).outq.any fun e => e.2 == m && decide (s.now + 2457600 + msgTime m < e.1)

/-- The reserved buffer of port i has no room for a class 1 message (R394). -/
def State.decFull (s : State) (i : Nat) (m : RingMsg) : Bool :=
  decide (128 < ((s.decHeld i).map fun x => x.len.toNat).sum + m.len.toNat)

/-- A class 1 message takes its place in the reserved buffer of port i. -/
def State.decKeep (s : State) (i : Nat) (m : RingMsg) : State :=
  if m.cls = 1 then s.setRport i { s.rport i with dec1 := s.decHeld i ++ [m] } else s

/-- A message of a class with credits leaves the receive buffer of port i: its blocks are free again (R394). -/
def State.owe (s : State) (i : Nat) (cls blocks : Nat) : State :=
  let x := s.rport i
  if cls < 2 ∨ 5 < cls then s else s.setRport i { x with owed := sset 0 cls (sget 0 cls x.owed + blocks) x.owed }

/-- Receive a message on port i: it is counted, checked, answered when it carries the device's own address, forwarded, and
delivered to `f` (R390, R391, R393, R407). Pass-through begins with RSTATE JOINED. -/
def State.receive (s : State) (i cls typ : Nat) (m : RingMsg) (f : State → State) : State :=
  if s.pstate i ≠ 4 then s
  else
    let s := (s.bump (oRcnt i 0x38)).owe i m.cls.toNat m.len.toNat
    if msgSound cls typ m = false then s.bump (oRcnt i 0x10)
    else if m.cls = 1 ∧ s.decFull i m then s.bump (oRcnt i 0x20)
    else if m.scope = 3 then f s
    else if m.src.toNat = s.node then
      let s := s.bump (oRcnt i 0x30)
      let s := if cls = 4 ∧ typ = 2 then s else s.err 3 6 i 2 s.node
      s.originate (s.mkMsg 4 1 3 2 0 0 [BitVec.ofNat 64 s.node])
    else if m.scope = 0 then
      if s.onWay i m.dst.toNat = false then s.bump (oRcnt i 0x28)
      else match s.route m.dst.toNat with
        | none => f s
        | some o => if s.rstate = 2 ∨ s.rstate = 3 then (s.decKeep i m).sendOn o m else s
    else
      let s := s.decKeep i m
      let o := if i % 2 = 0 then i + 1 else i - 1
      let fwd := s.rstate = 2 ∨ s.rstate = 3
      let s := if fwd ∧ s.bcastDist m o < s.limit m o then s.sendOn o m else s
      let s := if fwd ∧ m.scope = 2 ∧ i < 2 then
          [2, 3].foldl (fun s y => if 0 < s.limit m y then s.sendOn y m else s) s
        else s
      f s

/-! ### Link commands -/

/-- FEC_CODEWORD: a codeword with at most 15 wrong symbols is corrected; every message with a block in an uncorrectable one is
discarded (R387). -/
def execFecCodeword (t : Time) (i : RingPort) (w : Codeword) (s : State) : Out :=
  let s := s.at t
  .next (if w.symbols ≤ 15 then (if w.symbols = 0 then s else s.bump (oRcnt i 0)) else s.bumpN (oRcnt i 8) w.messages)

/-- Waiting messages leave while there are credits, in order within a class. -/
def State.release (s : State) (i : Nat) : State :=
  let w := (s.rport i).waitq
  w.foldl (fun s m => s.sendOn i m) (s.setRport i { s.rport i with waitq := [] })

/-- An ALIGN block arrives: it is stamped as T2 (R388, R401). -/
def State.alignIn (s : State) (i : Nat) : State := s.setRport i { s.rport i with t2 := some s.now }

/-- RING_IDLE: a control block other than ALIGN. In an IDLE block credits return (R394); one of no known kind is discarded and counted
(R388). -/
def execRingIdle (t : Time) (i : RingPort) (h : BlockHead) (credits : Nat) (s : State) : Out :=
  let s := s.at t
  let x := s.rport i
  .next (
    if h.kind = 0 then
      (s.setRport i { x with credits := sset 0 h.cls.toNat (sget 0 h.cls.toNat x.credits + credits) x.credits }).release i
    else if h.kind = 0xA5 then s.alignIn i
    else s.bump (oRcnt i 0x10))

/-- ALIGN_BLOCK. -/
def execAlignBlock (t : Time) (i : RingPort) (s : State) : Out := .next ((s.at t).alignIn i)

/-- ALIGN blocks that port i has sent since it left LOOP, and the low 64 bits of the payload of the last one (R388). -/
def State.alignCount (s : State) (i : Nat) : Nat := (s.now - (s.rport i).alignAt) / 1677721600 + 1
def State.alignWord (s : State) (i : Nat) : Word := BitVec.ofNat 64 (s.alignCount i % 2 ^ 48)

/-- Time of the last ALIGN block that port i has sent (R388). -/
def State.lastAlign (s : State) (i : Nat) : Time :=
  let x := s.rport i
  s.now - (s.now - x.alignAt) % 1677721600

/-- TSYNC_SEND: once per 13.1072 µs, within 1.28 µs after the ALIGN block (R401). -/
def execTsyncSend (t : Time) (i : RingPort) (s : State) : Out :=
  let s := s.at t
  let a := s.lastAlign i
  let x := s.rport i
  if s.pstate i = 4 ∧ t ≤ a + 163840000 ∧ x.lastTsync < a + 1 then
    let s := s.setRport i { x with lastTsync := t + 1 }
    .next (s.sendOn i (s.mkMsg 0 1 0 3 0 0
      [BitVec.ofNat 64 (devUnits a % 2 ^ 56), BitVec.ofNat 64 (devUnits (x.t2.getD 0) % 2 ^ 56)]))
  else .next s

/-- An offset of a neighbour's time reaches the time base; `off2` is twice the offset in 2^-10 ns, so that it is rounded once
(R524, R525, R591). -/
def State.offset (s : State) (i : Nat) (off2 : Int) : State :=
  let ps := roundDiv (off2 * 500) 1024
  let s := s.setReg (oTmg (0x100 + i * 8)) (setBf (setBf 0 63 63 1) 31 0 (lowBits 32 ps))
  let lim := s.field (oTmg 0) 15 0
  let beyond := fun (j : Nat) => s.field (oTmg (0x100 + j * 8)) 63 63 == 1 &&
    decide (lim ≠ 0 ∧ lim < (sx 32 (s.field (oTmg (0x100 + j * 8)) 31 0)).natAbs)
  let s := s.setField (oTmg 8) 59 59 (b2n ((List.range 4).any beyond))
  let s := if beyond i ∧ s.time.alignRec.contains i = false then
      ({ s with time := { s.time with alignRec := i :: s.time.alignRec } }).err 1 7 0 5 i
    else s
  if s.field (oTmg 0) 63 62 = 2 ∧ s.field (oTmg 0) 61 60 = i then
    let s := s.setField (oTmg 8) 47 32 (lowBits 16 ps)
    if s.field (oTmg 8) 60 60 = 0 ∨ s.field (oTmg 0) 31 16 * 2048 < off2.natAbs then s.askStep (roundDiv off2 2) else s
  else s

/-- TSYNC: delay and offset of the link (R401); device times are taken modulo 2^56. -/
def execTsync (t : Time) (i : RingPort) (m : RingMsg) (s : State) : Out :=
  .next ((s.at t).receive i 0 0 m fun s =>
    match (s.rport i).t2 with
    | none => s
    | some t2 =>
      let diff := fun (y x : Nat) => sx 56 ((y + 2 ^ 56 - x % 2 ^ 56) % 2 ^ 56)
      let ba := diff (bf (m.body.getD 1 0) 55 0) (devUnits (s.lastAlign i))
      let dc := diff (devUnits t2) (bf (m.body.getD 0 0) 55 0)
      let delay2 := ba + dc
      let s := s.setReg (oShr (0x108 + i * 0x20)) (setBf (setBf 0 63 63 1) 23 0 (lowBits 24 (roundDiv (delay2 * 500) 1024)))
      s.offset i (ba - dc))

/-- FCREL: the command goes to every UP hit port of the mask whose FC_MASK enables it (R402). -/
def execFcrel (t : Time) (i : RingPort) (m : RingMsg) (s : State) : Out :=
  .next ((s.at t).receive i 3 0 m fun s =>
    let w := m.body.getD 0 0
    match softClass (bf w 63 58) with
    | none => s.bump (oRcnt i 0x20)
    | some (rank, maskBit) =>
      let eff := bf (m.body.getD 1 0) 55 0 * unitT
      (s.ports.map (·.1)).foldl (fun s p =>
        if (s.port p).link = .up ∧ s.isHit p ∧ bit (m.body.getD (2 + p / 64) 0).toNat (p % 64) ∧
            bit (dFcMask (s.descB p)) maskBit then
          if eff < t + usT 1 then s.bump (oPort p 0x150) else s.sendCmd p rank (eff : Int) (bf w 63 58) (softArg (bf w 63 58) (bf w 57 36)) false
        else s) s)

/-- HELLO: the neighbour is recorded, and its ring sizes must equal the device's (R399). -/
def execHello (t : Time) (i : RingPort) (m : RingMsg) (s : State) : Out :=
  .next ((s.at t).receive i 4 0 m fun s =>
    let w := m.body.getD 0 0
    let s := s.setField (oPstat i) 15 0 (bf w 15 0)
    if max 1 (bf w 24 16) = s.nx ∧ max 1 (bf w 40 32) = s.ny then s else s.configBad)

/-- LEAVE: the neighbour announces its departure (R406). -/
def execLeave (t : Time) (i : RingPort) (m : RingMsg) (s : State) : Out :=
  .next ((s.at t).receive i 4 1 m fun s => s.setRport i { s.rport i with lastLeave := some t })

/-- PROBE: answered with CONFLICT when it carries the device's own address, which `receive` does; otherwise only forwarded (R407). -/
def execProbe (t : Time) (i : RingPort) (m : RingMsg) (s : State) : Out := .next ((s.at t).receive i 4 2 m fun s => s)

/-- CONFLICT: a joining device with that address closes its bypasses and returns to OUT (R407). -/
def execConflict (t : Time) (i : RingPort) (m : RingMsg) (s : State) : Out :=
  .next ((s.at t).receive i 4 3 m fun s =>
    if s.rstate = 1 ∧ bf (m.body.getD 0 0) 15 0 = s.node then (s.closeBypasses).setField (oShr 0x10) 59 59 1 else s)

/-- RING_LOSS_OF_SIGNAL; `partly`: a message has been received in part (R406). -/
def execRingLossOfSignal (t : Time) (i : RingPort) (partly : Bool) (s : State) : Out :=
  let s := s.at t
  if s.pstate i = 4 then
    let x := s.rport i
    let lost := (s.queued i).filter fun m => m.cls != 4
    let keep := (s.queued i).filter fun m => m.cls == 4
    let s := s.setRport i { x with outq := [], waitq := keep, t2 := none }
    let s := (((s.bumpN (oRcnt i 0x20) (lost.length + b2n partly)).bump (oRcnt i 0x18)).setField (oPstat i) 58 58 0).raiseBit (oPstat i) 59
    let s := (s.setField (oPstat i) 63 60 5).setField (oShr (0x108 + i * 0x20)) 63 63 0
    let told : Bool := match x.lastLeave with
      | some l => decide (t ≤ l + usT 1000)
      | none => false
    .next ((if told then s else s.err 1 6 i 1 0).ringEvent i)
  else .next s

/-- RING_PORT_TRAINED: LOOP to LOOP_OK; TRAIN or LOS to UP with a HELLO (Table 12.7). -/
def execRingPortTrained (t : Time) (i : RingPort) (s : State) : Out :=
  let s := s.at t
  if s.portUsed i = false then .next s
  else if s.pstate i = 1 then .next (((s.setField (oPstat i) 63 60 2).setField (oPstat i) 58 58 1).ringEvent i)
  else if s.pstate i = 3 ∨ s.pstate i = 5 then
    let s := (s.setField (oPstat i) 63 60 4).setField (oPstat i) 58 58 1
    let x := s.rport i
    let s := { s with ring := { s.ring with helloAt := t } }
    let s := s.setRport i { x with credits := [(2, 256), (3, 64), (4, 64), (5, 640)], owed := [] }
    let s := s.sendOn i (s.mkMsg 4 1 0 3 0 0
      [setBf (setBf (setBf 0 15 0 s.node) 24 16 s.nx) 40 32 s.ny])
    .next ((s.release i).ringEvent i)
  else .next s

/-- A join is asked for (R407); in a system of one it completes at once (R389). -/
def State.join (s : State) : State :=
  if s.rstate ≠ 0 ∨ s.field (oShr 0x10) 58 58 = 1 ∨ s.badNode then s
  else if s.nx = 1 ∧ s.ny = 1 then s.setField (oShr 0x10) 61 60 2
  else if (List.range 4).all fun i => !s.portUsed i || s.pstate i == 2 then
    let s := s.setField (oShr 0x10) 61 60 1
    let s := if 1 < s.nx then s.setField (oShr 0x10) 63 63 0 else s
    let s := if 1 < s.ny then s.setField (oShr 0x10) 62 62 0 else s
    forN 4 (fun s i => if s.portUsed i then
        ((s.setField (oPstat i) 63 60 3).setRport i { s.rport i with alignAt := s.now }).ringEvent i else s) s
  else s

/-- JOIN (R407). -/
def execJoin (t : Time) (s : State) : Out := .next (s.at t).join

/-- JOIN_COMPLETE: 2 µs after the last HELLO, with every used port UP, the PROBE is sent; 100 µs after it the device is JOINED (Table 12.8). -/
def execJoinComplete (t : Time) (s : State) : Out :=
  let s := s.at t
  if s.rstate ≠ 1 then .next s
  else match s.ring.probeAt with
    | none =>
      if s.ring.helloAt + usT 2 ≤ t ∧ (List.range 4).all (fun i => !s.portUsed i || s.pstate i == 4) = true then
        let s := { s with ring := { s.ring with probeAt := some t } }
        .next (s.originate (s.mkMsg 4 1 2 2 0 0 []))
      else .next s
    | some p => .next (if p + usT 100 ≤ t then (s.setField (oShr 0x10) 61 60 2).joinEnded else s)

/-- A leave is asked for: LEAVE on every port in UP (R409). -/
def State.leave (s : State) : State :=
  if s.rstate = 2 then
    let s := { s.setField (oShr 0x10) 61 60 3 with ring := { s.ring with leaveAt := some s.now } }
    forN 4 (fun s i => s.sendOn i (s.mkMsg 4 1 1 3 0 0 [])) s
  else s

/-- LEAVE_REQUEST (R409). -/
def execLeaveRequest (t : Time) (s : State) : Out := .next (s.at t).leave

/-- BYPASS_CLOSE: the output queues of classes 0 to 3 are empty, or 1 µs has passed (R409). -/
def execBypassClose (t : Time) (s : State) : Out :=
  let s := s.at t
  match s.ring.leaveAt with
  | none => .next s
  | some l =>
    let empty := (List.range 4).all fun i => (s.queued i).all fun m => decide (4 ≤ m.cls.toNat)
    .next (if s.rstate = 3 ∧ (empty ∨ l + usT 1 ≤ t) then s.closeBypasses else s)

end Sys2Proof.Machine
end

