-- ==== Sys2Proof/Machine/Masthead.lean ====
section
/-! DEFINITION. The masthead combiner, decisions, candidates on the ring, and readout (11_masthead.md, 12_shroud_ring.md,
14_host_queues_modes.md). -/

namespace Sys2Proof.Machine

/-- Role in effect (R381): 0 local, 1 contributor, 2 combiner. -/
def State.role (s : State) : Nat := if s.field (oMst 0x18) 63 62 = 3 then 0 else s.field (oMst 0x18) 63 62

/-- The device combines: it is in the combiner role and was JOINED at the frame's cast-on (R408). Before that it decides for itself. -/
def State.combines (s : State) : Bool := s.role == 2 && s.ring.joined

/-- F3 is in host-assisted mode; in the contributor role it has no effect (R468). -/
def State.ha3 (s : State) : Bool := s.haOn 3 0 && s.role != 1

/-- The moment at which the device's own evaluation closes a slot: the cut-off, earlier in the combiner role (R383) and with F3
host-assisted (Table 14.9). -/
def State.closeT (s : State) (k : Nat) : Nat :=
  s.cutoffT k - (if s.combines then s.field (oMst 0x18) 10 0 * hopT else 0)
    - (if s.ha3 then bf (s.effReg (oQue 0x38)) 42 32 * hopT else 0)

/-- When the slot is decided: as `closeT`, but with F3 host-assisted the reply is awaited to the cut-off itself. -/
def State.decideT (s : State) (k : Nat) : Nat :=
  s.cutoffT k - (if s.combines then s.field (oMst 0x18) 10 0 * hopT else 0)

/-! ### Tables (R370 to R373) -/

/-- Word of an active masthead table. -/
def State.mtab (s : State) (tab e w : Nat) : Word := sget 0 (tab * 512 + e * 2 + w) s.mastA

/-- Candidates taken for a slot. -/
def State.takenOf (s : State) (k : Nat) : List (Nat × List Word) := sget [] k s.mast.taken

/-- Threshold j is met in slot k (R370). -/
def State.met (s : State) (k j : Nat) : Bool :=
  let d := s.mtab 0 j 0
  let n := ((s.takenOf k).filter fun c =>
    bf (c.2.getD 0 0) 55 50 == bf d 45 40 && decide (sx 40 (bf d 39 0) ≤ sx 56 (bf (c.2.getD 1 0) 55 0))).length
  bf d 63 63 == 1 && bf d 55 48 != 0 && decide (bf d 55 48 ≤ min 255 n)

/-- Raw value of trigger bit b in slot k (R371). -/
def State.rawBit (s : State) (k b : Nat) : Bool :=
  let d := s.mtab 1 b 0
  let thr := s.mtab 1 b 1
  let n := bf d 59 56
  let inputs := (List.range n).map fun i =>
    Bool.xor (s.met k (bf thr (63 - 8 * i) (56 - 8 * i))) (bit (bf d 39 32) i)
  bf d 63 63 == 1 && n != 0 && (if bf d 62 62 = 0 then inputs.all id else inputs.any id)

/-- Raw trigger bits of a slot. -/
def State.raw (s : State) (k : Nat) : Nat := (List.range 64).foldl (fun a b => if s.rawBit k b then orBit a b else a) 0

/-- Slot k is dead (R373). -/
def State.dead (s : State) (k : Nat) : Bool :=
  let space := bf (s.mtab 3 0 0) 15 0
  (space != 0 && s.mast.accepted.any fun a => decide (a < k ∧ k ≤ a + space)) ||
  [1, 2, 3, 4].any fun e =>
    let d := s.mtab 3 e 0
    bf d 63 63 == 1 && bf d 39 32 != 0 && decide (2 ≤ bf d 15 0) &&
      decide (bf d 39 32 ≤ (s.mast.accepted.filter fun a => decide (a < k ∧ k < a + bf d 15 0)).length)

/-- Advance the prescale counts on raw bits; answers the fired bits and the counts (R372). -/
def State.prescale (s : State) (raw : Nat) : Nat × Sparse Nat :=
  (List.range 64).foldl (fun acc b =>
    if bit raw b then
      let f := bf (s.mtab 2 b 0) 23 0
      let n := sget 0 b acc.2 + 1
      if f = 0 then (acc.1, sset 0 b 0 acc.2)
      else if f ≤ n then (orBit acc.1 b, sset 0 b 0 acc.2) else (acc.1, sset 0 b n acc.2)
    else acc) (0, s.mast.counts)

/-- Sources not complete for slot k (R369). Ring sources are waited for by a device that combines (R408). -/
def State.lateSrc (s : State) (k : Nat) : Nat :=
  let wait := s.field (oMst 0x20) (if s.combines then 35 else 31) 0 &&& bf (s.effReg (oMst 0x28)) 35 0
  let fin := min ((k + 1) * s.slotW) s.lenL
  (List.range 36).foldl (fun a i => if bit wait i ∧ sget 0 i s.mast.done < fin then orBit a i else a) 0

/-! ### Records -/

/-- What a decision holds beside the slot's numbers. -/
structure Verdict where
  dec : Nat
  typ : Nat
  timeout : Bool
  dead : Bool
  mismatch : Bool
  ringMiss : Bool
  raw : Nat
  fired : Nat
  late : Nat
  deriving DecidableEq, Repr

/-- Reef mask of a slot's record (R377, R378). -/
def State.reefOf (s : State) (k : Nat) : Nat :=
  (s.reg (oMst 0x30)).toNat ||| sget 0 k s.mast.slotReef ||| s.mast.lateReef

/-- A combiner sets SYSREEF in the slot's record (R398). -/
def State.sysReefOf (s : State) (k : Nat) : Bool :=
  s.mast.sysAll || s.mast.sysSlots.contains k ||
  s.mast.sysRanges.any (fun r => decide (r.1 ≤ k * s.slotW ∧ k * s.slotW < r.2)) ||
  s.ring.contribs.any (fun c => match c.2.gap with
    | some a => decide (a ≤ k * s.slotW)
    | none => false)

/-- Put the CRC into a decision record (Table 11.7). -/
def recCrc (ws : List Word) : List Word :=
  let w := ws.take 7
  w ++ [setBf 0 63 32 (crc32c ((wordBytes (w ++ [0])).take 60))]

/-- The decision record of a slot (R376). -/
def State.recordOf (s : State) (k : Nat) (v : Verdict) (system : Bool) : List Word :=
  let time := (s.slotT k) / unitT
  let sysReef := system && !v.mismatch && s.sysReefOf k
  let w5 := setBf (setBf (setBf (setBf (setBf (setBf (setBf (setBf (setBf 0 63 62 v.dec) 61 61 (b2n v.timeout)) 60 60
    (b2n v.dead)) 59 59 (b2n v.mismatch)) 58 58 (b2n v.ringMiss)) 57 57 (b2n system)) 56 56 (b2n sysReef)) 55 50 v.typ) 35 0 v.late
  let w6 := setBf (setBf (setBf 0 63 48 s.node) 47 32 (min 65535 (s.takenOf k).length)) 31 0 s.mast.accepted.length
  recCrc [BitVec.ofNat 64 (time % 2 ^ 56), setBf (setBf 0 63 32 (s.frame.count % 2 ^ 32)) 31 0 k, BitVec.ofNat 64 v.raw,
    BitVec.ofNat 64 v.fired, BitVec.ofNat 64 (s.reefOf k), w5, w6]

/-- Safe verdict (R380, R585). -/
def State.safe (s : State) (raw fired : Nat) : Verdict :=
  let c := s.effReg (oMst 0)
  { dec := bf c 61 60, typ := bf c 53 48, timeout := false, dead := false, mismatch := true, ringMiss := false, raw := raw,
    fired := fired, late := 0 }

/-- Evaluate a slot (R374); answers the verdict and the prescale counts after it. -/
def State.evaluate (s : State) (k : Nat) : Verdict × Sparse Nat :=
  let raw := s.raw k
  let late := s.lateSrc k
  let c := s.effReg (oMst 0)
  if s.dead k then
    ({ dec := 0, typ := 0, timeout := false, dead := true, mismatch := false, ringMiss := false, raw := raw, fired := 0,
       late := late }, s.mast.counts)
  else
    let (fired, counts) := s.prescale raw
    if late ≠ 0 then
      ({ dec := bf c 63 62, typ := bf c 59 54, timeout := true, dead := false, mismatch := false, ringMiss := false,
         raw := raw, fired := fired, late := late }, counts)
    else
      let bits := (List.range 64).filter fun b => bit fired b
      let dec := if bits = [] then 0 else if bits.any (fun b => bf (s.mtab 1 b 0) 61 61 == 0) then 1 else 2
      let typ := match bits with
        | [] => 0
        | b :: _ => bf (s.mtab 1 b 0) 55 50
      ({ dec := dec, typ := typ, timeout := false, dead := false, mismatch := false, ringMiss := false, raw := raw,
         fired := fired, late := 0 }, counts)

/-! ### Delivery (R76, R375, R460) -/

/-- Fast command of a decision for a port: code, if its FC_MASK enables one (R76). -/
def decCode (dec mask : Nat) : Option Nat :=
  if dec = 0 then (if bit mask 2 then some 3 else none)
  else if dec = 1 then (if bit mask 0 then some 1 else none)
  else if bit mask 1 then some 2 else if bit mask 0 then some 1 else none

/-- The decision goes to every UP hit port whose format calls for it, with effective time slot time + H (R26, R76). -/
def State.decToPorts (s : State) (k dec typ : Nat) : State :=
  (s.ports.map (·.1)).foldl (fun s p =>
    if (s.port p).link = .up ∧ s.isHit p then
      match decCode dec (dFcMask (s.descB p)) with
      | some code => s.sendCmd p 0 ((s.slotT k + s.horizon : Nat) : Int) code (k % 65536 * 64 + typ) false
      | none => s
    else s) s

/-- KINDS of a readout queue (Table 14.16). -/
def State.kinds (s : State) (q : Nat) : Nat := s.field (oQcfg q) 54 52

/-- A record that waits for room in a readout queue goes in as soon as there is room (Table 14.3). -/
def State.roFlush (fuel : Nat) (s : State) (q : Nat) : State :=
  match fuel with
  | 0 => s
  | fuel + 1 =>
    match sget [] q s.mast.roOut with
    | [] => s
    | r :: rest =>
      if s.qState q = 1 ∧ s.qFull q = false then
        (({ s with mast := { s.mast with roOut := sset [] q rest s.mast.roOut } }).qPut q r).roFlush fuel q
      else s

/-- Flush everything that fits. -/
def State.roDrain (s : State) (q : Nat) : State := s.roFlush ((sget [] q s.mast.roOut).length + 1) q

/-- The readout engine takes a decision record (R460). -/
def State.toReadout (s : State) (k : Nat) (rcd : List Word) (dec : Nat) : State :=
  let acc := dec = 1 ∨ dec = 2
  let s := (s.activeQueues 1).foldl (fun s q =>
    let kd := s.kinds q
    if bit kd 0 ∨ (bit kd 1 ∧ acc) then s.qPutOrDrop q rcd else s) s
  if acc ∧ (s.activeQueues 1).any (fun q => bit (s.kinds q) 2) then
    { s with mast := { s.mast with ro := s.mast.ro ++ [{ slot := k, record := rcd, cands := s.takenOf k }] } }
  else s

/-- Count a decided slot and deliver its record to ports and readout; the slot's entry is cleared for its next use. -/
def State.deliver (s : State) (k : Nat) (rcd : List Word) : State :=
  let w5 := rcd.getD 5 0
  let dec := bf w5 63 62
  let raw := (rcd.getD 2 0).toNat
  let fired := (rcd.getD 3 0).toNat
  let s := s.bump (oMst 0x100)
  let s := if dec = 1 ∨ dec = 2 then s.bump (oMst 0x108) else s
  let s := if dec = 2 then s.bump (oMst 0x110) else s
  let s := if bf w5 61 61 = 1 then s.bump (oMst 0x118) else s
  let s := if bf w5 60 60 = 1 then s.bump (oMst 0x120) else s
  let s := (bitsOf64 raw).foldl (fun s b => s.bump (oMst (0x400 + b * 8))) s
  let s := (bitsOf64 fired).foldl (fun s b => s.bump (oMst (0x600 + b * 8))) s
  let s := (s.decToPorts k dec (bf w5 55 50)).toReadout k rcd dec
  { s with mast := { s.mast with
    next := k + 1
    record := rcd
    accepted := if dec = 1 ∨ dec = 2 then k :: s.mast.accepted else s.mast.accepted
    taken := serase k s.mast.taken
    slotReef := serase k s.mast.slotReef
    lateReef := 0
    bcast := serase k s.mast.bcast
    f3 := serase k s.mast.f3 } }

/-- The masthead has failed (R585). -/
def State.mastFail (s : State) : State :=
  if s.mast.failed then s else ({ s with mast := { s.mast with failed := true } }).err 3 4 0 5 0

/-- Make the staged masthead tables active; a changed FACTOR clears its bit's count (R372, R543). -/
def State.mastActivate (s : State) : State :=
  let changed := (List.range 64).filter fun b =>
    bf (sget 0 (1024 + b * 2) s.mastS) 23 0 != bf (sget 0 (1024 + b * 2) s.mastA) 23 0
  let counts := changed.foldl (fun c b => serase b c) s.mast.counts
  ({ s with mastA := s.mastS, mast := { s.mast with counts := counts, swapAt := none } }).tabActivated 2

/-- A mid-frame activation comes immediately before the first slot cut-off at least 64 masthead cycles after its request (R546). -/
def State.mastSwapDue (s : State) (k : Nat) : State :=
  match s.mast.swapAt with
  | some r => if r + 64 * mastT ≤ s.cutoffT k then s.mastActivate else s
  | none => s

/-- The verdict of the host's reply, or the timeout decision without one (Table 14.9). -/
def State.hostVerdict (s : State) (k : Nat) : Verdict :=
  let c := s.effReg (oMst 0)
  let l : List Word := sget [] k s.mast.f3
  let w3 : Word := l.getD 2 0
  if l.isEmpty then
    { dec := bf c 63 62, typ := bf c 59 54, timeout := true, dead := false, mismatch := false, ringMiss := false,
      raw := 0, fired := 0, late := s.lateSrc k }
  else
    { dec := bf w3 1 0, typ := bf w3 9 4, timeout := false, dead := false, mismatch := false, ringMiss := false,
      raw := (l.getD 0 0).toNat, fired := (l.getD 1 0).toNat, late := s.lateSrc k }

/-- The slot's two copies differ: the safe decision, and failure at the sixteenth mismatch (R380, R585). -/
def State.mismatchSlot (s : State) (k : Nat) (v : Verdict) (system : Bool) : State :=
  let n := s.mast.mism + 1
  let s := ((s.bump (oMst 0x148)).setField (oMst 8) 61 61 1).errWith 2 4 0 3 k 0 0 0 0 none
  let s := ({ s with mast := { s.mast with mism := n } }).deliver k (s.recordOf k (s.safe v.raw v.fired) system)
  if n < 16 then s else s.mastFail

/-- Decide slot k by evaluation (R374, R380, R585), with F3 by the host's reply (Table 14.9). -/
def State.decideSlot (s : State) (k : Nat) (differ system : Bool) : State :=
  if s.mast.failed then s.deliver k (s.recordOf k (s.safe 0 0) system)
  else if s.ha3 then s.deliver k (s.recordOf k (s.hostVerdict k) system)
  else
    let e := s.evaluate k
    if differ then s.mismatchSlot k e.1 system
    else ({ s with mast := { s.mast with counts := e.2 } }).deliver k (s.recordOf k e.1 system)

/-- A candidate-class message to the combiner; SEQ counts them (R395). A device that joined in the frame sends none (R408). -/
def State.candMsg (s : State) (len typ : Nat) (body : List Word) : State :=
  if s.ring.joined = false then s else
  let m := s.mkMsg 2 len typ 0 (s.field (oMst 0x18) 47 32) s.ring.candSeq body
  ({ s with ring := { s.ring with candSeq := s.ring.candSeq + 1, candAt := s.now } }).originate m

/-! ### Reports that a cut-off calls for (R39, R582, R587) -/

/-- Cluster `k` reports for slot `n` when its cut-off passes: a slice that covers it lost its core and has not committed, or waits
in QUEUED for a cluster that is not in service or is under test. -/
def State.missesSlot (s : State) (k n : Nat) : Bool :=
  let out := !s.inService k || (s.clu k).bist != 0
  (s.clu k).slices.any fun x => (x.lost || (x.st == .queued && out)) &&
    decide (s.sliceFirst k x.key ≤ n ∧ n < s.sliceAfter k x.key)

/-- A slot report reaches the masthead: on its own slot's record, else on the next record (R378); a contributor tells its combiner
(R396). -/
def State.reefIn (s : State) (b n : Nat) : State :=
  let s : State :=
    if s.mast.next ≤ n then
      { s with mast := { s.mast with slotReef := sset 0 n (orBit (sget 0 n s.mast.slotReef) b) s.mast.slotReef } }
    else ({ s with mast := { s.mast with lateReef := orBit s.mast.lateReef b } }).bump (oMst 0x158)
  if s.role = 1 then s.candMsg 1 2 [BitVec.ofNat 64 n] else s

/-- The cut-off of slot `n` passes. -/
def State.cutPasses (s : State) (n : Nat) : State :=
  if n ≠ s.mast.cut ∨ s.now < s.cutoffT n then s
  else
    let s := { s with mast := { s.mast with cut := n + 1 } }
    forN 32 (fun s k => if s.missesSlot k n then s.reefIn (32 + k) n else s) s

/-- In F3 host-assisted mode the slot goes to the host at the HA cut-off (Table 14.9). -/
def State.ask3 (s : State) (k : Nat) : State :=
  if s.ha3 ∧ k = s.mast.asked ∧ s.closeT k ≤ s.now then
    let ws := [BitVec.ofNat 64 (s.slotT k / unitT), setBf (setBf 0 63 32 (s.frame.count % 2 ^ 32)) 31 0 k,
      BitVec.ofNat 64 (s.lateSrc k), BitVec.ofNat 64 (s.reefOf k), 0, 0, 0]
    ({ s with mast := { s.mast with asked := k + 1 } }).haSend 3 0 0 (s.haDeadline 3 (some (s.cutoffT k))) ws
  else s

/-- SLOT_CUTOFF (R369, R374, R382, R384). A contributor emits the combiner's record or its default; a combiner has decided at its
system cut-off. -/
def execSlotCutoff (t : Time) (slot : BitVec 32) (differ : Bool) (s : State) : Out :=
  let s := s.at t
  let k := slot.toNat
  if s.castOn = false ∨ s.slotCount ≤ k then .next s
  else
    let s := (s.cutPasses k).ask3 k
    if k ≠ s.mast.next ∨ t < s.decideT k ∨ s.combines = true then .next s
    else
      let s := s.mastSwapDue k
      if s.role = 1 then
        match sget [] k s.mast.bcast with
        | [] =>
          let c := s.effReg (oMst 0)
          let v : Verdict := { dec := bf c 63 62, typ := bf c 59 54, timeout := true, dead := false, mismatch := false,
                               ringMiss := true, raw := 0, fired := 0, late := 0 }
          .next ((s.bump (oMst 0x150)).deliver k (s.recordOf k v false))
        | rcd => .next (s.deliver k (recCrc (rcd.take 4 ++ [BitVec.ofNat 64 (s.reefOf k)] ++ rcd.drop 5)))
      else .next (s.decideSlot k differ false)

/-- SYSTEM_CUTOFF: a combiner decides and sends the decision broadcast (R383, R399). -/
def execSystemCutoff (t : Time) (slot : BitVec 32) (differ : Bool) (s : State) : Out :=
  let s := s.at t
  let k := slot.toNat
  if s.castOn = false ∨ s.slotCount ≤ k ∨ s.combines = false then .next s
  else
    let s := (s.cutPasses k).ask3 k
    if k ≠ s.mast.next ∨ t < s.decideT k then .next s
    else
      let s := (s.mastSwapDue k).decideSlot k differ true
      let m := s.mkMsg 1 3 0 2 0 k s.mast.record
      let m := { m with radX := BitVec.ofNat 8 (min 128 (s.field (oShr 0x18) 7 0)),
                        radY := BitVec.ofNat 8 (min 128 (s.field (oShr 0x18) 15 8)) }
      .next (s.originate (sealMsg m))

/-- COMBINE_REPLY: RAW, FIRED and DECISION of a slot from the host (Table 14.9). -/
def execCombineReply (t : Time) (reply : List Word) (s : State) : Out :=
  let s := s.at t
  let s := s.cqTake 3
  match s.haFind 3 reply with
  | none => .next s.haStale
  | some j =>
    let s := s.haDone 3 j.job
    if j.op = 1 then .next s
    else
      let k := bf (j.words.getD 1 0) 31 0
      if k < s.mast.next then .next s.haStale
      else .next { s with mast := { s.mast with f3 := sset [] k [reply.getD 1 0, reply.getD 2 0, reply.getD 3 0] s.mast.f3 } }

/-- MASTHEAD_ACTIVATION (R546): once every slot whose cut-off lies less than 64 masthead cycles after the request is decided. -/
def execMastheadActivation (t : Time) (s : State) : Out := .next ((s.at t).mastSwapDue (s.at t).mast.next)

/-! ### FIFOs and candidates (R362 to R366) -/

/-- The source's FIFO has room (R364). -/
def State.fifoRoom (s : State) (i : Nat) : Bool := decide (candCount (sget [] i s.mast.fifos) < 64)

/-- Put an item into a source FIFO. -/
def State.fifoPut (s : State) (i : Nat) (x : FifoItem) : State :=
  { s with mast := { s.mast with fifos := sset [] i (sget [] i s.mast.fifos ++ [x]) s.mast.fifos } }

/-- A candidate record is invalid (R363). -/
def State.badCand (s : State) (ws : List Word) : Bool :=
  let w0 := ws.getD 0 0
  let k := bf w0 31 0
  bf w0 63 56 != 0 || bf w0 49 32 != 0 || decide (s.slotCount ≤ k) ||
    decide (2048 ≤ k ∧ s.now < s.cutoffT (k - 2048)) || bf (ws.getD 1 0) 63 56 != 0

/-- Contributors enabled in SHR_CONTRIB (R397). -/
def State.contribOn (s : State) (k : Nat) : Bool := s.field (oShr (0x800 + k * 8)) 63 63 == 1

/-- Ring port on which a contributor's messages arrive, by the reverse of R390 (R397). -/
def State.contribPort (s : State) (node : Nat) : Nat :=
  let sx := node / 256
  let sy := node % 256
  if sy = s.posY then (if ringDist sx s.posX s.nx ≤ s.nx / 2 then 1 else 0)
  else if ringDist sy s.posY s.ny ≤ s.ny / 2 then 3 else 2

/-- Done time of a ring-port source: the least of its contributors that are not absent, L with none (R397, R398). -/
def State.ringDone (s : State) (i : Nat) : Nat :=
  let ks := (List.range 64).filter fun k => s.contribOn k &&
    s.contribPort (s.field (oShr (0x800 + k * 8)) 15 0) == i && !(sget ContribSt.reset k s.ring.contribs).absent
  minOr s.lenL (ks.map fun k => (sget ContribSt.reset k s.ring.contribs).done)

/-- Bring the done times of the ring-port sources up to date. -/
def State.ringDones (s : State) : State :=
  { s with mast := { s.mast with
    done := [0, 1, 2, 3].foldl (fun d i => sset 0 (32 + i) (s.ringDone i) d) s.mast.done } }

/-- Done times at the head of a FIFO take effect (R367). -/
def State.popDone (fuel : Nat) (s : State) (i : Nat) : State :=
  match fuel with
  | 0 => s
  | fuel + 1 =>
    match sget [] i s.mast.fifos with
    | .done d :: rest =>
      ({ s with mast := { s.mast with fifos := sset [] i rest s.mast.fifos, done := sset 0 i d s.mast.done } }).popDone fuel i
    | .rdone k d :: rest =>
      (({ s with mast := { s.mast with fifos := sset [] i rest s.mast.fifos },
                 ring := { s.ring with contribs := sset .reset k { sget ContribSt.reset k s.ring.contribs with done := d } s.ring.contribs } }).ringDones).popDone fuel i
    | _ => s

/-- Done time of a contributor: the least over the clusters it waits for (R396). -/
def State.ownDone (s : State) : Nat :=
  let wait := s.field (oMst 0x20) 31 0 &&& bf (s.effReg (oMst 0x28)) 31 0
  minOr s.lenL (((List.range 32).filter fun i => bit wait i).map fun i => sget 0 i s.mast.done)

/-- DONE word (R396). -/
def State.doneWord (s : State) : Word := setBf (setBf 0 27 0 s.ownDone) 59 28 (s.frame.count % 2 ^ 32)

/-- Sticky reports not yet told to the combiner go as LOSS messages (R396). -/
def State.tellReef (s : State) : State :=
  let fresh := (s.reg (oMst 0x30)).toNat &&& (2 ^ 64 - 1 - s.ring.reefTold)
  let s := (bitsOf64 fresh).foldl (fun s _ =>
    s.candMsg 1 2 [setBf (setBf 0 63 63 1) 31 0 s.mast.next]) s
  { s with ring := { s.ring with reefTold := (s.reg (oMst 0x30)).toNat } }

/-- A record of slot `k` from source `i` is late: counted, with one error record for each slot and source (R365). -/
def State.lateCand (s : State) (k i : Nat) : State :=
  let s := s.bump (oMst 0x130)
  if s.mast.lateRec.contains (k, i) then s
  else ({ s with mast := { s.mast with lateRec := (k, i) :: s.mast.lateRec } }).errWith 1 4 0 2 k i 0 0 0 none

/-- At a cast-on the records of earlier frames still in a FIFO are dropped as late, and done times with them (R365, Table 1.2). -/
def State.dropOld (s : State) : State :=
  s.mast.fifos.foldl (fun s e => e.2.foldl (fun s x => match x with
    | .cand ws _ => s.lateCand (bf (ws.getD 0 0) 31 0) e.1
    | _ => s) s) { s with mast := { s.mast with fifos := [] } }

/-- One record has been taken from source i (R362, R363, R365, R382). -/
def State.take (s : State) (i : Nat) (ws : List Word) (frame : Nat) : State :=
  let s := s.bump (oMst 0x128)
  let k := bf (ws.getD 0 0) 31 0
  if frame ≠ s.frame.count ∨ (s.badCand ws = false ∧ (k < s.mast.next ∨ s.closeT k < s.now)) then s.lateCand k i
  else if s.badCand ws then
    let s := s.bump (oMst 0x138)
    if s.mast.badRec.contains i then s
    else ({ s with mast := { s.mast with badRec := i :: s.mast.badRec } }).errWith 1 4 0 1 k i 0 0 0 none
  else if s.role = 1 then s.candMsg 3 0 (ws ++ [s.doneWord, 0])
  else
    let s := { s with mast := { s.mast with taken := sset [] k (sget [] k s.mast.taken ++ [(i, ws)]) s.mast.taken } }
    if s.ha3 then s.haSend 3 1 0 (s.haDeadline 3 (some (s.cutoffT k))) (ws.take 7) else s

/-- Take up to `n` records: among the heads the lowest slot, then the lowest source (R365). -/
def State.takeN (s : State) : Nat → State
  | 0 => s
  | n + 1 =>
    let s := s.mast.fifos.foldl (fun s e => s.popDone (e.2.length) e.1) s
    let heads := s.mast.fifos.filterMap fun e => match e.2 with
      | .cand ws f :: _ => some (bf (ws.getD 0 0) 31 0, e.1, ws, f)
      | _ => none
    match heads with
    | [] => s
    | h :: l =>
      let b := l.foldl (fun a c => if c.1 < a.1 then c else a) h
      let held := decide (32 ≤ b.2.1) && decide (64 < candCount (sget [] b.2.1 s.mast.fifos))
      let s := { s with mast := { s.mast with fifos := sset [] b.2.1 ((sget [] b.2.1 s.mast.fifos).drop 1) s.mast.fifos } }
      let s := if held then s.owe (b.2.1 - 32) 2 3 else s
      (s.take b.2.1 b.2.2.1 b.2.2.2).takeN n

/-- CANDIDATE_TAKE: one masthead cycle (R365, R366). -/
def execCandidateTake (t : Time) (s : State) : Out :=
  let s := s.at t
  let held := s.heldMask
  let s := if held = 0 then s else s.bump (oMst 0x140)
  let s := s.takeN 4
  .next (s.mast.fifos.foldl (fun s e => s.popDone (e.2.length) e.1) s)

/-- CANDIDATE_TRANSFER: committed records move into the cluster's FIFO while there is room (R296). -/
def execCandidateTransfer (t : Time) (c : ClusterId) (s : State) : Out :=
  let s := s.at t
  match sget [] c.val s.outqs with
  | [] => .next s
  | (ws, f) :: rest =>
    .next (if s.fifoRoom c then ({ s with outqs := sset [] c.val rest s.outqs }).fifoPut c (.cand ws f) else s)

/-- SLOT_REPORT (R378): applied to its slot's record, or to the next record when the slot is decided; a contributor also tells the
combiner (R396). The report must have been made. -/
def execSlotReport (t : Time) (unit : Fin 64) (slot : BitVec 32) (s : State) : Out :=
  let s := s.at t
  let k := slot.toNat
  if s.reports.contains (unit.val, k) then
    .next (({ s with reports := s.reports.erase (unit.val, k) }).reefIn unit k)
  else .next s

/-! ### Candidates and decisions on the ring -/

/-- Entry of the contributor table for a node (R397). -/
def State.contribOf (s : State) (node : Nat) : Option Nat :=
  (List.range 64).find? fun k => s.contribOn k && s.field (oShr (0x800 + k * 8)) 15 0 == node

/-- A candidate-class message of a contributor: SEQ is checked, a gap marks slots (R398). `done` is the done time it carries. -/
def State.contribHeard (s : State) (k seq : Nat) (done : Option Nat) : State :=
  let c := sget .reset k s.ring.contribs
  let gap := if seq ≠ c.seq then some (match c.gap with
    | some a => min a c.last
    | none => c.last) else c.gap
  let s := match gap, done with
    | some a, some d => { s with mast := { s.mast with sysRanges := (a, d) :: s.mast.sysRanges } }
    | _, _ => s
  let c := { c with seq := seq + 1, heard := s.now, last := done.getD c.last, gap := if done.isSome then none else gap }
  { s with ring := { s.ring with contribs := sset .reset k c s.ring.contribs } }

/-- Receive a candidate-class message as a combiner, from a contributor that is listed and not absent (R397). -/
def State.asCombiner (s : State) (i : Nat) (m : RingMsg) (f : State → Nat → State) : State :=
  if s.combines = false then s.bump (oRcnt i 0x20)
  else match s.contribOf m.src.toNat with
    | none => s.bump (oRcnt i 0x20)
    | some k => if (sget .reset k s.ring.contribs).absent then s else f s k

/-- DONE value of a word, when it is of this frame (R396). -/
def State.doneOf (s : State) (w : Word) : Option Nat :=
  if bf w 59 28 = s.frame.count % 2 ^ 32 then some (bf w 27 0) else none

/-- Frame count that a DONE value names, in its low 32 bits (R396). -/
def State.frameOf (s : State) (w : Word) : Nat := s.frame.count / 2 ^ 32 * 2 ^ 32 + bf w 59 28

/-- CAND: the record enters the combiner's FIFO of its ring-port source (R397, R398), or stays in the port's receive buffer while that is
full (R366). -/
def execCand (t : Time) (i : RingPort) (m : RingMsg) (s : State) : Out :=
  .next ((s.at t).receive i 2 0 m fun s => s.asCombiner i m fun s k =>
    let d := s.doneOf (m.body.getD 8 0)
    let s := s.contribHeard k m.seq.toNat d
    let src := 32 + s.contribPort m.src.toNat
    let s := if s.fifoRoom src then s else s.setRport i { s.rport i with
        owed := sset 0 2 (sget 0 2 (s.rport i).owed - 3) (s.rport i).owed }
    let s := s.fifoPut src (.cand (m.body.take 8) (s.frameOf (m.body.getD 8 0)))
    match d with
    | some d => s.fifoPut src (.rdone k d)
    | none => s)

/-- DONE: the contributor's done time, behind the records sent before it (R396, R397). -/
def execDone (t : Time) (i : RingPort) (m : RingMsg) (s : State) : Out :=
  .next ((s.at t).receive i 2 1 m fun s => s.asCombiner i m fun s k =>
    let d := s.doneOf (m.body.getD 0 0)
    let s := s.contribHeard k m.seq.toNat d
    match d with
    | some d => s.fifoPut (32 + s.contribPort m.src.toNat) (.rdone k d)
    | none => s)

/-- LOSS: SYSREEF for its slot, or with STICKY for every later record of the frame (R398). -/
def execLoss (t : Time) (i : RingPort) (m : RingMsg) (s : State) : Out :=
  .next ((s.at t).receive i 2 2 m fun s => s.asCombiner i m fun s k =>
    let s := s.contribHeard k m.seq.toNat none
    let w := m.body.getD 0 0
    if bf w 63 63 = 1 then { s with mast := { s.mast with sysAll := true } }
    else { s with mast := { s.mast with sysSlots := bf w 31 0 :: s.mast.sysSlots } })

/-- DECISION: delivered to a contributor's masthead when it comes from its combiner and the slot is not yet decided (R384, R399). -/
def execDecision (t : Time) (i : RingPort) (m : RingMsg) (s : State) : Out :=
  .next ((s.at t).receive i 1 0 m fun s =>
    if s.role = 1 ∧ m.src.toNat = s.field (oMst 0x18) 47 32 ∧ s.mast.next ≤ m.seq.toNat then
      { s with mast := { s.mast with bcast := sset [] m.seq.toNat (m.body.take 8) s.mast.bcast } }
    else s)

/-- DONE_SEND: a contributor's done time has advanced and it has been silent for 25.6 ns (R396). -/
def execDoneSend (t : Time) (s : State) : Out :=
  let s := s.at t
  if s.role ≠ 1 ∨ s.castOn = false then .next s
  else
    let s := s.tellReef
    .next (if s.ring.doneSent < s.ownDone ∧ s.ring.candAt + 2 * hopT ≤ t then
        let s := s.candMsg 1 1 [s.doneWord]
        { s with ring := { s.ring with doneSent := s.ownDone } }
      else s)

/-- CONTRIBUTOR_ABSENT: nothing heard for 1 µs during a frame (R398). -/
def execContributorAbsent (t : Time) (k : Fin 64) (s : State) : Out :=
  let s := s.at t
  let c := sget .reset k.val s.ring.contribs
  if s.combines ∧ s.castOn ∧ s.contribOn k ∧ c.absent = false ∧ c.heard + usT 1 ≤ t then
    let s := { s with ring := { s.ring with contribs := sset .reset k.val { c with absent := true } s.ring.contribs },
                      mast := { s.mast with sysAll := true } }
    .next (s.ringDones.err 1 4 0 4 (s.field (oShr (0x800 + k.val * 8)) 15 0))
  else .next s

/-! ### Masthead table window (R385) -/

/-- Entries of a masthead table. -/
def mtabSize (tab : Nat) : Nat := if tab = 0 then 256 else if tab = 3 then 5 else 64

/-- Legal bits of a table word; a reserved encoding keeps the field's old value (R13, Tables 11.2 to 11.5). -/
def mtabMerge (tab e w : Nat) (old v : Word) : Word :=
  match tab, w with
  | 0, 0 =>
    let cmin := if bf v 55 48 = 0 then bf old 55 48 else bf v 55 48
    setBf (setBf (setBf (setBf 0 63 63 (bf v 63 63)) 55 48 cmin) 45 40 (bf v 45 40)) 39 0 (bf v 39 0)
  | 1, 0 =>
    let n := if 8 < bf v 59 56 then bf old 59 56 else bf v 59 56
    setBf (setBf (setBf (setBf 0 63 61 (bf v 63 61)) 59 56 n) 55 50 (bf v 55 50)) 39 32 (bf v 39 32)
  | 1, 1 => v
  | 2, 0 => setBf 0 23 0 (bf v 23 0)
  | 3, 0 =>
    if e = 0 then setBf 0 15 0 (bf v 15 0)
    else
      let c := if bf v 39 32 = 0 then bf old 39 32 else bf v 39 32
      let n := if bf v 15 0 < 2 then bf old 15 0 else bf v 15 0
      setBf (setBf (setBf 0 63 63 (bf v 63 63)) 39 32 c) 15 0 n
  | _, _ => 0

/-- MST_TAB_ACCESS: writes go to the staged copy; reads return the copy that ACTIVE_VIEW selects, the prescale COUNT in the active
view only (R385). -/
def execMstTabAccess (t : Time) (data1 write : Bool) (v : Word) (s : State) : Out :=
  let s := s.at t
  let tab := s.field (oMst 0x38) 17 16
  let e := s.field (oMst 0x38) 7 0
  let key := tab * 512 + e * 2 + b2n data1
  let s : State :=
    if mtabSize tab ≤ e then (if write then s else { s with rdata := 0 })
    else if write then
      ({ s with mastS := sset 0 key (mtabMerge tab e (b2n data1) (sget 0 key s.mastS) v) s.mastS }).tabPend 2
    else if s.field (oMst 0x38) 62 62 = 1 then
      let w := sget 0 key s.mastA
      { s with rdata := if tab = 2 ∧ data1 = false then setBf w 55 32 (sget 0 e s.mast.counts) else w }
    else { s with rdata := sget 0 key s.mastS }
  .next (if data1 = true ∧ s.field (oMst 0x38) 63 63 = 1 then s.setField (oMst 0x38) 7 0 ((e + 1) % 256) else s)

/-! ### Readout (R460 to R463) -/

/-- What gathering finds in the history of one row: hits with their BEHIND marks, whether lines were overwritten or damaged. -/
structure Gathered where
  hits : List (Word × Bool)
  over_ : Bool
  damaged : Bool
  first : Option Nat
  last : Nat
  deriving DecidableEq, Repr

/-- Read a line of a hit-history ring; true when one of its words is uncorrectable or poisoned (R345). -/
def State.histLine (s : State) (a : Nat) : State × Bool :=
  let s := s.devLine 4 0 a
  match (List.range 8).find? fun i => (s.busErr (a / 64 * 64 + 8 * i)).isSome with
  | some i => (s.busErrLog (a / 64 * 64 + 8 * i) 4 0, true)
  | none => (s, false)

/-- Read the history of row r for the keys from lo up to hi (R118, R462). A damaged line, or a damaged word of the index, gives no hits
and flags the record (R345). -/
def State.gatherRow (s : State) (r lo hi : Nat) : State × Gathered :=
  let x := s.row r
  let head := s.field (oRow r 0x48) 31 0
  let b := lo / 2 ^ 17
  let g0 : Gathered := { hits := [], over_ := false, damaged := false, first := none, last := 0 }
  if s.histOn r = false ∨ x.bucket ≤ b then (s, g0)
  else
    let ia := s.field (oRow r 0x38) 45 0 + b % 2 ^ s.histIdx r * 4
    let (s, lost) := s.devGet 4 0 (ia / 8 * 8)
    if lost.isSome then (s, { g0 with damaged := true })
    else
    let n0 := (mrdW (ia / 8 * 8) s.mem).toNat / 2 ^ (8 * (ia % 8)) % 2 ^ 32
    let gone := decide (2 ^ s.histIdx r < x.bucket - b ∨ 2 ^ s.histLog r < idxSub head n0)
    let count := min (idxSub head n0) (2 ^ s.histLog r)
    (List.range count).foldl (fun (s, g) i =>
      let n := (n0 + i) % 2 ^ 32
      let a := s.field (oRow r 0x30) 45 0 + n % 2 ^ s.histLog r * 64
      let (s, lost) := s.histLine a
      if lost then (s, { g with damaged := true })
      else
        let ws := mrdWs a 8 s.mem
        let h := ws.getD 0 0
        if bf h 63 48 ≠ s.frame.count % 65536 then (s, { g with over_ := true })
        else
          let found := ((List.range (bf h 47 45)).map fun j => (ws.getD (j + 1) 0, bit (bf h 7 1) j)).filter fun w =>
            decide (lo ≤ wordKey w.1 ∧ wordKey w.1 < hi)
          (s, { g with hits := g.hits ++ found, first := g.first.or (some n), last := n })) (s, { g0 with over_ := gone })

/-- Cut a list into pieces of at most 7. -/
def chunk7 {α : Type} (fuel : Nat) (l : List α) : List (List α) :=
  match fuel with
  | 0 => []
  | n + 1 => if l.isEmpty then [] else l.take 7 :: chunk7 n (l.drop 7)

/-- HITS records of one row (Table 14.7). -/
def hitRecords (r slot : Nat) (hits : List (Word × Bool)) : List (List Word) :=
  (chunk7 hits.length hits).map fun (l : List (Word × Bool)) =>
    let beh := (List.range 7).foldl (fun a i => if (l.getD i (0, false)).2 then orBit a i else a) 0
    let w0 := setBf (setBf (setBf (setBf (setBf 0 62 59 2) 58 56 l.length) 51 47 r) 46 40 beh) 31 0 slot
    w0 :: (List.range 7).map fun i => (l.getD i (uninit, false)).1

/-- The records of a slot for one queue (R461, R463, Table 14.7). -/
def State.roRecords (s : State) (j : RoJob) (mask : Nat) (late : Bool) : State × List (List Word) :=
  let cfg := s.effReg (oQue 0x100)
  let w := s.slotW
  let lo := (j.slot - bf cfg 15 8) * w
  let hi := min s.lenL ((j.slot + 1 + bf cfg 7 0) * w)
  let rows := (List.range 32).filter fun r => bit mask r
  let (s, gs) := rows.foldl (fun (a : State × List (Nat × Gathered)) r =>
    let (s, g) := a.1.gatherRow r (lo * 16) (hi * 16)
    (s, a.2 ++ [(r, g)])) (s, [])
  let body :=
    if s.haOn 5 0 then
      gs.filterMap fun g => match g.2.first with
        | none => none
        | some f => some [setBf (setBf (setBf 0 62 59 4) 51 47 g.1) 31 0 j.slot, BitVec.ofNat 64 f, BitVec.ofNat 64 g.2.last,
            BitVec.ofNat 64 (s.field (oRow g.1 0x30) 45 0), BitVec.ofNat 64 (s.histLog g.1), 0, 0, 0]
    else
      (gs.flatMap fun g => hitRecords g.1 j.slot g.2.hits) ++
      j.cands.map fun c =>
        setBf (setBf (setBf (setBf 0 62 59 3) 58 53 (bf (c.2.getD 0 0) 55 50)) 52 47 c.1) 31 0 j.slot ::
          (List.range 7).map fun i => c.2.getD (i + 1) 0
  let max := bf cfg 31 16
  let kept := body.take max
  let rec_ := j.record
  let w0 := setBf (setBf (setBf (setBf (setBf (setBf (setBf 0 62 59 1) 58 58 (b2n (gs.any (·.2.damaged)))) 57 57
    (b2n (gs.any (·.2.over_)))) 56 56 (b2n (decide (max < body.length)))) 55 55 (b2n late)) 47 32 kept.length) 31 0 j.slot
  let head := [w0, setBf (setBf 0 63 32 (bf (rec_.getD 1 0) 63 32)) 31 0 (bf (rec_.getD 6 0) 31 0), rec_.getD 0 0,
    rec_.getD 5 0, rec_.getD 4 0, rec_.getD 3 0, BitVec.ofNat 64 lo, BitVec.ofNat 64 hi]
  (s, head :: kept)

/-- A row has flushed, or has passed the end of a readout window (R462). -/
def State.rowReady (s : State) (r hi : Nat) : Bool :=
  let x := s.row r
  x.flushed || (decide (hi ≤ x.rt) && ((List.range 18).filter fun i => (x.stream i).live).all fun i => decide (hi ≤ (x.stream i).ts))

/-- READOUT_GATHER (R462): the records of an accepted slot are formed and go to the queues, waiting where one is full. -/
def execReadoutGather (t : Time) (slot : BitVec 32) (s : State) : Out :=
  let s := s.at t
  match s.mast.ro.find? fun j => j.slot == slot.toNat with
  | none => .next s
  | some j =>
    let qs := (s.activeQueues 1).filter fun q => bit (s.kinds q) 2
    let mask := qs.foldl (fun a q => a ||| s.field (oQbind q) 31 0) 0
    let cfg := s.effReg (oQue 0x100)
    let hi := min s.lenL ((j.slot + 1 + bf cfg 7 0) * s.slotW) * 16
    let ready := ((List.range 32).filter fun r => bit mask r).all fun r => s.rowReady r hi
    let out := s.slotT j.slot + s.horizon
    if t < out ∨ (ready = false ∧ t < out + usT (bf cfg 47 32)) then .next s
    else
      let s := { s with mast := { s.mast with ro := s.mast.ro.filter fun k => k.slot != j.slot } }
      .next (qs.foldl (fun s q =>
        let (s, recs) := s.roRecords j (s.field (oQbind q) 31 0) (!ready)
        ({ s with mast := { s.mast with roOut := sset [] q (sget [] q s.mast.roOut ++ recs) s.mast.roOut } }).roDrain q) s)

end Sys2Proof.Machine
end

