-- ==== Sys2Proof/Machine/Regs.lean ====
section
/-! DEFINITION. The fields of every BAR0 register with their access codes (R10) and the write of a register field by field
(R10 to R13). A field with a behaviour of its own (a command register, a table window) appears here with code WO or RO: the
commands of the other rows act on it. -/

namespace Sys2Proof.Machine

/-- Access codes (Table 0.5); LCK fields ignore every write after the loader's (R478). -/
inductive Acc where
  | ro
  | rw
  | rw1c
  | rw1s
  | wo
  | lck
  deriving DecidableEq, Repr

/-- A field of a register: bits [hi:lo], access code, and the legal encodings as ranges, empty when all are legal (R13). -/
structure Field where
  hi : Nat
  lo : Nat
  acc : Acc
  legal : List (Nat × Nat) := []
  deriving DecidableEq, Repr

def fRW (hi lo : Nat) : Field := ⟨hi, lo, .rw, []⟩
def fRWl (hi lo a b : Nat) : Field := ⟨hi, lo, .rw, [(a, b)]⟩
def fC (hi lo : Nat) : Field := ⟨hi, lo, .rw1c, []⟩
def fL (hi lo : Nat) : Field := ⟨hi, lo, .lck, []⟩

/-- An encoding is legal. -/
def Field.ok (f : Field) (v : Nat) : Bool := f.legal.isEmpty || f.legal.any fun r => decide (r.1 ≤ v ∧ v ≤ r.2)

/-- DEV block (Table 18.7). -/
def fieldsDev (o : Nat) : List Field := if o = 0x30 then [fRW 63 0] else []

/-- PWR block (Tables 18.12 to 18.14). REQ is written by DOMAIN_REQUEST. -/
def fieldsPwr (o : Nat) : List Field :=
  if o = 0 then [fRW 63 63, fRW 15 0]
  else if o = 8 then [fL 4 0]
  else if 0x100 ≤ o ∧ o < 0x400 then [fC 57 57]
  else if 0x400 ≤ o ∧ o < 0x500 then
    [fRWl 63 62 0 2, fRWl 61 60 0 2, fRWl 57 56 0 2, fRWl 44 32 1 4096, fRW 15 0]
  else []

/-- SEC block (Table 18.15). -/
def fieldsSec (o : Nat) : List Field := if 0x10 ≤ o ∧ o < 0x30 then [fRW 63 0] else []

/-- FMT block (Tables 2.5, 2.19 to 2.22). -/
def fieldsFmt (o : Nat) : List Field :=
  if o < 0x100 then
    if o % 0x10 = 0 then
      [fRWl 63 62 0 2, fRW 61 61, fRW 60 60, fRW 59 52, fRW 51 46, fRW 45 43, fRW 42 37, fRWl 36 33 0 12, fRW 32 30,
       fRW 29 24, fRW 23 19, fRW 18 15]
    else [fRW 63 40, fRW 39 34, fRW 33 27, fRW 24 19]
  else if o = 0x100 then [fRW 63 63, fRW 62 62, fRW 15 0]
  else if o = 0x110 then [fRW 63 63, fRW 15 0]
  else if o = 0x128 then [fRW 47 32, fRWl 11 8 0 12, fRW 1 1, fRW 0 0]
  else []

/-- PRT block (Tables 2.9 to 2.17). ENABLE, FORCE_DEAD and RETRAIN are written by their own commands. -/
def fieldsPrt (o : Nat) : List Field :=
  if o = 0 then [fRW 11 8, fRW 3 3]
  else if o = 0x18 then [fRW 55 40, fRW 23 0]
  else if o = 0x30 then [⟨11, 0, .rw, [(0, 1707), (2389, 4095)]⟩]
  else if o = 0x38 then [fRW 55 0]
  else if o = 0x50 then [fC 63 63]
  else []

/-- ROW block (Tables 3.7 to 3.12). -/
def fieldsRow (o : Nat) : List Field :=
  if o = 0 then [fRW 63 56, fRW 17 0]
  else if o = 0x10 then [fRW 63 63, fRW 59 48, fRW 31 31, fRW 27 16]
  else if o = 0x18 then [fRW 63 63, fRW 62 62, fRW 11 0]
  else if o = 0x30 then [fL 45 0]
  else if o = 0x38 then [fL 45 0]
  else if o = 0x40 then [fL 12 8, fL 3 0]
  else []

/-- TMG block (Tables 17.6 to 17.10). -/
def fieldsTmg (o : Nat) : List Field :=
  if o = 0 then [⟨63, 62, .lck, [(0, 2)]⟩, fL 61 60, fL 59 58, fL 57 57, fRW 56 56, fRW 55 55, fRW 31 16, fRW 15 0]
  else if o = 0x18 then [fL 63 63, fL 60 56, fL 28 0]
  else if o = 0x20 then [fL 47 24, fL 9 0]
  else if o = 0x28 then [fRW 63 40, fRW 39 16]
  else if o = 0x30 then [fRW 55 0]
  else if o = 0x38 then [fRW 55 0]
  else if o = 0x60 then [fRW 11 0]
  else if 0x200 ≤ o ∧ o < 0x400 then [fRW 63 63, fRW 19 0]
  else []

/-- QUE block (Tables 14.11 to 14.18). QD_CFG, QD_BASE and QD_BIND of an enabled queue ignore writes (R446); EN is written by
QUEUE_ENABLE and QUEUE_DISABLE. -/
def fieldsQue (o : Nat) : List Field :=
  if o < 0x80 then (if o % 0x10 = 0 then [fRW 63 63, fRW 61 47, fRW 46 32, fRW 31 0] else [fRW 42 32, fRW 15 0])
  else if o = 0x100 then [fRW 47 32, fRW 31 16, fRW 15 8, fRW 7 0]
  else if o = 0x110 then [fC 63 63]
  else if 0x100000 ≤ o ∧ o < 0x300000 then
    if o % 0x40 = 0 then [fRW 62 60, fRW 59 55, fRW 54 52, fRW 51 51, fRW 50 50, fRW 47 40, fRW 39 32]
    else if o % 0x40 = 8 then [fRW 45 12]
    else if o % 0x40 = 0x18 then [fRW 63 53, fRW 52 52, fRW 51 43, fRW 42 35, fRW 31 0]
    else []
  else []

/-- MEM block (Tables 10.7 to 10.13). MEM_FLIPCTL is written by FLIP_ARM. -/
def fieldsMem (o : Nat) : List Field :=
  if o = 0 then [fRW 1 1, fRW 0 0]
  else if o = 0x18 then [fRW 63 0]
  else if 0x1000 ≤ o ∧ o < 0x10C0 then [fL 63 0]
  else if 0x2000 ≤ o ∧ o < 0x4000 ∧ o % 0x20 = 0 then [fC 63 63]
  else []

/-- MST block (Tables 11.8 to 11.12). -/
def fieldsMst (o : Nat) : List Field :=
  if o = 0 then [fRWl 63 62 0 2, fRWl 61 60 0 2, fRW 59 54, fRW 53 48]
  else if o = 0x10 then [fL 42 32, fL 27 0]
  else if o = 0x18 then [fL 63 62, fL 61 58, fL 47 32, fL 10 0]
  else if o = 0x28 then [fRW 35 0]
  else if o = 0x38 then [fRW 63 63, fRW 62 62, fRW 17 16, fRW 7 0]
  else []

/-- SHR block (Tables 12.9 to 12.14). -/
def fieldsShr (o : Nat) : List Field :=
  if o = 0 then [fRW 2 2]
  else if o = 8 then [fL 63 63, fL 40 32, fL 24 16, fL 15 0]
  else if o = 0x18 then [fL 15 8, fL 7 0]
  else if 0x100 ≤ o ∧ o < 0x180 ∧ o % 0x20 = 0 then [fC 59 59]
  else if 0x800 ≤ o ∧ o < 0xA00 then [fL 63 63, fL 15 0]
  else []
/-- UCS block (Tables 13.10, 13.12). -/
def fieldsUcs (o : Nat) : List Field := if o = 0x18 then [fRW 63 63, fRW 62 62, fRW 5 0] else []

/-- A core's range of the CLU block (Tables 7.16 to 7.20). CTX_TIMER is written by its own command. -/
def fieldsCore (o : Nat) : List Field :=
  if o = 0 then (List.range 4).flatMap fun j => [fL (16 * j + 15) (16 * j + 15), fRW (16 * j + 12) (16 * j + 8)]
  else if o = 0x10 then [fRW 63 63, fC 62 62, fRW 61 61, fRW 60 60, fRWl 55 52 1 5, fRW 46 2]
  else if o = 0x18 then [fRW 15 0]
  else if 0x20 ≤ o ∧ o < 0x40 then [fRW 55 0]
  else if 0x40 ≤ o ∧ o < 0x80 then [fRW 46 3]
  else if 0x80 ≤ o ∧ o < 0xC0 then [⟨46, 14, .rw, [(0, 0xFFFFFFFF)]⟩, fRW 3 0]
  else if 0xC0 ≤ o ∧ o < 0xE0 then [fL 30 0]
  else []

/-- CLU block (Tables 7.14, 8.5, 9.10). CLU_L2LOCK is written by its own command. -/
def fieldsClu (o : Nat) : List Field :=
  if o = 0x2000 ∨ o = 0x2008 then [fL 46 12]
  else if o = 0x2010 ∨ o = 0x2018 then [fL 63 0]
  else if o = 0x2020 then [fL 16 0]
  else if o = 0x2028 ∨ o = 0x2030 then [fL 63 48, fL 45 3]
  else if o = 0x3000 then [fL 45 17]
  else if o = 0x3008 then [fRW 8 8, fRW 3 0]
  else if o = 0x4000 ∨ o = 0x4008 then [fRW 63 63, fRW 45 14]
  else if o = 0x4010 then [fRW 15 0]
  else if 0x8000 ≤ o ∧ o < 0x9000 then fieldsCore (o % 0x100)
  else []

/-- MSI-X table entries are read and written whole (Table 14.2). -/
def fieldsMsix (o : Nat) : List Field := if o < 0x8000 then [fRW 63 0] else []

/-- The fields of the register at a BAR0 offset (Table 18.3); none for an offset that no chapter assigns (R540). -/
def fieldsOf (o : Nat) : List Field :=
  if o % 8 ≠ 0 ∨ o < 0x10000 then []
  else if o < 0x20000 then fieldsDev (o - 0x10000)
  else if o < 0x30000 then fieldsPwr (o - 0x20000)
  else if o < 0x40000 then fieldsSec (o - 0x30000)
  else if o < 0x50000 then fieldsFmt (o - 0x40000)
  else if o < 0x60000 then fieldsMst (o - 0x50000)
  else if o < 0x70000 then fieldsShr (o - 0x60000)
  else if o < 0x80000 then fieldsTmg (o - 0x70000)
  else if o < 0x90000 then fieldsMem ((o - 0x80000) % 0x4000)
  else if o < 0x100000 then []
  else if o < 0x110000 then fieldsUcs (o - 0x100000)
  else if o < 0x200000 then []
  else if o < 0x240000 then fieldsPrt ((o - 0x200000) % 0x200)
  else if o < 0x300000 then []
  else if o < 0x320000 then fieldsRow ((o - 0x300000) % 0x1000)
  else if o < 0x400000 then []
  else if o < 0x600000 then fieldsClu ((o - 0x400000) % 0x10000)
  else if o < 0x800000 then []
  else if o < 0x1000000 then fieldsQue (o - 0x800000)
  else if o < 0x2000000 then []
  else if o < 0x2009000 then fieldsMsix (o - 0x2000000)
  else []

/-- What a field holds after a write of the register (R10, R11, R13). `loader`: LCK fields take the value too (R478). -/
def Field.write (f : Field) (loader : Bool) (old v : Word) : Word :=
  let n := bf v f.hi f.lo
  match f.acc with
  | .ro => old
  | .wo => old
  | .lck => if loader && f.ok n then setBf old f.hi f.lo n else old
  | .rw => if f.ok n then setBf old f.hi f.lo n else old
  | .rw1c => setBf old f.hi f.lo (bf old f.hi f.lo &&& (2 ^ (f.hi + 1 - f.lo) - 1 - n))
  | .rw1s => setBf old f.hi f.lo (bf old f.hi f.lo ||| n)

/-- The register's value after a write: every other field and every reserved bit is unchanged (R12). -/
def regWritten (loader : Bool) (o : Nat) (old v : Word) : Word := (fieldsOf o).foldl (fun w f => f.write loader w v) old

/-- HBM_IDLE_EN 1 with HBM_IDLE 0 is a reserved encoding of PWR_CTRL: both fields keep their values (Table 18.12, log entry 33). -/
def pwrCtrlBad (o : Nat) (v : Word) : Bool := o == oPwr 0 && bf v 63 63 == 1 && bf v 15 0 == 0

/-- A register of a memory controller that is not installed (R3). -/
def State.memAbsent (s : State) (o : Nat) : Bool := decide (0x80000 + s.stacks * 0x4000 ≤ o ∧ o < 0x90000)

/-- A written value without its ones for RW1C bits that hardware has set in the same cycle (R11). -/
def State.keepRaised (s : State) (o : Nat) (v : Word) : Word :=
  (fieldsOf o).foldl (fun v f => match f.acc with
    | .rw1c => if s.justRaised o f.lo then setBf v f.hi f.lo 0 else v
    | _ => v) v

/-- Write a register of plain fields (R10 to R13). -/
def State.regWrite (s : State) (loader : Bool) (o : Nat) (v : Word) : State :=
  if pwrCtrlBad o v ∨ s.memAbsent o then s else s.setReg o (regWritten loader o (s.reg o) (s.keepRaised o v))

/-- RW fields that commands of their own write: PRT_CTRL.ENABLE and FORCE_DEAD, QD_CFG.EN, PWR_DOM.REQ of the domains that software
requests, MEM_FLIPCTL. -/
def aoOwn (o : Nat) : List (Nat × Nat) :=
  if 0x200000 ≤ o ∧ o < 0x240000 ∧ o % 0x200 = 0 then [(1, 0)]
  else if 0x900000 ≤ o ∧ o < 0xB00000 ∧ o % 0x40 = 0 then [(63, 63)]
  else if 0x20200 ≤ o ∧ o < 0x203E0 then [(63, 62)]
  else if 0x80000 ≤ o ∧ o < 0x90000 ∧ o % 0x4000 = 0x20 then [(63, 50), (45, 6)]
  else []

/-- What of a register is held in the AO domain (R495): its RW and LCK fields; the others at reset. -/
def aoPart (o : Nat) (w : Word) : Word :=
  let r := (fieldsOf o).foldl (fun r f => match f.acc with
    | .rw => setBf r f.hi f.lo (bf w f.hi f.lo)
    | .lck => setBf r f.hi f.lo (bf w f.hi f.lo)
    | _ => r) (regReset o)
  (aoOwn o).foldl (fun r f => setBf r f.1 f.2 (bf w f.1 f.2)) r

/-- Registers of a domain that loses its state keep what the AO domain holds (R496). -/
def State.loseRegs (s : State) (lost : Nat → Bool) : State :=
  let keep := fun (e : Nat × Word) =>
    if lost e.1 = false then some e
    else if aoPart e.1 e.2 = regReset e.1 then none
    else some (e.1, aoPart e.1 e.2)
  { s with regs := s.regs.filterMap keep }

/-- Counters of the kind frame, zeroed at cast-on (R32): Tables 2.18, 3.13, 8.9, 9.13, 11.13, 13.13 and 17.11. -/
def frameCounter (o : Nat) : Bool :=
  if 0x50000 ≤ o ∧ o < 0x60000 then
    let r := o - 0x50000
    (decide (0x100 ≤ r ∧ r ≤ 0x140) || r == 0x150 || r == 0x158 || decide (0x400 ≤ r ∧ r < 0x800))
  else if 0x70800 ≤ o ∧ o < 0x71000 then true
  else if 0x100100 ≤ o ∧ o ≤ 0x100110 then true
  else if 0x200000 ≤ o ∧ o < 0x240000 then
    let r := (o - 0x200000) % 0x200
    r == 0x108 || decide (0x128 ≤ r ∧ r ≤ 0x148)
  else if 0x300000 ≤ o ∧ o < 0x320000 then
    let r := (o - 0x300000) % 0x1000
    decide (0x100 ≤ r ∧ r ≤ 0x130) || r == 0x140
  else if 0x400000 ≤ o ∧ o < 0x600000 then
    let r := (o - 0x400000) % 0x10000
    (decide (0x3100 ≤ r ∧ r ≤ 0x3160) && r != 0x3158) || decide (0x4100 ≤ r ∧ r ≤ 0x4120) || r == 0x4130
  else false

end Sys2Proof.Machine
end

