-- ==== Sys2Proof/Machine/Power.lean ====
section
/-! DEFINITION. Power domains (16_clocks_power_crossings.md): requests, transitions and what they do to the units of a domain, the
occupancy rules of the clusters. -/

namespace Sys2Proof.Machine

def oDom (d : Nat) : Nat := oPwr (0x100 + d * 8)

def State.setPwr (s : State) (x : PwrSt) : State := { s with pwr := x }

/-- Domains 82, 83, 86 and 87 are not installed on PXZ-5122 (R2). -/
def State.domAbsent (s : State) (d : Nat) : Bool := s.small && (d == 82 || d == 83 || d == 86 || d == 87)

/-- States of a domain (Table 16.2). -/
def domHas (d v : Nat) : Bool := decide (v ≤ 2) && !(decide (84 ≤ d ∧ d ≤ 87) && v == 1)

/-- The request leaves a precondition of R502 or R503 unmet. -/
def State.domBarred (s : State) (d v : Nat) : Bool :=
  (decide (84 ≤ d ∧ d ≤ 87) && v == 0 && (s.domain (d - 4) != 0 || (s.moving (d - 4)).isSome)) ||
  (decide (80 ≤ d ∧ d ≤ 83) && v == 2 && !s.inService (d + 4)) ||
  (decide (88 ≤ d ∧ d ≤ 91) && decide (v < 2) && s.rstate != 0)

/-- A request is refused: counted, shown and recorded (R499). -/
def State.domRefuse (s : State) (d : Nat) : State :=
  ((s.bump (oPwr 0x608)).raiseBit (oDom d) 57).err 1 10 d 1 0

/-! ### What a transition does -/

/-- The ports of an engine or a row that leaves HOT go to OFF (R41, R500, R501). -/
def State.portsOff (s : State) (first n : Nat) : State :=
  (List.range n).foldl (fun s i => if (s.port (first + i)).link = .off then s else s.enter (first + i) .off true) s

/-- A row leaves service: its ports go to OFF and its streams are not live (R501). -/
def State.rowOut (s : State) (r : Nat) : State :=
  let s := s.portsOff (r * 16) 16
  let x := s.row r
  s.setRow r { x with streams := x.streams.map fun e => (e.1, { e.2 with live := false, ts := s.keyL }) }

/-- A transition of domain `d` to state `v` begins (R498). -/
def State.domBegin (s : State) (d v : Nat) : State :=
  let s := if d < 32 then s.settle d else s
  let s := s.setPwr { s.pwr with going := sset none d (some v) s.pwr.going }
  let s := s.setField (oDom d) 59 59 1
  if v = 2 then s
  else if 64 ≤ d ∧ d < 80 then s.portsOff ((d - 64) * 32) 32
  else if 32 ≤ d ∧ d < 64 then s.rowOut (d - 32)
  else s

/-- Take a request when its domain is between no two states (R499): none for the state it is in, a refusal, or a transition. -/
def State.domTake (s : State) (d v : Nat) : State :=
  if s.domain d = v then s
  else if s.domBarred d v then s.domRefuse d
  else s.domBegin d v

/-- The state that the last request before this one leads to. -/
def State.domAim (s : State) (d : Nat) : Nat :=
  ((sget [] d s.pwr.waitq).getLast?).getD ((s.moving d).getD (s.domain d))

/-- A request for a domain (R499, R501): it waits behind a transition, and a row's descent waits for the next cast-on. -/
def State.domAsk (s : State) (d v : Nat) : State :=
  if s.domAim d = v then s
  else if (s.moving d).isSome ∨ sget [] d s.pwr.waitq ≠ [] ∨ (32 ≤ d ∧ d < 64 ∧ v < 2) then
    s.setPwr { s.pwr with waitq := sset [] d (sget [] d s.pwr.waitq ++ [v]) s.pwr.waitq }
  else s.domTake d v

/-- Requests that wait are taken in arrival order until one begins a transition; `cast`: it is a cast-on, at which a row's descent
begins. -/
def State.domNext (s : State) (d : Nat) (cast : Bool) : Nat → State
  | 0 => s
  | fuel + 1 =>
    match sget [] d s.pwr.waitq with
    | [] => s
    | v :: rest =>
      if (s.moving d).isSome ∨ (32 ≤ d ∧ d < 64 ∧ v < 2 ∧ cast = false) then s
      else ((s.setPwr { s.pwr with waitq := sset [] d rest s.pwr.waitq }).domTake d v).domNext d cast fuel

/-- A cluster loses its caches, TLBs and cores; the dispatcher endpoint keeps its state (R326, R495 to R497). Dirty lines have been
written back. -/
def State.clusterOff (s : State) (k : Nat) : State :=
  let s := s.loseRegs fun o => decide ((oClu k 0x4100 ≤ o ∧ o < oClu k 0x5000) ∨ (oClu k 0x8000 ≤ o ∧ o < oClu k 0x10000))
  let x := s.clu k
  let s := s.setClu k { x with tlb := [], gen := 0, l2 := [], evict := [], evWait := [], writeback := false }
  (List.range 16).foldl (fun s i => s.setCore (k * 16 + i) (s.coreFresh (k * 16 + i) false (s.core (k * 16 + i)).out)) s

/-- A cluster comes up from OFF with its caches invalidated and its cores released, once start-up has released them (R327, R470,
R471). -/
def State.clusterOn (s : State) (k : Nat) : State :=
  (List.range 16).foldl (fun s i =>
    s.setCore (k * 16 + i) (s.coreFresh (k * 16 + i) (s.boot.locked && s.field (oDev 8) 62 62 == 0) (s.core (k * 16 + i)).out)) s

/-- Every dirty line of a cluster's L2 is written back (R505). -/
def State.writeBack (s : State) (k : Nat) : State :=
  let lines := (s.clu k).l2.filterMap fun e => e.2.filter fun l => l.dirty
  let held := (s.clu k).evict.filterMap (fun e => e.2) ++ (s.clu k).evWait
  let s := (lines ++ held).foldl (fun s l => s.acceptLine l) s
  let x := s.clu k
  s.setClu k { x with evict := [], evWait := [], l2 := x.l2.map fun e => (e.1, e.2.map fun l => { l with dirty := false }) }

/-- A stack loses its contents (R356). -/
def State.stackLost (s : State) (m : Nat) : State :=
  let gone := fun (a : Nat) => decide (a < 0x100000000000) && ctlOf a == m
  let s := { s with
    mem := s.mem.filter (fun e => !gone e.1)
    bad := s.bad.filter (fun e => !gone (e.1 * 64))
    suspect := s.suspect.filter (fun e => !gone (e.1 * 64))
    decodes := sset [] m [] s.decodes
    flips := s.flips.filter (fun e => !gone (e.1 * 64))
    merges := sset [] m [] s.merges }
  s.setField (oMem m 8) 62 62 0

/-- The fill of a stack begins when its controller is HOT and the stack has not been filled (R353, R356). -/
def State.fillBegin (s : State) (m : Nat) : State :=
  if s.field (oMem m 8) 62 62 = 0 ∧ s.memFailed m = false then s.setField (oMem m 8) 61 61 1 else s

/-- A write-back that is lost in the crossing: memory keeps what it held, which this model does not know, and UE_WRITE is logged
(Table 16.8). -/
def State.lineLost (s : State) (k line : Nat) : State :=
  let s := (List.range 8).foldl (fun s i => ({ s with mem := mwrW (line * 64 + i * 8) s.freeVal s.mem }).useFree) s
  s.memLog (ctlOf (line * 64)) 4 (line * 64) 0xFF 0 k 0

/-- A controller leaves OFF: under TOGETHER the write-backs in its crossings to the clusters are discarded (R512, class 1). -/
def State.crossingCut (s : State) (m : Nat) : State :=
  if s.field (oPwr 8) 1 1 = 0 then s
  else forN 32 (fun s k =>
    let x := s.clu k
    let mine := fun (l : L2Line) => ctlOf (l.line * 64) == m
    let held := (x.evict.filterMap (fun e => e.2)).filter mine ++ x.evWait.filter mine
    let s := s.setClu k { x with
      evict := x.evict.filter (fun e => !(e.2.any mine))
      evWait := x.evWait.filter (fun l => !mine l) }
    held.foldl (fun s l => s.lineLost k l.line) s) s

/-- A ring port loses its state and counters; what the masthead and the queue engine have sent it stays in the crossing (R496). -/
def State.ringPortOff (s : State) (i : Nat) : State :=
  let x := s.rport i
  let s := s.setRport i { RingPortSt.reset with outq := x.outq, waitq := x.waitq }
  s.loseRegs fun o => decide ((oPstat i ≤ o ∧ o < oPstat i + 0x20) ∨ (oRcnt i 0 ≤ o ∧ o < oRcnt i 0x40))

/-- A ring port leaves OFF: under TOGETHER what waits in the crossing goes as for loss of signal (R512, class 4). -/
def State.ringCrossing (s : State) (i : Nat) : State :=
  if s.field (oPwr 8) 4 4 = 0 then s
  else
    let lost := (s.queued i).filter fun m => m.cls != 4
    let keep := (s.queued i).filter fun m => m.cls == 4
    (s.setRport i { s.rport i with outq := [], waitq := keep }).bumpN (oRcnt i 0x20) lost.length

/-- A controller goes OFF: its merge buffer completes while the stack enters self-refresh; page decodes are given up and its log and
counters are lost (R348, R496, R502). -/
def State.ctlOff (s : State) (m : Nat) : State :=
  let s := (sget [] m s.merges).foldl (fun s e => s.mergeDone m e.1) s
  ({ s with decodes := sset [] m [] s.decodes }).loseRegs fun o => decide (oMem m 0x18 ≤ o ∧ o < oMem m 0x4000)

/-- The units of a domain that arrives in a state (R500 to R502, Table 16.4). -/
def State.domArrive (s : State) (d old v : Nat) : State :=
  if d < 32 then
    if v = 0 then s.clusterOff d
    else
      let s := if old = 0 then s.clusterOn d else s
      if v = 2 then s.restart d else s
  else if d < 64 then
    if v = 0 then
      let r := d - 32
      let x := s.row r
      let s := s.setRow r { RowSt.reset with
        lanesOff := x.lanesOff, vstate := x.vstate, retired := x.retired, voterFault := x.voterFault, classes := x.classes,
        oldClasses := x.oldClasses, rebuilt := x.rebuilt, served := x.served, classMerged := x.classMerged,
        fanoutCut := x.fanoutCut }
      s.loseRegs fun o => decide (oRow r 0 ≤ o ∧ o < oRow r 0x1000) || decide (oPort (r * 16) 0 ≤ o ∧ o < oPort (r * 16 + 16) 0)
    else if v = 2 then forN 16 (fun s i => (s.reshow ((d - 32) * 16 + i)).tryLeaveOff ((d - 32) * 16 + i)) s
    else s
  else if d < 80 then
    if v = 2 then forN 32 (fun s i => s.tryLeaveOff ((d - 64) * 32 + i)) s else s
  else if d < 84 then
    if v = 2 then (if old = 0 then s.crossingCut (d - 80) else s).fillBegin (d - 80)
    else if v = 0 then s.ctlOff (d - 80)
    else s
  else if d < 88 then
    if v = 0 then s.stackLost (d - 84)
    else if s.field (oDev 8) 61 58 = 6 ∧ s.domain (d - 4) = 0 ∧ (s.moving (d - 4)).isNone then (s.setField (oDom (d - 4)) 63 62 2).domBegin (d - 4) 2
    else s
  else if d < 92 then
    let i := d - 88
    let s := if v = 0 then s.ringPortOff i else if old = 0 then s.ringCrossing i else s
    let s := if v = 2 then s.setRport i { s.rport i with alignAt := s.now, t2 := none } else s
    let s := (s.setField (oPstat i) 63 60 (if v = 2 ∧ s.portUsed i then 1 else 0)).setField (oPstat i) 58 58 0
    s.ringEvent i
  else s

/-- A transition ends (R498, R499). -/
def State.domDone (s : State) (d : Nat) : State :=
  match s.moving d with
  | none => s
  | some v =>
    let old := s.domain d
    let s := s.setPwr { s.pwr with going := sset none d none s.pwr.going }
    let s := (s.setField (oDom d) 59 59 0).setField (oDom d) 61 60 v
    let s := s.domArrive d old v
    s.domNext d false 8

/-! ### Clusters and occupancy (R38, R40, R504, R505) -/

/-- Copies in a cluster's hit queue. -/
def State.hitDepth (s : State) (k : Nat) : Nat := ((s.clu k).copies.map fun e => e.2.length).sum

/-- A cluster asks for HOT; while it descends or is tested the wake is held (R505, R588). -/
def State.wake (s : State) (k : Nat) : State :=
  let s := s.setField (oDom k) 63 62 2
  if (s.clu k).bist = 1 then
    (if sget [] k s.pwr.waitq = [2] then s else s.setPwr { s.pwr with waitq := sset [] k [2] s.pwr.waitq })
  else s.domAsk k 2

/-- A cluster whose domain serves, or asks to: a slice in QUEUED or a deep hit queue (R504). -/
def State.wakeCheck (s : State) (k : Nat) : State :=
  if bf (s.effNow (oPwr (0x400 + k * 8))) 44 32 < s.hitDepth k ∨ (s.clu k).slices.any (fun x => x.st == .queued) then s.wake k else s

/-- A core is in a held handler or in its bank. -/
def State.coreHeld (s : State) (c : Nat) : Bool :=
  let x := s.core c
  x.bankOn || x.trap.isSome || [0, 1, 2, 3].any fun j => stHeld (x.ctx j).spec.st == 1

/-- A cluster is quiet (R40, R504). -/
def State.quiet (s : State) (k : Nat) : Bool :=
  (s.clu k).slices.isEmpty && s.hitDepth k == 0 && (sget [] k s.outqs).isEmpty && (s.cluIn.all fun e => e.1 != k || e.2.isEmpty) &&
  (List.range 16).all fun i => !s.coreHeld (k * 16 + i)

/-- The cluster has just done something: its quiet time starts now. -/
def State.stir (s : State) (k : Nat) : State := s.setClu k { s.clu k with idleAt := s.now }

/-- A frame gap after the reset interval (R32, R152); FLOOR_GAP applies before the first cast-on and from the end of a reset interval to
the next cast-on (R504). -/
def State.inGap (s : State) : Bool :=
  s.frame.phase == .idle || (s.frame.phase == .resetting && decide (s.frame.clear * unitT ≤ s.now))

/-- CLUSTER_IDLE (R504, R505). -/
def execClusterIdle (t : Time) (c : ClusterId) (s : State) : Out :=
  let s := s.at t
  let k : Nat := c
  let w := s.effNow (oPwr (0x400 + k * 8))
  let floor := if s.inGap then bf w 63 62 else bf w 61 60
  let due := s.inGap || decide ((s.clu k).idleAt + bf w 15 0 * 1280000 ≤ t)
  .next (
    if s.boot.locked = false ∨ s.quiet k = false ∨ due = false ∨ (s.moving k).isSome ∨ (s.clu k).bist ≠ 0 ∨ s.domain k = floor then s
    else
      let s := s.setField (oDom k) 63 62 floor
      if floor = 0 then (s.setClu k { s.clu k with writeback := true }).domBegin k 0 else s.domBegin k floor)

/-- CLUSTER_WRITEBACK_DONE (R505): the supply is removed, and a held wake begins. -/
def execClusterWritebackDone (t : Time) (c : ClusterId) (s : State) : Out :=
  let s := s.at t
  .next (if (s.clu c).writeback ∧ s.moving c = some 0 then (s.writeBack c).domDone c else s)

/-- DOMAIN_REQUEST (R13, R499, R551): REQ of domains 0 to 31, 92 to 95 and of absent domains ignores writes. -/
def State.domainRequest (s : State) (d v : Nat) : State :=
  if d < 32 ∨ 92 ≤ d ∨ s.domAbsent d ∨ domHas d v = false then s
  else (s.setField (oDom d) 63 62 v).domAsk d v

def execDomainRequest (t : Time) (d : DomainId) (req : BitVec 2) (s : State) : Out :=
  .next ((s.at t).domainRequest d req.toNat)

/-- DOMAIN_TRANSITION_DONE (R498). A cluster's descent to OFF ends with its write-back. -/
def execDomainTransitionDone (t : Time) (d : DomainId) (s : State) : Out :=
  let s := s.at t
  .next (if (s.clu d).writeback ∧ d.val < 32 then s else s.domDone d)

/-- HBM_IDLE (R502): with idle control enabled, a HOT controller that has had no access for HBM_IDLE µs enters WARM. -/
def execHbmIdle (t : Time) (m : CtlId) (s : State) : Out :=
  let s := s.at t
  let d := 80 + m.val
  let at_ := sget 0 m s.pwr.memAt
  .next (
    if s.field (oPwr 0) 63 63 = 1 ∧ s.inService d ∧ at_ + usT (s.field (oPwr 0) 15 0) ≤ t then s.setField (oDom d) 61 60 1 else s)

end Sys2Proof.Machine
end

