-- ==== Sys2Proof/Machine/Boot.lean ====
section
/-! DEFINITION. Device reset and steps 1 to 5 of start-up: the rigging image, its keys and signatures, the measurement slots, the
power policy, the microcode sections and the world map (13_microcode.md, 15_start_and_attestation.md). -/

namespace Sys2Proof.Machine

/-! ### The flash (R473) -/

/-- One byte of the flash; an unlisted one is erased (log entry 2). -/
def State.flashB (s : State) (a : Nat) : Byte := sget 0xFF a s.flash

/-- `n` bytes of the flash. -/
def State.flashBs (s : State) (a n : Nat) : List Byte := (List.range n).map fun i => s.flashB (a + i)

/-- A word of the flash, byte 0 lowest. -/
def State.flashW (s : State) (a : Nat) : Word :=
  BitVec.ofNat 64 ((List.range 8).foldr (fun i n => n * 256 + (s.flashB (a + i)).toNat) 0)

/-- `n` words of the flash. -/
def State.flashWs (s : State) (a n : Nat) : List Word := (List.range n).map fun i => s.flashW (a + 8 * i)

/-! ### Digests -/

/-- The four words of a digest, byte 0 of the digest in bits 7 to 0 of word 0. -/
def digWords (d : BitVec 256) : List Word := (List.range 4).map fun i => BitVec.ofNat 64 (d.toNat >>> (64 * i))

/-- The 32 bytes of a digest. -/
def digBytes (d : BitVec 256) : List Byte := wordBytes (digWords d)

/-- A number as `n` bytes, lowest first. -/
def leBytes (n v : Nat) : List Byte := (List.range n).map fun i => BitVec.ofNat 8 (v >>> (8 * i))

/-! ### Measurement slots and the start report (R486, R487) -/

def oSlot (k w : Nat) : Nat := oSec (0x1000 + k * 0x40 + w * 8)
def oReport (e w : Nat) : Nat := oSec (0x2000 + e * 0x20 + w * 8)

/-- Fill a slot record (Table 15.11); notes already set make it APPLIED_NOTED. -/
def State.slotSet (s : State) (k typ st sig len ver : Nat) (dig : List Word) : State :=
  let notes := s.field (oSlot k 1) 63 32
  let st := if st = 1 ∧ notes ≠ 0 then 2 else st
  let s := s.setReg (oSlot k 0) (setBf (setBf (setBf (setBf 0 15 0 typ) 23 16 st) 31 24 sig) 63 32 len)
  let s := s.setReg (oSlot k 1) (setBf (setBf 0 31 0 ver) 63 32 notes)
  (List.range 4).foldl (fun s i => s.setReg (oSlot k (2 + i)) (dig.getD i 0)) s

/-- Set a note bit; an APPLIED slot becomes APPLIED_NOTED. -/
def State.slotNote (s : State) (k b : Nat) : State :=
  let s := s.setReg (oSlot k 1) (BitVec.ofNat 64 (orBit (s.reg (oSlot k 1)).toNat (32 + b)))
  if s.field (oSlot k 0) 23 16 = 1 then s.setField (oSlot k 0) 23 16 2 else s

/-- Set a note with its entry of the start report (R487). -/
def State.note (s : State) (k b : Nat) (at_ : Nat) (given used : Word) : State :=
  let s := s.slotNote k b
  let n := s.field (oSec 0x30) 10 0
  if 1024 ≤ n then s.slotNote 20 9
  else
    let s := s.setReg (oReport n 0) (setBf (setBf 0 7 0 k) 15 8 b)
    let s := ((s.setReg (oReport n 1) (BitVec.ofNat 64 at_)).setReg (oReport n 2) given).setReg (oReport n 3) used
    s.setField (oSec 0x30) 10 0 (n + 1)

/-- Reject a section with the note FORMAT (R426, R478). -/
def State.slotReject (s : State) (k at_ : Nat) (given : Word) : State :=
  (s.note k 7 at_ given 0).setField (oSlot k 0) 23 16 3

/-! ### The header and its directory (R474, R476) -/

/-- A directory entry. -/
structure Sec where
  typ : Nat
  len : Nat
  off : Nat
  sig : Nat
  ver : Nat
  /-- A reserved field is not zero. -/
  dirty : Bool
  deriving DecidableEq, Repr

/-- The header is valid (R474); reserved fields of the entries are judged by R476. -/
def headerValid (h : List Word) : Bool :=
  let w := fun (i : Nat) => h.getD i 0
  let n := bf (w 0) 63 48
  bf (w 0) 31 0 == 0x47474952 && bf (w 0) 47 32 == 1 && decide (1 ≤ n ∧ n ≤ 64) &&
  decide (8192 ≤ bf (w 1) 31 0 ∧ bf (w 1) 31 0 ≤ 0x10000000 ∧ bf (w 1) 31 0 % 4096 = 0) && bf (w 1) 63 48 == 0 &&
  bf (w 2) 63 32 == 0 && bf (w 3) 63 32 == 0 && ((h.drop 4).take 4).all (· == 0) && (h.drop (8 + 4 * n)).all (· == 0) &&
  crc32c (wordBytes (h.take 3 ++ [0] ++ h.drop 4)) == bf (w 3) 31 0

/-- Entry `e` of the directory. -/
def secAt (h : List Word) (e : Nat) : Sec :=
  let w := fun (i : Nat) => h.getD (8 + 4 * e + i) 0
  { typ := bf (w 0) 15 0, len := bf (w 0) 63 32, off := bf (w 1) 31 0, sig := bf (w 1) 63 32, ver := bf (w 2) 31 0,
    dirty := bf (w 0) 31 16 != 0 || bf (w 2) 63 32 != 0 || w 3 != 0 }

/-- The directory of a header. -/
def secsOf (h : List Word) : List Sec := (List.range (bf (h.getD 0 0) 63 48)).map (secAt h)

/-- Bytes that an entry claims, as (start, length): its payload and its signature block. -/
def Sec.spans (x : Sec) : List (Nat × Nat) := (x.off, x.len) :: (if x.sig = 0 then [] else [(x.sig, 2432)])

/-- Two intervals of bytes meet. -/
def meets (a b : Nat × Nat) : Bool := decide (a.1 < b.1 + b.2 ∧ b.1 < a.1 + a.2)

/-- The type of an entry is that of an earlier one. -/
def secDup (l : List Sec) (e : Nat) : Bool := (l.take e).any fun y => (l[e]?).any fun x => x.typ == y.typ

/-- A directory entry is unreadable (R476). -/
def secBad (imageLen : Nat) (l : List Sec) (e : Nat) : Bool :=
  match l[e]? with
  | none => true
  | some x =>
    x.dirty || secDup l e || x.spans.any (fun a => decide (imageLen < a.1 + a.2) || meets a (0, 4096)) ||
    (List.range l.length).any fun f => f != e && match l[f]? with
      | some y => x.spans.any fun a => y.spans.any fun b => meets a b
      | none => false

/-- Measurement slot of a section type (Table 15.5). -/
def slotOf (typ : Nat) : Nat := if 1 ≤ typ ∧ typ ≤ 0x12 then typ + 1 else 21

/-- Step that reads a section type (Table 15.5); sections of an unknown type are read with the register sections. -/
def stepOf (typ : Nat) : Nat :=
  if typ = 0x11 ∨ typ = 0x12 then 4
  else if typ = 8 ∨ typ = 0x0E ∨ typ = 0x0F then 5
  else if 0x0A ≤ typ ∧ typ ≤ 0x0D then 6
  else 7

/-- Readable sections of the image, in directory order. -/
def State.sections (s : State) : List Sec :=
  let l := secsOf s.boot.header
  let len := bf (s.boot.header.getD 1 0) 31 0
  ((List.range l.length).filter fun e => !secBad len l e).filterMap fun e => l[e]?

/-! ### Keys and signatures (R482, R484) -/

/-- Digest that the fuses hold for a key code, none when blank or revoked (Tables 15.9, 15.10). -/
def State.fusedFor (s : State) (key : Nat) : Option (List Word) :=
  if key = 1 then some (digWords Config.vendorDigest)
  else if key = 2 then (if s.fuses.revoked0 then none else s.fuses.digest0)
  else if key = 3 then (if s.fuses.revoked1 then none else s.fuses.digest1)
  else none

/-- Fields of SEC_FUSESTAT and SEC_KEYDIG as the fuses read (Tables 18.15, 18.16). -/
def State.readFuses (s : State) : State :=
  let f := s.fuses
  let bits := 16 + b2n f.revoked1 * 8 + b2n f.revoked0 * 4 + b2n f.digest1.isSome * 2 + b2n f.digest0.isSome
  let s := s.setField (oSec 0) 4 0 bits
  let put := fun (s : State) (j : Nat) (d : List Word) =>
    (List.range 4).foldl (fun s w => s.setReg (oSec (0x100 + j * 0x20 + w * 8)) (d.getD w 0)) s
  put (put (put s 0 (digWords Config.vendorDigest)) 1 (f.digest0.getD [])) 2 (f.digest1.getD [])

/-- The message that a section signature covers, 48 bytes (R484). -/
def sigMessage (x : Sec) (imageVersion : Nat) (dig : BitVec 256) : List Byte :=
  leBytes 2 x.typ ++ leBytes 2 0 ++ leBytes 4 x.len ++ leBytes 4 imageVersion ++ leBytes 4 x.ver ++ digBytes dig

/-- Result of a section's signature check (R484). -/
def State.sigResult (s : State) (x : Sec) (dig : BitVec 256) : Nat :=
  if x.sig = 0 then 0
  else
    let key := (s.flashB x.sig).toNat + 256 * (s.flashB (x.sig + 1)).toNat
    let size := (s.flashB (x.sig + 2)).toNat + 256 * (s.flashB (x.sig + 3)).toNat
    let zero := (List.range 8).all fun i => s.flashB (x.sig + 4 + i) == 0
    match s.boot.keys.find? fun k => k.1 == key with
    | none => 3
    | some k =>
      if size = 2420 ∧ zero ∧
          Config.sigValid k.2 (sigMessage x (bf (s.boot.header.getD 2 0) 31 0) dig) (s.flashBs (x.sig + 12) 2420) then
        (if key = 1 then 1 else 2)
      else 3

/-- The keys that a KEYS payload carries, as (code, public key); none where it is malformed (Table 15.9). -/
def keysOf (ws : List Word) : Option (List (Nat × List Byte)) :=
  let w0 := ws.getD 0 0
  let n := bf w0 15 8
  if bf w0 7 0 ≠ 1 ∨ n = 0 ∨ 3 < n ∨ bf w0 63 16 ≠ 0 ∨ ws.length ≠ 1 + 165 * n then none
  else some ((List.range n).map fun i =>
    (bf (ws.getD (1 + 165 * i) 0) 1 0, wordBytes ((ws.drop (2 + 165 * i)).take 164)))

/-- Whether a public key is available (R482). -/
def State.keyOk (s : State) (k : Nat × List Byte) : Bool := s.fusedFor k.1 == some (digWords (Config.sha3 k.2))

/-- The keys that the image makes available: they serve every section, wherever the directory lists KEYS (log entry 50). -/
def State.loadKeys (s : State) : State :=
  let ks := match s.sections.find? fun x => x.typ == 0x12 with
    | none => []
    | some x => ((keysOf (s.flashWs x.off (x.len / 8))).getD []).filter s.keyOk
  { s with boot := { s.boot with keys := ks } }

/-! ### Sections -/

/-- Read and measure a section: its slot record is filled (R477, R485); the payload words. -/
def State.openSec (s : State) (x : Sec) : State × List Word :=
  let dig := Config.sha3 (s.flashBs x.off x.len)
  (s.slotSet (slotOf x.typ) x.typ 1 (s.sigResult x dig) x.len x.ver (digWords dig), s.flashWs x.off (x.len / 8))

/-- KEYS (R482): the keys that are unavailable are noted. -/
def State.loadKeysSec (s : State) (x : Sec) : State :=
  let (s, ws) := s.openSec x
  match keysOf ws with
  | none => s.slotReject 19 0 (ws.getD 0 0)
  | some ks => ks.foldl (fun s k => if s.keyOk k then s else s.note 19 6 0 (BitVec.ofNat 64 k.1) 0) s

/-- Register-write records (R478): `hits` tells the section's targets, `put` writes one value. -/
def State.loadRegs (k : Nat) (hits : Nat → Bool) (put : State → Nat → Word → State) : Nat → List Word → State → State
  | 0, _, s => s
  | fuel + 1, ws, s =>
    match ws with
    | [] => s
    | w :: rest =>
      let off := bf w 25 0
      let n := bf w 47 32 + 1
      if bf w 63 48 ≠ 0 ∨ bf w 31 26 ≠ 0 ∨ off % 8 ≠ 0 ∨ rest.length < n then s.slotReject k off w
      else
        let s := if hits off then (rest.take n).foldl (fun s v => put s off v) s else s.note k 2 off (rest.getD 0 0) 0
        State.loadRegs k hits put fuel (rest.drop n) s

/-- A write of PWR_DOM d (R551): REFUSED clears by 1, REQ is a request. -/
def State.domWrite (s : State) (d : Nat) (v : Word) : State :=
  let s := if bf v 57 57 = 1 then s.setField (oDom d) 57 57 0 else s
  s.domainRequest d (bf v 63 62)

/-- A write into the PWR block. -/
def State.pwrWrite (s : State) (loader : Bool) (o : Nat) (v : Word) : State :=
  if oDom 0 ≤ o ∧ o < oDom 96 then s.domWrite ((o - oDom 0) / 8) v
  else if oPwr 0x400 ≤ o ∧ o < oPwr 0x500 then (s.settle ((o - oPwr 0x400) / 8)).regWrite loader o v
  else s.regWrite loader o v

/-- POWER_POLICY (Table 15.5): targets PWR and MEM_CTRL. -/
def State.loadPolicy (s : State) (x : Sec) : State :=
  let (s, ws) := s.openSec x
  s.loadRegs 18 (fun o => decide (oPwr 0 ≤ o ∧ o < oSec 0) || [0, 1, 2, 3].any fun m => o == oMem m 0)
    (fun s o v => s.pwrWrite true o v) ws.length ws

/-! ### Microcode (R424 to R428) -/

/-- Microword `i` of a list of word triples. -/
def mwordAt (ws : List Word) (i : Nat) : BitVec 144 :=
  BitVec.ofNat 144 ((ws.getD (3 * i) 0).toNat + (ws.getD (3 * i + 1) 0).toNat * 2 ^ 64 + bf (ws.getD (3 * i + 2) 0) 15 0 * 2 ^ 128)

/-- Bytes 18 to 23 of every triple are zero. -/
def mwordsClean (ws : List Word) (n : Nat) : Bool := (List.range n).all fun i => bf (ws.getD (3 * i + 2) 0) 63 16 == 0

/-- A patch section is rejected (R426). -/
def patchBad (ws : List Word) : Bool :=
  let w0 := ws.getD 0 0
  let n := bf w0 31 16
  let m := bf w0 47 32
  let map := (ws.drop 1).take n
  decide (256 < n ∨ 6144 < m) || ws.length != 1 + n + 3 * m || bf w0 63 48 != 0 ||
  map.any (fun e => bf e 15 15 != 0 || bf e 63 31 != 0 || decide (0x5FFF < bf e 14 0 ∨ bf e 30 16 < 0x6000 ∨ 0x77FF < bf e 30 16)) ||
  !(map.map fun e => bf e 14 0).Nodup || !mwordsClean (ws.drop (1 + n)) m

/-- A customer section is rejected (R426). -/
def custBad (ws : List Word) : Bool :=
  let w0 := ws.getD 0 0
  let m := bf w0 47 32
  let n := bf w0 55 48
  let binds := (ws.drop 1).take n
  decide (32 < n ∨ 2048 < m) || ws.length != 1 + n + 3 * m || bf w0 63 56 != 0 ||
  binds.any (fun e => bf e 60 54 != 0 || bf e 47 15 != 0 || decide (bf e 53 48 < 32 ∨ bf e 14 0 < 0x7800)) ||
  !(binds.map fun e => bf e 53 48).Nodup || !mwordsClean (ws.drop (1 + n)) m

/-- Load `n` microwords from a microaddress on. -/
def State.loadWords (s : State) (base n : Nat) (ws : List Word) : State :=
  { s with ucode := { s.ucode with
    ram := (List.range n).foldl (fun r i => sset none (base + i) (some (mwordAt ws i)) r) s.ucode.ram } }

/-- UCODE_PATCH (R424, R426 to R428). -/
def State.loadPatch (s : State) (x : Sec) : State :=
  let (s, ws) := s.openSec x
  let s := (s.setField (oUcs 0) 11 10 (s.field (oSlot 15 0) 31 24)).setReg (oUcs 8) (s.reg (oSlot 15 2))
  let w0 := ws.getD 0 0
  if patchBad ws then (s.setField (oUcs 0) 15 14 2).slotReject 15 0 w0
  else
    let n := bf w0 31 16
    let s := (s.setField (oUcs 0) 63 48 (bf w0 15 0)).setField (oUcs 0) 15 14 1
    let s := s.loadWords 0x6000 (bf w0 47 32) (ws.drop (1 + n))
    { s with ucode := { s.ucode with
      patch := ((ws.drop 1).take n).foldl (fun p e => sset 0 (bf e 14 0) (bf e 30 16) p) s.ucode.patch } }

/-- UCODE_CUSTOMER (R425 to R428). -/
def State.loadCust (s : State) (x : Sec) : State :=
  let (s, ws) := s.openSec x
  let s := (s.setField (oUcs 0) 9 8 (s.field (oSlot 16 0) 31 24)).setReg (oUcs 0x10) (s.reg (oSlot 16 2))
  let w0 := ws.getD 0 0
  if custBad ws then (s.setField (oUcs 0) 13 12 2).slotReject 16 0 w0
  else
    let n := bf w0 55 48
    let s := (s.setField (oUcs 0) 47 16 (bf w0 31 0)).setField (oUcs 0) 13 12 1
    let s := s.loadWords 0x7800 (bf w0 47 32) (ws.drop (1 + n))
    let bind := fun (t : Sparse Word) (e : Word) => sset 0 (bf e 53 48) (setBf (setBf 0 63 61 (bf e 63 61)) 14 0 (bf e 14 0)) t
    { s with ucode := { s.ucode with
      decS := ((ws.drop 1).take n).foldl bind s.ucode.decS, decA := ((ws.drop 1).take n).foldl bind s.ucode.decA } }

/-! ### WORLD_MAP (R481, Table 15.8) -/

/-- A bit outside the fields of a word is set. -/
def dirtyBut (w : Word) (fields : List (Nat × Nat)) : Bool := (fields.foldl (fun w f => setBf w f.1 f.2 0) w) != 0

/-- The payload does not have the form of Table 15.8. -/
def worldBad (ws : List Word) : Bool :=
  let w := fun (i : Nat) => ws.getD i 0
  let n := bf (w 0) 47 32
  let v := bf (w 0) 63 48
  let logOk := fun (k : Nat) => k == 0 || decide (28 ≤ k ∧ k ≤ 32)
  let unitsOk := fun (u : Nat) => u == 0 || decide (2 ≤ u ∧ u ≤ 524288)
  bf (w 0) 7 0 != 1 || dirtyBut (w 0) [(7, 0), (12, 8), (20, 16), (47, 32), (63, 48)] || !logOk (bf (w 0) 12 8) ||
  !logOk (bf (w 0) 20 16) || decide (6144 < n ∨ 64 < v) || ws.length != 68 + (n + 3) / 4 + 2 * v ||
  dirtyBut (w 1) [(45, 25)] || dirtyBut (w 2) [(45, 25)] || dirtyBut (w 3) [(19, 0), (51, 32)] ||
  !unitsOk (bf (w 3) 19 0) || !unitsOk (bf (w 3) 51 32) ||
  (List.range 64).any (fun i => dirtyBut (w (4 + i)) [(45, 25)]) ||
  (List.range ((n + 3) / 4)).any (fun i => dirtyBut (w (68 + i)) ([(4, 0), (20, 16), (36, 32), (52, 48)].take (n - 4 * i))) ||
  (List.range v).any fun i =>
    let a := w (68 + (n + 3) / 4 + 2 * i)
    let b := w (69 + (n + 3) / 4 + 2 * i)
    dirtyBut a [(45, 0)] || dirtyBut b [(5, 0), (10, 8)] || decide (bf b 5 0 < 12 ∨ 44 < bf b 5 0) ||
    decide (a.toNat < 0x200000000000) || a.toNat % 2 ^ bf b 5 0 != 0

/-- Owner of 32 MiB region `i` of memory by the map; beyond the part's memory nobody (R5). -/
def State.regionOwner (s : State) (i : Nat) : Nat :=
  if s.stacks * stackSize ≤ i * 0x2000000 then 0
  else if s.isCheck (i * 0x2000000) then 4
  else sget 0 i s.world.regions % 8

/-- A heap lies in regions of its world or SHARED. -/
def State.heapFits (s : State) (w base regions : Nat) : Bool :=
  (List.range regions).all fun i => reaches w (s.regionOwner (base / 0x2000000 + i))

/-- The code attributes of MEM_CODEMAP (R335); PXZ-5122 ignores them. -/
def State.codeMap (s : State) : State :=
  if s.small then s
  else forN 4 (fun s m => forN 24 (fun s k =>
    let bits := (List.range 64).foldl (fun a i =>
      if 64 * k + i < 1512 ∧ bit (sget 0 (m * 1536 + 64 * k + i) s.world.regions) 3 then orBit a i else a) 0
    s.setReg (oMem m (0x1000 + k * 8)) (BitVec.ofNat 64 bits)) s) s

/-- A frame heap of the map that its regions do not allow is not created. -/
def State.frameHeap (s : State) (w k : Nat) : State :=
  let n := sget 0 w s.world.frameLog
  let base := sget 0 (w * 32 + k) s.world.frameBase
  if n = 0 ∨ s.heapFits w base (2 ^ n / 0x2000000) then s
  else ({ s with world := { s.world with frameLost := (w * 32 + k) :: s.world.frameLost } }).note 9 1 base (BitVec.ofNat 64 base) 0

/-- A hold heap of the map that its regions do not allow is not created. -/
def State.holdHeap (s : State) (w : Nat) : State :=
  let base := sget 0 w s.world.holdBase
  let n := sget 0 w s.world.holdUnits
  if n = 0 ∨ s.heapFits w base n then s
  else ({ s with world := { s.world with holdUnits := sset 0 w 0 s.world.holdUnits } }).note 9 1 base (BitVec.ofNat 64 base) 0

/-- The map of a well-formed payload. -/
def worldOf (ws : List Word) : WorldSt :=
  let w := fun (i : Nat) => ws.getD i 0
  let n := bf (w 0) 47 32
  let v := bf (w 0) 63 48
  let base := fun (x : Word) => bf x 45 25 * 0x2000000
  { regions := (List.range n).foldl (fun m i => sset 0 i (bf (w (68 + i / 4)) (16 * (i % 4) + 15) (16 * (i % 4))) m) []
    windows := (List.range v).map fun i =>
      let a := w (68 + (n + 3) / 4 + 2 * i)
      let b := w (69 + (n + 3) / 4 + 2 * i)
      (a.toNat, bf b 5 0, bf b 10 8)
    frameLog := sset 0 1 (bf (w 0) 20 16) (sset 0 0 (bf (w 0) 12 8) [])
    frameBase := (List.range 64).foldl (fun m i => sset 0 i (base (w (4 + i))) m) []
    frameLost := []
    holdBase := sset 0 1 (base (w 2)) (sset 0 0 (base (w 1)) [])
    holdUnits := sset 0 1 (bf (w 3) 51 32) (sset 0 0 (bf (w 3) 19 0) []) }

/-- WORLD_MAP (R481); memory described beyond the part's usable memory is noted once. -/
def State.loadWorld (s : State) (x : Sec) : State :=
  let (s, ws) := s.openSec x
  if worldBad ws then s.slotReject 9 0 (ws.getD 0 0)
  else
    let s := ({ s with world := worldOf ws }).codeMap
    let s := match s.world.regions.find? fun e => decide (s.stacks * 1536 ≤ e.1) with
      | some e => s.note 9 4 (e.1 * 0x2000000) (BitVec.ofNat 64 e.2) 0
      | none => s
    let s := forN 2 (fun s w => forN 32 (fun s k => s.frameHeap w k) s) s
    forN 2 (fun s w => s.holdHeap w) s

/-! ### Start-up, steps 1 to 6 (R470 to R477) -/

/-- Load one section of steps 4 and 5. -/
def State.loadEarly (s : State) (x : Sec) : State :=
  if x.typ = 0x12 then s.loadKeysSec x
  else if x.typ = 0x11 then s.loadPolicy x
  else if x.typ = 0x0E then s.loadPatch x
  else if x.typ = 0x0F then s.loadCust x
  else s.loadWorld x

/-- Sections of one step, in directory order. -/
def State.ofStep (s : State) (n : Nat) : List Sec := s.sections.filter fun x => stepOf x.typ == n

/-- DEV_STATUS.STEP. -/
def State.setStep (s : State) (n : Nat) : State := s.setField (oDev 8) 61 58 n

/-- Unreadable entries and repeated types of the directory show in their slots (R476). -/
def State.measureDir (s : State) : State :=
  let l := secsOf s.boot.header
  let len := bf (s.boot.header.getD 1 0) 31 0
  (List.range l.length).foldl (fun s e => match l[e]? with
    | none => s
    | some x =>
      if secDup l e then s.note (slotOf x.typ) 8 0 0 0
      else if secBad len l e ∧ slotOf x.typ ≠ 21 then s.slotSet (slotOf x.typ) x.typ 4 0 x.len x.ver []
      else s) s

/-- The part number. -/
def State.part (s : State) : Nat := if s.small then 0x5122 else 0x5124

/-- The DECODE table without a customer region: every CX slot is unbound (R426). -/
def State.unbind (s : State) : State := { s with ucode := { s.ucode with decS := [], decA := [] } }

/-- Step 6 begins: the stacks' supplies are raised, then their controllers (Table 15.1, R502). -/
def State.raiseMemory (s : State) : State :=
  forN s.stacks (fun s m => (s.setField (oDom (84 + m)) 63 62 2).domBegin (84 + m) 2) (s.setStep 6)

/-- The certificate chain of the identity area, in SPDM form: its first two bytes give its length (R473, R483). -/
def State.chain (s : State) : List Byte :=
  s.flashBs 0x10000000 ((s.flashB 0x10000000).toNat + 256 * (s.flashB 0x10000001).toNat)

/-- A chain whose device certificate does not carry the identity key is noted on the start report (R483). -/
def State.checkChain (s : State) : State := if Config.chainHasKey s.chain then s else s.note 20 1 0 0 0

/-- Step 2: fuses and ROM; the records of absent sections (R486). -/
def State.bootRom (s : State) : State :=
  let s := s.readFuses.sourceTake
  let s := (List.range 18).foldl (fun s i => s.slotSet (i + 2) (i + 1) 0 0 0 0 []) s
  let s := s.slotSet 0 0xFF00 1 0 Config.romLen 0 (digWords Config.romDigest)
  ((s.slotSet 20 0xFF02 1 0 0 0 []).slotSet 21 0xFF03 0 0 0 0 []).checkChain

/-- Steps 2 to 5 of start-up and the begin of step 6. In a bare start steps 4, 5 and 7 load nothing (R475). -/
def State.startUp (s : State) : State :=
  let s := s.bootRom
  let h := s.flashWs 0 512
  let s := { s with boot := { s.boot with header := h } }
  let ok := headerValid h
  let s := s.slotSet 1 0xFF01 (if ok then 1 else 3) 0 4096 0 (digWords (Config.sha3 (wordBytes h)))
  if ok = false then (s.unbind.setField (oDev 8) 62 62 1).raiseMemory
  else
    let named := bf (h.getD 1 0) 47 32
    let s := if named = 0x5124 + 0x5122 - s.part then s.note 1 4 0 (BitVec.ofNat 64 named) (BitVec.ofNat 64 s.part) else s
    let s := s.measureDir.loadKeys
    let s := (s.ofStep 4).foldl (fun s x => s.loadEarly x) s
    let s := (s.ofStep 5).foldl (fun s x => s.loadEarly x) s
    (if s.field (oUcs 0) 13 12 = 1 then s else s.unbind).raiseMemory

/-! ### Reset (R495, R549, R554, R564) -/

/-- A register of the AO domain, kept through device reset: ERR block, DEV_SCRATCH, DEV_TABSTAT, RESET_CAUSE and the counters of
PWR; of every other register its RW and LCK fields. -/
def keptReg (e : Nat × Word) : Option (Nat × Word) :=
  let w :=
    if oErr 0 ≤ e.1 ∧ e.1 < oErr 0x1000000 then e.2
    else if e.1 = oDev 0x20 ∨ (oPwr 0x600 ≤ e.1 ∧ e.1 < oPwr 0x700) then e.2
    else if e.1 = oDev 8 then setBf 0 15 8 (bf e.2 15 8)
    else aoPart e.1 e.2
  if w = regReset e.1 then none else some (e.1, w)

/-- Customer slot `k` is set or revoked. -/
def FuseSt.used (f : FuseSt) (k : Nat) : Bool := if k = 0 then f.digest0.isSome || f.revoked0 else f.digest1.isSome || f.revoked1

/-- A fuse operation blows its fuses: OP 1 sets a slot that is not used, OP 2 revokes; a refused operation is held as OP 0. -/
def FuseSt.blow (f : FuseSt) (op k : Nat) (d : List Word) : FuseSt :=
  if op = 1 ∧ f.used k = false then (if k = 0 then { f with digest0 := some d } else { f with digest1 := some d })
  else if op = 2 then (if k = 0 then { f with revoked0 := true } else { f with revoked1 := true })
  else f

/-- A fuse operation that is cut off: the fuse has blown or not (R564). -/
def State.cutFuse (s : State) : State :=
  match s.fuses.busy with
  | none => s
  | some (op, k, d) =>
    let f := { s.fuses with busy := none }
    let s := { s with fuses := if bit s.freeVal.toNat 0 then f.blow op k d else f }
    s.useFree

/-- Every switched domain loses its state; the AO domain, the flash, the fuses and the host's memory keep theirs. -/
def State.switchedLost (s : State) : State :=
  let s := s.cutFuse
  let r := State.reset
  { r with
    pending := s.pending, now := s.now, free := s.free, small := s.small, rdata := s.rdata, regs := s.regs.filterMap keptReg,
    errs := s.errs, errNum := s.errNum, regionS := s.regionS, regionA := s.regionA, dmapS := s.dmapS, dmapA := s.dmapA,
    mastS := s.mastS, mastA := s.mastA, flash := s.flash, fuses := s.fuses,
    ucode := { UcodeSt.reset with decS := s.ucode.decS, decA := s.ucode.decA },
    mem := s.mem.filter fun e => decide (0x300000000000 ≤ e.1),
    pwr := { PwrSt.reset with
      ao := s.pwr.ao, lostAt := s.pwr.lostAt, inRange := s.pwr.inRange, enable := s.pwr.enable, lowAt := s.pwr.lowAt,
      main := s.pwr.main, latched := s.pwr.latched, throttled := s.pwr.throttled, coolAt := s.pwr.coolAt, shut := s.pwr.shut,
      shutCool := s.pwr.shutCool, pulsed := s.pwr.pulsed } }

/-- Device reset with a cause (Table 18.9): start-up begins again at step 2, and both bypasses close (R405, R549). -/
def State.deviceReset (s : State) (cause : Nat) : State :=
  if s.pwr.main = false ∨ s.pwr.shut then s
  else (s.switchedLost.setField (oDev 8) 15 8 cause).startUp

/-- The main switch opens: every switched domain loses power; the next closing reads RESET_CAUSE 1 (R561). -/
def State.switchOff (s : State) : State :=
  if s.pwr.main = false then s
  else
    let s := s.setPwr { s.pwr with main := false }
    s.switchedLost.setField (oDev 8) 15 8 1

/-- The main switch closes when the input is in range, ENABLE is high and nothing latches it open; start-up begins (R560, R561). In
thermal shutdown the device stays in reset (R573). -/
def State.switchOn (s : State) : State :=
  if s.pwr.main ∨ s.pwr.ao = false ∨ s.pwr.inRange = false ∨ s.pwr.enable = false ∨ s.pwr.latched then s
  else
    let s := s.setPwr { s.pwr with main := true }
    if s.pwr.shut then s else s.startUp

end Sys2Proof.Machine
end

