-- ==== Sys2Proof/Machine/PowerCmds.lean ====
section
/-! DEFINITION. Supply, pins, PLLs, crossings, temperature and fuses (16_clocks_power_crossings.md, 17_timing_and_spike_inputs.md,
18_pattern_table_and_registers.md, 19_module_hardware.md). -/

namespace Sys2Proof.Machine

/-! ### Supply and pins (R560 to R563, R568) -/

/-- AO_START (R560, R563): within the hold-up time the AO domain resumes with its state; after a loss of more than 10 ms a free bit
says whether the store has lasted; a loss of AO state is a power-on, and RESET_CAUSE reads 0. -/
def execAoStart (t : Time) (s : State) : Out :=
  let s := s.at t
  if s.pwr.ao then .next s
  else
    let (kept, s) : Bool × State := match s.pwr.lostAt with
      | none => (false, s)
      | some t0 => if t ≤ t0 + usT 10000 then (true, s) else (bit s.freeVal.toNat 0, s.useFree)
    if kept then .next (s.setPwr { s.pwr with ao := true, lostAt := none })
    else
      let s := s.cutFuse
      .next { State.reset with
        pending := s.pending, now := s.now, free := s.free, small := s.small, rdata := s.rdata, flash := s.flash,
        fuses := s.fuses, mem := s.mem.filter (fun e => decide (0x300000000000 ≤ e.1)),
        pwr := { PwrSt.reset with ao := true, enable := s.pwr.enable, lowAt := s.pwr.lowAt } }

/-- AO_POWER_LOSS (R562, R563): the input falls below AO start; the switch is open by then, and its latch clears. -/
def execAoPowerLoss (t : Time) (s : State) : Out :=
  let s := s.at t
  if s.pwr.ao = false then .next s
  else
    let s := s.switchOff
    .next (s.setPwr { s.pwr with ao := false, lostAt := some t, inRange := false, latched := false })

/-- UNDERVOLTAGE_RELEASE, and the overvoltage release that is treated as one (Table 19.3, R560, R561). -/
def execUndervoltageRelease (t : Time) (s : State) : Out :=
  let s := s.at t
  .next (if s.pwr.ao then (s.setPwr { s.pwr with inRange := true }).switchOn else s)

/-- Thermal shutdown ends once the junction has stayed below 95 °C for 10 s and the carrier has pulsed (R573). -/
def State.leaveShut (s : State) : State :=
  let cool : Bool := match s.pwr.shutCool with
    | some t0 => decide (t0 + usT 10000000 ≤ s.now)
    | none => false
  if s.pwr.ao ∧ s.pwr.shut ∧ s.pwr.pulsed ∧ cool then
    let s := s.setPwr { s.pwr with shut := false, pulsed := false, shutCool := none }
    if s.pwr.main then s.startUp else s
  else s

/-- ENABLE_HIGH (R561, R562, R573): 100 ms of ENABLE low clear the latch and count as the carrier's pulse in thermal shutdown. -/
def execEnableHigh (t : Time) (s : State) : Out :=
  let s := s.at t
  let long : Bool := match s.pwr.lowAt with
    | some t0 => decide (t0 + usT 100000 ≤ t)
    | none => false
  let s := s.setPwr { s.pwr with
    enable := true, lowAt := none, latched := s.pwr.latched && !long, pulsed := s.pwr.pulsed || (long && s.pwr.shut) }
  .next s.switchOn.leaveShut

/-- ENABLE_LOW (R561). -/
def execEnableLow (t : Time) (s : State) : Out :=
  let s := s.at t
  .next (if s.pwr.enable = false ∧ s.pwr.lowAt.isSome then s
    else (s.setPwr { s.pwr with enable := false, lowAt := some t }).switchOff)

/-- UNDERVOLTAGE_TRIP (Table 19.3, R561). -/
def execUndervoltageTrip (t : Time) (s : State) : Out :=
  let s := s.at t
  .next (s.setPwr { s.pwr with inRange := false }).switchOff

/-- OVERVOLTAGE_TRIP (Table 19.3, R561). -/
def execOvervoltageTrip (t : Time) (s : State) : Out :=
  let s := s.at t
  .next (s.setPwr { s.pwr with inRange := false }).switchOff

/-- INPUT_OVERCURRENT (R562): the switch latches open; the record's UNIT is the AO domain. -/
def execInputOvercurrent (t : Time) (s : State) : Out :=
  let s := s.at t
  .next (if s.pwr.main = false then s
    else ((s.setPwr { s.pwr with latched := true }).err 3 10 96 3 0).switchOff)

/-- FAULT_N is low (R569). -/
def State.faultLow (s : State) : Bool := s.pwr.latched || s.pwr.shut

/-- THERM_N is low (R569). -/
def State.thermLow (s : State) : Bool := s.pwr.throttled

/-- RESET_N held low for 1 µs (R568, R573): a device reset with cause 1; without effect while ENABLE is low. -/
def execResetN (t : Time) (s : State) : Out :=
  let s := s.at t
  .next (if s.pwr.enable = false then s
    else if s.pwr.shut then (s.setPwr { s.pwr with pulsed := true }).leaveShut
    else s.deviceReset 1)

/-- DEVICE_RESET: a write of DEV_CTRL acts with RESET 1 and KEY 0xA55A (R549). -/
def State.devCtrl (s : State) (v : Word) : State := if bf v 63 63 = 1 ∧ bf v 15 0 = 0xA55A then s.deviceReset 2 else s

def execDeviceReset (t : Time) (v : Word) (s : State) : Out := .next ((s.at t).devCtrl v)

/-! ### PLLs (R494) -/

/-- Row PLL: the row stops. -/
def State.rowPllLost (s : State) (r : Nat) : State :=
  if s.domain (32 + r) = 0 then s
  else if (s.pll r).lost then s.setPll r { s.pll r with trying := false, locked := none }
  else
    let s := (s.setPll r { lost := true, trying := false, locked := none }).err 2 1 r 7 0
    if (s.row r).vstate = 2 then s else s.rowStop r true

/-- Cluster PLL: every core is reset as in R271. -/
def State.cluPllLost (s : State) (c : Nat) : State :=
  if s.domain c = 0 then s
  else if (s.pll (32 + c)).lost then s.setPll (32 + c) { s.pll (32 + c) with trying := false, locked := none }
  else
    let s := (s.setPll (32 + c) { lost := true, trying := false, locked := none }).err 2 2 c 6 0
    (forN 16 (fun s i => if (s.core (c * 16 + i)).up then s.coreLost (c * 16 + i) else s) s).coverage c

/-- Optical engine PLL: its ports leave UP (R54, R55). -/
def State.opticalPllLost (s : State) (e : Nat) : State :=
  if s.domain (64 + e) = 0 then s
  else
    let s := s.err 1 10 (64 + e) 4 0
    forN 32 (fun s i => if (s.port (e * 32 + i)).link = .up then s.enter (e * 32 + i) .acquire false else s) s

/-- PLL of a domain that the device cannot lose: a record, then device reset with cause 4. -/
def State.mainPllLost (s : State) (d : Nat) : State :=
  if s.pwr.main = false ∨ s.pwr.shut then s else (s.err 3 10 d 5 0).deviceReset 4

/-- PLL_LOCK_LOSS (R494). -/
def execPllLockLoss (t : Time) (u : Pll) (s : State) : Out :=
  let s := s.at t
  .next (match u with
    | .row r => s.rowPllLost r
    | .cluster c => s.cluPllLost c
    | .optical e => s.opticalPllLost e
    | .hbm m => if s.domain (80 + m) = 0 then s else s.stackFail m 1
    | .masthead => s.mainPllLost 92
    | .cxl => s.mainPllLost 93
    | .timing => s.mainPllLost 94
    | .security => s.mainPllLost 95)

/-- A PLL under a relock attempt gains lock. -/
def State.pllGained (s : State) (u : Nat) : State :=
  let x := s.pll u
  if x.lost ∧ x.trying ∧ x.locked.isNone then s.setPll u { x with locked := some s.now } else s

/-- PLL_LOCK_GAINED (R494): rows and clusters relock; the other PLLs return only with their domain or at device reset. -/
def execPllLockGained (t : Time) (u : Pll) (s : State) : Out :=
  let s := s.at t
  .next (match u with
    | .row r => s.pllGained r
    | .cluster c => s.pllGained (32 + c.val)
    | _ => s)

/-! ### Crossings (R511, R513) -/

/-- HOLD raises in a sequence of sample pairs, true where the pair agrees: the fourth disagreement in a row raises HOLD, the next
agreeing pair drops it. -/
def holdRaises : List Bool → Nat → Nat
  | [], _ => 0
  | true :: l, _ => holdRaises l 0
  | false :: l, n => (if n = 3 then 1 else 0) + holdRaises l (n + 1)

/-- CROSSING_HOLD (R511). -/
def execCrossingHold (t : Time) (pairs : List Bool) (s : State) : Out :=
  .next ((s.at t).bumpN (oPwr 0x600) (holdRaises pairs 0))

/-- The far side of a crossing of class 1, 2 or 3 is OFF, and its rule is HANDSHAKE (R513). -/
def State.farOff (s : State) (cls d : Nat) : Bool :=
  s.field (oPwr 8) cls cls == 0 &&
    (((cls == 1 || cls == 2) && decide (80 ≤ d ∧ d < 84) && s.domain d == 0) || (cls == 3 && d == 93 && !s.cxl.up))

/-- CROSSING_STALL_TIMEOUT (R513): one record for each crossing and frame. -/
def execCrossingStallTimeout (t : Time) (cls : Fin 6) (d : DomainId) (s : State) : Out :=
  let s := s.at t
  .next (if s.farOff cls d = false ∨ s.pwr.stalls.contains (cls.val, d.val) then s
    else (s.setPwr { s.pwr with stalls := (cls.val, d.val) :: s.pwr.stalls }).err 1 10 d 2 0)

/-! ### Temperature (R508, R532, R573) -/

def oTemp (k : Nat) : Nat := oTmg (0x400 + k * 8)

/-- A sensor gives readings: those of stacks that are not installed do not. -/
def State.sensorOk (s : State) (k : Nat) : Bool := !(s.small && (k == 34 || k == 35))

/-- One sensor is sampled: TMG_TEMP, and the alarm once per sensor and frame. -/
def State.sensor (s : State) (k : Nat) (v : BitVec 12) : State :=
  let o := oTemp k
  let max := if s.field o 63 63 = 0 ∨ sx 12 (s.field o 27 16) < sx 12 v.toNat then v.toNat else s.field o 27 16
  let s := s.setReg o (setBf (setBf (setBf 0 63 63 1) 27 16 max) 11 0 v.toNat)
  if sx 12 (s.field (oTmg 0x60) 11 0) ≤ sx 12 v.toNat ∧ s.time.hotRec.contains k = false then
    ({ s with time := { s.time with hotRec := k :: s.time.hotRec } }).err 1 7 k 8 0
  else s

/-- Sensors that make up the junction temperature (R532). -/
def junctionSensor (k : Nat) : Bool := decide (k ≤ 35 ∨ (52 ≤ k ∧ k ≤ 58))

/-- The largest valid reading of the junction sensors, in quarter degrees. -/
def State.junction (s : State) (readings : List (BitVec 12)) : Option Int :=
  let vs := (List.range 60).filterMap fun k =>
    if junctionSensor k ∧ s.sensorOk k then (readings[k]?).map fun v => sx 12 v.toNat else none
  match vs with
  | [] => none
  | v :: l => some (l.foldl max v)

/-- The junction temperature acts: throttle at 105 °C, shutdown at 115 °C. -/
def State.thermal (s : State) (j : Int) : State :=
  let since := fun (ok : Bool) (old : Option Time) => if ok then some (old.getD s.now) else none
  let s := s.setPwr { s.pwr with coolAt := since (decide (j ≤ 400)) s.pwr.coolAt,
                                 shutCool := since (decide (j < 380) && s.pwr.shut) s.pwr.shutCool }
  let s := if 420 ≤ j ∧ s.pwr.main ∧ s.pwr.shut = false ∧ s.pwr.throttled = false then
    ((s.settleAll.setPwr { s.settleAll.pwr with throttled := true }).bump (oPwr 0x610)).err 1 7 0 9 0
    else s
  if 460 ≤ j ∧ s.pwr.main ∧ s.pwr.shut = false then
    let s := s.switchedLost.setField (oDev 8) 15 8 3
    s.setPwr { s.pwr with shut := true, pulsed := false, shutCool := none, throttled := false }
  else s.leaveShut

/-- TEMPERATURE_SAMPLE: every 100 µs the 60 sensors are sampled. -/
def execTemperatureSample (t : Time) (readings : List (BitVec 12)) (s : State) : Out :=
  let s := s.at t
  if s.pwr.ao = false then .next s
  else
    let s := (List.range 60).foldl (fun s k => match readings[k]? with
      | some v => if s.sensorOk k then s.sensor k v else s
      | none => s) s
    .next (match s.junction readings with
      | some j => s.thermal j
      | none => s)

/-! ### Fuses (R553) -/

/-- SEC_FUSEDATA. -/
def State.fuseData (s : State) : List Word := (List.range 4).map fun i => s.reg (oSec (0x10 + i * 8))

/-- A write of SEC_FUSECMD: ignored while BUSY, else it starts one operation. A command that will be refused is held as OP 0. -/
def State.fuseCmd (s : State) (v : Word) : State :=
  if s.fuses.busy.isSome then s
  else
    let op := bf v 63 56
    let k := bf v 49 48
    let d := s.fuseData
    let bad := (op != 1 && op != 2) || decide (1 < k) || bf v 15 0 != 0x4655 || (op == 1 && d.all (· == 0))
    ({ s with fuses := { s.fuses with busy := some (if bad then 0 else op, k, d) } }).setField (oSec 0) 63 63 1

/-- FUSE_PROGRAM: SEC_FUSECMD with OP 0x01. -/
def execFuseProgram (t : Time) (v : Word) (s : State) : Out := .next ((s.at t).fuseCmd (setBf v 63 56 1))

/-- FUSE_REVOKE: SEC_FUSECMD with OP 0x02. -/
def execFuseRevoke (t : Time) (v : Word) (s : State) : Out := .next ((s.at t).fuseCmd (setBf v 63 56 2))

/-- FUSE_DONE: the operation ends; `readback` is what a programmed slot reads as. -/
def execFuseDone (t : Time) (readback : List Word) (s : State) : Out :=
  let s := s.at t
  match s.fuses.busy with
  | none => .next s
  | some (op, k, d) =>
    let got := (List.range 4).map fun i => readback.getD i 0
    let result := if op = 0 then 3 else if op = 1 then (if s.fuses.used k then 2 else if got = d then 1 else 4) else 1
    let s := { s with fuses := { s.fuses.blow op k got with busy := none } }
    let s := ((s.setField (oSec 0) 63 63 0).setField (oSec 0) 62 60 result).readFuses
    .next (if result = 4 then s.err 1 12 0 1 k else s)

end Sys2Proof.Machine
end

