-- ==== Sys2Proof/Machine/Queues.lean ====
section
/-! DEFINITION. Doorbells, interrupts, enabling and disabling of queues, the queue engine with its jobs and aborts
(14_host_queues_modes.md). -/

namespace Sys2Proof.Machine

/-! ### Doorbells and interrupts (R450, R451, R454) -/

/-- Entries that HOSTIDX has passed are no longer pending. -/
def State.pruneFresh (s : State) (q : Nat) : State :=
  let x := s.queue q
  s.setQueue q { x with fresh := x.fresh.filter fun e => decide (idxSub e.1 (s.qHost q) < idxSub (s.qDev q) (s.qHost q)) }

/-- A DB write of value `v` is valid for the queue's direction (R451). -/
def State.bellOk (s : State) (q v : Nat) : Bool :=
  decide (idxSub v (s.qHost q) ≤ s.qDepth q) &&
    (if s.devProduced q then decide (idxSub (s.qDev q) v ≤ s.qDepth q) else decide (idxSub v (s.qDev q) ≤ s.qDepth q))

/-- A DB write (R451). -/
def State.bell (s : State) (q v : Nat) : State :=
  if s.qState q = 0 then s.bump (oQue 0x200)
  else if s.bellOk q v = false then (s.setField (oQcfg q) 31 30 2).err 1 9 q 2 0
  else
    let s := s.setField (oQidx q) 31 0 v
    if s.devProduced q then s.pruneFresh q else s

/-- DOORBELL_WRITE. -/
def execDoorbellWrite (t : Time) (q : QueueId) (v : Word) (s : State) : Out := .next ((s.at t).bell q (bf v 31 0))

/-- A write of ARM (R450). -/
def State.armBell (s : State) (q : Nat) : State := s.setField (oQcfg q) 29 29 1

/-- DOORBELL_ARM. -/
def execDoorbellArm (t : Time) (q : QueueId) (s : State) : Out := .next ((s.at t).armBell q)

/-- An interrupt of the queue is due (R454). -/
def State.irqDue (s : State) (q : Nat) : Bool :=
  let l := (s.queue q).fresh
  let itime := s.field (oQcfg q) 39 32
  s.field (oQcfg q) 51 51 == 1 && s.field (oQcfg q) 29 29 == 1 && !l.isEmpty &&
    (decide (max 1 (s.field (oQcfg q) 47 40) ≤ l.length) ||
      (itime != 0 && l.any fun e => decide (e.2 + usT itime ≤ s.now)))

/-- QUEUE_INTERRUPT (R454): sent to MSI-X or to a context, and the queue is disarmed. The completed entries of a host-produced queue
are pending until an interrupt has told of them (log entry 55). -/
def execQueueInterrupt (t : Time) (q : QueueId) (s : State) : Out :=
  let s := s.at t
  if s.irqDue q = false then .next s
  else
    let s := s.setField (oQcfg q) 29 29 0
    let s := if s.devProduced q then s else s.setQueue q { s.queue q with fresh := [] }
    let v := s.field (oQbind q) 63 53
    .next (if s.field (oQcfg q) 50 50 = 0 then { s with lastMsi := some v } else s.raiseCtx v irqQueue)

/-! ### Enable and disable (R446, R447) -/

/-- Why an enable is refused (R446), judged on the descriptor as written. -/
def State.enableBad (s : State) (q : Nat) : Bool :=
  let ty := s.qType q
  let log := s.field (oQcfg q) 59 55
  let base := s.field (oQbase q) 45 12 * 4096
  let cq := s.qCq q
  let port := s.field (oQbind q) 51 43
  decide (log < 4 ∨ 16 < log) || decide (0x100000000000 ≤ base ∧ base < 0x300000000000) || ty == 0 ||
    (ty == 1 && s.field (oQbind q) 52 52 == 1 && !((s.port port).link == .up && s.isReadout port)) ||
    (decide (6 ≤ ty) && !(s.qType cq == 3 && s.qState cq == 1))

/-- A write of QD_CFG with EN 1 (R446): ignored while the queue is enabled. -/
def State.enableQ (s : State) (q : Nat) (v : Word) : State :=
  if s.qState q ≠ 0 then s
  else
    let s := s.regWrite false (oQcfg q) v
    if s.enableBad q then s.setField (oQcfg q) 63 63 0
    else
      let s := ((s.setField (oQcfg q) 63 63 1).setField (oQcfg q) 31 30 1).setReg (oQidx q) 0
      s.setQueue q { s.queue q with ci := 0, aborted := [], fresh := [] }

/-- QUEUE_ENABLE: the write has EN 1. -/
def execQueueEnable (t : Time) (q : QueueId) (v : Word) (s : State) : Out := .next ((s.at t).enableQ q v)

/-- The completion index advances past one job; DEVIDX shows it (R449, R456). -/
def State.ciUp (s : State) (q : Nat) : State :=
  let i := ((s.queue q).ci + 1) % 2 ^ 32
  (s.setQueue q { s.queue q with ci := i }).setField (oQidx q) 63 32 i

/-- A job ends: its completion waits for the CQ. -/
def State.jobEnded (s : State) (q idx status : Nat) (result : Word) : State :=
  s.setQueue q { s.queue q with ended := (s.queue q).ended ++ [(idx, status, result)] }

/-- Requests of a queue's job to other devices are given up. -/
def State.dropPend (s : State) (q : Nat) : State :=
  { s with ring := { s.ring with pend := s.ring.pend.filter fun r => r.queue != q } }

/-- The running job ends; a job that was not past its commit point takes CI with it. -/
def State.jobEnd (s : State) (q status : Nat) (result : Word) : State :=
  match (s.queue q).busy with
  | none => s
  | some j =>
    let s := (s.setQueue q { s.queue q with busy := none }).jobEnded q j.idx status result
    let s := s.dropPend q
    if j.committed then s else s.ciUp q

/-- Every job of the queue that is not past its commit point ends ABORTED (R447). -/
def State.abortAll (s : State) (q : Nat) : Nat → State
  | 0 => s
  | fuel + 1 =>
    let x := s.queue q
    let s : State := match x.busy with
      | some j => if j.committed then s else s.jobEnd q 1 0
      | none => s
    if (s.queue q).ci = s.qHost q then s else ((s.jobEnded q (s.queue q).ci 1 0).ciUp q).abortAll q fuel

/-- A write of EN 0 (R447). -/
def State.disableQ (s : State) (q : Nat) : State :=
  if s.qState q = 0 then s.setField (oQcfg q) 63 63 0
  else
    let s := if 6 ≤ s.qType q then s.abortAll q (idxSub (s.qHost q) (s.queue q).ci) else s
    (s.setField (oQcfg q) 63 63 0).setField (oQcfg q) 31 30 0

/-- QUEUE_DISABLE. -/
def execQueueDisable (t : Time) (q : QueueId) (s : State) : Out := .next ((s.at t).disableQ q)

/-! ### Memory as the queue engine reaches it -/

/-- Host class: memory of the host (R443). -/
def isHostPa (a : Nat) : Bool := decide (0x300000000000 ≤ a)

/-- A range lies in the memory class or in the host class. -/
def engineRange (a n : Nat) : Bool :=
  decide (a + n ≤ 0x100000000000) || decide (0x300000000000 ≤ a ∧ a + n ≤ 0x400000000000)

/-- First byte of a range whose word returns a bus error. -/
def State.rangeErr (s : State) (a n : Nat) : Option Nat :=
  if isHostPa a then none
  else ((List.range ((a + n + 7) / 8 - a / 8)).map fun i => (a / 8 + i) * 8).find? fun w => (s.busErr w).isSome

/-- The lines that a range of bytes touches are brought where the engine can judge them (R337 to R342, R347, R348). -/
def State.engineLines (s : State) (a n : Nat) : State :=
  if isHostPa a then s
  else (List.range ((a + n + 63) / 64 - a / 64)).foldl (fun s i => s.devLine 5 0 ((a / 64 + i) * 64)) s

/-- The engine reads bytes; none on a bus error, which is logged. -/
def State.engineRead (s : State) (a n : Nat) : State × Option (List Byte) :=
  let s := s.engineLines a n
  match s.rangeErr a n with
  | some w => (s.busErrLog w 5 0, none)
  | none => (s, some ((List.range n).map fun i => mrd (a + i) s.mem))

/-- Words of a line that a range of bytes covers whole. -/
def coverMask (a n line : Nat) : Nat :=
  (List.range 8).foldl (fun m i => if a ≤ line * 64 + 8 * i ∧ line * 64 + 8 * i + 8 ≤ a + n then orBit m i else m) 0

/-- The engine's bytes of one line reach its controller: a full line at once, a part of one through the merge buffer (R347). -/
def State.engineLine (s : State) (a n line : Nat) : State :=
  let m := ctlOf (line * 64)
  let mask := coverMask a n line
  if mask = 0xFF then (s.mergeDone m line).lineWrite (line * 64) 0xFF 5 0 else (s.mergePut m line mask).mergeFull m line

/-- The engine writes bytes; false on a bus error (R5, R300). Every holder of a line loses it first (R329). -/
def State.engineWrite (s : State) (a : Nat) (bs : List Byte) : State × Bool :=
  let n := bs.length
  let lines := (List.range ((a + n + 63) / 64 - a / 64)).map fun i => a / 64 + i
  let s := lines.foldl (fun s l => (s.touchMem (l * 64)).snoopOthers 32 l true) s
  if isHostPa a then ({ s with mem := mwrBs a bs s.mem }, true)
  else if [a, a + n - 1].any fun x => s.memDead x || s.isCheck x then (s, false)
  else (lines.foldl (fun s l => s.engineLine a n l) { s with mem := mwrBs a bs s.mem }, true)

/-- Words of a list of bytes. -/
def bytesWords (bs : List Byte) : List Word :=
  (List.range ((bs.length + 7) / 8)).map fun i =>
    BitVec.ofNat 64 (((bs.drop (8 * i)).take 8).foldr (fun b n => n * 256 + b.toNat) 0)

/-! ### The queue engine (R455, R456) -/

def jobOp (ws : List Word) : Nat := bf (ws.getD 0 0) 63 56

/-- The words from `i` on are zero. -/
def restZero (ws : List Word) (i : Nat) : Bool := (ws.drop i).all (· == 0)

/-- A NOR job's range lies below `top`, its length within `lo` and `hi` in steps of `step`. -/
def norRange (ws : List Word) (top lo hi step : Nat) : Bool :=
  let off := (ws.getD 1 0).toNat
  let n := (ws.getD 2 0).toNat
  decide (lo ≤ n ∧ n ≤ hi ∧ n % step = 0 ∧ off + n ≤ top)

/-- The operands of a job are in range and its reserved bits zero, and the OP belongs to the queue's type (R455, Tables 14.4, 15.2). -/
def jobOk (ty : Nat) (ws : List Word) : Bool :=
  let w := fun (i : Nat) => ws.getD i 0
  bf (w 0) 55 0 == 0 &&
  match ty, jobOp ws with
  | 6, 0x01 => norRange ws 0x10100000 64 1048576 64 && engineRange (w 3).toNat (w 2).toNat && restZero ws 4
  | 6, 0x02 => norRange ws 0x10000000 65536 0x10000000 65536 && (w 1).toNat % 65536 == 0 && restZero ws 3
  | 6, 0x03 => norRange ws 0x10000000 64 1048576 64 && engineRange (w 3).toNat (w 2).toNat && restZero ws 4
  | 6, 0x10 => decide ((w 1).toNat < 65536) && decide ((w 2).toNat < 0x4000000) && restZero ws 3
  | 6, 0x11 => decide ((w 1).toNat < 65536) && decide ((w 2).toNat < 0x4000000) && restZero ws 4
  | 6, 0x12 => bf (w 1) 63 56 == 0 && bf (w 2) 35 0 == 0 && decide ((w 3).toNat < 65536) && engineRange (w 4).toNat 64 && restZero ws 5
  | 7, 0x20 => decide ((w 1).toNat < 65536) && decide ((w 2).toNat < 2 ^ 46) && decide (8 ≤ (w 4).toNat) && decide ((w 4).toNat ≤ 16777216) &&
      (w 4).toNat % 8 == 0 && engineRange (w 3).toNat (w 4).toNat && restZero ws 5
  | _, _ => false

/-- The engine takes the job at CI when it runs none: an aborted job is skipped, one that cannot be read or is malformed ends at once
(R455, R456, R458). -/
def State.engineTake (s : State) (q : Nat) : Nat → State
  | 0 => s
  | fuel + 1 =>
    let x := s.queue q
    if s.qState q ≠ 1 ∨ s.qType q < 6 ∨ x.busy.isSome ∨ x.ci = s.qHost q then s
    else if x.aborted.contains x.ci then
      (((s.setQueue q { x with aborted := x.aborted.erase x.ci }).jobEnded q x.ci 1 0).ciUp q).engineTake q fuel
    else
      match s.engineRead (s.qAddr q x.ci) 64 with
      | (s, none) => ((s.jobEnded q x.ci 2 0).ciUp q).engineTake q fuel
      | (s, some bs) =>
        let ws := bytesWords bs
        if jobOk (s.qType q) ws = false then ((s.jobEnded q x.ci 3 0).ciUp q).engineTake q fuel
        else s.setQueue q { s.queue q with
          busy := some { idx := x.ci, words := ws, committed := false, progress := 0, acked := 0, refused := false, since := s.now } }

/-- The engine takes the next job of a queue, passing those that end at once. -/
def State.engineNext (s : State) (q : Nat) : State := s.engineTake q (idxSub (s.qHost q) (s.queue q).ci)

/-- The running job is past its commit point. -/
def State.jobCommit (s : State) (q : Nat) : State :=
  match (s.queue q).busy with
  | none => s
  | some j => if j.committed then s else (s.setQueue q { s.queue q with busy := some { j with committed := true } }).ciUp q

/-- One step of the engine for a job of operation `op`: it takes the next job, or carries out the one it runs. -/
def State.jobStep (s : State) (q op : Nat) (f : State → JobSt → State) : State :=
  match (s.queue q).busy with
  | none => s.engineNext q
  | some j => if jobOp j.words = op then f s j else s

/-- Operand `i` of a job. -/
def JobSt.w (j : JobSt) (i : Nat) : Nat := (j.words.getD i 0).toNat

/-- NOR_READ (R455): flash bytes go to memory; the last byte written is the commit point. -/
def execNorRead (t : Time) (q : QueueId) (s : State) : Out :=
  .next ((s.at t).jobStep q 0x01 fun s j =>
    match s.engineWrite (j.w 3) (s.flashBs (j.w 1) (j.w 2)) with
    | (s, false) => s.jobEnd q 2 0
    | (s, true) => (s.jobCommit q).jobEnd q 0 (BitVec.ofNat 64 (j.w 2)))

/-- NOR_ERASE (R455): erased bytes read 0xFF. -/
def execNorErase (t : Time) (q : QueueId) (s : State) : Out :=
  .next ((s.at t).jobStep q 0x02 fun s j =>
    let s := s.jobCommit q
    let keep := fun (a : Nat) => decide (a < j.w 1 ∨ j.w 1 + j.w 2 ≤ a)
    ({ s with flash := s.flash.filter fun e => keep e.1 }).jobEnd q 0 (BitVec.ofNat 64 (j.w 2)))

/-- Program one byte of the flash: over a byte that is not erased the result is free (log entry 56). -/
def State.norByte (s : State) (a : Nat) (b : Byte) : State :=
  if s.flashB a = 0xFF then { s with flash := sset 0xFF a b s.flash }
  else ({ s with flash := sset 0xFF a (wordByte s.freeVal 0) s.flash }).useFree

/-- Program consecutive bytes. -/
def State.norBytes (s : State) (a : Nat) : List Byte → State
  | [] => s
  | b :: bs => (s.norByte a b).norBytes (a + 1) bs

/-- NOR_PROGRAM (R455): the whole source is buffered first. -/
def execNorProgram (t : Time) (q : QueueId) (s : State) : Out :=
  .next ((s.at t).jobStep q 0x03 fun s j =>
    match s.engineRead (j.w 3) (j.w 2) with
    | (s, none) => s.jobEnd q 2 0
    | (s, some bs) => ((s.jobCommit q).norBytes (j.w 1) bs).jobEnd q 0 (BitVec.ofNat 64 (j.w 2)))

/-! ### Jobs on the ring (R403, R404, R455) -/

/-- Send an RD or WR request for the running job of a queue. -/
def State.request (s : State) (q typ node : Nat) (body : List Word) : State :=
  let m := s.mkMsg 4 1 typ 0 node s.ring.mgmtSeq body
  let r : PendReq := { seq := s.ring.mgmtSeq % 2 ^ 32, queue := q, sends := 1, again := s.now + usT 20, msg := m }
  let s := { s with ring := { s.ring with mgmtSeq := s.ring.mgmtSeq + 1, pend := s.ring.pend ++ [r] } }
  let s := match (s.queue q).busy with
    | some j => s.setQueue q { s.queue q with busy := some { j with progress := 1, since := s.now } }
    | none => s
  s.originate m

/-- RING_RD: the request leaves; the job commits at its ACK. -/
def execRingRd (t : Time) (q : QueueId) (s : State) : Out :=
  .next ((s.at t).jobStep q 0x10 fun s j =>
    if j.progress ≠ 0 then s else s.request q 4 (j.w 1) [BitVec.ofNat 64 (j.w 2)])

/-- RING_WR: the first departure of the message is the commit point. -/
def execRingWr (t : Time) (q : QueueId) (s : State) : Out :=
  .next ((s.at t).jobStep q 0x11 fun s j =>
    if j.progress ≠ 0 then s
    else
      let s := s.request q 5 (j.w 1) [BitVec.ofNat 64 (j.w 2), j.words.getD 3 0]
      if s.departs (j.w 1) then s.jobCommit q else s)

/-- FCREL_JOB: the port mask is read, and the message leaves, to a node or with plane scope and full radii. -/
def execFcrelJob (t : Time) (q : QueueId) (s : State) : Out :=
  .next ((s.at t).jobStep q 0x12 fun s j =>
    match s.engineRead (j.w 4) 64 with
    | (s, none) => s.jobEnd q 2 0
    | (s, some bs) =>
      let node := j.w 3
      if s.rstate ≠ 2 ∨ (node ≠ 0xFFFF ∧ s.departs node = false) then s.jobEnd q 2 0
      else
        let m := s.mkMsg 3 3 0 (if node = 0xFFFF then 2 else 0) node 0
          (j.words.getD 2 0 :: j.words.getD 1 0 :: bytesWords bs)
        ((s.originate m).jobCommit q).jobEnd q 0 64)

/-- Data words of one BWRITE message at most: 20 blocks less header and target. -/
def bwriteWords : Nat := 77

/-- SEQ of a BWRITE message: its data words in [31:25] and its number within the job (log entry 57). -/
def bulkSeq (words number : Nat) : Nat := words * 2 ^ 25 + number

/-- BWRITE_JOB: the next message of the transfer leaves; the first departure is the commit point. -/
def execBwriteJob (t : Time) (q : QueueId) (s : State) : Out :=
  .next ((s.at t).jobStep q 0x20 fun s j =>
    let left := j.w 4 - j.progress
    if left = 0 then s
    else
      let n := min left (8 * bwriteWords)
      match s.engineRead (j.w 3 + j.progress) n with
      | (s, none) => s.jobEnd q 2 (BitVec.ofNat 64 j.acked)
      | (s, some bs) =>
        if s.departs (j.w 1) = false then s.jobEnd q 2 (BitVec.ofNat 64 j.acked)
        else
          let len := (3 + n / 8 + 3) / 4
          let m := s.mkMsg 5 (max 2 len) 0 0 (j.w 1) (bulkSeq (n / 8) (j.progress / (8 * bwriteWords)))
            (BitVec.ofNat 64 (j.w 2 + j.progress) :: bytesWords bs)
          let s := (s.originate m).jobCommit q
          s.setQueue q { s.queue q with busy := some { j with committed := true, progress := j.progress + n, since := s.now } })

/-- A BULK job whose messages have all left for 30 ms without every answer has lost one (R404, R455, log entry 57). -/
def State.bulkLost (s : State) (q : Nat) : State :=
  match (s.queue q).busy with
  | some j =>
    if jobOp j.words = 0x20 ∧ j.progress = j.w 4 ∧ j.since + usT 30000 ≤ s.now then s.jobEnd q 2 (BitVec.ofNat 64 j.acked) else s
  | none => s

/-- Completion entry (Table 14.5). -/
def completion (q idx status : Nat) (result : Word) : List Word :=
  [setBf (setBf (setBf (setBf 0 62 59 5) 58 56 status) 46 32 q) 31 0 idx, result]

/-- JOB_COMPLETE (R456): the oldest ended job's completion is written to the CQ, waiting while that is full. -/
def execJobComplete (t : Time) (q : QueueId) (s : State) : Out :=
  let s := ((s.at t).bulkLost q).engineNext q
  match (s.queue q).ended with
  | [] => .next s
  | (idx, status, result) :: rest =>
    let cq := s.qCq q
    if s.qState cq = 1 ∧ s.qFull cq then .next s
    else
      let s := s.setQueue q { s.queue q with ended := rest, fresh := (s.queue q).fresh ++ [(idx, s.now)] }
      .next (if s.qState cq = 1 then s.qPut cq (completion q idx status result) else s)

/-! ### Abort (R457, R458) -/

/-- ABORT_REQUEST: a write to QUE_ABORT (R457). -/
def State.abortAsk (s : State) (v : Word) : State :=
  if s.field (oQue 0x110) 62 62 = 1 then s.bump (oQue 0x208)
  else ((s.setField (oQue 0x110) 62 62 1).setField (oQue 0x110) 46 32 (bf v 46 32)).setField (oQue 0x110) 31 0 (bf v 31 0)

def execAbortRequest (t : Time) (v : Word) (s : State) : Out := .next ((s.at t).abortAsk v)

/-- Decision of an abort request (R458): 0 ABORTED, 1 ABORT_LATE, 2 INVALID. A job is below CI when its index lies less than half the
index range behind it (log entry 58). -/
def State.abortVerdict (s : State) (q job : Nat) : Nat :=
  let ci := (s.queue q).ci
  if s.qType q < 6 then 2
  else if 0 < idxSub ci job ∧ idxSub ci job < 2 ^ 31 then 1
  else if idxSub (s.qHost q) ci ≤ idxSub job ci then 2
  else 0

/-- ABORT_DECIDE: between two steps of the engine's work. -/
def execAbortDecide (t : Time) (s : State) : Out :=
  let s := s.at t
  if s.field (oQue 0x110) 62 62 = 0 then .next s
  else
    let q := s.field (oQue 0x110) 46 32
    let job := s.field (oQue 0x110) 31 0
    let v := s.abortVerdict q job
    let x := s.queue q
    let s : State :=
      if v ≠ 0 then s
      else if (x.busy.any fun j => j.idx == job) then s.jobEnd q 1 0
      else s.setQueue q { x with aborted := (x.aborted.erase job) ++ [job] }
    let s := ((s.setField (oQue 0x110) 62 62 0).setField (oQue 0x110) 61 60 v).raiseBit (oQue 0x110) 63
    .next (s.event 7 q [BitVec.ofNat 64 job, BitVec.ofNat 64 v])

end Sys2Proof.Machine
end

