-- ==== Sys2Proof/Machine/Errors.lean ====
section
/-! DEFINITION. The error writer and the ERR block, explicit activation of live tables, and cluster self-tests
(18_pattern_table_and_registers.md, 20_failure_and_degraded_running.md). -/

namespace Sys2Proof.Machine

/-! ### Error records (R555, R576 to R579) -/

/-- The AO cycle in which an event reaches the writer; the AO clock has no fixed phase (log entry 12). -/
def ErrEv.cycle (e : ErrEv) : Nat := (e.time + Config.aoPhase) / aoT

/-- Event `a` is taken before event `b` when both may be: by AO cycle, then SOURCE, UNIT and arrival. -/
def ErrEv.before (a b : ErrEv) : Bool :=
  decide (a.cycle < b.cycle ∨ (a.cycle = b.cycle ∧ (a.src < b.src ∨ (a.src = b.src ∧ (a.unit < b.unit ∨
    (a.unit = b.unit ∧ a.num < b.num))))))

/-- The events whose cause has been written. -/
def State.errFree (s : State) : List ErrEv := s.errs.filter fun e => match e.cause with
  | some n => !(s.errs.any fun f => f.num == n)
  | none => true

/-- The event that the writer takes next. -/
def State.errNext (s : State) : Option ErrEv :=
  match s.errFree with
  | [] => none
  | e :: l => some (l.foldl (fun a b => if b.before a then b else a) e)

/-- The record of an event as number `n`, PHASE zero (Table 20.2). -/
def ErrEv.words (e : ErrEv) (n : Nat) : List Word :=
  [setBf (setBf (setBf (setBf (setBf 0 62 59 8) 58 57 e.cls) 56 48 e.src) 47 32 e.unit) 31 16 e.code,
   BitVec.ofNat 64 (devUnits e.time % 2 ^ 56), setBf (setBf 0 63 32 e.frame) 31 0 e.slot, BitVec.ofNat 64 (n % 2 ^ 32),
   BitVec.ofNat 64 e.d4, BitVec.ofNat 64 e.d5, BitVec.ofNat 64 e.d6, BitVec.ofNat 64 e.d7]

/-- Eight consecutive registers take the words of a record. -/
def State.regRecord (s : State) (o : Nat) (ws : List Word) : State :=
  (List.range 8).foldl (fun s i => s.setReg (o + i * 8) (ws.getD i 0)) s

/-- ERR_FIRST is zero. -/
def State.firstFree (s : State) : Bool := (List.range 8).all fun i => s.reg (oErr (0x1000 + i * 8)) == 0

/-- A record goes to ERR_LOG, WRITTEN, ERR_CNT and ERR_FIRST (R555). -/
def State.errLog (s : State) (cls n : Nat) (ws : List Word) : State :=
  let s := s.regRecord (oErr (0x10000 + n % 1024 * 0x40)) ws
  let s := s.setField (oErr 0) 31 0 ((n + 1) % 2 ^ 32)
  let s := s.bump (oErr (0x100 + cls * 8))
  if cls = 3 ∧ s.firstFree then s.regRecord (oErr 0x1000) ws else s

/-- The ERROR interrupt source is raised. -/
def State.raiseError (s : State) : State := { s with irqErr := s.irqErr + 1 }

/-- One record is written: to the ERR block, the error queues and the ERROR source (R445, R555). -/
def State.errWrite (s : State) (e : ErrEv) : State :=
  let n := s.field (oErr 0) 31 0
  let s : State := { s with errs := s.errs.filter fun f => f.num != e.num }
  ((s.errLog e.cls n (e.words n)).qBroadcast 4 (e.words n)).raiseError

/-- ERROR_RECORD_WRITE (R555, R578). -/
def execErrorRecordWrite (t : Time) (s : State) : Out :=
  let s := s.at t
  .next (match s.errNext with
    | none => s
    | some e => s.errWrite e)

/-- CLEAR_LOG (R554): every ERR_LOG entry becomes zero; WRITTEN and ERR_CNT keep their values. -/
def State.clearLog (s : State) : State :=
  { s with regs := s.regs.filter fun e => decide (e.1 < oErr 0x10000 ∨ oErr 0x20000 ≤ e.1) }

def execClearLog (t : Time) (s : State) : Out := .next (s.at t).clearLog

/-- CLEAR_FIRST (R554). -/
def State.clearFirst (s : State) : State := s.regRecord (oErr 0x1000) []

def execClearFirst (t : Time) (s : State) : Out := .next (s.at t).clearFirst

/-- A write of ERR_CTRL (R554). -/
def State.errCtrl (s : State) (v : Word) : State :=
  let s := if bf v 1 1 = 1 then s.clearLog else s
  if bf v 0 0 = 1 then s.clearFirst else s

/-- A write of ERR_INJECT (R557). -/
def State.inject (s : State) (v : Word) : State := s.err (bf v 63 62) 13 0 1 (bf v 15 0)

def execErrInject (t : Time) (v : Word) (s : State) : Out := .next ((s.at t).inject v)

/-! ### Live tables (R543 to R547) -/

/-- MST_SRCEXP: the clusters that the active dispatch map names, and in the combiner role the ring ports of MST_ROLE (R368). -/
def State.setExpect (s : State) : State :=
  let c := (dmapOn s.dmapA).foldl (fun a g => orBit a (s.clusterOf g)) 0
  (s.setField (oMst 0x20) 31 0 c).setField (oMst 0x20) 35 32 (if s.role = 2 then s.field (oMst 0x18) 61 58 else 0)

/-- Activation of table `k`: the staged copy becomes active in every unit. -/
def State.activate (s : State) (k : Nat) : State :=
  if k = 0 then ({ s with regionA := s.regionS }).tabActivated 0
  else if k = 1 then (({ s with dmapA := s.dmapS }).tabActivated 1).fanoutBuild.setExpect
  else if k = 2 then s.mastActivate
  else ({ s with ucode := { s.ucode with decA := s.ucode.decS } }).tabActivated 3

/-- Several tables are activated at one instant; the rows build their classes once, from all of them (R97, R543). -/
def State.activateSet (s : State) (ks : List Nat) : State :=
  let s := ks.foldl (fun s k => s.activate k) s
  if 0 ∈ ks ∨ 1 ∈ ks then forN 32 (fun s r => s.buildClasses r) s else s

/-- A request for table `k` that waits (R546). -/
def State.swapWait (s : State) (k : Nat) : State :=
  if s.tabWaiting k then s
  else
    let s := s.setField (oDev 0x20) (4 + k) (4 + k) 1
    if k = 2 then { s with mast := { s.mast with swapAt := some s.now } } else s

/-- SWAP: a write of DEV_SWAP. Requests for tables that are not pending have no effect; the others act now or wait (R545, R546). -/
def State.swapWrite (s : State) (v : Word) : State :=
  let asked := (List.range 4).filter fun k => bf v k k == 1 && s.tabPending k
  let now := asked.filter fun k => !s.castOn || k == 3
  (asked.filter fun k => s.castOn && k != 3).foldl (fun s k => s.swapWait k) (s.activateSet now)

def execSwap (t : Time) (v : Word) (s : State) : Out := .next ((s.at t).swapWrite v)

/-! ### Cluster self-test (R586 to R589) -/

def oBist (k : Nat) : Nat := oClu k 0x5000

/-- The test of a cluster begins; a cluster that was not OFF writes its dirty lines back first. -/
def State.bistBegin (s : State) (k back : Nat) : State :=
  let s := (if back = 0 then s else s.writeBack k).settle k
  (s.setClu k { s.clu k with bist := 1, bistBack := back }).setField (oBist k) 61 59 1

/-- A drained cluster that has become quiet is tested; it was HOT and returns to WARM (Table 20.6). -/
def State.bistPoll (s : State) (k : Nat) : State :=
  if (s.clu k).bist = 5 ∧ s.quiet k then s.bistBegin k 1 else s

/-- A write of START to CLU_BIST (Table 20.6). During a transition of the domain the request is answered BUSY (log entry 59). -/
def State.bistAsk (s : State) (k : Nat) (drain : Bool) : State :=
  if (s.clu k).bist ≠ 0 then s.bistPoll k
  else if (s.moving k).isSome then s.setField (oBist k) 61 59 2
  else if s.domain k < 2 then s.bistBegin k (s.domain k)
  else if s.quiet k then s.bistBegin k 2
  else if drain then (s.setClu k { s.clu k with bist := 5, bistBack := 1 }).setField (oBist k) 61 59 5
  else s.setField (oBist k) 61 59 2

/-- A write of CLU_BIST. -/
def State.bistWrite (s : State) (k : Nat) (v : Word) : State := if bf v 63 63 = 1 then s.bistAsk k (bf v 62 62 == 1) else s

/-- BIST_START. -/
def execBistStart (t : Time) (c : ClusterId) (s : State) : Out := .next ((s.at t).bistAsk c false)

/-- BIST_DRAIN. -/
def execBistDrain (t : Time) (c : ClusterId) (s : State) : Out := .next ((s.at t).bistAsk c true)

/-- The caches and TLBs of a cluster and of its cores are invalidated, locked contents included (R588). -/
def State.cachesEmpty (s : State) (k : Nat) : State :=
  let s := s.setClu k { s.clu k with tlb := [], l2 := [], evict := [], evWait := [] }
  (List.range 16).foldl (fun s i =>
    let c := k * 16 + i
    let x := s.core c
    s.setCore c { x with itlb := [], dtlb := [], l1i := [], l1d := [], side := [], blocked := none, lastMiss := none, upset := [] }) s

/-- What a test has found goes into CLU_BIST and takes units out until device reset (R589, Table 20.7). -/
def State.bistResult (s : State) (k : Nat) (f : BistFinding) : State :=
  let bad := f.cores != 0 || f.ways != 0 || f.tlb
  let r := s.reg (oBist k)
  let cores := bf r 47 32 ||| f.cores.toNat
  let ways := bf r 31 16 ||| f.ways.toNat
  let s := s.setReg (oBist k) (setBf (setBf (setBf (setBf 0 61 59 (if bad then 4 else 3)) 47 32 cores) 31 16 ways) 0 0
    (bf r 0 0 ||| b2n f.tlb))
  let s := s.setClu k { s.clu k with waysOff := ways, coresOff := cores }
  let s := (List.range 16).foldl (fun s i =>
    if bit cores i then s.setCore (k * 16 + i) { s.core (k * 16 + i) with out := true } else s) s
  if bad then (s.err 2 2 k 8 0).coverage k else s

/-- BIST_DONE: the test ends, the domain returns, and requests held meanwhile are taken (R505, R588). -/
def execBistDone (t : Time) (c : ClusterId) (found : BistFinding) (s : State) : Out :=
  let s := (s.at t).bistPoll c
  let k := c.val
  if (s.clu k).bist ≠ 1 then .next s
  else
    let back := (s.clu k).bistBack
    let s := (s.cachesEmpty k).bistResult k found
    let s := (s.setClu k { s.clu k with bist := 0, bistBack := 0, idleAt := s.now }).restart k
    .next (((s.setField (oDom k) 61 60 back).domNext k false 8).wakeCheck k)

end Sys2Proof.Machine
end

