-- ==== Sys2Proof/Machine/Bar.lean ====
section
/-! DEFINITION. BAR0 and the doorbells as the host, the cores and other devices reach them (R9, R450, R472, R496, R534 to R541): what
a read of each register shows, the accesses with side effects, and the writes that act. -/

namespace Sys2Proof.Machine

/-- The state after a command that always answers a next state. -/
def Out.orElse (o : Out) (s : State) : State :=
  match o with
  | .next s' => s'
  | _ => s

/-! ### The pattern table (R534 to R538) -/

/-- Entries: TYPE, BASE, COUNT, STRIDE, CAP (Tables 18.3, 18.4). -/
def State.patternEntries (s : State) : List (Nat × Nat × Nat × Nat × Nat) :=
  let mem := (if s.small then 1 else 0) + s.stacks * 0x100
  [(0x0001, 0x10000, 1, 0, s.part), (0x0002, 0x20000, 1, 0, 96), (0x0003, 0x30000, 1, 0, 24 + 2 * 0x100),
   (0x0004, 0x40000, 1, 0, 16 + 4096 * 0x10000), (0x0005, 0x50000, 1, 0, 36 + 64 * 0x100 + 256 * 0x10000),
   (0x0006, 0x60000, 1, 0, 4), (0x0007, 0x70000, 1, 0, 64 + 60 * 0x100), (0x0008, 0x80000, s.stacks, 0x4000, mem)] ++
  [(0x0010, 0x100000, 1, 0, 32768 + 32 * 0x10000), (0x0020, 0x200000, 512, 0x200, 64), (0x0030, 0x300000, 32, 0x1000, 18),
   (0x0040, 0x400000, 32, 0x10000, 14 + 2 * 0x100 + 4 * 0x10000 + 8 * 0x1000000), (0x0080, 0x800000, 1, 0, 32768),
   (0x0100, 0x1000000, 1, 0, 1024), (0x0200, 0x2000000, 1, 0, 2048), (0x0201, 0x2008000, 1, 0, 0)]

/-- Words of one entry (Table 18.2). -/
def patternWords (e : Nat × Nat × Nat × Nat × Nat) : List Word :=
  [BitVec.ofNat 64 (e.1 + 0x0100 * 0x10000 + e.2.2.1 * 2 ^ 32), BitVec.ofNat 64 (e.2.1 + e.2.2.2.1 * 2 ^ 32),
   BitVec.ofNat 64 e.2.2.2.2, 0]

/-- Header and entries (Tables 18.1, 18.2). -/
def State.patternTable (s : State) : List Word :=
  let w0 : Word := BitVec.ofNat 64 (0x4E525450 + 2 ^ 32 + 16 * 2 ^ 48)
  let rest := [0, 0] ++ s.patternEntries.flatMap patternWords
  let crc := crc32c (wordBytes (w0 :: 544 :: rest))
  w0 :: BitVec.ofNat 64 (544 + crc * 2 ^ 32) :: rest

/-! ### What a read shows -/

/-- DEV_ID (Table 18.8). -/
def State.devId (s : State) : Word := BitVec.ofNat 64 (s.part * 2 ^ 48 + 2 ^ 40 + s.stacks * 2 ^ 16)

/-- PRT_STATUS (Table 2.11). -/
def State.portView (s : State) (p : Nat) (w : Word) : Word :=
  setBf (setBf w 11 8 (s.port p).link.code) 3 3 (b2n ((s.port p).cmds.any (·.soft)))

/-- ROW_STATUS (Table 3.9): LANES, VSTATE, RT and the flags. -/
def State.rowView (s : State) (r : Nat) : Word :=
  let x := s.row r
  let over_ := (List.range 18).foldl (fun a i => if (x.stream i).live && (x.stream i).lagging then orBit a i else a) 0
  setBf (setBf (setBf (setBf (setBf (setBf (setBf (setBf 0 63 61 (7 - x.lanesOff.toNat)) 60 59 x.vstate) 58 58 (b2n x.voterFault))
    57 57 (b2n x.classMerged)) 56 56 (b2n x.fanoutCut)) 55 28 (x.rt / 16)) 27 27 (b2n x.retired)) 17 0 over_

/-- MEM_STATUS (Table 10.10). -/
def State.memView (s : State) (w : Word) : Word := setBf (setBf w 63 63 1) 59 58 (b2n s.small)

/-- CLU_PROVSTAT (Table 8.8). -/
def State.provView (s : State) (k : Nat) : Word :=
  let l := (s.clu k).slices
  setBf (setBf (setBf 0 45 32 l.length) 26 16 (sget [] k s.outqs).length) 7 0
    (l.filter fun x => x.st == .provRun || x.st == .provDone).length

/-- CLU_TLBSTAT (Table 9.12). -/
def State.tlbView (s : State) (k : Nat) : Word :=
  setBf (setBf 0 63 48 ((s.clu k).gen % 65536)) 6 0 ((s.clu k).tlb.filter fun e => e.2.locked).length

/-- CORE_STATUS (Table 7.17). The current context is held while a window trap or the double-fault handler runs (R265). -/
def State.coreView (s : State) (c : Nat) : Word :=
  let x := s.core c
  let held := fun (j : Nat) => if x.trap.isSome ∧ j = x.cur then 1 else stHeld (x.ctx j).spec.st
  let ctx := [0, 1, 2, 3].foldl (fun a j =>
    a + (s.ctxState c j % 4 + held j * 4 + b2n (s.irqMask c j != 0) * 8) * 2 ^ (4 * j)) 0
  setBf (setBf (setBf (setBf (setBf 0 63 63 (b2n x.bankOn)) 62 62 (b2n x.trap.isSome)) 61 61 (b2n x.out)) 17 16 x.cur) 15 0 ctx

/-- A register of one cluster's instance. -/
def State.cluView (s : State) (k o : Nat) (w : Word) : Word :=
  if o = 0x3010 then s.provView k
  else if o = 0x4018 then s.tlbView k
  else if 0x8000 ≤ o ∧ o < 0x9000 then
    let c := k * 16 + o / 0x100 % 16
    if o % 0x100 = 8 then s.coreView c
    else if 0xC0 ≤ o % 0x100 ∧ o % 0x100 < 0xE0 then setBf w 63 58 (s.ctx c (o % 0x100 / 8 % 4)).shadow.length
    else w
  else w

/-- TMG_TIME, TMG_STATUS with FRAME_ON and FRAMES, and TMG_SUPPLY, whose measurements this model leaves free (log entry 60). -/
def State.tmgView (s : State) (o : Nat) (w : Word) : Word :=
  if o = 0x10 then BitVec.ofNat 64 (devUnits s.now % 2 ^ 56)
  else if o = 8 then setBf (setBf w 57 57 (b2n s.castOn)) 31 0 (s.frame.count % 2 ^ 32)
  else if o = 0x68 then setBf s.freeVal 15 0 0
  else w

/-- SEC: the slot and report windows read as zero until the slots are fixed (R552). -/
def State.secView (s : State) (o : Nat) (w : Word) : Word := if 0x1000 ≤ o ∧ s.boot.locked = false then 0 else w

/-- The blocks below 0x200000. -/
def State.lowView (s : State) (o : Nat) (w : Word) : Word :=
  if o < 0x10000 then s.patternTable.getD (o / 8) 0
  else if o = oDev 0 then s.devId
  else if o = oDev 0x28 then BitVec.ofNat 64 Config.serial.toNat
  else if oDom 0 ≤ o ∧ o < oDom 96 then setBf w 58 58 (b2n (s.domAbsent ((o - oDom 0) / 8)))
  else if oSec 0 ≤ o ∧ o < oFmt 0 then s.secView (o - oSec 0) w
  else if o = oFmt 0x118 then BitVec.ofNat 64 (s.chan (s.field (oFmt 0x110) 15 0)).fwd
  else if o = oMst 8 then setBf (setBf w 63 62 s.role) 35 0 s.heldMask
  else if oTmg 0 ≤ o ∧ o < 0x80000 then s.tmgView (o - oTmg 0) w
  else if 0x80000 ≤ o ∧ o < 0x90000 then
    (if s.stacks ≤ (o - 0x80000) / 0x4000 then 0 else if o % 0x4000 = 8 then s.memView w else w)
  else w

/-- What register `o` shows at a read without side effects. -/
def State.regView (s : State) (o : Nat) : Word :=
  let w := s.reg o
  if o < 0x200000 then s.lowView o w
  else if o < 0x240000 then (if o % 0x200 = 8 then s.portView ((o - 0x200000) / 0x200) w else w)
  else if 0x300000 ≤ o ∧ o < 0x320000 then (if o % 0x1000 = 8 then s.rowView ((o - 0x300000) / 0x1000) else w)
  else if 0x400000 ≤ o ∧ o < 0x600000 then s.cluView ((o - 0x400000) / 0x10000) (o % 0x10000) w
  else w

/-! ### Reads -/

/-- The row whose instance holds an offset of the ROW block. -/
def rowAt (o : Nat) : RowId := Fin.ofNat 32 ((o - 0x300000) / 0x1000)

/-- The port whose instance holds an offset of the PRT block. -/
def portAt (o : Nat) : PortId := Fin.ofNat 512 ((o - 0x200000) / 0x200)

/-- Read a BAR0 register into `rdata`; the table windows advance their index. -/
def State.barRead (s : State) (o : Nat) : State :=
  if o = oFmt 0x108 then (execRegmapDataAccess s.now false 0 s).orElse s
  else if o = oFmt 0x120 then (execChcntData1Read s.now s).orElse s
  else if o = oMst 0x40 then (execMstTabAccess s.now false false 0 s).orElse s
  else if o = oMst 0x48 then (execMstTabAccess s.now true false 0 s).orElse s
  else if o = oUcs 0x20 then s.decAccess false 0
  else if 0x300000 ≤ o ∧ o < 0x320000 ∧ o % 0x1000 = 0x20 then (execDmapDataAccess s.now (rowAt o) false false 0 s).orElse s
  else if 0x300000 ≤ o ∧ o < 0x320000 ∧ o % 0x1000 = 0x28 then (execDmapDataAccess s.now (rowAt o) true false 0 s).orElse s
  else
    let v := s.regView o
    { (if o = oTmg 0x68 then s.useFree else s) with rdata := v }

/-! ### Writes that act -/

/-- DEV block (Table 18.7). -/
def State.devBlock (s : State) (o : Nat) (v : Word) : State :=
  if o = oDev 0x10 then s.devCtrl v else if o = oDev 0x18 then s.swapWrite v else s.regWrite false o v

/-- FMT block; descriptors act at once before the first cast-on (R58). -/
def State.fmtBlock (s : State) (loader : Bool) (o : Nat) (v : Word) : State :=
  if o = oFmt 0x108 then (execRegmapDataAccess s.now true v s).orElse s
  else if o = oFmt 0x120 then (execAutomaskClear s.now v s).orElse s
  else
    let s := s.regWrite loader o v
    if o < oFmt 0x100 ∧ s.frame.count = 0 then forN 512 (fun s p => (s.showMode p).tryLeaveOff p) s else s

/-- MST block. -/
def State.mstBlock (s : State) (loader : Bool) (o : Nat) (v : Word) : State :=
  if o = oMst 0x40 then (execMstTabAccess s.now false true v s).orElse s
  else if o = oMst 0x48 then (execMstTabAccess s.now true true v s).orElse s
  else s.regWrite loader o v

/-- SHR block: JOIN and LEAVE (Table 12.10). -/
def State.shrBlock (s : State) (loader : Bool) (o : Nat) (v : Word) : State :=
  let s := s.regWrite loader o v
  if o ≠ oShr 0 then s
  else
    let s := if bf v 0 0 = 1 then s.join else s
    if bf v 1 1 = 1 then s.leave else s

/-- TMG block: TMG_FMSOFT and TMG_TDCCAL (Table 17.6). -/
def State.tmgBlock (s : State) (loader : Bool) (o : Nat) (v : Word) : State :=
  if o = oTmg 0x50 then (execFmsoftWrite s.now v s).orElse s
  else if o = oTmg 0x58 then (if bf v 63 63 = 1 then (execTdcCalStart s.now s).orElse s else s)
  else if o = oTmg 0 then (s.regWrite loader o v).sourceTake
  else s.regWrite loader o v

/-- MEM block: the corruption registers (R357), and the error log's VALID count (Table 10.11). -/
def State.memBlock (s : State) (loader : Bool) (o : Nat) (v : Word) : State :=
  let m := (o - 0x80000) / 0x4000
  if s.stacks ≤ m then s
  else if o % 0x4000 = 0x20 then (execFlipArm s.now (Fin.ofNat 4 m) v s).orElse s
  else if o % 0x4000 = 0x18 ∧ s.field (oMem m 0x20) 63 63 = 1 then s
  else if 0x2000 ≤ o % 0x4000 then (s.regWrite loader o v).logShow m (s.field (oMem m 0x10) 7 0)
  else s.regWrite loader o v

/-- PRT_CTRL (R54, R56, R58): FORCE_DEAD and ENABLE are stored, and the link obeys. -/
def State.prtCtrl (s : State) (p : Nat) (v : Word) : State :=
  let s := s.regWrite false (oPort p 0) v
  let s := (s.setField (oPort p 0) 0 0 (bf v 0 0)).setField (oPort p 0) 1 1 (bf v 1 1)
  let s := if s.frame.count = 0 then forN 512 (fun s p => (s.showMode p).tryLeaveOff p) s else s
  let l := (s.port p).link
  if l = .off then s.tryLeaveOff p
  else if bf v 0 0 = 0 then s.enter p .off true
  else if l = .dead then s
  else if bf v 1 1 = 1 then s.enter p .dead true
  else if bf v 2 2 = 1 then s.enter p .acquire true
  else s

/-- PRT block. -/
def State.prtBlock (s : State) (loader : Bool) (o : Nat) (v : Word) : State :=
  let r := o % 0x200
  if r = 0 then s.prtCtrl ((o - 0x200000) / 0x200) v
  else if r = 0x28 then (if bf v 0 0 = 1 then (execCalStart s.now (portAt o) s).orElse s else s)
  else if r = 0x40 then (execFcsend s.now (portAt o) v s).orElse s
  else if r = 0x48 then (execSlowControlSend s.now (portAt o) v s).orElse s
  else s.regWrite loader o v

/-- ROW block; a write of STALL_LIMIT starts the stall times again (R104). -/
def State.rowBlock (s : State) (loader : Bool) (o : Nat) (v : Word) : State :=
  let r := o % 0x1000
  let i := (o - 0x300000) / 0x1000
  if r = 0x20 then (execDmapDataAccess s.now (rowAt o) false true v s).orElse s
  else if r = 0x28 then (execDmapDataAccess s.now (rowAt o) true true v s).orElse s
  else if r = 0 then (s.regWrite loader o v).setRow i { s.row i with stallAt := s.now }
  else s.regWrite loader o v

/-- CLU block: CLU_L2LOCK, CLU_BIST, CTX_TIMER. -/
def State.cluBlock (s : State) (loader : Bool) (o : Nat) (v : Word) : State :=
  let k := (o - 0x400000) / 0x10000
  let r := o % 0x10000
  if r = 0x4010 then s.l2lockWrite k v
  else if r = 0x5000 then s.bistWrite k v
  else if 0x8000 ≤ r ∧ r < 0x9000 ∧ 0x20 ≤ r % 0x100 ∧ r % 0x100 < 0x40 then
    s.timerWrite (k * 16 + r / 0x100 % 16) (r % 0x100 / 8 % 4) v
  else s.regWrite loader o v

/-- QUE block: QUE_ABORT, and the queue descriptors (R446, R447). -/
def State.queBlock (s : State) (loader : Bool) (o : Nat) (v : Word) : State :=
  if o = oQue 0x108 then s.abortAsk v
  else if oQcfg 0 ≤ o ∧ o < oQcfg 32768 then
    let q := (o - oQcfg 0) / 0x40
    if o % 0x40 = 0 ∧ bf v 63 63 = 1 then s.enableQ q v
    else if o % 0x40 = 0 ∧ s.qState q ≠ 0 then s.disableQ q
    else if s.qState q ≠ 0 then s
    else s.regWrite loader o v
  else s.regWrite loader o v

/-- ERR block. -/
def State.errBlock (s : State) (o : Nat) (v : Word) : State :=
  if o = oErr 8 then s.errCtrl v else if o = oErr 0x10 then s.inject v else s

/-- A write that has reached its block. `loader`: it is the loader's, so LCK fields take it (R478). -/
def State.blockWrite (s : State) (loader : Bool) (o : Nat) (v : Word) : State :=
  if o < 0x10000 then s
  else if o < 0x20000 then s.devBlock o v
  else if o < 0x30000 then s.pwrWrite loader o v
  else if o < 0x40000 then (if o = oSec 8 then s.fuseCmd v else s.regWrite loader o v)
  else if o < 0x50000 then s.fmtBlock loader o v
  else if o < 0x60000 then s.mstBlock loader o v
  else if o < 0x70000 then s.shrBlock loader o v
  else if o < 0x80000 then s.tmgBlock loader o v
  else if o < 0x90000 then s.memBlock loader o v
  else if o = oUcs 0x20 then s.decAccess true v
  else if o < 0x200000 then s.regWrite loader o v
  else if o < 0x240000 then s.prtBlock loader o v
  else if 0x300000 ≤ o ∧ o < 0x320000 then s.rowBlock loader o v
  else if 0x400000 ≤ o ∧ o < 0x600000 then s.cluBlock loader o v
  else if 0x800000 ≤ o ∧ o < 0x1000000 then s.queBlock loader o v
  else if 0x1000000 ≤ o ∧ o < 0x2000000 then s.errBlock o v
  else s.regWrite loader o v

/-- The owner code of a register of one world: CTX_SSP and CTX_SPILL of each world (R272), CLU_TTB of each world (R332). -/
def worldReg (o : Nat) : Option Nat :=
  let r := o % 0x10000
  if o < 0x400000 ∨ 0x600000 ≤ o then none
  else if r = 0x4000 ∨ r = 0x4008 then some (1 + r % 0x10 / 8)
  else if 0x8000 ≤ r ∧ r < 0x9000 ∧ 0x40 ≤ r % 0x100 ∧ r % 0x100 < 0xC0 then some (1 + r % 0x10 / 8)
  else none

/-- The device lets the write of a path through: host writes before step 8 ends reach the DEV block, and in a bare start the QUE block
(R472, R475); remote writes never reach SEC (R403), nor a register of one world (R272). Nothing is reached while the main switch is open. -/
def State.writeOpen (s : State) (path : Path) (o : Nat) : Bool :=
  s.pwr.main &&
  match path with
  | .host => s.boot.locked || decide (0x10000 ≤ o ∧ o < 0x20000) ||
      (s.field (oDev 8) 62 62 == 1 && decide (0x800000 ≤ o ∧ o < 0x1000000))
  | .core => true
  | .ring => decide (o < 0x30000 ∨ 0x40000 ≤ o) && (worldReg o).isNone

/-- Write a BAR0 register over a path (R541). -/
def State.barWrite (s : State) (path : Path) (o : Nat) (v : Word) : State :=
  if s.writeOpen path o then s.blockWrite false o v else s

/-- Write a doorbell slot of BAR2 (R450). -/
def State.bellWrite (s : State) (o : Nat) (v : Word) : State :=
  if o % 64 = 0 then s.bell (o / 64) (bf v 31 0) else if o % 64 = 8 then s.armBell (o / 64) else s

/-- Read a doorbell slot of BAR2 (R450). -/
def State.bellRead (s : State) (o : Nat) : State :=
  { s with rdata :=
      if o % 64 = 0 then BitVec.ofNat 64 (s.qDev (o / 64))
      else if o % 64 = 8 then BitVec.ofNat 64 (s.field (oQcfg (o / 64)) 29 29)
      else 0 }

/-- An access to register space that is misaligned or not of 8 bytes (R9). -/
def State.badAccess (s : State) (off : Nat) (write : Bool) : State :=
  (if write then s else { s with rdata := BitVec.allOnes 64 }).err 1 11 0 1 off

/-- REGISTER_WRITE (R10 to R13, R541). -/
def execRegisterWrite (t : Time) (path : Path) (off : BitVec 26) (v : Word) (s : State) : Out :=
  let s := s.at t
  .next (if off.toNat % 8 ≠ 0 then s.badAccess off.toNat true else s.barWrite path off.toNat v)

/-- MISALIGNED_REGISTER_ACCESS (R9). An access that is aligned and of 8 bytes is not one. -/
def execMisalignedRegisterAccess (t : Time) (off : Nat) (size : Nat) (write : Bool) (_v : Word) (s : State) : Out :=
  let s := s.at t
  .next (if size = 8 ∧ off % 8 = 0 then s else s.badAccess off write)

end Sys2Proof.Machine
end

