-- ==== Sys2Proof/Machine/CoreMem.lean ====
section
/-! DEFINITION. Memory as a core sees it: loads with the read barrier, stores with their barriers, frame-heap and hold-heap allocation,
promotion (04_tagged_words_and_heaps.md, 09_translation_and_caches.md). -/

namespace Sys2Proof.Machine

/-! ### L1 data cache and side buffer (R316 to R318) -/

/-- The line that an L1D waits for has arrived (R317); it is stored while the L2 holds the line (R316, R322). -/
def State.l1dFill (s : State) (c line : Nat) : State :=
  let x := s.core c
  if (s.l2Find (cluOf c) line).isNone then s.setCore c { x with blocked := none }
  else
    (s.setCore c { x with l1d := l1Put 128 4 line (Config.victim s.free) x.l1d, blocked := none,
                          side := x.side.filter fun l => l != line }).useFree

/-- While an L1D is blocked, no context of its core issues a load or store: the next one waits for the line (R317). -/
def State.unblock (s : State) (c : Nat) : State :=
  match (s.core c).blocked with
  | some b => s.l1dFill c b
  | none => s

/-- Put a line that the L2 holds into the side buffer, first in first out (R316, R318). -/
def State.sidePut (s : State) (c line : Nat) : State :=
  let x := s.core c
  if x.side.contains line ∨ l1Has line x.l1d ∨ (s.l2Find (cluOf c) line).isNone then s
  else
    let l := if 8 ≤ x.side.length then x.side.drop 1 else x.side
    s.setCore c { x with side := l ++ [line] }

/-- A line comes into the side buffer through the L2; an error of its fill is not recorded (R274). -/
def State.sideFill (s : State) (c line : Nat) : State :=
  let k := cluOf c
  let s := s.probe k (line * 64) 0 k
  if (s.fillErr k (line * 64)).isSome then s else (s.l2Read k line).sidePut c line

/-- The sequential prefetcher (R318). -/
def State.prefetch (s : State) (c line : Nat) : State :=
  if line % 256 = 0 ∨ (line + 1) % 256 = 0 ∨ (s.core c).lastMiss ≠ some (line - 1) then s else s.sideFill c (line + 1)

/-- The L1D or the side buffer holds a line. -/
def State.l1dHas (s : State) (c line : Nat) : Bool := l1Has line (s.core c).l1d || (s.core c).side.contains line

/-- A load reaches the L1D with a line that can be read (R317, R318, R322). A miss that hits the L2 makes the value usable 22 core
cycles after the issue, 18 more than a hit (Table 5.5). -/
def State.l1dLoad (s : State) (c line : Nat) : State :=
  let x := s.core c
  if l1Has line x.l1d then s
  else if x.side.contains line then s.l1dFill c line
  else
    let k := cluOf c
    let s := if (s.l2Find k line).isSome then s.spend c 18 else s.stall c
    let s := (s.l2Read k line).prefetch c line
    let x := s.core c
    let b := if (s.l2Find k line).isSome then some line else none
    s.setCore c { x with blocked := b, lastMiss := some line }

/-! ### Device-class accesses (R272, R301) -/

/-- A core reaches a register of world W only through a device window that W owns (R272, log entry 90). -/
def State.windowOpen (s : State) (o : Nat) : Bool :=
  match worldReg o with
  | none => true
  | some w => s.ownerAt (0x200000000000 + o) 3 == w

/-- A device-class read of a core: BAR0, the doorbells; any other device address, and a register out of the core's reach, reads as
a free value (log entries 22 and 90). -/
def State.devRead (s : State) (pa : Nat) : State × Word :=
  let o := pa - 0x200000000000
  if o < 0x4000000 then
    if s.windowOpen o then
      let s := s.barRead o
      (s, s.rdata)
    else (s.useFree, s.freeVal)
  else if o < 0x4200000 then
    let s := s.bellRead (o - 0x4000000)
    (s, s.rdata)
  else (s.useFree, s.freeVal)

/-- A device-class write of a core. -/
def State.devWrite (s : State) (pa : Nat) (v : Word) : State :=
  let o := pa - 0x200000000000
  if o < 0x4000000 then (if s.windowOpen o then s.barWrite .core o v else s)
  else if o < 0x4200000 then s.bellWrite (o - 0x4000000) v
  else s

/-- The oldest store of a context leaves its queue, to memory or to the device (R275, R301). -/
def State.releaseAny (s : State) (c j : Nat) : State :=
  let y := s.ctx c j
  match y.storeQ with
  | [] => s
  | (pa, v) :: rest => if isDevice pa then (s.setCtx c j { y with storeQ := rest }).devWrite pa v else s.release1 c j

/-- Every store of a context has left its queue, in order (R223, R301). -/
def State.drainAll (s : State) (c j : Nat) : State := (s.ctx c j).storeQ.foldl (fun s _ => s.releaseAny c j) s

/-! ### Loads (R154, R213, R273 to R275, R300, R345) -/

/-- DATA_ERROR of an access to an address (R346). -/
def dataError (e : Nat × Nat) (va : Nat) : Flt := { cls := xDataError, cause := e.1, detail := e.2, va := va }

/-- One word read as it stands at a level, with no read barrier. -/
def State.loadAt (s : State) (c : Nat) (sup : Bool) (va : Nat) : State × (Flt ⊕ Word) :=
  match s.translate c (s.world_ c) sup .load va with
  | (s, .inl f) => (s, .inl f)
  | (s, .inr pa) =>
    let s := s.unblock c
    if isDevice pa then
      let r := (s.drainAll c (s.core c).cur).devRead pa
      (r.1, .inr r.2)
    else if (s.core c).me.storeQ.any (fun e => e.1 == pa) then (s, .inr (s.seen c pa))
    else
      let k := cluOf c
      let line := pa / 64
      let s := s.l1Check c line
      if s.l1dHas c line then (s.l1dLoad c line, .inr (mrdW pa s.mem))
      else
        let s := s.probe k pa 0 k
        match s.fillErr k pa with
        | some e => (s.busErrLog pa 0 k, .inl (dataError e va))
        | none => (s.l1dLoad c line, .inr (mrdW pa s.mem))

/-- One word read as it stands, with no read barrier. -/
def State.load1 (s : State) (c va : Nat) : State × (Flt ⊕ Word) := s.loadAt c (s.sup c) va

/-- A load that follows up to `n` FWD words (R154). -/
def State.loadFwd (s : State) (c va : Nat) : Nat → State × (Flt ⊕ Word)
  | 0 => match s.load1 c va with
    | (s, .inr w) => if tagOf w = tFwd then (s, .inl (flt xTag cFwdChain)) else (s, .inr w)
    | r => r
  | n + 1 => match s.load1 c va with
    | (s, .inr w) =>
      if tagOf w = tFwd then
        (if malformed w then (s, .inl (flt xTag cMalformed)) else (s.spend c 1).loadFwd c (pay w) n)
      else (s, .inr w)
    | r => r

/-- A load with the read barrier. -/
def State.loadW (s : State) (c va : Nat) : State × (Flt ⊕ Word) := s.loadFwd c va 8

/-- KIND of the header that a pointer tag asks for (Table 4.10). -/
def headKind (t : Nat) : Nat := if t = tVec then 1 else if t = tBox then 2 else 3

/-- The header check of R145. -/
def headerOk (ptrTag : Nat) (h : Word) : Bool :=
  let sub := bf h 51 48
  tagOf h == tFix && bf h 55 52 == headKind ptrTag && (if ptrTag = tBox then decide (sub ≤ 1) else sub == 0)

def headLen (h : Word) : Nat := bf h 31 0

/-- Read and check the header of a VEC, BOX or CODE pointer. -/
def State.header (s : State) (c : Nat) (p : Word) : State × (Flt ⊕ Word) :=
  match s.loadW c (pay p) with
  | (s, .inr h) => (s, if headerOk (tagOf p) h then .inr h else .inl (flt xTag cHeader))
  | r => r

/-! ### Frame-heap allocation (R146, R147, R216) -/

/-- The chunk that a context, or the bank as number 4, allocates in, by world. -/
def State.chunks (s : State) (c j : Nat) : Sparse Nat := if j = 4 then (s.core c).bankChunk else (s.ctx c j).chunk

def State.setChunk (s : State) (c j w ch : Nat) : State :=
  if j = 4 then s.setCore c { s.core c with bankChunk := sset 0 w ch (s.core c).bankChunk }
  else s.setCtx c j { s.ctx c j with chunk := sset 0 w ch (s.ctx c j).chunk }

/-- The slices that a context holds have these chunks among those taken since their checkpoints (R162). -/
def State.noteTaken (s : State) (c j w : Nat) (got : List Nat) : State :=
  if j = 4 ∨ w ≠ s.ctxWorld c j then s
  else (s.ctx c j).slices.foldl (fun s key => match s.slice (cluOf c) key with
    | some x => s.setSlice (cluOf c) { x with taken := x.taken ++ got }
    | none => s) s

/-- Allocate `bytes` for context `j` of core `c`, or for its bank as number 4, from the pointer `s6`: the address and the pointer after
it, or a HEAP cause. -/
def State.allocAt (s : State) (c j w s6 bytes : Nat) : State × (Nat ⊕ (Nat × Nat)) :=
  let k := cluOf c
  let room := s6 % 65536 != 0 || sget 0 w (s.chunks c j) == s6
  if 1048576 < bytes then (s, .inl 2)
  else if room ∧ s6 % 65536 + bytes ≤ 65536 then (s, .inr (s6, s6 + bytes))
  else
    let n := (bytes + 65535) / 65536
    let z := s.clu k
    let i := sget 0 w z.chunk
    if s.frameSize k w < (i + n) * 65536 then (s, .inl 1)
    else
      let a := frameVa k + i * 65536
      let got := (List.range n).map fun m => a + m * 65536
      let s := (s.setClu k { z with chunk := sset 0 w (i + n) z.chunk }).noteTaken c j w got
      let after := if n = 1 then a + bytes else a + n * 65536
      ((s.setChunk c j w (if n = 1 then a else 0)).spend c (16 * n), .inr (a, after))

/-- s6 must hold a 16-byte-aligned FIX in the frame heap of the context's own cluster and world (R216). -/
def State.s6Ok (s : State) (c : Nat) : Bool :=
  let v := s.rget c 22
  let b := frameVa (cluOf c)
  tagOf v == tFix && pay v % 16 == 0 && decide (b ≤ pay v ∧ pay v < b + s.frameSize (cluOf c) (s.world_ c))

/-- Allocate `n` words for the running word and advance s6. -/
def State.alloc (s : State) (c n : Nat) : State × (Flt ⊕ Nat) :=
  let j := if (s.core c).bankOn then 4 else (s.core c).cur
  if s.s6Ok c = false then (s, .inl (flt xTag cMalformed))
  else if 131072 < n then (s, .inl (flt xHeap 2))
  else match s.allocAt c j (s.world_ c) (pay (s.rget c 22)) ((n + 1) / 2 * 16) with
    | (s, .inl e) => (s, .inl (flt xHeap e))
    | (s, .inr a) => (s.rset c 22 (fixN a.2), .inr a.1)

/-- Write the words of a fresh frame-heap object; the device writes them as one allocation. -/
def State.putObj (s : State) (c va : Nat) (ws : List Word) : State :=
  let pa := s.framePa (cluOf c) (s.world_ c) va
  ((List.range ws.length).zip ws).foldl (fun s e => s.storeOut c (pa + 8 * e.1) e.2) s

/-- A header word (Table 4.10). -/
def headW (kind sub len : Nat) : Word := setBf (setBf (setBf 0 55 52 kind) 51 48 sub) 31 0 len

/-- A pointer word. -/
def ptrW (tag va : Nat) : Word := mkTag tag va

/-! ### Hold heap (R149 to R151, R219) -/

/-- Virtual address of offset `o` of a hold heap (Table 4.2). -/
def holdVa (o : Nat) : Nat := 0x500000000000 + o

/-- Microcode reads a word by its physical address: an uncorrectable one is DATA_ERROR (R345). -/
def State.coreGet (s : State) (c pa va : Nat) : State × (Flt ⊕ Word) :=
  let k := cluOf c
  let s := s.probe k pa 0 k
  match s.fillErr k pa with
  | some e => (s.busErrLog pa 0 k, .inl (dataError e va))
  | none => (s, .inr (mrdW pa s.mem))

/-- Microcode reads a word of hold-heap metadata at an offset (Table 4.12). -/
def State.metaGet (s : State) (c w o : Nat) : State × (Flt ⊕ Word) := s.coreGet c (s.holdPa w o) (holdVa o)

/-- Microcode writes a word of hold-heap metadata. -/
def State.metaPut (s : State) (c w o : Nat) (v : Word) : State := s.storeOut c (s.holdPa w o) v

/-- A word of hold-heap metadata as memory holds it. -/
def State.metaW (s : State) (w o : Nat) : Word := mrdW (s.holdPa w o) s.mem

/-- Offset of a block's word in the block table. -/
def blockOff (b : Nat) : Nat := 0x100000 + b * 8

/-- A block takes a state (Table 4.13). -/
def State.setBlock (s : State) (c w b st : Nat) : State := s.metaPut c w (blockOff b) (setBf (s.metaW w (blockOff b)) 55 52 st)

/-- Place an object of `bytes` at offset `o` of the open block `b`; a block filled to its end becomes FULL. -/
def State.openAt (s : State) (c w b o bytes : Nat) : State :=
  if o + bytes < blockSize then (s.setBlock c w b 1).metaPut c w (0x100 + cluOf c * 8) (fixN (b * 2 ^ 25 + o + bytes))
  else (s.setBlock c w b 2).metaPut c w (0x100 + cluOf c * 8) 0

/-- The lowest FREE block from `b` on, of `n`. -/
def State.freeFrom (s : State) (c w b : Nat) : Nat → State × (Flt ⊕ Option Nat)
  | 0 => (s, .inr none)
  | n + 1 => match s.metaGet c w (blockOff b) with
    | (s, .inl f) => (s, .inl f)
    | (s, .inr e) => if bf e 55 52 = 0 then (s, .inr (some b)) else s.freeFrom c w (b + 1) n

/-- Allocate in the open block of a core's cluster (R151): the virtual address, or none. A block that OPEN names and that is not in
state OPEN takes no object. -/
def State.holdAlloc (s : State) (c w bytes : Nat) : State × (Flt ⊕ Option Nat) :=
  if s.holdBlocks w = 0 ∨ blockSize < bytes then (s, .inr none)
  else match s.metaGet c w (0x100 + cluOf c * 8) with
    | (s, .inl f) => (s, .inl f)
    | (s, .inr op) =>
      let b := bf op 43 25
      let o := bf op 24 0
      match (if b = 0 then (s, .inr 0) else s.metaGet c w (blockOff b)) with
      | (s, .inl f) => (s, .inl f)
      | (s, .inr e) =>
        let open_ : Bool := b != 0 && bf e 55 52 == 1
        if open_ ∧ o + bytes ≤ blockSize then (s.openAt c w b o bytes, .inr (some (holdVa (b * blockSize + o))))
        else match s.freeFrom c w 1 (s.holdBlocks w - 1) with
          | (s, .inl f) => (s, .inl f)
          | (s, .inr none) => (s, .inr none)
          | (s, .inr (some n)) =>
            let s := if open_ then s.setBlock c w b 2 else s
            (s.openAt c w n 0 bytes, .inr (some (holdVa (n * blockSize))))

/-! ### Promotion (R157 to R160) -/

/-- Read `n` consecutive words as they stand. -/
def State.loadN (s : State) (c va : Nat) : Nat → State × (Flt ⊕ List Word)
  | 0 => (s, .inr [])
  | n + 1 => match s.load1 c va with
    | (s, .inl f) => (s, .inl f)
    | (s, .inr w) => match s.loadN c (va + 8) n with
      | (s, .inl f) => (s, .inl f)
      | (s, .inr ws) => (s, .inr (w :: ws))

/-- A pointer into a frame heap. -/
def frameRef (w : Word) : Bool := isObject (tagOf w) && !malformed w && isFrameVa (pay w)

/-- What one pointer of the graph leads to: the words of its object, or where its FWD leads. A header is checked as R145 states. -/
def State.readObj (s : State) (c : Nat) (p : Word) (left : Nat) : State × (Flt ⊕ (Option Nat × List Word)) :=
  match s.load1 c (pay p) with
  | (s, .inl f) => (s, .inl f)
  | (s, .inr h) =>
    if tagOf h = tFwd then (s, .inr (some (pay h), []))
    else if tagOf p ≠ tCons ∧ headerOk (tagOf p) h = false then (s, .inl (flt xTag cHeader))
    else
      let n := if tagOf p = tCons then 2 else headLen h + 1
      if left < n then (s, .inl (flt xEscape 1))
      else match s.loadN c (pay p) n with
        | (s, .inl f) => (s, .inl f)
        | (s, .inr ws) => (s, .inr (none, ws))

/-- Trace the graph (R158 step 1): objects met, forwardings met, words left of 4,096. -/
def State.trace (s : State) (c fuel : Nat) (todo : List Word) (objs : List Obj) (fwds : List (Nat × Nat)) (left : Nat) :
    State × (Flt ⊕ (List Obj × List (Nat × Nat))) :=
  match fuel, todo with
  | 0, _ => (s, .inr (objs, fwds))
  | _, [] => (s, .inr (objs, fwds))
  | fuel + 1, p :: rest =>
    if objs.any (fun o => o.va == pay p) || fwds.any (fun f => f.1 == pay p) then s.trace c fuel rest objs fwds left
    else match s.readObj c p left with
      | (s, .inl f) => (s, .inl f)
      | (s, .inr (some t, _)) => s.trace c fuel rest objs ((pay p, t) :: fwds) left
      | (s, .inr (none, ws)) =>
        s.trace c fuel (rest ++ ws.filter frameRef) (objs ++ [{ va := pay p, tag := tagOf p, words := ws }]) fwds (left - ws.length)

/-- Bytes that an object of `n` words takes in a heap. -/
def objBytes (n : Nat) : Nat := (n + 1) / 2 * 16

/-- Allocate the copies (R158 step 3): (original, copy) pairs, or none when no block is left. -/
def State.placeAll (s : State) (c w : Nat) : List Obj → List (Nat × Nat) → State × (Flt ⊕ Option (List (Nat × Nat)))
  | [], acc => (s, .inr (some acc))
  | o :: l, acc => match s.holdAlloc c w (objBytes o.words.length) with
    | (s, .inl f) => (s, .inl f)
    | (s, .inr none) => (s, .inr none)
    | (s, .inr (some a)) => s.placeAll c w l ((o.va, a) :: acc)

/-- A pointer into the graph is rewritten to its copy. -/
def rewrite (m : List (Nat × Nat)) (w : Word) : Word :=
  if frameRef w then match m.find? fun e => e.1 == pay w with
    | some e => ptrW (tagOf w) e.2
    | none => w
  else w

/-- The word that a copy holds for a word of its original: a header gets FLAGS.HOLD (R158 step 3). -/
def copyWord (m : List (Nat × Nat)) (head : Bool) (v : Word) : Word :=
  if head && tagOf v == tFix then setBf v 39 39 1 else rewrite m v

/-- The words of an original that FWD words are to replace, in order. -/
def fwdWords (m : List (Nat × Nat)) (o : Obj) : List FwdWord :=
  match m.find? fun e => e.1 == o.va with
  | none => []
  | some e => (List.range o.words.length).map fun i =>
      { va := o.va + 8 * i, copy := e.2 + 8 * i, val := o.words.getD i 0, head := i == 0 && o.tag != tCons }

/-- Write one word of a copy. -/
def State.copyPut (s : State) (c w : Nat) (m : List (Nat × Nat)) (f : FwdWord) : State :=
  s.storeOut c (s.holdPa w (f.copy - holdVa 0)) (copyWord m f.head f.val)

/-- Promotion up to its copies (R158 steps 1 to 3) after the fence of step 4: the state in which the originals are to be forwarded. -/
def State.promBegin (s : State) (c : Nat) (p : Word) (ta pa : Nat) : State × (Flt ⊕ PromSt) :=
  let w := s.world_ c
  let s := (s.drainAll c (s.core c).cur).bump (oUcs 0x100)
  match s.trace c 10000 [p] [] [] 4096 with
  | (s, .inl f) => (s, .inl f)
  | (s, .inr (objs, fwds)) =>
    match s.placeAll c w objs [] with
    | (s, .inl f) => (s, .inl f)
    | (s, .inr none) => (s, .inl (flt xEscape 2))
    | (s, .inr (some m)) =>
      let m := m ++ fwds
      let todo := objs.flatMap (fwdWords m)
      let s := todo.foldl (fun s f => s.copyPut c w m f) s
      (s.spend c 80, .inr { va := ta, pa := pa, word := rewrite m p, map := m, todo := todo, tries := 0, writes := [] })

/-- The first word left becomes a FWD word, if it still holds the value copied; else the new value goes into the copy, and the answer
says so. The sixteenth failure on one word is an escape fault with cause CONTENDED (R159). -/
def State.promWord (s : State) (c : Nat) (p : PromSt) : State × (Flt ⊕ (PromSt × Bool)) :=
  match p.todo with
  | [] => (s, .inr (p, false))
  | f :: rest =>
    match s.translate c (s.world_ c) true .load f.va with
    | (s, .inl e) => (s, .inl e)
    | (s, .inr pa) =>
      let v := mrdW pa s.mem
      if v = f.val then (s.storeOut c pa (ptrW tFwd f.copy), .inr ({ p with todo := rest, tries := 0 }, false))
      else if 15 ≤ p.tries then (s, .inl (flt xEscape 3))
      else
        let g : FwdWord := { f with val := v }
        (s.copyPut c (s.world_ c) p.map g, .inr ({ p with todo := g :: rest, tries := p.tries + 1 }, true))

/-- Forward up to `n` words; a failed compare ends the stretch. -/
def State.promWords (s : State) (c : Nat) : Nat → PromSt → State × (Flt ⊕ PromSt)
  | 0, p => (s, .inr p)
  | n + 1, p => match (s.spend c (if p.todo = [] then 0 else 6)).promWord c p with
    | (s, .inl f) => (s, .inl f)
    | (s, .inr (p, true)) => (s, .inr p)
    | (s, .inr (p, false)) => s.promWords c n p

/-! ### Stores (R155 to R164) -/

/-- Outcome of a store. -/
inductive Sto where
  | ok
  | bad (f : Flt)
  /-- The context waits for the host (R161). -/
  | wait
  /-- The promotion stands at a safe point (R160, R416). -/
  | busy (p : PromSt)
  deriving DecidableEq, Repr

/-- Source checks of a store (R164 step 1); window-trap spills are exempt from R124, R125 and R156 (R252). -/
def storeSrc (w : Word) (exempt : Bool) : Option Nat :=
  if exempt then (if malformed w then some cMalformed else none)
  else match readCause w with
    | some c => some c
    | none => if tagOf w = tFwd then some cFwdSource else if malformed w then some cMalformed else none

/-- One hop of a store's forwarding: a fault, the FWD's address, or the final virtual and physical address. Beyond installed memory the
store is a DATA_ERROR (R300). A target word that no reader could read forwards nothing (log entry 108). -/
def State.storeHop (s : State) (c va : Nat) : State × (Flt ⊕ (Nat ⊕ (Nat × Nat))) :=
  match s.translate c (s.world_ c) (s.sup c) .store va with
  | (s, .inl f) => (s, .inl f)
  | (s, .inr pa) =>
    if isDevice pa then (s, .inr (.inr (va, pa)))
    else if pa < 0x100000000000 ∧ s.stacks * stackSize ≤ pa then (s, .inl (dataError (4, 0xFF * 8) va))
    else
      let w := s.seen c pa
      if tagOf w = tFwd ∧ (s.fillErr (cluOf c) pa).isNone then
        (if malformed w then (s, .inl (flt xTag cMalformed)) else (s, .inr (.inl (pay w))))
      else (s, .inr (.inr (va, pa)))

/-- The final target of a store after at most `n` FWD words (R155). -/
def State.storeTarget (s : State) (c va : Nat) : Nat → State × (Flt ⊕ (Nat × Nat))
  | 0 => match s.storeHop c va with
    | (s, .inl f) => (s, .inl f)
    | (s, .inr (.inl _)) => (s, .inl (flt xTag cFwdChain))
    | (s, .inr (.inr r)) => (s, .inr r)
  | n + 1 => match s.storeHop c va with
    | (s, .inl f) => (s, .inl f)
    | (s, .inr (.inl v)) => s.storeTarget c v n
    | (s, .inr (.inr r)) => (s, .inr r)

/-- The running slice's mark lets a provisional store reach an address (R162). -/
def State.provOk (s : State) (c va : Nat) : Bool :=
  let k := cluOf c
  match (s.core c).me.prog with
  | none => false
  | some key => match s.slice k key with
    | none => false
    | some x =>
      let b := frameVa k
      let ch := va / 65536 * 65536
      decide (b ≤ va ∧ va < b + s.frameSize (cluOf c) (s.world_ c)) && ((x.markChunk != 0 && ch == x.markChunk && decide (x.mark ≤ va)) || x.taken.contains ch)

/-- A window-overflow spill above the checkpoint's depth (R163). -/
def State.spillOk (s : State) (c va : Nat) : Bool :=
  match (s.core c).trap with
  | none => false
  | some t =>
    let x := s.core c
    let sp := s.reg (oSpill c x.cur t.world)
    let base := bf sp 46 14 * 2 ^ 14
    let from_ := match x.me.prog with
      | none => 0
      | some key => match s.slice (cluOf c) key with
        | none => 0
        | some z => match z.ckpt with
          | some q => q.depth
          | none => 0
    t.kind == 1 && decide (base + from_ * 64 ≤ va ∧ va < base + 2 ^ 14 * 2 ^ (bf sp 3 0))

/-- UNIT of a context's work item (Table 14.8). -/
def haUnit (c j : Nat) : Nat := c * 32768 + j * 8192

/-- The running word waits for the host's answer on function `f` (R161, R468): its context waits, or in the bank and in a trap window,
which never give the core away, the core. The bank's wait is kept as that of a fifth context. -/
def State.suspend (s : State) (c f op rd ply : Nat) (ws : List Word) : State :=
  let x := s.core c
  let key := if x.bankOn then 4 else x.cur
  let job := (s.haFn f).next
  let s := s.haSend f op (haUnit c x.cur) (s.haDeadline f none) ws
  let s := s.setCtx c key { s.ctx c key with
    susp := some { func := f, job := job, rd := rd, ply := ply, parts := [], writes := [], next := none, s6 := none } }
  if x.bankOn || x.trap.isSome then s.setCore c { s.core c with hostWait := true } else s.stopCtx c x.cur 1 3

/-- Put a checked store into the queue; a full queue first releases its oldest store (R215, R275, R301, R317). -/
def State.enqueue (s : State) (c pa : Nat) (w : Word) : State :=
  let s := s.unblock c
  let j := (s.core c).cur
  if isDevice pa then (s.drainAll c j).devWrite pa w
  else
    let s := if 16 ≤ (s.ctx c j).storeQ.length then (s.releaseAny c j).stall c else s
    let y := s.ctx c j
    s.setCtx c j { y with storeQ := y.storeQ ++ [(pa, w)] }

/-- One stretch of a promotion, then the store if every original is forwarded (R158 step 4, R416). -/
def State.promLeg (s : State) (c n : Nat) (p : PromSt) : State × Sto :=
  match s.promWords c n p with
  | (s, .inl f) => (s, .bad { f with va := if f.va = 0 then p.va else f.va })
  | (s, .inr q) => if q.todo = [] then (s.enqueue c q.pa q.word, .ok) else (s, .busy q)

/-- A store of a checked source word at a virtual address (R164 steps 2 to 5). -/
def State.storeW (s : State) (c va : Nat) (w : Word) : State × Sto :=
  match s.storeTarget c va 8 with
  | (s, .inl f) => (s, .bad f)
  | (s, .inr (ta, pa)) =>
    if stProv (s.st c) = 1 ∧ s.provOk c ta = false ∧ s.spillOk c ta = false then
      (s, .bad { cls := xProvStore, cause := 0, detail := 0, va := ta })
    else if isObject (tagOf w) && isFrameVa (pay w) && isHoldVa ta then
      if s.haOn 4 0 then (s.suspend c 4 0 0 0 [fixN ta, w, BitVec.ofNat 64 (s.world_ c)], .wait)
      else match s.promBegin c w ta pa with
        | (s, .inl f) => (s, .bad { f with va := if f.va = 0 then ta else f.va })
        | (s, .inr p) => s.promLeg c 29 p
    else (s.enqueue c pa w, .ok)

end Sys2Proof.Machine
end

