-- ==== Sys2Proof/Machine/Micro.lean ====
section
/-! DEFINITION. Microcode routines: safe points and micro-resume records (R415 to R420), generic slow paths, BOX operands and results,
customer routines (R140, R227, R421 to R423, R434). -/

namespace Sys2Proof.Machine

/-! ### What an operation answers -/

/-- Register writes and loads of one operation. -/
structure Eff where
  writes : List (Nat × Word)
  loads : List (Nat × Word)
  deriving DecidableEq, Repr

/-- Answer of one operation, long or short: its effect, not yet written to registers; a fault; or the word has left the core's
hands. -/
inductive Op where
  | ok (s : State) (e : Eff)
  | bad (s : State) (f : Flt)
  | taken (s : State)
  deriving DecidableEq, Repr

/-- Write the registers of an effect. -/
def State.apply (s : State) (c : Nat) (e : Eff) : State := e.writes.foldl (fun s w => s.rput c w.1 w.2) s

/-- An operation that is a whole word. -/
def Op.toRes (c : Nat) : Op → Res
  | .ok s e => .ok (s.apply c e) .seq e.loads
  | .bad s f => .bad s f
  | .taken s => .taken s

/-- Result in one register, by specifier. -/
def State.result (s : State) (c rd : Nat) (w : Word) : Op :=
  .ok s { writes := ((s.core c).key rd).toList.map fun k => (k, w), loads := [] }

/-- Issue a word that is one operation and reads the registers `uses`; a bad register specifier or field is illegal (R167, R203). -/
def State.issueOp (s : State) (c : Nat) (legal : Bool) (uses : List Reg5) (n : Nat) (body : State → Op) : State :=
  s.issue c { legal := legal, uses := uses } n fun s => if legal then (body s).toRes c else .bad s (flt xIllegalInstr 0)

/-! ### Safe points (R416 to R419) -/

/-- A held handler or window trap runs, or the word is a load slot, in a .S slot or after a write of ST (R235). -/
def State.noRecog (s : State) (c : Nat) : Bool :=
  let x := s.core c
  let f := x.flow
  x.bankOn || x.trap.isSome || stHeld x.st == 1 || !f.pend.isEmpty || !f.aLoads.isEmpty || f.branch.isSome || f.afterSt

/-- The hold limit has been reached (R267). -/
def State.holdLimit (s : State) (c : Nat) : Nat := max 64 (min 65536 (s.field (oClu (cluOf c) 0x2020) 16 0))

def State.holdOut (s : State) (c : Nat) : Bool :=
  let x := s.core c
  stHeld x.st == 1 && decide (s.holdLimit c ≤ s.since c x.holdAt)

/-- A READY context that would preempt the running one (R234): it has a pending interrupt and the running one has none, or the cut-off
of its slice lies earlier by more than MARGIN. -/
def State.preempts (s : State) (c j : Nat) : Bool :=
  let me := (s.core c).cur
  let r := s.rank c j
  let q := s.rank c me
  let m := s.field (oCore c 0x18) 15 0
  s.ready c j && decide (j ≠ me) &&
    (decide (r.1 = 0 ∧ q.1 ≠ 0) || (m != 0xFFFF && (match s.sliceCut c j, s.sliceCut c me with
      | some a, some b => decide (a + m * 1280000 < b)
      | _, _ => false)))

/-- The word's routine goes on from a safe point only when no condition of R416 holds: 1 unravel, 2 time-out, 3 hold limit, 4 interrupt or preemption. -/
def State.safeStop (s : State) (c : Nat) : Option Nat :=
  let x := s.core c
  let k := cluOf c
  let late : Bool := match x.me.prog with
    | some key => (match s.slice k key with
      | some z => z.late
      | none => false)
    | none => false
  let out : Bool := match x.me.prog with
    | some key => decide (s.cutoffT (s.sliceAfter k key - 1) ≤ s.now)
    | none => false
  if late && !s.noRecog c then some 1
  else if out then some 2
  else if s.holdOut c then some 3
  else if !s.noRecog c && ((s.irqNext c x.cur).isSome || [0, 1, 2, 3].any fun j => s.preempts c j) then some 4
  else none

/-- The micro-resume record of the word (R419). -/
def State.recordHere (s : State) (c : Nat) (ply : Bool) : Option MicroRec :=
  let y := (s.core c).me
  y.micro.find? fun m => m.pc == y.flow.pc && m.ply == ply && m.level == y.level

/-- The word goes on with a routine of its own: one that stands at a safe point, or one that a record holds. -/
def State.resumable (s : State) (c : Nat) (ply : Bool) : Bool := (s.flow c).run.isSome || (s.recordHere c ply).isSome

/-- How a word's routine starts or goes on. -/
inductive Resume where
  | fresh
  | at_ (s : State) (r : MicroRec)
  /-- A condition of R416 holds: the routine stands at its safe point until the event is taken. -/
  | stands (s : State)
  deriving DecidableEq, Repr

/-- A routine that stands at a safe point goes on unless a condition of R416 holds; one that a record holds is resumed with the saved
operands (R419, R420), and s6 as it is then is what a fault of it restores (R415, log entry 76). -/
def State.resumeHere (s : State) (c : Nat) (ply : Bool) : Resume :=
  match (s.flow c).run with
  | some r => if (s.safeStop c).isSome then .stands s else .at_ (s.setRun c none) r
  | none =>
    let y := (s.core c).me
    match s.recordHere c ply with
    | some m =>
      .at_ ((s.setMe c { y with micro := y.micro.filter fun r => decide (r ≠ m) }).bump (oUcs 0x108))
        { m with temps := s.rget c 22 :: m.temps.drop 1 }
    | none => .fresh

/-- Micro-resume state at the start of a routine: s6 as it was before the word stands in the first temporary. -/
def State.freshRec (s : State) (c maddr : Nat) (ply : Bool) (ops : List Word) : MicroRec :=
  { pc := (s.flow c).pc, ply := ply, level := (s.core c).me.level, maddr := maddr, temps := [s.rget c 22], operands := ops, stack := [],
    left := 0, prom := none }

/-- A routine that faults leaves s6 as it was before the word (R415). -/
def Op.keepS6 (c : Nat) (v : Word) : Op → Op
  | .bad s f => .bad (s.rset c 22 v) f
  | .taken s => .taken (s.setRun c ((s.flow c).run.map fun r => { r with temps := v :: r.temps.drop 1 }))
  | r => r

/-- What a stretch of a routine between two safe points leads to (R416): it goes on, or it ends. -/
inductive Leg where
  | on (s : State) (r : MicroRec)
  | fin (r : Op)
  deriving DecidableEq, Repr

/-- The answer of a stretch of a routine that began with the state `r`. -/
def Leg.toOp (c : Nat) (r : MicroRec) : Leg → Op
  | .on s q => .taken (s.setRun c (some q))
  | .fin o => o.keepS6 c (r.temps.headD 0)

/-- A promotion goes on from a safe point; the word ends when the store has been made (R158 step 4, R160). -/
def State.promOn (s : State) (c : Nat) (r : MicroRec) (p : PromSt) : Leg :=
  match s.promLeg c 42 p with
  | (s, .ok) => .fin (.ok s { writes := p.writes, loads := [] })
  | (s, .bad f) => .fin (.bad s f)
  | (s, .wait) => .fin (.taken s)
  | (s, .busy q) => .on s { r with prom := some q }

/-- Run one stretch of a microcode routine (R415, R416): from its start, or from its safe point. -/
def State.routine (s : State) (c : Nat) (ply : Bool) (ops : List Word) (go : State → MicroRec → Leg) : Op :=
  match s.resumeHere c ply with
  | .stands s => .taken s
  | .at_ s r => (match r.prom with
    | some p => s.promOn c r p
    | none => go s r).toOp c r
  | .fresh => (go (s.bump (oUcs 0x100)) (s.freshRec c 0 ply ops)).toOp c (s.freshRec c 0 ply ops)

/-- A word whose store runs a promotion goes on with that; any other does its own work. -/
def State.storing (s : State) (c : Nat) (ply : Bool) (work : State → Op) : Op :=
  if s.resumable c ply then s.routine c ply [] fun s _ => .fin (work s) else work s

/-- A routine of `cost` cycles pays them in stretches of 256, then does its work (R416, Table 13.3). `left` is what it has still to
pay; `cost` is asked for at the start. -/
def State.paid (s : State) (c : Nat) (r : MicroRec) (cost : State → State × (Flt ⊕ Nat)) (work : State → Op) : Leg :=
  if r.left = 0 then
    match cost s with
    | (s, .inl f) => .fin (.bad s f)
    | (s, .inr n) => if n ≤ 256 then .fin (work (s.spend c n)) else .on (s.spend c 256) { r with left := n - 256 }
  else if 256 < r.left then .on (s.spend c 256) { r with left := r.left - 256 }
  else .fin (work (s.spend c r.left))

/-! ### BOX operands and results (R131, R132, R143, R144) -/

/-- Limbs of a natural number, least significant first. -/
def limbs (fuel n : Nat) : List Nat :=
  match fuel with
  | 0 => []
  | fuel + 1 => if n = 0 then [] else n % 2 ^ 32 :: limbs fuel (n / 2 ^ 32)

/-- Number of limbs of an integer. -/
def limbCount (i : Int) : Nat := if i = 0 then 0 else i.natAbs.log2 / 32 + 1

/-- Natural number of limbs. -/
def ofLimbs (l : List Nat) : Nat := l.foldr (fun d n => n * 2 ^ 32 + d) 0

/-- Limbs of the magnitude of an integer. -/
def limbsOf (i : Int) : List Nat := limbs (limbCount i) i.natAbs

/-- Read the words of an object with the read barrier. -/
def State.loadWs (s : State) (c va : Nat) : Nat → State × (Flt ⊕ List Word)
  | 0 => (s, .inr [])
  | n + 1 => match s.loadW c va with
    | (s, .inl f) => (s, .inl f)
    | (s, .inr w) => match s.loadWs c (va + 8) n with
      | (s, .inl f) => (s, .inl f)
      | (s, .inr ws) => (s, .inr (w :: ws))

/-- A numeric operand (R131). -/
def State.readNum (s : State) (c : Nat) (w : Word) : State × (Flt ⊕ Num) :=
  if tagOf w = tFix then (s, .inr (.int (fixI w) false))
  else if tagOf w = tSflt then (s, .inr (.flt (fdec (pay w * 256)) false))
  else match s.header c w with
    | (s, .inl f) => (s, .inl f)
    | (s, .inr h) =>
      match s.loadWs c (pay w + 8) (if bf h 51 48 = 0 then 2 else headLen h) with
      | (s, .inl f) => (s, .inl f)
      | (s, .inr ws) =>
        if bf h 51 48 = 0 then
          (s, .inr (.flt (fdec (bf (ws.getD 0 0) 31 0 * 2 ^ 32 + bf (ws.getD 1 0) 31 0)) true))
        else (s, .inr (.int (sgn (bf (ws.getD 0 0) 0 0 == 1) (ofLimbs ((ws.drop 1).map fun l => bf l 31 0))) true))

/-- Allocate an object and write its words. -/
def State.newObj (s : State) (c tag : Nat) (ws : List Word) : State × (Flt ⊕ Word) :=
  match s.alloc c ws.length with
  | (s, .inl f) => (s, .inl f)
  | (s, .inr a) => (s.putObj c a ws, .inr (ptrW tag a))

/-- A NaN: its sign and fraction are open. -/
def nanBits (f : Word) : Nat := f.toNat % 2 * 2 ^ 63 + 2047 * 2 ^ 52 + (f.toNat / 2 % (2 ^ 44 - 1) + 1) * 256

/-- binary64 bits of a result. -/
def State.bits64 (s : State) (v : FVal) : State × Nat :=
  if v = .nan then (s.useFree, nanBits s.freeVal) else (s, fbits v)

/-- An SFLT word of a value (R131). -/
def State.sfltW (s : State) (v : FVal) : State × Word :=
  let r := s.bits64 v
  (r.1, mkTag tSflt (sfltPay r.2))

/-- Words of a bignum object. -/
def bigObj (i : Int) : List Word :=
  let l := limbsOf i
  headW 2 1 (l.length + 1) :: fixN (b2n (decide (i < 0))) :: l.map fixN

/-- Words of the object of a result: one of more limbs than a bignum has room for (Table 4.11) is a bignum of full length whose sign
and limbs are free (log entry 24). -/
def State.bigWords (s : State) (i : Int) : State × List Word :=
  if limbCount i ≤ 4095 then (s, bigObj i)
  else
    let f := fun (n : Nat) => (Config.freeWord (s.free + n)).toNat
    ({ s with free := s.free + 4096 },
      headW 2 1 4096 :: fixN (f 0 % 2) :: ((List.range 4094).map fun n => fixN (f (n + 1) % 2 ^ 32)) ++ [fixN (1 + f 4095 % (2 ^ 32 - 1))])

/-- The word of a numeric result, allocated where it is a BOX (R131, R132). -/
def State.numWord (s : State) (c : Nat) (r : NumRes) : State × (Flt ⊕ Word) :=
  match r with
  | .int i =>
    if inFix i then (s, .inr (fixW i))
    else
      let r := s.bigWords i
      r.1.newObj c tBox r.2
  | .sflt v =>
    let r := s.sfltW v
    (r.1, .inr r.2)
  | .b64 v =>
    let r := s.bits64 v
    r.1.newObj c tBox [headW 2 0 2, fixN (r.2 / 2 ^ 32), fixN (r.2 % 2 ^ 32)]

/-! ### Customer routines -/

/-- A microword of the control store; none is the halt microword of an unfilled word (R412). -/
def State.microword (s : State) (m : Nat) : Option (BitVec 144) :=
  if m < 0x6000 then
    match sget 0 m s.ucode.patch with
    | 0 => some (Config.romWord m)
    | p => sget none p s.ucode.ram
  else sget none m s.ucode.ram

/-- Bits of a microword. -/
def mbf (w : BitVec 144) (hi lo : Nat) : Nat := w.toNat / 2 ^ lo % 2 ^ (hi + 1 - lo)

def inCustomer (m : Nat) : Bool := decide (0x7800 ≤ m ∧ m ≤ 0x7FFF)

/-- Service entries (Table 13.4). -/
def isService (m : Nat) : Bool := [0x10, 0x18, 0x20, 0x28, 0x30, 0x38].contains m

/-- A fault of the sequencer (R422), counted (Table 13.13). -/
def State.seqFault (s : State) (code m : Nat) : Op :=
  .bad (s.bump (oUcs 0x118)) { cls := xIllegalOp, cause := 0, detail := code * 2 ^ 30 + m % 32768 * 2 ^ 15, va := 0 }

/-- Microaddress that the customer dispatch table binds for an operation and a tag (R434). -/
def State.dispatchOf (s : State) (op tag : Nat) : Option Nat :=
  let x := op * 48 + (tag - 0xC0)
  match sget none (0x7800 + x / 8) s.ucode.ram with
  | none => none
  | some w =>
    let e := mbf w (16 * (x % 8) + 15) (16 * (x % 8))
    if e < 32768 ∨ inCustomer (e % 32768) = false then none else some (e % 32768)

/-! ### Generic operations (R130 to R140): 0 ADD, 1 SUB, 2 MUL, 3 CMP, 4 MIN, 5 MAX -/

/-- Word of a comparison: FIX −1, 0, +1, or NIL. -/
def cmpWord : Option Int → Word
  | some i => fixW i
  | none => nilW

/-- MIN and MAX by a comparison (R138). -/
def pick (op : Nat) (a b : Word) (r : Option Int) : Word :=
  match r with
  | none => a
  | some i => if op = 4 then (if i ≤ 0 then a else b) else (if 0 ≤ i then a else b)

/-- The slow path is needed: a BOX, an SFLT on a general core, or an overflow of FIX arithmetic (Tables 4.5, 6.2). -/
def slowNum (c op : Nat) (a b : Word) : Bool :=
  let sf := tagOf a = tSflt ∨ tagOf b = tSflt
  tagOf a = tBox || tagOf b = tBox || (decide sf && !isFit c) ||
    (!decide sf && decide (op < 3) && match numOp op (.int (fixI a) false) (.int (fixI b) false) with
      | .int i => !inFix i
      | _ => false)

/-- Result of a numeric generic operation on decoded operands. -/
def State.numResult (s : State) (c op : Nat) (a b : Word) (x y : Num) : State × (Flt ⊕ Word) :=
  if op < 3 then s.numWord c (numOp op x y)
  else (s, .inr (if op = 3 then cmpWord (numCmp x y) else pick op a b (numCmp x y)))

/-- Cost of a slow path (Table 13.3). -/
def slowCost (op : Nat) (x y : Num) : Nat :=
  match x, y with
  | .int i p, .int j q =>
    if p ∨ q then (if op = 2 then 32 + limbCount i * limbCount j else 24 + 2 * max (limbCount i) (limbCount j)) else 40
  | .flt _ false, .flt _ false => if op < 3 then 28 else 18
  | .flt _ false, .int _ _ => if op < 3 then 28 else 18
  | .int _ _, .flt _ false => if op < 3 then 28 else 18
  | _, _ => 36

/-- Write the result of a state-and-word pair. -/
def opOf (c rd : Nat) (r : State × (Flt ⊕ Word)) : Op :=
  match r with
  | (s, .inl f) => .bad s f
  | (s, .inr w) => s.result c rd w

/-- The word of a conversion (R131, R209): 6 CVTF, 7 CVTI. A bignum operand of CVTI fails its header check (log entry 24). -/
def State.convert (s : State) (c op : Nat) (x : Num) : State × (Flt ⊕ Word) :=
  if op = 6 then s.numWord c (.sflt x.val)
  else match x with
    | .int _ _ => (s, .inl (flt xTag cHeader))
    | .flt v _ => match ftrunc v with
      | none => (s, .inr nilW)
      | some i => s.numWord c (.int i)

/-- Both operands of a slow path, the second of a conversion being none. -/
def State.slowOps (s : State) (c op : Nat) (a b : Word) : State × (Flt ⊕ (Num × Num)) :=
  match s.readNum c a with
  | (s, .inl f) => (s, .inl f)
  | (s, .inr x) =>
    if 6 ≤ op then (s, .inr (x, x))
    else match s.readNum c b with
      | (s, .inl f) => (s, .inl f)
      | (s, .inr y) => (s, .inr (x, y))

/-- Cost of a slow path; that of a conversion is 18 on a general core, and on a fit core, where no table gives it, free (Table 13.3). -/
def State.slowCycles (s : State) (c op : Nat) (a b : Word) : State × (Flt ⊕ Nat) :=
  match s.slowOps c op a b with
  | (s, .inl f) => (s, .inl f)
  | (s, .inr (x, y)) =>
    if op < 6 then (s, .inr (slowCost op x y))
    else match x with
      | .flt _ true => (s, .inr 36)
      | _ => if isFit c then (s.useFree, .inr (s.freeVal.toNat % 257)) else (s, .inr 18)

/-- The work of a slow path: 0 ADD to 5 MAX, 6 CVTF, 7 CVTI. -/
def State.slowWork (s : State) (c op rd : Nat) (a b : Word) : Op :=
  match s.slowOps c op a b with
  | (s, .inl f) => .bad s f
  | (s, .inr (x, y)) => opOf c rd (if 6 ≤ op then s.convert c op x else s.numResult c op a b x y)

/-- The routine of a slow path (R415, R416, R420). -/
def State.slowRoutine (s : State) (c op rd : Nat) (ply : Bool) (a b : Word) : Op :=
  s.routine c ply [a, b] fun s r =>
    let x := r.operands.getD 0 0
    let y := r.operands.getD 1 0
    s.paid c r (fun s => s.slowCycles c op x y) fun s => s.slowWork c op rd x y

/-- The slow path of an operation: the host's in F7 host-assisted mode (Table 14.9), else the routine. -/
def State.slowPath (s : State) (c op rd ply : Nat) (a b : Word) : Op :=
  if s.haOn 7 0 then .taken (s.suspend c 7 0 (((s.core c).key rd).getD 0) ply [BitVec.ofNat 64 op, a, b])
  else s.slowRoutine c op rd (decide (ply = 2)) a b

/-- Non-numeric operands (Tables 4.6 to 4.9). -/
def timeGeneric (op : Nat) (a b : Word) : Word ⊕ Nat :=
  if op < 3 then timeArith op a b
  else if op = 3 then (match timeCmp a b with
    | some i => .inl (fixW i)
    | none => .inr cNoComb)
  else if minMaxBars a b then .inr cNoComb
  else match timeCmp a b with
    | some i => .inl (pick op a b (some i))
    | none => .inr cNoComb

/-! ### The sequencer on customer microwords (R413, R416, R421 to R423) -/

/-- Bits of a fresh free value, below `n`. -/
def State.pickFree (s : State) (n : Nat) : State × Nat := (s.useFree, s.freeVal.toNat % n)

/-- Where a customer routine stands: its next microword, its micro-return stack (an entry with bit 15 set ends the routine that
SVC_GENERIC called), and microcycles since its start or its last safe point. -/
structure MicroAt where
  m : Nat
  stack : List Nat
  since : Nat
  deriving DecidableEq, Repr

/-- What one microword of a customer routine leads to. -/
inductive MicroStep where
  | on (s : State) (x : MicroAt)
  | stop (r : Op)
  deriving DecidableEq, Repr

/-- Micro-return; with an empty stack the next microaddress is open. -/
def State.microReturn (s : State) (x : MicroAt) : MicroStep :=
  match x.stack with
  | a :: rest => .on s { x with m := a % 32768, stack := rest }
  | [] =>
    let r := s.pickFree 2048
    .on r.1 { x with m := 0x7800 + r.2 }

/-- The microword after this one; that after the last of the region is open. -/
def State.microNext (s : State) (x : MicroAt) : MicroStep :=
  if x.m < 0x7FFF then .on s { x with m := x.m + 1 }
  else
    let r := s.pickFree 2048
    .on r.1 { x with m := 0x7800 + r.2 }

/-- Go to a microaddress; `call` pushes the microword after this one, at most 4 deep (R421). -/
def State.microGo (s : State) (x : MicroAt) (t : Nat) (call : Bool) : MicroStep :=
  if call = false then .on s { x with m := t }
  else if 4 ≤ x.stack.length then .stop (s.seqFault 4 x.m)
  else .on s { x with m := t, stack := (x.m + 1) % 32768 :: x.stack }

/-- Check a raw address: alignment, then the base (R182, R183, R308); an address past the 47 bits is out of range too (log entry 26). -/
def rawAddr (st : Bool) (base a : Int) : Flt ⊕ Nat :=
  let va := lowBits 47 a
  let bad := base < 0 ∨ (2 : Int) ^ 47 ≤ base ∨ a < 0 ∨ (2 : Int) ^ 47 ≤ a
  if a % 8 ≠ 0 then .inl { cls := xAlign, cause := 0, detail := 0, va := va }
  else if bad then .inl { cls := xDtrans, cause := 5, detail := if st then 4 else 0, va := va }
  else .inr va

/-- A generic operation of SVC_GENERIC on words of standard tags; its result goes to the routine. -/
def State.svcGeneric (s : State) (c op : Nat) (a b : Word) : Op :=
  match genericCause a b with
  | some e => .bad s (flt xTag e)
  | none =>
    if isNum a ∧ isNum b then
      (match s.slowCycles c op a b with
        | (s, .inl f) => .bad s f
        | (s, .inr n) => (s.spend c n).slowWork c op 0 a b)
    else match timeGeneric op a b with
      | .inl _ => .ok s { writes := [], loads := [] }
      | .inr e => .bad s (flt xTag e)

/-- A word that a customer routine returns must not be reserved, UNINIT or FWD (R140, R227). -/
def badResult (v : Word) : Bool := isReserved (tagOf v) || tagOf v == tUninit || tagOf v == tFwd

/-- SVC_RETURN: the result latch holds an open word. -/
def State.svcReturn (s : State) (c rd : Nat) (x : MicroAt) : MicroStep :=
  let v := s.freeVal
  let s := s.useFree.spend c 2
  if badResult v then .stop (.bad s (flt xTag cCustom))
  else match x.stack.dropWhile fun a => decide (a < 32768) with
    | a :: rest => .on s { x with m := a % 32768, stack := rest }
    | [] => .stop (s.result c rd v)

/-- SVC_FAULT: TAG, HEAP or ILLEGAL_OPERATION; the routine gives the cause. -/
def State.svcFault (s : State) (f : Word) : Op :=
  let cls := if f.toNat % 4 = 0 then xTag else if f.toNat % 4 = 1 then xHeap else xIllegalOp
  .bad s.useFree (flt cls (f.toNat / 4 % 256))

/-- SVC_STORE: a store as ST of an open word at an open address. Where it waits for the host or its promotion stands at a safe point,
the routine goes on afterwards behind the service. -/
def State.svcStore (s : State) (c : Nat) (r : MicroRec) (a b : Word) (x : MicroAt) : MicroStep :=
  match storeSrc b false with
  | some e => .stop (.bad s (flt xTag e))
  | none => match rawAddr true (fixI a) (fixI a) with
    | .inl f => .stop (.bad s f)
    | .inr va =>
      let key := if (s.core c).bankOn then 4 else (s.core c).cur
      match s.storeW c va b with
      | (s, .bad f) => .stop (.bad s f)
      | (s, .ok) => s.microReturn x
      | (s, .wait) => (match s.microReturn x with
        | .on s x =>
          let y := s.ctx c key
          .stop (.taken (s.setCtx c key { y with
            susp := y.susp.map fun z => { z with next := some { r with maddr := x.m, stack := x.stack } } }))
        | t => t)
      | (s, .busy p) => (match s.microReturn x with
        | .on s x => .stop (.taken (s.setRun c (some { r with maddr := x.m, stack := x.stack, prom := some p })))
        | t => t)

/-- A service entry (Table 13.4). The operands that the routine gives it lie where the spec does not say, so they are open; the
service has every effect of its instruction on them. -/
def State.service (s : State) (c rd : Nat) (r : MicroRec) (x : MicroAt) : MicroStep :=
  let a := s.freeVal
  let b := s.useFree.freeVal
  let n := s.useFree.useFree.freeVal
  let s' := (s.useFree.useFree.useFree).spend c 2
  if x.m = 0x38 then s.svcReturn c rd x
  else if x.m = 0x30 then .stop (s.svcFault a)
  else if x.m = 0x28 then
    match genericCause a b with
    | some 0 =>
      (match s'.dispatchOf (n.toNat % 6) (if isCustomer (tagOf a) then tagOf a else tagOf b) with
        | none => .stop (.bad s' (flt xTag cNoComb))
        | some m => if 4 ≤ x.stack.length then .stop (s'.seqFault 4 x.m)
          else
            let back := match x.stack with
              | k :: rest => (k % 32768 + 32768) :: rest
              | [] => [32768 + 0x7800 + n.toNat / 8 % 2048]
            .on (s'.spend c 10) { x with m := m, stack := back })
    | _ => match s'.svcGeneric c (n.toNat % 6) a b with
      | .ok s _ => s.microReturn x
      | q => .stop q
  else if x.m = 0x20 then
    match (s'.spend c 2).alloc c (n.toNat % 131074) with
    | (s, .inl f) => .stop (.bad s f)
    | (s, .inr _) => s.microReturn x
  else if x.m = 0x18 then s'.svcStore c r a b x
  else match rawAddr false (fixI a) (fixI a) with
    | .inl f => .stop (.bad s' f)
    | .inr va => match s'.loadW c va with
      | (s, .inl f) => .stop (.bad s f)
      | (s, .inr _) => s.microReturn x

/-- One microword of the customer region; `stand` says that the routine stops at it if it is a safe point. The spec does not say what
its internal operation and its sources compute, so the outcome of a condition other than "always" is open, and so are the target of a
dispatch and whether TARGET is jumped to or called (log entry 23). -/
def State.microword1 (s : State) (c : Nat) (r : MicroRec) (stand : Bool) (x : MicroAt) : MicroStep :=
  match s.microword x.m with
  | none => .stop (s.seqFault 3 x.m)
  | some w =>
    let seq := mbf w 143 142
    let f := s.pickFree (2 ^ 64)
    let t := if seq = 1 then mbf w 141 127 else f.2 / 4 % 32768
    if mbf w 83 80 ≠ 0 ∨ ((seq = 1 ∨ seq = 2) ∧ inCustomer t = false ∧ isService t = false) then .stop (s.seqFault 2 x.m)
    else
      let safe := mbf w 121 121 = 1
      if safe ∧ stand then .stop (.taken (s.setRun c (some { r with maddr := x.m, stack := x.stack, prom := none })))
      else if ¬ safe ∧ 256 ≤ x.since then .stop (s.seqFault 1 x.m)
      else
        let s := f.1.spend c 1
        let x := { x with since := if safe then 0 else x.since + 1 }
        if seq = 0 ∨ (seq = 1 ∧ mbf w 126 122 ≠ 0 ∧ f.2 % 2 = 0) then s.microNext x
        else if seq = 3 then s.microReturn x
        else s.microGo x t (decide (f.2 / 2 % 2 = 1))

/-- Run a customer routine up to the safe point at which a condition of R416 holds, or to the first one after half of `fuel`; `skip`
passes the safe point at which it was resumed. A safe point comes within 256 microwords (R423), each with at most one service. -/
def State.microRun (fuel : Nat) (s : State) (c rd : Nat) (r : MicroRec) (skip : Bool) (x : MicroAt) : Op :=
  match fuel with
  | 0 => .taken (s.setRun c (some { r with maddr := x.m, stack := x.stack, prom := none }))
  | fuel + 1 =>
    let stand := !skip && (decide (fuel < 1024) || (s.safeStop c).isSome)
    match (if isService x.m then s.service c rd r x else s.microword1 c r stand x) with
    | .stop q => q
    | .on s x => s.microRun fuel c rd r false x

/-- A stretch of a customer routine from micro-resume state `r`. -/
def State.microFrom (s : State) (c rd : Nat) (r : MicroRec) (skip : Bool) : Op :=
  s.microRun 2048 c rd r skip { m := r.maddr, stack := r.stack, since := 0 }

/-- A customer routine from its entry at `m`, from its safe point, or resumed from the word's record (R419, R433); one that faults
leaves s6 as it was (R415). -/
def State.customer (s : State) (c rd m cost : Nat) (ply : Bool) (ops : List Word) : Op :=
  match s.resumeHere c ply with
  | .stands s => .taken s
  | .at_ s r => (match r.prom with
    | some p => (match s.promLeg c 42 p with
      | (s, .ok) => s.microFrom c rd { r with prom := none } true
      | (s, .bad f) => .bad s f
      | (s, .wait) => .taken s
      | (s, .busy q) => .taken (s.setRun c (some { r with prom := some q })))
    | none => s.microFrom c rd r true).keepS6 c (r.temps.headD 0)
  | .fresh =>
    let r := s.freshRec c m ply ops
    (((s.bump (oUcs 0x100)).spend c cost).microFrom c rd r false).keepS6 c (r.temps.headD 0)

/-- The routine that the word goes on with is a customer's. -/
def State.inRoutine (s : State) (c : Nat) (ply : Bool) : Bool :=
  ((s.flow c).run.or (s.recordHere c ply)).any fun r => inCustomer r.maddr || isService r.maddr

/-- One generic operation. -/
def State.generic (s : State) (c op rd ply : Nat) (a b : Word) : Op :=
  let second := decide (ply = 2)
  if s.resumable c second then
    if s.inRoutine c second then s.customer c rd 0 10 second [] else s.slowRoutine c op rd second a b
  else match genericCause a b with
    | some 0 =>
      let t := if isCustomer (tagOf a) then tagOf a else tagOf b
      (match s.dispatchOf op t with
        | none => .bad s (flt xTag cNoComb)
        | some m => s.customer c rd m 10 second [a, b])
    | some e => .bad s (flt xTag e)
    | none =>
      if isNum a ∧ isNum b then
        if slowNum c op a b then s.slowPath c op rd ply a b
        else match s.slowOps c op a b with
          | (s, .inl f) => .bad s f
          | (s, .inr (x, y)) => opOf c rd (s.numResult c op a b x y)
      else match timeGeneric op a b with
        | .inl w => s.result c rd w
        | .inr e => .bad s (flt xTag e)

/-- A generic operation leaves its hardware path on these operands (R171). -/
def slowGen (c op : Nat) (a b : Word) : Bool :=
  match genericCause a b with
  | some 0 => true
  | some _ => false
  | none => isNum a && isNum b && slowNum c op a b

end Sys2Proof.Machine
end

