-- ==== Sys2Proof/Machine/Arith.lean ====
section
/-! DEFINITION. Generic operations, logic, moves, tags and conversions (06_oxxus_instructions.md, Tables 6.2 and 6.3). The bodies are
shared with the short operations of two-ply words. -/

namespace Sys2Proof.Machine

/-! ### Bodies: `rd` a specifier, operands already read -/

/-- Check operands in order by R204, then go on. -/
def checked (s : State) (l : List ((Word → Bool) × Word)) (k : Op) : Op :=
  match l.findSome? fun e => srcCause e.1 e.2 with
  | some cause => .bad s (flt xTag cause)
  | none => k

def isFix (w : Word) : Bool := tagOf w == tFix
def anyTag (_ : Word) : Bool := true

/-- AND 0, OR 1, XOR 2 of payloads (R207). -/
def State.opLogic (s : State) (c k rd : Nat) (a b : Word) : Op :=
  checked s [(isFix, a), (isFix, b)] <|
    s.result c rd (fixN (if k = 0 then pay a &&& pay b else if k = 1 then pay a ||| pay b else pay a ^^^ pay b))

/-- Shift by a register count (R208): a FIX count outside 0 to 63 is an illegal operation, which comes before a tag fault of the other
operand (Table 7.4). -/
def State.opShift (s : State) (c k rd : Nat) (a b : Word) : Op :=
  if isFix b ∧ (fixI b < 0 ∨ 63 < fixI b) then .bad s (flt xIllegalOp 0)
  else checked s [(isFix, a), (isFix, b)] <| s.result c rd (fixN (shift56 k (pay a) (pay b)))

/-- Shift by an immediate 0 to 63. -/
def State.opShiftImm (s : State) (c k rd : Nat) (a : Word) (n : Nat) : Op :=
  checked s [(isFix, a)] <| s.result c rd (fixN (shift56 k (pay a) n))

/-- EQ (R204 steps 1 and 2). -/
def State.opEq (s : State) (c rd : Nat) (a b : Word) : Op :=
  match (readCause a).or (readCause b) with
  | some e => .bad s (flt xTag e)
  | none => s.result c rd (if a = b then trueW else nilW)

/-- RETAG (R210); ra of any tag is read and checked as R204 states (log entry 25). The faults of the new tag come before a tag fault of
ra (Table 7.4). -/
def State.opRetag (s : State) (c rd : Nat) (a b : Word) : Op :=
  let t := pay b
  if isFix b ∧ isObject t ∧ s.sup c = false then .bad s (flt xPrivileged 0)
  else if isFix b ∧ (255 < t ∨ t = tUninit ∨ t = tFwd ∨ isReserved t = true) then .bad s (flt xIllegalOp 0)
  else checked s [(anyTag, a), (isFix, b)] <| s.result c rd (mkTag t (pay a))

/-- CVTF 6 and CVTI 7 (R131, R209): in hardware on fit cores without a BOX, else the routine. -/
def State.opConvert (s : State) (c op rd : Nat) (a : Word) : Op :=
  let ok := fun w => if op = 6 then isNum w else tagOf w == tSflt || tagOf w == tBox
  if s.resumable c false then s.slowRoutine c op rd false a 0
  else checked s [(ok, a)] <|
    let big : Bool := decide (op = 7) && tagOf a == tSflt && (match ftrunc (fdec (pay a * 256)) with
      | some i => !inFix i
      | none => false)
    if isFit c = false ∨ tagOf a = tBox ∨ big then s.slowPath c op rd 0 a 0
    else (s.spend c 1).slowWork c op rd a 0

/-- FLD (R212, Table 6.3): tag asked for, value. -/
def fldField (sel : Nat) (w : Word) : Option (Bool × Word) :=
  let t := tagOf w
  if sel = 0 then some (t == tHit, fixN (bf w 55 44))
  else if sel = 1 then some (t == tHit, fixN (bf w 43 28))
  else if sel = 2 then some (t == tHit, fixN (bf w 27 0))
  else if sel = 3 then some (t == tSpike, fixN (bf w 55 50))
  else if sel = 4 then some (t == tSpike, fixN (bf w 49 0))
  else if sel = 5 then some (t == tSpan, fixN (bf w 55 28))
  else if sel = 6 then some (t == tSpan, fixN (bf w 27 0))
  else if sel = 7 then some (true, fixN (pay w))
  else if sel = 8 then some (t == tChan, fixN (bf w 31 16))
  else if sel = 9 then some (t == tChan, fixN (bf w 15 0))
  else if sel = 10 then some (t == tRegion, fixN (bf w 27 12))
  else if sel = 11 then some (t == tRegion, fixN (bf w 11 0))
  else if sel = 12 then some (t == tSym, fixN (bf w 31 0))
  else if sel = 13 then some (t == tTime, fixN (pay w))
  else none

/-- FLD's operand checks: selector 7 takes any word but reserved and UNINIT. -/
def State.opFld (s : State) (c rd sel : Nat) (a : Word) : Op :=
  match fldField sel a with
  | none => .bad s (flt xIllegalInstr 0)
  | some (ok, v) => checked s [(fun _ => ok, a)] <| s.result c rd v

/-- IMM15 sign-extended as a FIX word. -/
def immW (imm : BitVec 15) : Word := fixW imm.toInt

/-! ### Long forms -/

/-- A generic operation of three registers; `hw` is its hardware cost. -/
def State.gen3 (s : State) (c op hw : Nat) (rd ra rb : Reg5) : State :=
  let a := s.rget c ra.toNat
  let b := s.rget c rb.toNat
  s.issueOp c (regsOk [rd, ra, rb]) [ra, rb] (if slowGen c op a b then 0 else hw) fun s =>
    s.generic c op rd.toNat 0 (s.rget c ra.toNat) (s.rget c rb.toNat)

/-- A one-cycle operation of two source registers. -/
def State.op3 (s : State) (c : Nat) (rd ra rb : Reg5) (f : State → Word → Word → Op) : State :=
  s.issueOp c (regsOk [rd, ra, rb]) [ra, rb] 1 fun s => f s (s.rget c ra.toNat) (s.rget c rb.toNat)

/-- A one-cycle operation of one source register. -/
def State.op2 (s : State) (c : Nat) (legal : Bool) (rd ra : Reg5) (f : State → Word → Op) : State :=
  s.issueOp c (regsOk [rd, ra] && legal) [ra] 1 fun s => f s (s.rget c ra.toNat)

/-- ADD (R134). -/
def execAdd (core : CoreId) (rd ra rb : Reg5) (s : State) : Out := .next (s.gen3 core 0 1 rd ra rb)
/-- SUB (R134, R135). -/
def execSub (core : CoreId) (rd ra rb : Reg5) (s : State) : Out := .next (s.gen3 core 1 1 rd ra rb)
/-- MUL (R136). -/
def execMul (core : CoreId) (rd ra rb : Reg5) (s : State) : Out := .next (s.gen3 core 2 3 rd ra rb)
/-- CMP (R137). -/
def execCmp (core : CoreId) (rd ra rb : Reg5) (s : State) : Out := .next (s.gen3 core 3 1 rd ra rb)
/-- MIN (R138). -/
def execMin (core : CoreId) (rd ra rb : Reg5) (s : State) : Out := .next (s.gen3 core 4 1 rd ra rb)
/-- MAX (R138). -/
def execMax (core : CoreId) (rd ra rb : Reg5) (s : State) : Out := .next (s.gen3 core 5 1 rd ra rb)

/-- ADDI: generic addition with a sign-extended FIX (R207). -/
def execAddi (core : CoreId) (rd ra : Reg5) (imm : BitVec 15) (s : State) : Out :=
  .next (s.issueOp core (regsOk [rd, ra]) [ra] (if slowGen core 0 (s.rget core ra.toNat) (immW imm) then 0 else 1) fun s =>
    s.generic core 0 rd.toNat 0 (s.rget core ra.toNat) (immW imm))

/-- AND (R207). -/
def execAndR (core : CoreId) (rd ra rb : Reg5) (s : State) : Out :=
  .next (s.op3 core rd ra rb fun s a b => s.opLogic core 0 rd.toNat a b)
/-- OR (R207). -/
def execOrR (core : CoreId) (rd ra rb : Reg5) (s : State) : Out :=
  .next (s.op3 core rd ra rb fun s a b => s.opLogic core 1 rd.toNat a b)
/-- XOR (R207). -/
def execXorR (core : CoreId) (rd ra rb : Reg5) (s : State) : Out :=
  .next (s.op3 core rd ra rb fun s a b => s.opLogic core 2 rd.toNat a b)

/-- ANDI: the immediate is zero-extended (R207). -/
def execAndi (core : CoreId) (rd ra : Reg5) (imm : BitVec 15) (s : State) : Out :=
  .next (s.op2 core true rd ra fun s a => s.opLogic core 0 rd.toNat a (fixN imm.toNat))
/-- ORI (R207). -/
def execOri (core : CoreId) (rd ra : Reg5) (imm : BitVec 15) (s : State) : Out :=
  .next (s.op2 core true rd ra fun s a => s.opLogic core 1 rd.toNat a (fixN imm.toNat))
/-- XORI (R207). -/
def execXori (core : CoreId) (rd ra : Reg5) (imm : BitVec 15) (s : State) : Out :=
  .next (s.op2 core true rd ra fun s a => s.opLogic core 2 rd.toNat a (fixN imm.toNat))

/-- SHL (R208). -/
def execShl (core : CoreId) (rd ra rb : Reg5) (s : State) : Out :=
  .next (s.op3 core rd ra rb fun s a b => s.opShift core 0 rd.toNat a b)
/-- SHR (R208). -/
def execShr (core : CoreId) (rd ra rb : Reg5) (s : State) : Out :=
  .next (s.op3 core rd ra rb fun s a b => s.opShift core 1 rd.toNat a b)
/-- SHRU (R208). -/
def execShru (core : CoreId) (rd ra rb : Reg5) (s : State) : Out :=
  .next (s.op3 core rd ra rb fun s a b => s.opShift core 2 rd.toNat a b)

/-- SHLI: an immediate above 63 is undefined (R203, R208). -/
def execShli (core : CoreId) (rd ra : Reg5) (imm : BitVec 15) (s : State) : Out :=
  .next (s.op2 core (decide (imm.toNat ≤ 63)) rd ra fun s a => s.opShiftImm core 0 rd.toNat a imm.toNat)
/-- SHRI, arithmetic (R208). -/
def execShri (core : CoreId) (rd ra : Reg5) (imm : BitVec 15) (s : State) : Out :=
  .next (s.op2 core (decide (imm.toNat ≤ 63)) rd ra fun s a => s.opShiftImm core 1 rd.toNat a imm.toNat)

/-- MOVI (R207). -/
def execMovi (core : CoreId) (rd : Reg5) (imm : BitVec 15) (s : State) : Out :=
  .next (s.issueOp core (regsOk [rd]) [] 1 fun s => s.result core rd.toNat (immW imm))
/-- MOV: any word, unchanged (R207). -/
def execMov (core : CoreId) (rd ra : Reg5) (s : State) : Out :=
  .next (s.op2 core true rd ra fun s a => s.result core rd.toNat a)
/-- TAG: tag-inspection (R207). -/
def execTag (core : CoreId) (rd ra : Reg5) (s : State) : Out :=
  .next (s.op2 core true rd ra fun s a => s.result core rd.toNat (fixN (tagOf a)))
/-- EQ (R207). -/
def execEqR (core : CoreId) (rd ra rb : Reg5) (s : State) : Out :=
  .next (s.op3 core rd ra rb fun s a b => s.opEq core rd.toNat a b)
/-- RETAG (R210). -/
def execRetag (core : CoreId) (rd ra rb : Reg5) (s : State) : Out :=
  .next (s.op3 core rd ra rb fun s a b => s.opRetag core rd.toNat a b)
/-- CVTF (R131). -/
def execCvtf (core : CoreId) (rd ra : Reg5) (s : State) : Out :=
  .next (s.issueOp core (regsOk [rd, ra]) [ra] 0 fun s => s.opConvert core 6 rd.toNat (s.rget core ra.toNat))
/-- CVTI (R209). -/
def execCvti (core : CoreId) (rd ra : Reg5) (s : State) : Out :=
  .next (s.issueOp core (regsOk [rd, ra]) [ra] 0 fun s => s.opConvert core 7 rd.toNat (s.rget core ra.toNat))

/-- TCHK: tag-inspection (R211). -/
def execTchk (core : CoreId) (rd ra : Reg5) (imm : BitVec 15) (s : State) : Out :=
  .next (s.op2 core (decide (imm.toNat < 256)) rd ra fun s a =>
    s.result core rd.toNat (if tagOf a = imm.toNat then trueW else nilW))
/-- FLD (R212). -/
def execFld (core : CoreId) (rd ra : Reg5) (sel : BitVec 15) (s : State) : Out :=
  .next (s.op2 core true rd ra fun s a => s.opFld core rd.toNat sel.toNat a)

/-- The short no-operation, as the two plies of a word (R168). -/
def execNopS (core : CoreId) (s : State) : Out :=
  .next (s.issue core { twoPly := true } 1 fun s => .ok s .seq [])

end Sys2Proof.Machine
end

