-- ==== Sys2Proof/Machine/LoadStore.lean ====
section
/-! DEFINITION. Loads, stores and allocation (06_oxxus_instructions.md, Tables 6.4 and 6.5), page walks, line fills and the release of
stores. -/

namespace Sys2Proof.Machine

/-! ### Bodies -/

/-- Registers of an effect by specifier. -/
def State.wr (s : State) (c rd : Nat) (w : Word) : List (Nat × Word) := ((s.core c).key rd).toList.map fun k => (k, w)

/-- The word names a register of the trap window that R252 exempts: the double-fault handler runs in the window too (R269). -/
def State.exempt (s : State) (c r : Nat) : Bool :=
  !(s.core c).bankOn && decide (8 ≤ r ∧ r < 16) && (s.core c).trap.isSome

/-- Load one word into a register, visible after the load slot (R173). -/
def State.loadTo (s : State) (c rd va : Nat) (also : List (Nat × Word)) : Op :=
  match (if s.exempt c rd then s.load1 c va else s.loadW c va) with
  | (s, .inl f) => .bad s f
  | (s, .inr w) => .ok s { writes := also, loads := s.wr c rd w }

/-- Note what a word that waits for the host still writes. -/
def State.suspNote (s : State) (c key ply : Nat) (also : List (Nat × Word)) : State :=
  let y := s.ctx c key
  s.setCtx c key { y with susp := y.susp.map fun x => { x with ply := ply, writes := also } }

/-- Store a word whose source has been checked; `also` are register writes of the same word. A promotion that is not done at the end of
its first stretch stands at a safe point (R416). -/
def State.storeTo (s : State) (c va ply : Nat) (w : Word) (also : List (Nat × Word)) : Op :=
  let key := if (s.core c).bankOn then 4 else (s.core c).cur
  match s.storeW c va w with
  | (s, .ok) => .ok s { writes := also, loads := [] }
  | (s, .bad f) => .bad s f
  | (s, .wait) => .taken (s.suspNote c key ply also)
  | (s, .busy p) =>
    .taken (s.setRun c (some { s.freshRec c 0 (decide (ply = 2)) [] with prom := some { p with writes := also } }))

/-- Where an object-mode access of word `k` goes (R214). -/
def State.objAddr (s : State) (c : Nat) (st : Bool) (p : Word) (k : Int) : State × (Flt ⊕ Nat) :=
  if tagOf p = tCons then
    (s, if k = 0 ∨ k = 1 then .inr (pay p + 8 * k.toNat) else .inl (flt xTag cHeader))
  else match s.header c p with
    | (s, .inl f) => (s, .inl f)
    | (s, .inr h) =>
      (s, if 0 ≤ k ∧ k ≤ headLen h ∧ (st = false ∨ k ≠ 0) then .inr (pay p + 8 * k.toNat) else .inl (flt xTag cHeader))

/-- Address of a format M access, with the new base of POST 1 (R182, R214). -/
def State.memAddr (s : State) (c : Nat) (st post : Bool) (b : Word) (ofs : Int) : State × (Flt ⊕ (Nat × Option Word)) :=
  if isObject (tagOf b) ∧ post then (s, .inl (flt xIllegalOp 0))
  else match srcCause (fun w => isFix w || isObject (tagOf w)) b with
    | some e => (s, .inl (flt xTag e))
    | none =>
      if isFix b then
        let a := fixI b + ofs * 8
        match rawAddr st (fixI b) (if post then fixI b else a) with
        | .inl f => (s, .inl f)
        | .inr va => (s, .inr (va, if post then some (fixW a) else none))
      else match s.objAddr c st b ofs with
        | (s, .inl f) => (s, .inl f)
        | (s, .inr va) => (s, .inr (va, none))

/-- LD. -/
def State.opLd (s : State) (c rd base : Nat) (post : Bool) (ofs : Int) : Op :=
  match s.memAddr c false post (s.rget c base) ofs with
  | (s, .inl f) => .bad s f
  | (s, .inr (va, nb)) => s.loadTo c rd va (match nb with
    | some w => s.wr c base w
    | none => [])

/-- The fault of a store's source word (R164 step 1). -/
def State.srcBad (s : State) (c src : Nat) : Option Flt :=
  (storeSrc (s.rget c src) (s.exempt c src)).map (flt xTag)

/-- ST; the illegal POST comes before the source check, for its class has priority (Table 7.4). -/
def State.opSt (s : State) (c src base : Nat) (post : Bool) (ofs : Int) : Op :=
  s.storing c false fun s =>
  let b := s.rget c base
  if isObject (tagOf b) ∧ post then .bad s (flt xIllegalOp 0)
  else match s.srcBad c src with
    | some f => .bad s f
    | none => match s.memAddr c true post b ofs with
      | (s, .inl f) => .bad s f
      | (s, .inr (va, nb)) => s.storeTo c va 0 (s.rget c src) (match nb with
        | some w => s.wr c base w
        | none => [])

/-- LDP: raw load, then the base moves by 8. -/
def State.opLdp (s : State) (c rd ra : Nat) : Op :=
  let b := s.rget c ra
  checked s [(isFix, b)] <| match rawAddr false (fixI b) (fixI b) with
    | .inl f => .bad s f
    | .inr va => s.loadTo c rd va (s.wr c ra (fixW (fixI b + 8)))

/-- STP: raw store, then the base moves by 8. -/
def State.opStp (s : State) (c src ra ply : Nat) : Op :=
  s.storing c (decide (ply = 2)) fun s =>
  let b := s.rget c ra
  match s.srcBad c src with
  | some f => .bad s f
  | none => checked s [(isFix, b)] <| match rawAddr true (fixI b) (fixI b) with
    | .inl f => .bad s f
    | .inr va => s.storeTo c va ply (s.rget c src) (s.wr c ra (fixW (fixI b + 8)))

def isConsNil (w : Word) : Bool := tagOf w == tCons || tagOf w == tNil

/-- CAR 0 and CDR 1. -/
def State.opCar (s : State) (c k rd : Nat) (a : Word) : Op :=
  checked s [(isConsNil, a)] <|
    if tagOf a = tNil then .ok s { writes := [], loads := s.wr c rd nilW } else s.loadTo c rd (pay a + 8 * k) []

/-- SETCAR 0 and SETCDR 1 of register `rb`. -/
def State.opSetCar (s : State) (c k rb : Nat) (a : Word) : Op :=
  s.storing c false fun s =>
  checked s [(fun w => tagOf w == tCons, a)] <| match s.srcBad c rb with
    | some f => .bad s f
    | none => s.storeTo c (pay a + 8 * k) 0 (s.rget c rb) []

def isVec (w : Word) : Bool := tagOf w == tVec

/-- The operands of an access to an element: the header of the VEC comes before the index (R204). -/
def State.vecElem (s : State) (c : Nat) (a i : Word) : State × (Flt ⊕ Nat) :=
  match srcCause isVec a with
  | some e => (s, .inl (flt xTag e))
  | none => match s.header c a with
    | (s, .inl f) => (s, .inl f)
    | (s, .inr h) => match srcCause isFix i with
      | some e => (s, .inl (flt xTag e))
      | none => (s, if 0 ≤ fixI i ∧ fixI i < headLen h then .inr (pay a + 8 * (pay i + 1)) else .inl (flt xTag cHeader))

/-- VLD. -/
def State.opVld (s : State) (c rd : Nat) (a i : Word) : Op :=
  match s.vecElem c a i with
  | (s, .inl f) => .bad s f
  | (s, .inr va) => s.loadTo c rd va []

/-- VST. -/
def State.opVst (s : State) (c src : Nat) (a i : Word) : Op :=
  s.storing c false fun s =>
  match s.srcBad c src with
  | some f => .bad s f
  | none => match s.vecElem c a i with
    | (s, .inl f) => .bad s f
    | (s, .inr va) => s.storeTo c va 0 (s.rget c src) []

def State.opVlen (s : State) (c rd : Nat) (a : Word) : Op :=
  checked s [(isVec, a)] <| match s.header c a with
    | (s, .inl f) => .bad s f
    | (s, .inr h) => .ok s { writes := [], loads := s.wr c rd (fixN (headLen h)) }

def notFwd (w : Word) : Bool := tagOf w != tFwd

/-- CONS (R216). -/
def State.opCons (s : State) (c rd : Nat) (a b : Word) : Op :=
  checked s [(notFwd, a), (notFwd, b)] <| match s.newObj c tCons [a, b] with
    | (s, .inl f) => .bad s f
    | (s, .inr p) => s.result c rd p

/-- ALLOCV: the header alone is written (R148, R216). -/
def State.opAllocv (s : State) (c rd : Nat) (a : Word) : Op :=
  checked s [(isFix, a)] <|
    if fixI a < 0 then .bad s (flt xIllegalOp 0)
    else match s.alloc c (pay a + 1) with
      | (s, .inl f) => .bad s f
      | (s, .inr va) => (s.putObj c va [headW 1 0 (pay a)]).result c rd (ptrW tVec va)

/-! ### Instructions -/

/-- LD (R214). -/
def execLd (core : CoreId) (rd base : Reg5) (post : Bool) (ofs : BitVec 14) (s : State) : Out :=
  .next (s.issueOp core (regsOk [rd, base]) [base] 1 fun s => s.opLd core rd.toNat base.toNat post ofs.toInt)
/-- ST (R164, R214). -/
def execSt (core : CoreId) (src base : Reg5) (post : Bool) (ofs : BitVec 14) (s : State) : Out :=
  .next (s.issueOp core (regsOk [src, base]) [src, base] 1 fun s => s.opSt core src.toNat base.toNat post ofs.toInt)

/-- Absolute-short address (R182). -/
def State.absAddr (s : State) (c : Nat) (abs : BitVec 20) : Nat := bf (s.spec c).bank 46 20 * 2 ^ 20 + abs.toNat

/-- LDA (R182). -/
def execLda (core : CoreId) (rd : Reg5) (abs : BitVec 20) (s : State) : Out :=
  .next (s.issueOp core (regsOk [rd]) [] 1 fun s =>
    match rawAddr false 0 (s.absAddr core abs) with
    | .inl f => .bad s f
    | .inr va => s.loadTo core rd.toNat va [])
/-- STA (R182). -/
def execSta (core : CoreId) (src : Reg5) (abs : BitVec 20) (s : State) : Out :=
  .next (s.issueOp core (regsOk [src]) [src] 1 fun s => s.storing core false fun s =>
    match s.srcBad core src.toNat, rawAddr true 0 (s.absAddr core abs) with
    | some f, _ => .bad s f
    | none, .inl f => .bad s f
    | none, .inr va => s.storeTo core va 0 (s.rget core src.toNat) [])
/-- CAR (R213). -/
def execCar (core : CoreId) (rd ra : Reg5) (s : State) : Out :=
  .next (s.op2 core true rd ra fun s a => s.opCar core 0 rd.toNat a)
/-- CDR (R213). -/
def execCdr (core : CoreId) (rd ra : Reg5) (s : State) : Out :=
  .next (s.op2 core true rd ra fun s a => s.opCar core 1 rd.toNat a)
/-- LDP (R213). -/
def execLdp (core : CoreId) (rd ra : Reg5) (s : State) : Out :=
  .next (s.op2 core true rd ra fun s _ => s.opLdp core rd.toNat ra.toNat)
/-- STP (R213). -/
def execStp (core : CoreId) (src ra : Reg5) (s : State) : Out :=
  .next (s.issueOp core (regsOk [src, ra]) [src, ra] 1 fun s => s.opStp core src.toNat ra.toNat 0)
/-- SETCAR (R213). -/
def execSetcar (core : CoreId) (ra rb : Reg5) (s : State) : Out :=
  .next (s.issueOp core (regsOk [ra, rb]) [ra, rb] 1 fun s => s.opSetCar core 0 rb.toNat (s.rget core ra.toNat))
/-- SETCDR (R213). -/
def execSetcdr (core : CoreId) (ra rb : Reg5) (s : State) : Out :=
  .next (s.issueOp core (regsOk [ra, rb]) [ra, rb] 1 fun s => s.opSetCar core 1 rb.toNat (s.rget core ra.toNat))
/-- VLD (R214), one cycle more than a load. -/
def execVld (core : CoreId) (rd ra rb : Reg5) (s : State) : Out :=
  .next (s.issueOp core (regsOk [rd, ra, rb]) [ra, rb] 2 fun s =>
    s.opVld core rd.toNat (s.rget core ra.toNat) (s.rget core rb.toNat))
/-- VST (R214). -/
def execVst (core : CoreId) (src ra rb : Reg5) (s : State) : Out :=
  .next (s.issueOp core (regsOk [src, ra, rb]) [src, ra, rb] 2 fun s =>
    s.opVst core src.toNat (s.rget core ra.toNat) (s.rget core rb.toNat))
/-- VLEN (R213). -/
def execVlen (core : CoreId) (rd ra : Reg5) (s : State) : Out :=
  .next (s.op2 core true rd ra fun s a => s.opVlen core rd.toNat a)
/-- CONS (R216). -/
def execCons (core : CoreId) (rd ra rb : Reg5) (s : State) : Out :=
  .next (s.op3 core rd ra rb fun s a b => s.opCons core rd.toNat a b)
/-- ALLOCV (R216). -/
def execAllocv (core : CoreId) (rd ra : Reg5) (s : State) : Out :=
  .next (s.op2 core true rd ra fun s a => s.opAllocv core rd.toNat a)

/-! ### Walks, fills, release -/

/-- PAGE_WALK (R307): a miss of both TLBs walks and fills; a walk of a speculative access raises nothing and records nothing
(R273, R274). -/
def execPageWalk (core : CoreId) (acc : Access) (va : Word) (speculative : Bool) (s : State) : Out :=
  .next (
    if s.runs core = false then s
    else match s.lookup core (s.world_ core) acc (bf va 46 0) speculative with
      | (s, .inr _) => s
      | (s', .inl f) => if speculative then s' else s'.raise core f false false)

/-- LINE_FILL (R317, R318, R322, R344): the line comes through L2; one that takes no way there, or that cannot be read, takes none in
an L1. A line whose way waits for an eviction comes after it (R320). -/
def execLineFill (core : CoreId) (kind : L1Kind) (pa : BitVec 46) (s : State) : Out :=
  let c : Nat := core
  let line := pa.toNat / 64
  .next (match kind with
    | .data => if (s.core c).blocked = some line then (s.l2Read (cluOf c) line).l1dFill c line else s
    | .instr => if isDevice pa.toNat || l1Has line (s.core c).l1i then s else (s.fetchLine c pa.toNat).1
    | .side => if isDevice pa.toNat then s else s.sideFill c line)

/-- STORE_RELEASE (R275, R301, R331): the oldest store of a context leaves its queue. -/
def execStoreRelease (core : CoreId) (ctx : CtxId) (s : State) : Out := .next (s.releaseAny core ctx)

end Sys2Proof.Machine
end

