-- ==== Sys2Proof/Machine/Plies.lean ====
section
/-! DEFINITION. Short operations and two-ply words (R168 to R171, Table 5.3). -/

namespace Sys2Proof.Machine

/-- Fields of a 15-bit ply: opcode, rd, the low five bits. -/
structure Ply where
  op : Nat
  rd : Nat
  lo : Nat
  deriving DecidableEq, Repr

/-- A ply of 15 bits. -/
def Ply.ofNat (n : Nat) : Ply := { op := n / 1024 % 32, rd := n / 32 % 32, lo := n % 32 }

/-- The signed immediate. -/
def Ply.imm (p : Ply) : Int := sx 5 p.lo

/-- The low bits name a register. -/
def Ply.hasRs (p : Ply) : Bool := [0x01, 0x03, 0x04, 0x06, 0x07, 0x08, 0x09, 0x0A, 0x0B, 0x0E, 0x0F, 0x10, 0x11, 0x12].contains p.op

/-- A defined opcode with defined fields (R167, R168, R203, R208). -/
def Ply.legal (p : Ply) : Bool :=
  if p.op = 0 then decide (p.rd = 0 ∧ p.lo = 0)
  else decide (p.op ≤ 0x12 ∧ p.rd < 24) && (!p.hasRs || decide (p.lo < 24)) &&
    (decide (p.op ≠ 0x0C ∧ p.op ≠ 0x0D) || decide (p.lo < 16))

/-- Both plies of a two-ply word are defined, and its lowest bit is zero (R168, R203). -/
def plyWordOk (w : BitVec 32) : Bool := w.toNat % 2 == 0 && (Ply.ofNat (w.toNat / 2 ^ 16)).legal && (Ply.ofNat (w.toNat / 2)).legal

/-- Registers read and written (Table 5.3). -/
def Ply.reads (p : Ply) : List Nat :=
  if p.op = 0 ∨ p.op = 0x02 then []
  else if [0x01, 0x0E, 0x0F, 0x10, 0x11].contains p.op then [p.lo]
  else if [0x05, 0x0C, 0x0D].contains p.op then [p.rd]
  else [p.rd, p.lo]

def Ply.writes (p : Ply) : List Nat :=
  if p.op = 0 then [] else if p.op = 0x11 then [p.rd, p.lo] else if p.op = 0x12 then [p.lo] else [p.rd]

def Ply.isMem (p : Ply) : Bool := decide (0x0F ≤ p.op ∧ p.op ≤ 0x12)
def Ply.allocs (p : Ply) : Bool := decide (0x03 ≤ p.op ∧ p.op ≤ 0x05)

/-- rd or rs is s6. -/
def Ply.namesS6 (p : Ply) : Bool := decide (p.op ≠ 0) && (decide (p.rd = 22) || (p.hasRs && decide (p.lo = 22)))

/-- The pairing rules (R169). -/
def badPair (a b : Ply) : Bool :=
  b.reads.any (fun r => a.writes.contains r) || a.writes.any (fun r => b.writes.contains r) || (a.isMem && b.isMem) ||
    (a.allocs && b.namesS6) || (b.allocs && a.namesS6)

/-- The operation code of a generic ply. -/
def Ply.gen (p : Ply) : Option Nat :=
  if p.op = 0x03 ∨ p.op = 0x05 then some 0 else if p.op = 0x04 then some 1 else if p.op = 0x06 then some 3
  else if p.op = 0x07 then some 4 else if p.op = 0x08 then some 5 else none

/-- Second operand of a ply. -/
def Ply.second (p : Ply) (s : State) (c : Nat) : Word := if p.op = 0x05 then fixW p.imm else s.rget c p.lo

/-- One short operation, `n` 1 for ply A and 2 for ply B. -/
def State.plyOp (s : State) (c n : Nat) (p : Ply) : Op :=
  let a := s.rget c p.rd
  let r := s.rget c p.lo
  match p.gen with
  | some op => s.generic c op p.rd n a (p.second s c)
  | none =>
    if p.op = 0 then .ok s { writes := [], loads := [] }
    else if p.op = 0x01 then s.result c p.rd r
    else if p.op = 0x02 then s.result c p.rd (fixW p.imm)
    else if p.op ≤ 0x0B then s.opLogic c (p.op - 0x09) p.rd a r
    else if p.op = 0x0C then s.opShiftImm c 0 p.rd a p.lo
    else if p.op = 0x0D then s.opShiftImm c 1 p.rd a p.lo
    else if p.op = 0x0E then s.result c p.rd (fixN (tagOf r))
    else if p.op = 0x0F then s.opCar c 0 p.rd r
    else if p.op = 0x10 then s.opCar c 1 p.rd r
    else if p.op = 0x11 then s.opLdp c p.rd p.lo
    else s.opStp c p.rd p.lo n

/-- A short store that would run promotion microcode (R157, R171). -/
def State.promotes (s : State) (c : Nat) (p : Ply) : Bool :=
  let w := s.rget c p.rd
  let b := s.rget c p.lo
  decide (p.op = 0x12) && isObject (tagOf w) && !malformed w && isFrameVa (pay w) && isFix b && stProv (s.st c) != 1 &&
    (match rawAddr true (fixI b) (fixI b) with
    | .inl _ => false
    | .inr va => match (s.storeTarget c va 8).2 with
      | .inr (ta, _) => isHoldVa ta
      | .inl _ => false)

/-- A ply needs a microcode slow path on its operands (R171). -/
def State.plySlow (s : State) (c : Nat) (p : Ply) : Bool :=
  match p.gen with
  | some op => slowGen c op (s.rget c p.rd) (p.second s c)
  | none => s.promotes c p

/-- Both plies on their hardware paths: both read the registers as before the word and write together (R170). -/
def State.paired (s : State) (c : Nat) (a b : Ply) : Res :=
  match s.plyOp c 1 a with
  | .bad sa f => .bad sa f
  | .taken sa => .taken sa
  | .ok sa ea => match sa.plyOp c 2 b with
    | .bad sb f => .taken ((if b.isMem then sb else s).raise c f true false)
    | .taken sb => .taken sb
    | .ok sb eb => .ok (((sb.apply c ea).apply c eb).spend c 1) .seq (ea.loads ++ eb.loads)

/-- Ply A has committed, and only ply B is left; the word after this one is the load slot of what A loaded (R173, R174). -/
def State.plyADone (s : State) (c : Nat) (loads : List (Nat × Word)) : State :=
  s.setFlow c { s.flow c with plyB := true, aLoads := loads }

/-- Ply B alone (R171, R199). -/
def State.onlyB (s : State) (c : Nat) (b : Ply) : Res :=
  match s.plyOp c 2 b with
  | .bad s f => .taken (s.raise c f true true)
  | .taken s => .taken s
  | .ok s e => .ok (s.apply c e) .seq e.loads

/-- Split replay: ply A, then ply B (R171). -/
def State.split (s : State) (c : Nat) (a b : Ply) : Res :=
  let s := if s.resumable c false then s else s.spend c (2 + b2n (!s.plySlow c a) + b2n (!s.plySlow c b))
  match s.plyOp c 1 a with
  | .bad s f => .bad s f
  | .taken s => .taken s
  | .ok s e => ((s.apply c e).plyADone c e.loads).onlyB c b

/-- TWO_PLY_WORD (R166 to R171). -/
def execTwoPlyWord (core : CoreId) (w : BitVec 32) (s : State) : Out :=
  let c : Nat := core
  let a := Ply.ofNat (w.toNat / 2 ^ 16)
  let b := Ply.ofNat (w.toNat / 2)
  let uses := (a.reads ++ b.reads).map fun r => BitVec.ofNat 5 r
  .next (s.issue c { legal := plyWordOk w, twoPly := true, uses := uses } 0 fun s =>
    if plyWordOk w = false then .bad s (flt xIllegalInstr 0)
    else if badPair a b then .bad s (flt xIllegalPair 0)
    else if (s.flow c).plyB then s.onlyB c b
    else if s.resumable c false || s.plySlow c a || s.plySlow c b then s.split c a b
    else s.paired c a b)

/-- The word is a defined instruction of code memory (R166, R203, R206). -/
def definedWord (c : CoreId) (w : BitVec 32) : Bool :=
  match decodeWord c w with
  | some (.twoPlyWord _ v) => plyWordOk v
  | some _ => true
  | none => false

/-- A word that is no defined instruction: major opcode 0x00, a reserved opcode, an undefined field (R166, R203). A defined word is not
this command's: it leaves the state as it is. -/
def execIllegalInstruction (core : CoreId) (w : BitVec 32) (s : State) : Out :=
  .next (if definedWord core w then s else s.issue core { legal := false } 0 fun s => .bad s (flt xIllegalInstr 0))

end Sys2Proof.Machine
end

