-- ==== Sys2Proof/Machine/Routines.lean ====
section
/-! DEFINITION. List and table routines (R217 to R219) and the collection cycle (R152, R153). -/

namespace Sys2Proof.Machine

/-- Cells that a list routine visits at most (Table 6.6). -/
def maxCells : Nat := 1048576

/-- A routine word (R217): operands are checked by `pre` and the routine runs; one that goes on from a safe point uses the operands that
it has saved (R420). -/
def State.listOp (s : State) (c : Nat) (legal : Bool) (uses : List Reg5) (ops : State → List Word) (pre : State → List Word → Option Flt)
    (go : State → MicroRec → Leg) : State :=
  s.issueOp c legal uses 0 fun s =>
    match (if s.resumable c false then none else pre s (ops s)) with
    | some f => .bad s f
    | none => s.routine c false (ops s) go

/-- First failing source check. -/
def firstBad (l : List ((Word → Bool) × Word)) : Option Flt := (l.findSome? fun e => srcCause e.1 e.2).map (flt xTag)

/-! ### Walking a list (R217): temporaries are s6, the next cell, the cells visited, then what the routine keeps -/

/-- Cells that a list routine visits between two safe points: at most 4 core cycles each (R416, Table 6.6, log entry 76). -/
def stretch : Nat := 60

/-- Where a walk stands: it has found its word; the list has ended in a word that is no CONS; or it goes on at a cell. Cells visited, and
what the routine keeps. -/
inductive Walk where
  | found (w : Word) (n : Nat) (keep : List Word)
  | ended (tail : Word) (n : Nat) (keep : List Word)
  | more (p : Word) (n : Nat) (keep : List Word)
  deriving DecidableEq, Repr

/-- What a visit of one cell answers: the word found, or the next pointer and what the routine keeps. -/
abbrev Visit := State → Word → List Word → State × (Flt ⊕ (Word ⊕ (Word × List Word)))

/-- Visit up to a number of cells, `n` of them visited before; a cell beyond 1,048,576 is MALFORMED. -/
def walkCells (visit : Visit) : Nat → State → Word → Nat → List Word → State × (Flt ⊕ Walk)
  | fuel, s, p, n, keep =>
    if tagOf p ≠ tCons then (s, .inr (.ended p n keep))
    else if malformed p ∨ maxCells ≤ n then (s, .inl (flt xTag cMalformed))
    else match fuel with
      | 0 => (s, .inr (.more p n keep))
      | fuel + 1 => match visit s p keep with
        | (s, .inl f) => (s, .inl f)
        | (s, .inr (.inl w)) => (s, .inr (.found w (n + 1) keep))
        | (s, .inr (.inr (d, keep))) => walkCells visit fuel s d (n + 1) keep

/-- A stretch of a walk at `per` core cycles a cell; `fin` ends the routine. -/
def State.walkFromCell (s : State) (c per : Nat) (r : MicroRec) (visit : Visit) (p : Word) (n : Nat) (keep : List Word)
    (fin : State → Walk → Op) : Leg :=
  match walkCells visit stretch s p n keep with
  | (s, .inl f) => .fin (.bad s f)
  | (s, .inr (.more p m keep)) =>
    .on (s.spend c (per * (m - n))) { r with temps := r.temps.headD 0 :: p :: BitVec.ofNat 64 m :: keep }
  | (s, .inr (.found w m keep)) => .fin (fin (s.spend c (per * (m - n))) (.found w m keep))
  | (s, .inr (.ended w m keep)) => .fin (fin (s.spend c (per * (m - n))) (.ended w m keep))

/-- The routine has just started. -/
def MicroRec.starts (r : MicroRec) : Bool := decide (r.temps.length ≤ 1)

/-- A routine that walks a list: from its start by `first`, or from the cell at which it stands. -/
def State.walkLeg (s : State) (c per : Nat) (r : MicroRec) (visit : Visit) (fin : State → Walk → Op)
    (first : State → (Word → List Word → State → Leg) → Leg) : Leg :=
  if r.starts then first s fun p keep s => s.walkFromCell c per r visit p 0 keep fin
  else s.walkFromCell c per r visit (r.temps.getD 1 0) (r.temps.getD 2 0).toNat (r.temps.drop 3) fin

/-- Copy one cell: the new cell takes the place of the original in the new spine, whose first and last cells are kept. -/
def visitCopy (c : Nat) : Visit := fun s p keep =>
  match s.loadW c (pay p) with
  | (s, .inl f) => (s, .inl f)
  | (s, .inr a) => match s.loadW c (pay p + 8) with
    | (s, .inl f) => (s, .inl f)
    | (s, .inr d) => match s.alloc c 2 with
      | (s, .inl f) => (s, .inl f)
      | (s, .inr va) =>
        let new := ptrW tCons va
        let s := s.putObj c va [a, d]
        let s := match keep with
          | [_, last] => s.putObj c (pay last + 8) [new]
          | _ => s
        (s, .inr (.inr (d, [keep.headD new, new])))

/-- CPYL. -/
def State.cpylLeg (s : State) (c rd : Nat) (r : MicroRec) : Leg :=
  let fin := fun (s : State) (w : Walk) => match w with
    | .ended tail _ keep => s.result c rd (keep.headD tail)
    | .found v _ _ => s.result c rd v
    | .more v _ _ => s.result c rd v
  s.walkLeg c 4 r (visitCopy c) fin fun s k => k (r.operands.getD 0 0) [] (s.spend c 12)

/-- Look at one pair of an alist for a key. An end other than NIL ends the list (log entry 27). -/
def visitPair (c : Nat) (key : List Word → Word) : Visit := fun s p keep =>
  match s.loadW c (pay p) with
  | (s, .inl f) => (s, .inl f)
  | (s, .inr e) => match srcCause (fun w => tagOf w == tCons) e with
    | some cause => (s, .inl (flt xTag cause))
    | none => match s.loadW c (pay e) with
      | (s, .inl f) => (s, .inl f)
      | (s, .inr k) =>
        if k = key keep then (s, .inr (.inl e))
        else match s.loadW c (pay p + 8) with
          | (s, .inl f) => (s, .inl f)
          | (s, .inr d) => (s, .inr (.inr (d, keep)))

/-- The word of a search. -/
def Walk.word : Walk → Word
  | .found w _ _ => w
  | _ => nilW

/-- ASSOC. -/
def State.assocLeg (s : State) (c rd : Nat) (r : MicroRec) : Leg :=
  s.walkLeg c 3 r (visitPair c fun _ => r.operands.getD 1 0) (fun s w => s.result c rd w.word) fun s k =>
    k (r.operands.getD 0 0) [] (s.spend c 10)

/-- Count one cell. -/
def visitCount (c : Nat) : Visit := fun s p keep =>
  match s.loadW c (pay p + 8) with
  | (s, .inl f) => (s, .inl f)
  | (s, .inr d) => (s, .inr (.inr (d, keep)))

/-- LLEN. -/
def State.llenLeg (s : State) (c rd : Nat) (r : MicroRec) : Leg :=
  let fin := fun (s : State) (w : Walk) => match w with
    | .ended _ n _ => s.result c rd (fixN n)
    | .found _ n _ => s.result c rd (fixN n)
    | .more _ n _ => s.result c rd (fixN n)
  s.walkLeg c 2 r (visitCount c) fin fun s k => k (r.operands.getD 0 0) [] (s.spend c 8)

/-- Bucket of a key in a table of `b` buckets (R218). -/
def bucketOf (k : Word) (b : Nat) : Nat :=
  let h := (pay k ^^^ (tagOf k * 2 ^ 48)) * 0x9E3779B97F4A7C15 % 2 ^ 64
  h / 2 ^ 32 % b

/-- The address of a key's bucket element and the bucket, of a table with header `h`. -/
def State.bucket (s : State) (c : Nat) (t h key : Word) : State × (Flt ⊕ (Nat × Word)) :=
  let va := pay t + 8 * (bucketOf key (headLen h) + 1)
  match s.loadW c va with
  | (s, .inl f) => (s, .inl f)
  | (s, .inr w) => match srcCause isConsNil w with
    | some cause => (s, .inl (flt xTag cause))
    | none => (s, .inr (va, w))

/-- Header of a table, then the checks of the second operand (R204). -/
def State.tableOps (s : State) (c : Nat) (t : Word) (ok : Word → Bool) (b : Word) : State × (Flt ⊕ Word) :=
  match s.header c t with
  | (s, .inl f) => (s, .inl f)
  | (s, .inr h) => match srcCause ok b with
    | some cause => (s, .inl (flt xTag cause))
    | none => (s, .inr h)

/-- HLOOK. -/
def State.hlookLeg (s : State) (c rd : Nat) (r : MicroRec) : Leg :=
  let t := r.operands.getD 0 0
  let key := r.operands.getD 1 0
  s.walkLeg c 3 r (visitPair c fun _ => key) (fun s w => s.result c rd w.word) fun s k =>
    match s.tableOps c t anyTag key with
    | (s, .inl f) => .fin (.bad s f)
    | (s, .inr h) =>
      let s := s.spend c 14
      if headLen h = 0 then .fin (s.result c rd nilW)
      else match s.bucket c t h key with
        | (s, .inl f) => .fin (.bad s f)
        | (s, .inr e) => k e.2 [] s

/-- A store of a routine: a fault that comes after a wait for the host restores s6 (R415). -/
def State.routineStore (s : State) (c va : Nat) (w s6 : Word) (also : List (Nat × Word)) : Op :=
  let key := if (s.core c).bankOn then 4 else (s.core c).cur
  match s.storeTo c va 0 w also with
  | .taken s =>
    let y := s.ctx c key
    .taken (s.setCtx c key { y with susp := y.susp.map fun x => { x with s6 := some s6 } })
  | r => r

/-- Put a new cell at the head of a bucket (R218, MOD[0] 0). -/
def State.pushBucket (s : State) (c rd va : Nat) (old pair s6 : Word) : Op :=
  match s.newObj c tCons [pair, old] with
  | (s, .inl f) => .bad s f
  | (s, .inr p) => s.routineStore c va p s6 (s.wr c rd pair)

/-- Put a word into the cdr of a pair found (R218, MOD[0] 1): a store in the sense of R164, so a cdr that is UNINIT faults (log entry
102). -/
def State.updatePair (s : State) (c rd : Nat) (e pair s6 : Word) : Op :=
  match s.loadW c (pay pair + 8) with
  | (s, .inl f) => .bad s f
  | (s, .inr v) => match storeSrc v false with
    | some cause => .bad s (flt xTag cause)
    | none => s.routineStore c (pay e + 8) v s6 (s.wr c rd e)

/-- HSET: it keeps the address of the bucket, the old bucket and the key. -/
def State.hsetLeg (s : State) (c rd : Nat) (update : Bool) (r : MicroRec) : Leg :=
  let t := r.operands.getD 0 0
  let pair := r.operands.getD 1 0
  let s6 := r.temps.headD 0
  let fin := fun (s : State) (w : Walk) => match w with
    | .found e _ _ => s.updatePair c rd e pair s6
    | .ended _ _ keep => s.pushBucket c rd (keep.getD 0 0).toNat (keep.getD 1 0) pair s6
    | .more _ _ keep => s.pushBucket c rd (keep.getD 0 0).toNat (keep.getD 1 0) pair s6
  s.walkLeg c 3 r (visitPair c fun keep => keep.getD 2 0) fin fun s k =>
    match s.tableOps c t (fun w => tagOf w == tCons) pair with
    | (s, .inl f) => .fin (.bad s f)
    | (s, .inr h) =>
      if headLen h = 0 then .fin (.bad s (flt xTag cHeader))
      else match s.loadW c (pay pair) with
        | (s, .inl f) => .fin (.bad s f)
        | (s, .inr key) => match s.bucket c t h key with
          | (s, .inl f) => .fin (.bad s f)
          | (s, .inr (va, old)) =>
            let s := s.spend c 16
            if update then k old [BitVec.ofNat 64 va, old, key] s else .fin (s.pushBucket c rd va old pair s6)

/-- HALLOC (R219): VEC of `n` elements, or a CONS. Its stores come after the context's older ones. -/
def State.opHalloc (s : State) (c rd : Nat) (cons : Bool) (a : Word) : Op :=
  let s := s.spend c 40
  let w := s.world_ c
  let n := if cons then 2 else pay a + 1
  if stProv (s.st c) = 1 then .bad s (flt xProvStore 0)
  else if cons = false ∧ (fixI a < 0 ∨ 4194303 < fixI a) then s.result c rd nilW
  else match (s.drainAll c (s.core c).cur).holdAlloc c w (objBytes n) with
    | (s, .inl f) => .bad s f
    | (s, .inr none) => s.result c rd nilW
    | (s, .inr (some va)) =>
      if cons then s.result c rd (ptrW tCons va)
      else (s.storeOut c (s.holdPa w (va - holdVa 0)) (headW 1 0 (pay a))).result c rd (ptrW tVec va)

/-- EPOCH of a world's hold heap; open for a world without one. -/
def State.epoch (s : State) (c w : Nat) : State × (Flt ⊕ Nat) :=
  if s.holdBlocks w = 0 then (s.useFree, .inr s.freeVal.toNat)
  else match s.metaGet c w 0x10 with
    | (s, .inl f) => (s, .inl f)
    | (s, .inr e) => (s, .inr (bf e 55 0))

/-- HGC (R205): the context asks for a collection cycle of its world. -/
def State.opHgc (s : State) (c rd : Nat) : Op :=
  let s := s.spend c 20
  let w := s.world_ c
  if s.haOn 4 0 then .bad s (flt xIllegalOp 0)
  else match s.epoch c w with
    | (s, .inl f) => .bad s f
    | (s, .inr n) => ({ s with gc := sset 0 w (c * 4 + (s.core c).cur + 1) s.gc }).result c rd (fixN n)

/-- CPYL (Table 6.6). -/
def execCpyl (core : CoreId) (rd ra : Reg5) (s : State) : Out :=
  .next (s.listOp core (regsOk [rd, ra]) [ra] (fun s => [s.rget core ra.toNat])
    (fun _ l => firstBad [(isConsNil, l.getD 0 0)]) fun s r => s.cpylLeg core rd.toNat r)
/-- ASSOC (Table 6.6). -/
def execAssoc (core : CoreId) (rd ra rb : Reg5) (s : State) : Out :=
  .next (s.listOp core (regsOk [rd, ra, rb]) [ra, rb] (fun s => [s.rget core ra.toNat, s.rget core rb.toNat])
    (fun _ l => firstBad [(isConsNil, l.getD 0 0), (anyTag, l.getD 1 0)]) fun s r => s.assocLeg core rd.toNat r)
/-- HLOOK (R218). -/
def execHlook (core : CoreId) (rd ra rb : Reg5) (s : State) : Out :=
  .next (s.listOp core (regsOk [rd, ra, rb]) [ra, rb] (fun s => [s.rget core ra.toNat, s.rget core rb.toNat])
    (fun _ l => firstBad [(isVec, l.getD 0 0)]) fun s r => s.hlookLeg core rd.toNat r)
/-- HSET (R218). -/
def execHset (core : CoreId) (rd ra rb : Reg5) (mode : BitVec 4) (s : State) : Out :=
  .next (s.listOp core (regsOk [rd, ra, rb] && decide (mode.toNat < 2)) [ra, rb]
    (fun s => [s.rget core ra.toNat, s.rget core rb.toNat])
    (fun _ l => firstBad [(isVec, l.getD 0 0)]) fun s r => s.hsetLeg core rd.toNat (mode == 1) r)
/-- LLEN (Table 6.6). -/
def execLlen (core : CoreId) (rd ra : Reg5) (s : State) : Out :=
  .next (s.listOp core (regsOk [rd, ra]) [ra] (fun s => [s.rget core ra.toNat])
    (fun _ l => firstBad [(isConsNil, l.getD 0 0)]) fun s r => s.llenLeg core rd.toNat r)
/-- HALLOC (R219). -/
def execHalloc (core : CoreId) (rd ra : Reg5) (mode : BitVec 4) (s : State) : Out :=
  .next (s.listOp core (regsOk [rd, ra] && decide (mode.toNat < 2)) (if mode = 1 then [] else [ra]) (fun s => [s.rget core ra.toNat])
    (fun _ l => if mode = 1 then none else firstBad [(isFix, l.getD 0 0)])
    fun s r => .fin (s.opHalloc core rd.toNat (mode == 1) (r.operands.getD 0 0)))
/-- HGC (R205, Table 6.6). -/
def execHgc (core : CoreId) (rd : Reg5) (s : State) : Out :=
  .next (s.listOp core (regsOk [rd]) [] (fun _ => [])
    (fun s _ => if s.sup core then none else some (flt xPrivileged 0)) fun s _ => .fin (s.opHgc core rd.toNat))

/-! ### Collection cycle (R152, R153) -/

/-- Where a word that the trace visits lies: a register, or memory at a virtual and a physical address. -/
inductive Loc where
  | reg (core key : Nat)
  | mem (va pa : Nat)
  deriving DecidableEq, Repr

/-- The word at a place; an uncorrectable one is DATA_ERROR (R345). -/
def State.locGet (s : State) (c : Nat) : Loc → State × (Flt ⊕ Word)
  | .reg i k => (s, .inr (s.rf i k))
  | .mem va pa => s.coreGet c pa va

def State.locPut (s : State) (c : Nat) (l : Loc) (v : Word) : State :=
  match l with
  | .reg i k => s.rput i k v
  | .mem _ pa => s.storeOut c pa v

/-- What the trace has done: objects reached, and live bytes by block. -/
structure Traced where
  seen : List Nat
  live : Sparse Nat
  /-- No block took an object of an EVACUATING block. -/
  stuck : Bool
  deriving DecidableEq, Repr

/-- Words of an object whose first word is `h`; one with a header that fails the check of R145 is one word long (log entry 106). -/
def objWords (p h : Word) : Nat :=
  if tagOf p = tCons then 2 else if headerOk (tagOf p) h then headLen h + 1 else 1

/-- The object is live: its words are to be visited, the bytes it takes count for its block (log entry 106). -/
def Traced.mark (t : Traced) (va n : Nat) : Traced :=
  let b := (va - holdVa 0) / blockSize
  { t with seen := va :: t.seen, live := if isHoldVa va then sset 0 b (sget 0 b t.live + objBytes n) t.live else t.live }

/-- Words of an object at a physical address, in order. -/
def State.objRead (s : State) (c va pa : Nat) : Nat → State × (Flt ⊕ List Word)
  | 0 => (s, .inr [])
  | n + 1 => match s.coreGet c pa va with
    | (s, .inl f) => (s, .inl f)
    | (s, .inr w) => match s.objRead c (va + 8) (pa + 8) n with
      | (s, .inl f) => (s, .inl f)
      | (s, .inr ws) => (s, .inr (w :: ws))

/-- The places of the words of an object. -/
def objLocs (va pa n : Nat) : List Loc := (List.range n).map fun i => .mem (va + 8 * i) (pa + 8 * i)

/-- An object of `n` words in an EVACUATING block moves to an open block; its old words become FWD words, and the word that led to it
points to the copy. -/
def State.evacuate (s : State) (c w : Nat) (t : Traced) (l : Loc) (p : Word) (pa n : Nat) :
    State × (Flt ⊕ (Traced × List Loc)) :=
  match s.holdAlloc c w (objBytes n) with
  | (s, .inl f) => (s, .inl f)
  | (s, .inr none) => (s, .inr ({ t.mark (pay p) n with stuck := true }, objLocs (pay p) pa n))
  | (s, .inr (some va)) => match s.objRead c (pay p) pa n with
    | (s, .inl f) => (s, .inl f)
    | (s, .inr ws) =>
      let dst := s.holdPa w (va - holdVa 0)
      let ws := if tagOf p = tCons then ws else copyWord [] true (ws.headD 0) :: ws.drop 1
      let s := ((List.range n).zip ws).foldl (fun s e => s.storeOut c (dst + 8 * e.1) e.2) s
      let s := (List.range n).foldl (fun s i => s.storeOut c (pa + 8 * i) (ptrW tFwd (va + 8 * i))) s
      (s.locPut c l (ptrW (tagOf p) va), .inr (t.mark va n, objLocs va dst n))

/-- Visit one word: answers the trace and the words to visit next. -/
def State.visit (s : State) (c w : Nat) (t : Traced) (l : Loc) : State × (Flt ⊕ (Traced × List Loc)) :=
  match s.locGet c l with
  | (s, .inl f) => (s, .inl f)
  | (s, .inr p) =>
    if !isObject (tagOf p) || malformed p || t.seen.contains (pay p) then (s, .inr (t, []))
    else match s.heapPa w (pay p) with
      | none => (s, .inr (t, []))
      | some pa => match s.coreGet c pa (pay p) with
        | (s, .inl f) => (s, .inl f)
        | (s, .inr h) =>
          if tagOf h = tFwd then (s.locPut c l (ptrW (tagOf p) (pay h)), .inr (t, [l]))
          else
            let n := objWords p h
            if isHoldVa (pay p) then
              match s.metaGet c w (blockOff ((pay p - holdVa 0) / blockSize)) with
              | (s, .inl f) => (s, .inl f)
              | (s, .inr e) => if bf e 55 52 = 3 then s.evacuate c w t l p pa n else (s, .inr (t.mark (pay p) n, objLocs (pay p) pa n))
            else (s, .inr (t.mark (pay p) n, objLocs (pay p) pa n))

/-- Visit words until none is left or the fuel is spent; what is left is answered. -/
def State.traceAll (s : State) (c w fuel : Nat) (t : Traced) (todo : List Loc) : State × (Flt ⊕ (Traced × List Loc)) :=
  match fuel, todo with
  | 0, _ => (s, .inr (t, todo))
  | _, [] => (s, .inr (t, []))
  | fuel + 1, l :: rest =>
    match s.visit c w t l with
    | (s, .inl f) => (s, .inl f)
    | (s, .inr (t, more)) => s.traceAll c w fuel t (more ++ rest)

/-- Roots of a world: the root table, registers of its contexts and bank, spill areas. -/
def State.rootTable (s : State) (w n : Nat) : List Loc := objLocs (holdVa 0x1000) (s.holdPa w 0x1000) (min 65536 n)

def State.ctxRoots (s : State) (c j w : Nat) : List Loc :=
  let y := s.ctx c j
  let wins := (List.range 72).filterMap fun i => if sget 0 (i / 8) y.groupW = w then some (Loc.reg c (j * 128 + i)) else none
  let globs := (List.range 8).map fun i => Loc.reg c (globKey j w i)
  let sp := s.reg (oSpill c j w)
  let spill := (List.range (bf sp 63 48 * 8)).filterMap fun i =>
    let va := bf sp 46 14 * 2 ^ 14 + 8 * i
    match (s.translate c w true .load va).2 with
    | .inr pa => some (Loc.mem va pa)
    | .inl _ => none
  wins ++ globs ++ spill

def State.coreRoots (s : State) (c w : Nat) : List Loc :=
  let bank := if s.field (oCore c 0x10) 61 61 = w then (List.range 24).map fun i => Loc.reg c (512 + i) else []
  bank ++ (List.range 4).flatMap fun j => s.ctxRoots c j w

/-- The block table after a trace, from block `b` on: EVACUATING blocks become FREE, live bytes are written. A block with an object that
found no room stays; live bytes of 2^25 do not fit the field and are stored as 0 (log entries 28 and 106). -/
def State.gcBlocks (s : State) (c w : Nat) (t : Traced) (b : Nat) : Nat → State × Option Flt
  | 0 => (s, none)
  | n + 1 => match s.metaGet c w (blockOff b) with
    | (s, .inl f) => (s, some f)
    | (s, .inr e) =>
      let st := bf e 55 52
      let v := setBf (setBf e 55 52 (if st = 3 ∧ t.stuck = false then 0 else st)) 24 0 (sget 0 b t.live)
      (if v = e then s else s.metaPut c w (blockOff b) v).gcBlocks c w t (b + 1) n

/-- The trace has ended: the block table is written and EPOCH advances. -/
def State.gcEnd (s : State) (c w : Nat) (t : Traced) : State × Option Flt :=
  match s.gcBlocks c w t 1 (s.holdBlocks w - 1) with
  | (s, some f) => (s, some f)
  | (s, none) =>
    let s := s.metaPut c w 0x10 (fixN (bf (s.metaW w 0x10) 55 0 + 1))
    ({ s.metaPut c w 0x20 0 with gc := sset 0 w 0 s.gc }, none)

/-- A cycle from its roots on, over as many words as `fuel` says: it ends, stays unfinished with the copies made so far, or meets an
uncorrectable word. -/
def State.gcRun (s : State) (c w fuel : Nat) : State × Option Flt :=
  match s.metaGet c w 0x18 with
  | (s, .inl f) => (s, some f)
  | (s, .inr e) =>
    let roots := s.rootTable w (bf e 55 0) ++ (List.range 512).flatMap fun i => s.coreRoots i w
    match s.traceAll c w fuel { seen := [], live := [], stuck := false } roots with
    | (s, .inl f) => (s, some f)
    | (s, .inr (t, [])) => s.gcEnd c w t
    | (s, .inr (_, _ :: _)) => (s, none)

/-- COLLECTION_CYCLE (R152): in a frame gap after the reset interval, the context that asked runs the cycle. Whether the trace ends
before cast-on, and how far one that does not has come, is open and free; a cycle that a cast-on has suspended restarts. An
uncorrectable word is a DATA_ERROR of the context, and the cycle stays unfinished (log entry 28). -/
def execCollectionCycle (t : Time) (core : CoreId) (ctx : CtxId) (s : State) : Out :=
  let s := s.at t
  let c : Nat := core
  let w := if sget 0 0 s.gc = c * 4 + ctx + 1 then 0 else 1
  .next (
    if sget 0 w s.gc ≠ c * 4 + ctx + 1 ∨ s.inGap = false ∨ s.haOn 4 0 = true ∨ s.holdBlocks w = 0 ∨ s.ctxFree c = false then s
    else
      let s := if bf (s.metaW w 0x20) 55 0 = 2 then s.metaPut c w 0x28 (fixN (bf (s.metaW w 0x28) 55 0 + 1)) else s
      let s := s.metaPut c w 0x20 (fixN 1)
      let f := s.freeVal.toNat
      match s.useFree.gcRun c w (if bit f 0 then 1000000000000 else f / 2) with
      | (s, none) => s
      | (s, some e) => { s with gc := sset 0 w 0 s.gc }.asCtx c ctx fun s => s.raise c e false false)

/-- At cast-on an unfinished cycle is suspended (R152). -/
def State.gcSuspend (s : State) : State :=
  [0, 1].foldl (fun s w =>
    if s.holdBlocks w ≠ 0 ∧ bf (s.metaW w 0x20) 55 0 = 1 then s.memPutBy 0 (cluOf ((sget 0 w s.gc - 1) / 4)) (s.holdPa w 0x20) [fixN 2]
    else s) s

end Sys2Proof.Machine
end

