-- ==== Sys2Proof/Machine/Control.lean ====
section
/-! DEFINITION. Control transfer, loops, repetition, returns, system and world calls (R184 to R202, R220, R221, R245 to R262). -/

namespace Sys2Proof.Machine

/-! ### Helpers -/

/-- The flow's address. -/
def State.pc (s : State) (c : Nat) : Nat := (s.flow c).pc

/-- A branch's cost: what the predictor does is open (Table 5.5). -/
def State.predict (s : State) (c right : Nat) : State :=
  (if bit s.freeVal.toNat 0 then s.spend c right else s.spend c 7).useFree

/-- Address `n` words from the running word. -/
def State.target (s : State) (c : Nat) (n : Int) : Nat := lowBits 47 ((s.pc c : Int) + 4 * n)

/-- A transfer target must be 4-byte aligned (R165); DETAIL[0] 1 and the target as the faulting address. -/
def alignBad (t : Nat) : Option Flt :=
  if t % 4 = 0 then none else some { cls := xAlign, cause := 0, detail := 1, va := t % 2 ^ 47 }

/-- Window shifts are barred in the bank and in the trap window (R241, R253, R270). -/
def State.noShift (s : State) (c : Nat) : Bool := (s.core c).bankOn || (s.core c).trap.isSome

/-- Transfer to a target. -/
def State.go (s : State) (t : Nat) : Res :=
  match alignBad t with
  | some f => .bad s f
  | none => .ok s (.jump t) []

def kT : Kind := { transfer := true }
def kL : Kind := { loop := true }

/-- A .S branch at the running word (R186, R188). -/
def State.slotNxt (s : State) (c : Nat) (target : Option Nat) (call : Bool) : Nxt :=
  .slot { pc := s.pc c, target := target, call := call, flags := (s.flow c).flags false false }

/-! ### Branches (R184 to R189) -/

/-- B (R184). -/
def execB (core : CoreId) (ofs : BitVec 25) (s : State) : Out :=
  .next (s.issue core kT 0 fun s => (s.predict core 3).go (s.target core ofs.toInt))

/-- B.S (R186, R188). -/
def execBS (core : CoreId) (ofs : BitVec 25) (s : State) : Out :=
  .next (s.issue core { kT with slot := true } 0 fun s =>
    match alignBad (s.target core ofs.toInt) with
    | some f => .bad s f
    | none => .ok (s.predict core 2) (s.slotNxt core (some (s.target core ofs.toInt)) false) [])

/-- A condition of Table 5.10: whether it holds, or the cause of its fault (R185). -/
def condHolds (cond : Nat) (w : Word) : Bool ⊕ Nat :=
  match readCause w with
  | some e => .inr e
  | none =>
    let t := tagOf w
    if 2 ≤ cond ∧ cond ≤ 7 ∧ t ≠ tFix then .inr cNoComb
    else .inl (if cond = 0 then t == tNil
      else if cond = 1 then t != tNil
      else if cond = 2 then pay w == 0
      else if cond = 3 then pay w != 0
      else if cond = 4 then decide (fixI w < 0)
      else if cond = 5 then decide (0 ≤ fixI w)
      else if cond = 6 then decide (0 < fixI w)
      else if cond = 7 then decide (fixI w ≤ 0)
      else if cond = 8 then t == tCons
      else t != tCons)

/-- BC and BC.S name a register and a condition that are defined. -/
def condOk (rt : Reg5) (cond : BitVec 4) : Bool := regsOk [rt] && decide (cond.toNat < 10)

/-- BC and BC.S: the word is illegal, faults, or goes on with the condition. -/
def State.cond (s : State) (c : Nat) (rt : Reg5) (cond : BitVec 4) (k : Bool → Res) : Res :=
  if condOk rt cond = false then .bad s (flt xIllegalInstr 0)
  else match condHolds cond.toNat (s.rget c rt.toNat) with
    | .inr e => .bad s (flt xTag e)
    | .inl holds => k holds

/-- BC (R184, R185). -/
def execBc (core : CoreId) (rt : Reg5) (cond : BitVec 4) (ofs : BitVec 16) (s : State) : Out :=
  .next (s.issue core { kT with legal := condOk rt cond, uses := [rt] } 0 fun s => s.cond core rt cond fun holds =>
    if holds then (s.predict core 3).go (s.target core ofs.toInt) else .ok (s.predict core 1) .seq [])

/-- BC.S (R186). -/
def execBcS (core : CoreId) (rt : Reg5) (cond : BitVec 4) (ofs : BitVec 16) (s : State) : Out :=
  .next (s.issue core { kT with legal := condOk rt cond, slot := true, uses := [rt] } 0 fun s => s.cond core rt cond fun holds =>
    let t := s.target core ofs.toInt
    match (if holds then alignBad t else none) with
    | some f => .bad s f
    | none => .ok (s.predict core (if holds then 2 else 1))
        (s.slotNxt core (if holds then some t else none) false) [])

/-! ### Calls and returns (R179, R184, R262, R263) -/

/-- What bars a call, in priority order (Table 7.4): a barred shift, a full shadow stack, window overflow. -/
def State.callBars (s : State) (c : Nat) (entry : Word) : Option Res :=
  if s.noShift c then some (.bad s (flt xIllegalOp 0))
  else match s.shadowPush c entry with
    | .inr e => some (.bad s (flt xControlFlow e))
    | .inl _ => if s.needOverflow c then some (.taken (s.overflowTrap c)) else none

/-- A call that nothing bars goes on. -/
def State.callWith (s : State) (c : Nat) (entry : Word) (k : State → Res) : Res :=
  match s.callBars c entry with
  | some r => r
  | none => k s

/-- The state with a shadow entry pushed. -/
def State.pushed (s : State) (c : Nat) (entry : Word) : State :=
  match s.shadowPush c entry with
  | .inl s => s
  | .inr _ => s

/-- Write LR and shift the window. -/
def State.linkShift (s : State) (c ra world : Nat) : State :=
  let y := (s.core c).me.shiftIn world
  s.setMe c { y with spec := { y.spec with lr := fixN ra } }

/-- CALL (R184). -/
def execCall (core : CoreId) (ofs : BitVec 25) (s : State) : Out :=
  .next (s.issue core kT 0 fun s =>
    let ra := s.target core 1
    let t := s.target core ofs.toInt
    let e := shadowW 0 0 0 ra
    s.callWith core e fun s =>
      match alignBad t with
      | some f => .bad s f
      | none => .ok (((s.pushed core e).linkShift core ra (s.world_ core)).predict core 3) (.jump t) [])

/-- CALL.S: the checks are made before the slot, the effects when it completes (R188). -/
def execCallS (core : CoreId) (ofs : BitVec 25) (s : State) : Out :=
  .next (s.issue core { kT with slot := true } 0 fun s =>
    let t := s.target core ofs.toInt
    s.callWith core (shadowW 0 0 0 (s.target core 2)) fun s =>
      match alignBad t with
      | some f => .bad s f
      | none => .ok (s.predict core 2) (s.slotNxt core (some t) true) [])

/-- Two words that follow one another in an object. -/
def State.loadPair (s : State) (c va : Nat) : State × (Flt ⊕ (Word × Word)) :=
  match s.loadW c va with
  | (s, .inl f) => (s, .inl f)
  | (s, .inr a) => match s.loadW c (va + 8) with
    | (s, .inl f) => (s, .inl f)
    | (s, .inr b) => (s, .inr (a, b))

/-- CALLR: ENTRY and ENV of a CODE object (R184). A read that faults has a lower priority than the checks of a call (Table 7.4), and so
has a misaligned ENTRY's. -/
def execCallr (core : CoreId) (ra : Reg5) (s : State) : Out :=
  .next (s.issue core { kT with legal := regsOk [ra], uses := [ra] } 8 fun s =>
    let p := s.rget core ra.toNat
    let r := s.target core 1
    let e := shadowW 0 0 0 r
    if regsOk [ra] = false then .bad s (flt xIllegalInstr 0)
    else if s.noShift core then .bad s (flt xIllegalOp 0)
    else match srcCause (fun w => tagOf w == tCode) p with
      | some e => .bad s (flt xTag e)
      | none => match s.header core p with
        | (s, .inl f) => if f.cls = xTag then .bad s f else s.callWith core e fun s => .bad s f
        | (s, .inr _) => s.callWith core e fun s =>
          match s.loadPair core (pay p + 8) with
          | (s, .inl f) => .bad s f
          | (s, .inr (entry, env)) =>
            let t := bf entry 46 0
            match alignBad t with
            | some f => .bad s f
            | none => .ok (((s.pushed core e).linkShift core r (s.world_ core)).rset core 6 env) (.jump t) [])

/-- J (R184); bits of the FIX above an address are not used (log entry 29). -/
def execJ (core : CoreId) (ra : Reg5) (s : State) : Out :=
  .next (s.issue core { kT with legal := regsOk [ra], uses := [ra] } 7 fun s =>
    let w := s.rget core ra.toNat
    if regsOk [ra] = false then .bad s (flt xIllegalInstr 0)
    else match srcCause isFix w with
      | some e => .bad s (flt xTag e)
      | none => s.go (bf w 46 0))

/-- The program of the running slice has returned through LR: the slice is PROV_DONE, or waits in FIRM_RUN for its commit; the context
holds it and runs nothing (R202, R264, Table 8.2). -/
def State.programEnd (s : State) (c : Nat) : State :=
  let s := s.showLoads c
  let j := (s.core c).cur
  let k := cluOf c
  let y := (s.core c).me
  let s := match y.prog with
    | none => s
    | some key => match s.slice k key with
      | none => s
      | some x => s.setSlice k { x with ended := true, st := if x.st = SliceSt.provRun then SliceSt.provDone else x.st }
  let s := (s.forgetJobs c j).shadowEmpty c j
  let y := s.ctx c j
  let s := s.setCtx c j { y with prog := none, micro := [], susp := none, flow := .start 0 }
  s.stopCtx c j (if y.slices = [] then 0 else 1) 0

/-- RET (R262, R263): the shadow check, then the window-underflow trap, then the return. -/
def execRet (core : CoreId) (s : State) : Out :=
  .next (s.issue core kT 0 fun s =>
    let c : Nat := core
    if s.noShift c then .bad s (flt xIllegalOp 0)
    else
      let hit := (s.core c).me.shadow != []
      match s.shadowRefill c with
      | (s, some e) => .bad s (flt xControlFlow e)
      | (s1, none) => match (s1.core c).me.shadow with
        | [] => .bad s1 (flt xControlFlow 3)
        | top :: rest =>
          let lr := bf (s1.core c).me.spec.lr 46 0
          if bf top 55 54 = 1 then .bad s1 (flt xControlFlow 2)
          else if bf top 46 0 ≠ lr then .bad s1 (flt xControlFlow 1)
          else if bf top 55 54 = 2 then .taken ((s1.spend c (if hit then 2 else 7)).programEnd c)
          else if s1.needUnderflow c then .taken (s1.underflowTrap c)
          else
            let y := (s1.core c).me.shiftOut
            ((s1.setMe c { y with shadow := rest }).spend c (if hit then 2 else 7)).go lr)

/-! ### Worlds (R257 to R260) -/

/-- Level and world bits of ST. -/
def setLevel (st : Word) (sup world : Nat) : Word := setBf (setBf st 31 31 sup) 30 30 world

/-- The entry a WCALL names, or the cause that bars it (Table 7.9): with ST.PROV 1 the cause is PROVISIONAL (R287). -/
def State.wentry (s : State) (c imm : Nat) : State × (Flt ⊕ Word) :=
  let other := 1 - s.world_ c
  let went := s.reg (oClu (cluOf c) (0x2028 + other * 8))
  let a := bf went 45 3 * 8 + imm * 8
  if stProv (s.st c) = 1 then (s, .inl (flt xWorldCall 3))
  else if bf went 63 48 ≤ imm then (s, .inl (flt xWorldCall 1))
  else match s.coreGet c a a with
    | (s, .inl f) => (s, .inl f)
    | (s, .inr e) => (s, if tagOf e ≠ tFix ∨ bf e 55 55 = 0 ∨ bf e 53 47 ≠ 0 then .inl (flt xWorldCall 2) else .inr e)

/-- WCALL (R258). -/
def execWcall (core : CoreId) (imm : BitVec 15) (s : State) : Out :=
  .next (s.issue core kT 12 fun s =>
    let c : Nat := core
    let ra := s.target c 1
    let st := s.st c
    let top := shadowW 1 (stSup st) (stWorld st) ra
    s.callWith c top fun s =>
      match s.wentry c imm.toNat with
      | (s, .inl f) => .bad s f
      | (s, .inr e) =>
        match alignBad (bf e 46 0) with
        | some f => .bad s f
        | none =>
          let other := 1 - stWorld st
          let s := s.pushed c top
          let y := (s.core c).me.shiftIn other
          let y := { y with spec := { y.spec with lr := 0, st := setLevel y.spec.st (bf e 54 54) other } }
          .ok (s.setMe c y) (.jump (bf e 46 0)) [])

/-- WRET (R259): the window-underflow trap comes before a WORLD_CALL fault (Table 7.4). -/
def execWret (core : CoreId) (s : State) : Out :=
  .next (s.issue core { kT with lastOk := true } 12 fun s =>
    let c : Nat := core
    if s.noShift c then .bad s (flt xIllegalOp 0)
    else match s.shadowRefill c with
      | (s, some e) => .bad s (flt xControlFlow e)
      | (s1, none) => if s1.needUnderflow c then .taken (s1.underflowTrap c) else match (s1.core c).me.shadow with
        | [] => .bad s1 (flt xWorldCall 5)
        | top :: rest =>
          if bf top 55 54 ≠ 1 then .bad s1 (flt xWorldCall 4)
          else
            let y := (s1.core c).me.shiftOut
            let y := { y with shadow := rest, spec := { y.spec with st := setLevel y.spec.st (bf top 53 53) (bf top 52 52) } }
            (s1.setMe c y).go (bf top 46 0))

/-! ### Loops and repetition (R190 to R197) -/

/-- A count register: an index, an illegal operation, or a tag fault (R190, R196). -/
def State.countOf (s : State) (c : Nat) (ra : Reg5) : Flt ⊕ Nat :=
  let w := s.rget c ra.toNat
  match srcCause isFix w with
  | some e => .inl (flt xTag e)
  | none => if fixI w < 0 ∨ 2 ^ 28 ≤ fixI w then .inl (flt xIllegalOp 0) else .inr (pay w)

/-- Start a loop over the next `n` words (R190, R193). -/
def State.loop (s : State) (c n : Nat) (count : Flt ⊕ Nat) : Res :=
  let p := s.spec c
  let st := s.st c
  let pc := s.pc c
  let outer := bf p.lb0 46 0 + bf p.lb0 55 47 * 4
  if stLdep st = 2 ∨ (stLdep st = 1 ∧ outer < pc + 4 * n) then .bad s (flt xIllegalOp 0)
  else match count with
    | .inl f => .bad s f
    | .inr 0 => .ok s (.jump (pc + 4 * n + 4)) []
    | .inr k =>
      let lc := setBf (setBf 0 55 28 (bf p.lc 27 0)) 27 0 k
      let lb := setBf (setBf 0 55 47 (n - 1)) 46 0 ((pc + 4) % 2 ^ 47)
      let s := s.setSpec c { p with lb1 := p.lb0, lb0 := lb, lc := lc }
      .ok (s.setSt c (setBf (s.st c) 26 25 (stLdep st + 1))) .seq []

/-- LOOPR: field `n` holds the body length less 1 (R190). -/
def execLoopr (core : CoreId) (ra : Reg5) (n : BitVec 9) (s : State) : Out :=
  .next (s.issue core { kL with legal := regsOk [ra], uses := [ra] } 2 fun s =>
    if regsOk [ra] = false then .bad s (flt xIllegalInstr 0) else s.loop core (n.toNat + 1) (s.countOf core ra))

/-- LOOPI (R190). -/
def execLoopi (core : CoreId) (count : BitVec 10) (n : BitVec 9) (s : State) : Out :=
  .next (s.issue core kL 2 fun s => s.loop core (n.toNat + 1) (.inr count.toNat))

/-- LBRK (R194). -/
def execLbrk (core : CoreId) (s : State) : Out :=
  .next (s.issue core kL 1 fun s =>
    let p := s.spec core
    let d := stLdep (s.st core)
    if d = 0 then .bad s (flt xIllegalOp 0)
    else
      let s := s.setSpec core { p with lb0 := p.lb1, lc := setBf 0 27 0 (bf p.lc 55 28), lb1 := 0 }
      .ok (s.setSt core (setBf (s.st core) 26 25 (d - 1))) .seq [])

/-- Start a repetition (R196). -/
def State.repeat_ (s : State) (c : Nat) (count : Flt ⊕ Nat) : Res :=
  match count with
  | .inl f => .bad s f
  | .inr n =>
    let p := s.spec c
    .ok (s.setSpec c { p with rc := fixN n })
      (.rep { pc := s.pc c, old := p.rc, started := false, flags := (s.flow c).flags false false }) []

/-- REPR (R196). -/
def execRepr (core : CoreId) (ra : Reg5) (s : State) : Out :=
  .next (s.issue core { kL with legal := regsOk [ra], rep := true, uses := [ra] } 1 fun s =>
    if regsOk [ra] = false then .bad s (flt xIllegalInstr 0) else s.repeat_ core (s.countOf core ra))

/-- REPI (R196). -/
def execRepi (core : CoreId) (count : BitVec 15) (s : State) : Out :=
  .next (s.issue core { kL with rep := true } 1 fun s => s.repeat_ core (.inr count.toNat))

/-! ### System call and return from exception -/

/-- SYS (R221): the system-call exception, with EPC after the SYS; barred in the bank (R241). -/
def execSys (core : CoreId) (imm : BitVec 15) (s : State) : Out :=
  .next (s.issue core { kT with lastOk := true } 0 fun s =>
    if (s.core core).bankOn then .bad s (flt xIllegalOp 0)
    else
      let f := s.flow core
      .taken ((s.setFlow core { f with pc := (f.pc + 4) % 2 ^ 47 }).raise core
        { cls := xSyscall, cause := 0, detail := imm.toNat, va := 0 } false false))

/-- Where a program resumes by its resume flags (Table 5.12). No flag says how the word was reached: it counts as reached by a transfer
(R193); the target of a resumed repetition, whose REP word lies before it, is judged again (R197, log entry 109). -/
def resumeFlow (epc flags : Nat) (rc : Word) : Flow :=
  { Flow.start epc with
    plyB := bit flags 3
    rep := if bit flags 2 then some { pc := (epc + 2 ^ 47 - 4) % 2 ^ 47, old := rc, started := false, flags := 0 } else none
    jumped := true }

/-- Resume nothing: the slice is abandoned and the context is IDLE (R247). -/
def State.resumeNothing (s : State) (c : Nat) : State :=
  let j := (s.core c).cur
  let k := cluOf c
  match (s.core c).me.prog.bind (s.slice k) with
  | some x => s.abandon k x
  | none =>
    let y := s.ctx c j
    let s := s.setCtx c j { y with flow := .start 0, micro := [] }
    s.stopCtx c j (if y.slices = [] then 0 else 1) 0

/-- Leave a window trap (R250, R251): the trapping call or return executes again. -/
def State.leaveTrap (s : State) (c : Nat) (t : TrapSt) : State :=
  let j := (s.core c).cur
  let o := oSpill c j t.world
  let depth := s.field o 63 48
  let s := s.setField o 63 48 (if t.kind = 1 then depth + 1 else depth - 1)
  let y := s.ctx c j
  let wres := stWres y.spec.st
  let st := setBf y.spec.st 23 20 (if t.kind = 1 then wres - 1 else wres + 1)
  let y := { y with spec := { y.spec with st := st },
                    spillW := if t.kind = 1 then t.world :: y.spillW else y.spillW.drop 1,
                    groupW := if t.kind = 1 then y.groupW else sset 0 t.group t.world y.groupW }
  (s.setCtx c j y).setCore c { (s.setCtx c j y).core c with trap := none }

/-- Leave the double-fault handler (R270); a misaligned EPC is a fault of the ERET (R165). -/
def State.leaveDouble (s : State) (c : Nat) (t : TrapSt) : Res :=
  let y := (s.core c).me
  let epc := bf y.spec.epc 46 0
  match alignBad epc with
  | some f => .bad s f
  | none =>
    let s := (s.showLoads c).spend c 7
    let x := s.core c
    let y' := { y with level := y.level - 1, flow := resumeFlow epc (bf y.spec.esr 39 34) y.spec.rc, spec := { y.spec with st := t.exc.st } }
    let s := s.setCore c ({ x with trap := none }.setCtx x.cur y')
    .taken (if y.spec.epc = 0 then s.resumeNothing c else s)

/-- The check of Table 7.6 that a saved ST fails. -/
def forgery (cur saved : Word) : Option Nat :=
  if stWorld saved ≠ stWorld cur then some 1
  else if stProv saved ≠ stProv cur then some 2
  else if stHeld saved = 1 then some 3
  else if bf saved 63 32 ≠ 0 ∨ bf saved 24 24 ≠ 0 ∨ bf saved 19 0 ≠ 0 then some 4
  else none

/-- Read a word of the entry frame at supervisor level. -/
def State.frameGet (s : State) (c a : Nat) : State × (Flt ⊕ Word) :=
  if a % 8 ≠ 0 then (s, .inl { cls := xAlign, cause := 0, detail := 0, va := a }) else s.loadAt c true a

/-- Read the first three words of the entry frame. -/
def State.frameRead (s : State) (c sp : Nat) : State × (Flt ⊕ (Word × Word × Word)) :=
  match s.frameGet c sp with
  | (s, .inl f) => (s, .inl f)
  | (s, .inr a) => match s.frameGet c (sp + 8) with
    | (s, .inl f) => (s, .inl f)
    | (s, .inr b) => match s.frameGet c (sp + 16) with
      | (s, .inl f) => (s, .inl f)
      | (s, .inr d) => (s, .inr (a, b, d))

/-- ERET of an ordinary handler (R245 to R247). -/
def State.leaveExc (s : State) (c : Nat) : Res :=
  let y := (s.core c).me
  let j := (s.core c).cur
  let w := stWorld y.spec.st
  let epc := bf y.spec.epc 46 0
  let sp := bf (s.rf c (globKey j w 7)) 46 0
  match alignBad epc with
  | some f => .bad s f
  | none => match s.frameRead c sp with
    | (s, .inl f) => .bad s f
    | (s, .inr (saved, e, r)) =>
      match forgery y.spec.st saved with
      | some code => .bad s { cls := xForgery, cause := 0, detail := code, va := 0 }
      | none =>
        let s := s.showLoads c
        let y := (s.core c).me
        let y' := { y with level := y.level - 1, flow := resumeFlow epc (bf y.spec.esr 39 34) y.spec.rc,
                           spec := { y.spec with st := saved, epc := e, esr := r } }
        let s := (s.setMe c y').rput c (globKey j w 7) (fixN (sp + 32))
        let s := if stSup saved = 0 then s.swapSsp c j w else s
        let s := s.spend c 7
        .taken (if y.spec.epc = 0 then s.resumeNothing c else s)

/-- ERET (R240, R245, R250, R251, R270). -/
def execEret (core : CoreId) (s : State) : Out :=
  .next (s.issue core { kT with lastOk := true } 0 fun s =>
    let c : Nat := core
    let x := s.core c
    if s.sup c = false then .bad s (flt xPrivileged 0)
    else if x.bankOn then
      let s := (s.showLoads c).spend c 7
      .taken (s.setCore c { s.core c with bankOn := false, bankGap := true })
    else match x.trap with
      | some t => if t.kind = 3 then s.leaveDouble c t else .taken (((s.showLoads c).spend c 7).leaveTrap c t)
      | none => s.leaveExc c)

end Sys2Proof.Machine
end

