-- ==== Sys2Proof/Machine/System.lean ====
section
/-! DEFINITION. Special registers, the multiplier, ordering, TLB and cache instructions, staging, customer instructions
(R175 to R181, R222 to R227, R311 to R325), and the cluster's own cache events. -/

namespace Sys2Proof.Machine

/-! ### Special registers (R175, R181, Table 5.7) -/

/-- A special register is illegal here: numbers 12 and up, MRH and MRL on a general core. -/
def specIllegal (c n : Nat) : Bool := decide (12 ≤ n) || ((n == 7 || n == 8) && !isFit c)

/-- Value of special register `n`; EPC, ESR, MRH and MRL of the bank are those of the interrupted context (log entry 31). -/
def State.specGet (s : State) (c n : Nat) : Word :=
  let p := s.spec c
  let q := (s.core c).me.spec
  if n = 0 then p.lr else if n = 1 then p.bank else if n = 2 then p.lc else if n = 3 then p.rc
  else if n = 4 then s.st c
  else if n = 5 then q.epc else if n = 6 then q.esr else if n = 7 then q.mrh else if n = 8 then q.mrl
  else if n = 9 then fixN (s.tick c)
  else if n = 10 then p.lb0 else p.lb1

/-- Write special register `n` other than ST; bits outside its fields are zero. -/
def State.specPut (s : State) (c n : Nat) (v : Word) : State :=
  let p := s.spec c
  let x := s.core c
  let q := x.me.spec
  let put := fun (q : SpecSt) => s.setMe c { x.me with spec := q }
  if n = 0 then s.setSpec c { p with lr := fixN (bf v 46 0) }
  else if n = 1 then s.setSpec c { p with bank := fixN (bf v 46 20 * 2 ^ 20) }
  else if n = 2 then s.setSpec c { p with lc := fixN (pay v) }
  else if n = 3 then s.setSpec c { p with rc := fixN (bf v 27 0) }
  else if n = 5 then put { q with epc := fixN (bf v 46 0) }
  else if n = 6 then put { q with esr := fixN (pay v) }
  else if n = 7 then put { q with mrh := v }
  else if n = 8 then put { q with mrl := v }
  else if n = 10 then s.setSpec c { p with lb0 := fixN (pay v) }
  else s.setSpec c { p with lb1 := fixN (pay v) }

/-- EPC and ESR are closed to user level. -/
def specClosed (n : Nat) : Bool := n == 5 || n == 6

/-- MFS (R181). -/
def execMfs (core : CoreId) (rd : Reg5) (spec : BitVec 5) (s : State) : Out :=
  let n := spec.toNat
  .next (s.issueOp core (regsOk [rd] && !specIllegal core n) [] (if n = 9 then 2 else 1) fun s =>
    if specClosed n && !s.sup core then .bad s (flt xPrivileged 0) else s.result core rd.toNat (s.specGet core n))

/-- A word that MTS accepts for a register. -/
def specSrc (n : Nat) (w : Word) : Bool := isFix w || ((n == 7 || n == 8) && (tagOf w == tSflt || tagOf w == tNil))

/-- MTS (R181, R198). -/
def execMts (core : CoreId) (spec : BitVec 5) (ra : Reg5) (s : State) : Out :=
  let n := spec.toNat
  let legal := regsOk [ra] && !specIllegal core n
  .next (s.issue core { legal := legal, writesRc := n == 3, writesSt := n == 4, uses := [ra] } (if n = 1 ∨ n = 4 then 3 else 1) fun s =>
    let w := s.rget core ra.toNat
    if legal = false then .bad s (flt xIllegalInstr 0)
    else if (specClosed n || n == 4) && !s.sup core then .bad s (flt xPrivileged 0)
    else if n = 9 then .bad s (flt xIllegalOp 0)
    else match srcCause (specSrc n) w with
      | some e => .bad s (flt xTag e)
      | none => if n = 4 then .ok s (.seqSt w) [] else .ok (s.specPut core n w) .seq [])

/-! ### Multiplier (R175 to R178, Table 5.6) -/

/-- Cause of a multiplier operand pair (R176). -/
def mulCause (a b : Word) : Option Nat :=
  match genericCause a b with
  | some 0 => some cNoComb
  | some e => some e
  | none =>
    let ok := fun w => tagOf w == tFix || tagOf w == tSflt
    if ok a && ok b then none else some cNoComb

/-- The accumulator of an XFMA: the result in flight, or MRH and MRL (R177). -/
def CtxSt.acc (y : CtxSt) : Word × Word :=
  match y.mult.getLast? with
  | some e => e.2
  | none => (y.spec.mrh, y.spec.mrl)

/-- MRH and MRL of a 112-bit sum. -/
def wide (i : Int) : Word × Word :=
  let n := lowBits 112 i
  (fixN (n / 2 ^ 56), fixN (n % 2 ^ 56))

/-- FIX accumulator, zero when it does not match. -/
def accFix (a : Word × Word) : Int :=
  if isFix a.1 && isFix a.2 then sx 112 (pay a.1 * 2 ^ 56 + pay a.2) else 0

/-- A FIX or SFLT word as a value. -/
def mulVal (w : Word) : FVal := if tagOf w = tFix then fofInt (fixI w) else fdec (pay w * 256)

/-- Result of XMUL, or of XFMA on the accumulator `acc`. -/
def State.mulRes (s : State) (acc : Option (Word × Word)) (a b : Word) : State × (Word × Word) :=
  if isFix a && isFix b then (s, wide (fixI a * fixI b + (acc.map accFix).getD 0))
  else
    let p := fmul (mulVal a) (mulVal b)
    let v := match acc with
      | none => p
      | some q => fadd p (if tagOf q.2 = tSflt then fdec (pay q.2 * 256) else .fin false 0 0)
    let r := s.sfltW v
    (r.1, (nilW, r.2))

/-- Issue a multiplier operation: its result reaches MRH and MRL four cycles later. -/
def State.mulOp (s : State) (c : Nat) (fma : Bool) (ra rb : Reg5) : State :=
  s.issueOp c (regsOk [ra, rb] && isFit c) [ra, rb] 1 fun s =>
    let a := s.rget c ra.toNat
    let b := s.rget c rb.toNat
    match mulCause a b with
    | some e => .bad s (flt xTag e)
    | none =>
      let y := (s.core c).me
      let r := s.mulRes (if fma then some y.acc else none) a b
      let y := (r.1.core c).me
      .ok (r.1.setMe c { y with mult := y.mult ++ [(s.tick c, r.2.1, r.2.2)] }) { writes := [], loads := [] }

/-- XMUL. -/
def execXmul (core : CoreId) (ra rb : Reg5) (s : State) : Out := .next (s.mulOp core false ra rb)
/-- XFMA. -/
def execXfma (core : CoreId) (ra rb : Reg5) (s : State) : Out := .next (s.mulOp core true ra rb)

/-! ### Ordering (R222, R223) -/

/-- FENCE: every store of the context has left its queue. -/
def execFence (core : CoreId) (s : State) : Out :=
  .next (s.issueOp core true [] 1 fun s =>
    let s := s.unblock core
    let j := (s.core core).cur
    let s := if (s.core core).me.storeQ = [] then s else (s.drainAll core j).stall core
    .ok s { writes := [], loads := [] })

/-- DSYNC: the decode copy is refreshed (R431). -/
def execDsync (core : CoreId) (s : State) : Out :=
  .next (s.issueOp core true [] 16 fun s =>
    .ok (s.setCore core { s.core core with dec := s.ucode.decA }) { writes := [], loads := [] })

/-! ### TLB instructions (R224, R311 to R313) -/

/-- Every TLB of the device acts on a TLBI: L1 entries chosen go, cluster entries chosen go when unlocked, generations rise. The L1 TLBs
of a core in reset hold nothing. -/
def State.tlbi (s : State) (p : TlbEnt → Bool) : State :=
  let s := (List.range 512).foldl (fun s c =>
    let x := s.core c
    if x.up then
      s.setCore c { x with itlb := x.itlb.filter (fun e => !p e), dtlb := x.dtlb.filter (fun e => !p e), gen := x.gen + 1 }
    else s) s
  (List.range 32).foldl (fun s k =>
    let x := s.clu k
    s.setClu k { x with tlb := x.tlb.filter (fun e => e.2.locked || !p e.2), gen := x.gen + 1 }) s

/-- A TLBI of a supervisor word; it ends within 512 core cycles (R224). -/
def State.tlbiOp (s : State) (c : Nat) (legal : Bool) (uses : List Reg5) (src : Option Word) (check : Word → Bool) (p : Word → Nat → TlbEnt → Bool) : State :=
  s.issueOp c legal uses 0 fun s =>
    let w := src.getD 0
    if s.sup c = false then .bad s (flt xPrivileged 0)
    else if src.isSome && tagOf w == tFix && !check w then .bad s (flt xIllegalOp 0)
    else match (if src.isSome then srcCause isFix w else none) with
      | some e => .bad s (flt xTag e)
      | none =>
        let world := s.world_ c
        let s := (s.spend c (s.freeVal.toNat % 513)).useFree
        .ok (s.tlbi (p w world)) { writes := [], loads := [] }

/-- TLBI.A (R312). -/
def execTlbiA (core : CoreId) (ra : Reg5) (s : State) : Out :=
  .next (s.tlbiOp core (regsOk [ra]) [ra] (some (s.rget core ra.toNat)) (fun _ => true) fun w world e => e.hits world (bf w 46 0))
/-- TLBI.W (R312). -/
def execTlbiW (core : CoreId) (ra : Reg5) (s : State) : Out :=
  .next (s.tlbiOp core (regsOk [ra]) [ra] (some (s.rget core ra.toNat)) (fun w => decide (pay w < 2)) fun w _ e => e.world == pay w)
/-- TLBI.ALL (R312). -/
def execTlbiAll (core : CoreId) (s : State) : Out :=
  .next (s.tlbiOp core true [] none (fun _ => true) fun _ _ _ => true)

/-- Locked entries of a cluster. -/
def CluSt.lockedN (x : CluSt) : Nat := (x.tlb.filter fun e => e.2.locked).length

/-- Lock the entry that translates an address (R311); a miss of the cluster TLB is counted and walks (R313). -/
def State.lockEntry (s : State) (c w va : Nat) : Op :=
  let k := cluOf c
  let s' := match (s.clu k).tlb.find? fun e => e.2.hits w va with
    | some _ => (s, Sum.inr ())
    | none => match (s.bump (oCnt k 0x4100)).walkFill k w va (accFault .load va) false 5 with
      | (s, .inl f) => (s, Sum.inl f)
      | (s, .inr (e, fill)) => (if fill then s.cluTlb k e else s, Sum.inr ())
  match s' with
  | (s, .inl f) => .bad s f
  | (s, .inr _) =>
    let x := s.clu k
    match x.tlb.find? fun e => e.2.hits w va with
    | none => .ok s { writes := [], loads := [] }
    | some e =>
      if e.2.locked then .ok s { writes := [], loads := [] }
      else if 7 ≤ (x.tlb.filter fun a => a.1 == e.1 && a.2.locked).length then .bad s { flt xIllegalOp 0 with detail := 1 }
      else
        let tlb := x.tlb.map fun a => if a = e then (a.1, { a.2 with locked := true }) else a
        .ok (s.setClu k { x with tlb := tlb }) { writes := [], loads := [] }

/-- TLBLK (R222, R311). -/
def execTlblk (core : CoreId) (ra : Reg5) (s : State) : Out :=
  .next (s.issueOp core (regsOk [ra]) [ra] 4 fun s =>
    let c : Nat := core
    let w := s.rget c ra.toNat
    if s.sup c = false then .bad s (flt xPrivileged 0)
    else if (s.clu (cluOf c)).lockedN = 64 then .bad s (flt xIllegalOp 0)
    else match srcCause isFix w with
      | some e => .bad s (flt xTag e)
      | none => (s.stall c).lockEntry c (s.world_ c) (bf w 46 0))

/-- TLBUL (R312). -/
def execTlbul (core : CoreId) (ra : Reg5) (s : State) : Out :=
  .next (s.issueOp core (regsOk [ra]) [ra] 4 fun s =>
    let c : Nat := core
    let w := s.rget c ra.toNat
    if s.sup c = false then .bad s (flt xPrivileged 0)
    else match srcCause isFix w with
      | some e => .bad s (flt xTag e)
      | none =>
        let x := s.clu (cluOf c)
        let tlb := x.tlb.map fun a => if a.2.hits (s.world_ c) (bf w 46 0) then (a.1, { a.2 with locked := false }) else a
        .ok (s.setClu (cluOf c) { x with tlb := tlb }) { writes := [], loads := [] })

/-! ### L2 (R225, R320 to R325) -/

/-- Bring a line into a way and mark it (R225, R325), whatever the way holds (log entry 30); a dirty victim goes first (R320). Answers
the way that holds the line. -/
def State.preloadLine (s : State) (k line way : Nat) : State × Nat :=
  match s.l2Find k line with
  | some w => if w = way then (s.l2Set k line w ((s.l2At k line w).map fun x => { x with mark := true }), w) else (s, w)
  | none =>
    let s := s.l2Miss k line false
    let put := fun (s : State) (behind : Option Nat) =>
      let s := s.l2Set k line way (some { line := line, dirty := false, mark := true, behind := behind, one := 0, two := 0, lost := 0 })
      if line * 64 < 0x100000000000 then s.track line else s
    match s.l2At k line way with
    | none => (put s none, way)
    | some v =>
      let s := (s.l2Set k line way none).l1Drop k v.line none
      (if v.dirty then put (s.evictLine k v) (some v.line) else put s none, way)

/-- PRELOAD (R225). -/
def execPreload (core : CoreId) (rd ra rb : Reg5) (s : State) : Out :=
  .next (s.issueOp core (regsOk [rd, ra, rb]) [ra, rb] 1 fun s =>
    let c : Nat := core
    let k := cluOf c
    let a := s.rget c ra.toNat
    let b := s.rget c rb.toNat
    if s.sup c = false then .bad s (flt xPrivileged 0)
    else if isFix b ∧ (15 < pay b ∨ bit (s.lockMask k) (pay b)) then .bad s (flt xIllegalOp 0)
    else match firstBad [(isFix, a), (isFix, b)] with
      | some f => .bad s f
      | none => match s.translate c (s.world_ c) true .load (bf a 46 0) with
        | (s, .inl f) => .bad s f
        | (s, .inr pa) =>
          if isDevice pa then s.result c rd.toNat (fixN (pay b))
          else match s.coreGet c pa (bf a 46 0) with
            | (s, .inl f) => .bad s f
            | (s, .inr _) =>
              let r := (s.stall c).preloadLine k (pa / 64) (pay b)
              r.1.result c rd.toNat (fixN r.2))

/-- L2LOCK (R222, R324). -/
def execL2lock (core : CoreId) (ra : Reg5) (s : State) : Out :=
  .next (s.issueOp core (regsOk [ra]) [ra] 4 fun s =>
    let w := s.rget core ra.toNat
    if s.sup core = false then .bad s (flt xPrivileged 0)
    else if tagOf w = tFix ∧ (bf w 55 16 ≠ 0 ∨ 12 < popcount16 (bf w 15 0)) then .bad s (flt xIllegalOp 0)
    else match srcCause isFix w with
      | some e => .bad s (flt xTag e)
      | none => .ok (s.setL2lock (cluOf core) (bf w 15 0)) { writes := [], loads := [] })

/-- CLU_L2LOCK_WRITE (R324). -/
def execCluL2lockWrite (t : Time) (c : ClusterId) (v : Word) (s : State) : Out := .next ((s.at t).l2lockWrite c v)

/-- EVICTION_ACCEPT (R320, R321): the controller takes the line, the register is free for the next eviction of its bank. A write-back
waits in the crossing while its controller is OFF (R512). -/
def execEvictionAccept (t : Time) (c : ClusterId) (bank : Fin 8) (s : State) : Out :=
  let s := s.at t
  .next (match sget none bank.val (s.clu c).evict with
    | none => s
    | some v =>
      if ctlOf (v.line * 64) < s.stacks ∧ s.domain (80 + ctlOf (v.line * 64)) = 0 then s else s.evictAccept c bank.val)

/-- SNOOP (R321, R329): the holder answers from its L2, or from an eviction register, whose eviction stands. A snoop of the host takes the
line out of the L1s of the cluster, and the host that asks holds the line from then on. -/
def execSnoop (t : Time) (holder : ClusterId) (by_ : Snooper) (pa : BitVec 46) (write : Bool) (s : State) : Out :=
  let s := s.at t
  let line := pa.toNat / 64
  let s := s.snoopLine holder line write
  .next (match by_ with
    | .cluster _ => s
    | .host =>
      let s := s.l1Drop holder line none
      if pa.toNat < s.stacks * stackSize then
        { s with hostLines := sset 0 line (if write then 2 else max 1 (sget 0 line s.hostLines)) s.hostLines }.track line
      else s)

/-! ### Staging (R226) -/

/-- STAGE (R226). -/
def execStage (core : CoreId) (ra : Reg5) (s : State) : Out :=
  .next (s.issueOp core (regsOk [ra]) [ra] 10 fun s =>
    let c : Nat := core
    let k := cluOf c
    let p := s.rget c ra.toNat
    match (s.core c).me.prog.bind (s.slice k) with
    | none => .bad s (flt xIllegalOp 0)
    | some x =>
      if 64 ≤ x.staged.length then .bad s (flt xIllegalOp 0)
      else checked s [(isVec, p)] <| match s.header c p with
        | (s, .inl f) => .bad s f
        | (s, .inr h) =>
          if headLen h ≠ 8 then .bad s (flt xTag cHeader)
          else match s.loadWs c (pay p + 8) 8 with
            | (s, .inl f) => .bad s f
            | (s, .inr ws) =>
              match s.slice k x.key with
              | none => .ok s { writes := [], loads := [] }
              | some x => .ok (s.setSlice k { x with staged := x.staged ++ [ws] }) { writes := [], loads := [] })

/-! ### Customer instructions (R227, R423, R432) -/

/-- The decode entry of CX `n` in the core's decode copy: the fault of an unbound, barred or privileged slot, or its microaddress. -/
def State.cxEntry (s : State) (c n : Nat) : Flt ⊕ Nat :=
  let e := sget 0 (32 + n) (s.core c).dec
  if bf e 63 63 = 0 then .inl (flt xIllegalInstr 0)
  else if bf e 61 61 = 1 ∧ isFit c = false then .inl (flt xIllegalInstr 0)
  else if bf e 62 62 = 1 ∧ s.sup c = false then .inl (flt xPrivileged 0)
  else .inr (bf e 14 0)

/-- CX (R227); a routine at a safe point or in a record runs on whatever its slot is bound to now (R433). -/
def execCx (core : CoreId) (slot : BitVec 5) (rd ra rb : Reg5) (mode : BitVec 4) (s : State) : Out :=
  .next (s.issueOp core (regsOk [rd, ra, rb]) [ra, rb] 0 fun s =>
    let ops := [s.rget core ra.toNat, s.rget core rb.toNat, BitVec.ofNat 64 mode.toNat]
    if s.resumable core false then s.customer core rd.toNat 0 6 false ops
    else match s.cxEntry core slot.toNat with
      | .inl f => .bad s f
      | .inr m => s.customer core rd.toNat m 6 false ops)

/-- SAFE_POINT_OVERRUN (R422, R423): the customer routine of the running CX word is stopped at a microaddress. -/
def execSafePointOverrun (core : CoreId) (slot : BitVec 5) (maddr : BitVec 15) (s : State) : Out :=
  .next (s.issueOp core true [] 0 fun s =>
    let s6 := ((s.flow core).run.map fun r => r.temps.headD 0).getD (s.rget core 22)
    match s.cxEntry core slot.toNat with
    | .inl f => .bad s f
    | .inr _ => ((s.spend core 262).seqFault 1 maddr.toNat).keepS6 core s6)

/-! ### Decode table (R429, R430) -/

/-- DECODE_TABLE_ACCESS (R430). -/
def execDecodeTableAccess (t : Time) (write : Bool) (v : Word) (s : State) : Out := .next ((s.at t).decAccess write v)

end Sys2Proof.Machine
end

