-- ==== Sys2Proof/Machine/Contexts.lean ====
section
/-! DEFINITION. Scheduler events of a core: switches, timers, interrupts, the fast-interrupt bank, the hold limit, the clearing of
ST.PROV (R231 to R241, R265 to R267, R288). -/

namespace Sys2Proof.Machine

/-- The boundary is a recognition point of the running context (R235). -/
def State.recognises (s : State) (c : Nat) : Bool := (s.core c).run && s.runs c && !s.noRecog c

/-- CONTEXT_SWITCH (R233, R234, R236): the best READY context runs when none runs, or when it preempts the running one. -/
def execContextSwitch (core : CoreId) (s : State) : Out :=
  let c : Nat := core
  .next (
    if (s.core c).run = false then (if (s.core c).bankOn ∨ s.clocked (cluOf c) = false then s else s.schedule c)
    else if s.recognises c = false then s
    else match s.bestOf c ((List.range 4).filter fun j => s.preempts c j) with
      | none => s
      | some j => s.switchTo c j)

/-- CTX_TIMER_EXPIRY (R237): TICK has reached a compare value that is not 0. -/
def execCtxTimerExpiry (core : CoreId) (ctx : CtxId) (s : State) : Out :=
  let c : Nat := core
  let v := s.field (oTimer c ctx) 55 0
  .next (
    if v = 0 ∨ s.tick c < v ∨ (s.core c).up = false ∨ s.clocked (cluOf c) = false then s
    else
      let s := s.raiseCtx (c * 4 + ctx) irqTimer
      if (s.core c).bankOn then s else s.schedule c)

/-- CTX_TIMER_WRITE (R237). -/
def execCtxTimerWrite (t : Time) (core : CoreId) (ctx : CtxId) (v : Word) (s : State) : Out :=
  .next ((s.at t).timerWrite core ctx v)

/-- A source is taken: it is no longer pending in its context. -/
def State.irqTake (s : State) (c j code : Nat) : State :=
  let y := s.ctx c j
  if code ≤ 2 then s.irqClear (c * 4 + j) code
  else if code = 3 then s.setCtx c j { y with seenErr := s.irqErr }
  else if code = 4 then s.setCtx c j { y with seenCast := s.irqCast }
  else s.setCtx c j { y with seenBind := s.irqBind }

/-- INTERRUPT_TAKEN (R237, Table 7.4): EPC is the next word; flags are those of that word. At a safe point that is the word whose routine
stands there (R417). -/
def execInterruptTaken (core : CoreId) (s : State) : Out :=
  let c : Nat := core
  .next (
    if s.recognises c = false then s
    else
      let j := (s.core c).cur
      match s.irqNext c j with
      | none => s
      | some code =>
        let f := s.flow c
        ((s.irqTake c j code).stopRun c).enterExc c { cls := 3, cause := code, detail := 0, va := 0 } f.pc (f.flags f.plyB f.plyB))

/-! ### Fast-interrupt bank (R238 to R241) -/

/-- The bank's source is pending. -/
def State.bankPending (s : State) (c code : Nat) : Bool :=
  let x := s.core c
  if code = 1 ∨ code = 2 then bit (sget 0 (10000 + c) s.irqs) code
  else if code = 3 then x.bankErr != s.irqErr
  else if code = 4 then x.bankCast != s.irqCast
  else code == 5 && x.bankBind != s.irqBind

/-- The bank's source is taken. -/
def State.bankTake (s : State) (c code : Nat) : State :=
  let x := s.core c
  if code ≤ 2 then s.irqClear (10000 + c) code
  else if code = 3 then s.setCore c { x with bankErr := s.irqErr }
  else if code = 4 then s.setCore c { x with bankCast := s.irqCast }
  else s.setCore c { x with bankBind := s.irqBind }

/-- FIQ_ENTRY (R239, R240). A core on which no context runs enters the bank at once (log entry 32). -/
def execFiqEntry (core : CoreId) (s : State) : Out :=
  let c : Nat := core
  let q := s.reg (oCore c 0x10)
  let x := s.core c
  let code := bf q 55 52
  let free := if x.run then s.recognises c && !x.bankGap else s.clocked (cluOf c) && x.up && !x.bankOn && x.trap.isNone
  .next (
    if bf q 63 63 = 0 ∨ bf q 62 62 = 1 ∨ s.bankPending c code = false ∨ free = false then s
    else
      let s := (s.bankTake c code).stopRun c
      let x := s.core c
      let st := setBf (setLevel (setBf x.bank.st 31 0 0) (bf q 60 60) (bf q 61 61)) 27 27 1
      let st := setBf (setBf st 26 25 (stLdep x.bank.st)) 23 20 1
      (s.setCore c { x with bankOn := true, bankFlow := .start (bf q 46 2 * 4), bank := { x.bank with st := st },
                            holdAt := s.tick c }).spend c 3)

/-! ### Hold limit (R267, Table 7.12) -/

/-- HOLD_OVERRUN. -/
def execHoldOverrun (core : CoreId) (s : State) : Out :=
  let c : Nat := core
  let x := s.core c
  let f := x.flow
  let flags := f.flags f.plyB f.plyB
  .next (
    if s.runs c = false ∨ s.holdOut c = false then s
    else
      let s := (s.stopRun c).showLoads c
      if x.bankOn then s.bankFault c 2 0
      else match x.trap with
        | some t => if t.kind = 3 then s.tripleFault c else s.doubleFault c t.exc { flt 2 0 with detail := t.exc.cls } flags t.world
        | none =>
          let epc := match f.branch with
            | some b => b.pc
            | none => f.pc
          s.enterExc c { cls := 2, cause := 0, detail := x.me.exc.cls, va := 0 } epc flags)

/-! ### ST.PROV (R288) -/

/-- PROV_CLEAR: the slice is firm, it is the oldest the context holds, and no handler is active. -/
def execProvClear (core : CoreId) (ctx : CtxId) (s : State) : Out :=
  let c : Nat := core
  let j : Nat := ctx
  let y := s.ctx c j
  let firm : Bool := match y.prog with
    | none => false
    | some key => y.slices.head? == some key && (match s.slice (cluOf c) key with
      | some x => x.st == .firmRun
      | none => false)
  .next (
    if (s.core c).cur = j ∧ s.recognises c ∧ firm ∧ y.level = 0 then
      s.setCtx c j { y with spec := { y.spec with st := setBf y.spec.st 28 28 0 } }
    else s)

end Sys2Proof.Machine
end

