-- ==== Sys2Proof/Machine/Slices.lean ====
section
/-! DEFINITION. Slices up to their first issue (08_provisional_execution.md): program table, copies, watermarks at a cluster, dispatch,
build. -/

namespace Sys2Proof.Machine

/-! ### Program table (R277, R278) -/

/-- The region's first copy of the frame makes the dispatcher read its entry; an invalid one is recorded (R277, R278). -/
def State.progRead (s : State) (k g : Nat) : State :=
  let z := s.clu k
  if z.badProg.contains g ∨ sget [] g z.progs ≠ [] then s
  else
    let a := s.progAddr k g
    let s := s.devLine 2 k a
    let z := s.clu k
    match s.progPeek k g with
    | some ws => s.setClu k { z with progs := sset [] g ws z.progs }
    | none =>
      let s := match (List.range 4).find? fun i => (s.busErr (a + 8 * i)).isSome with
        | some i => s.busErrLog (a + 8 * i) 2 k
        | none => s
      (s.setClu k { s.clu k with badProg := g :: z.badProg }).err 1 2 k 1 g

/-! ### Watermarks of a region (R100) -/

/-- Rows in service that serve a region, with its class in each. -/
def State.serving (s : State) (g : Nat) : List (Nat × Nat) :=
  (List.range 32).filterMap fun r =>
    if s.rowIn r then ((s.row r).served.find? fun e => e.1 == g).map fun e => (r, e.2) else none

/-- FW(g) and PW(g) as last received at the cluster. -/
def State.regionFw (s : State) (k g : Nat) : Nat :=
  minOr s.lenL ((s.serving g).map fun e => sget 0 (e.1 * 64 + e.2) (s.clu k).fw)
def State.regionPw (s : State) (k g : Nat) : Nat := minOr s.lenL ((s.serving g).map fun e => sget 0 e.1 (s.clu k).pw)

/-- The slice may start on the provisional watermark (R282, Table 14.9). -/
def State.provAllowed (s : State) (k : Nat) (x : Slice) : Bool :=
  let v := s.effReg (oClu k 0x3008)
  bf (s.progWord k x.key.region 2) 55 55 == 1 && bf v 8 8 == 1 && decide (x.unravels < bf v 3 0) && !s.haOn 2 k

/-- The dispatch condition (R282). -/
def State.canDispatch (s : State) (k : Nat) (x : Slice) : Bool :=
  let g := x.key.region
  decide (s.sliceTarget k x.key ≤ (if s.provAllowed k x then s.regionPw k g else s.regionFw k g))

/-- The firm condition (R289). -/
def State.firm (s : State) (k : Nat) (key : SliceKey) : Bool := decide (s.sliceE k key ≤ s.regionFw k key.region)

/-- State in which a slice waits for a context. -/
def State.waitState (s : State) (k : Nat) (x : Slice) : SliceSt :=
  if s.canDispatch k x then SliceSt.queued else SliceSt.waiting

/-- A watermark has moved: slices whose dispatch condition holds are queued, provisional ones become firm, and lose their checkpoint
when no older slice stands before them (R281, R289). A slice that is to be unravelled waits for that. -/
def State.sliceMove (s : State) (k : Nat) (x : Slice) : State :=
  if x.st = SliceSt.waiting ∧ s.canDispatch k x then s.setSlice k { x with st := .queued }
  else if x.st = SliceSt.provRun ∧ x.late = false ∧ s.firm k x.key then
    let eldest : Bool := match x.holder with
      | some h => (s.ctx h.1 h.2).slices.head? == some x.key
      | none => true
    s.setSlice k { x with st := .firmRun, ckpt := if eldest then none else x.ckpt }
  else s

/-- Judge every slice of a cluster. -/
def State.slicesMove (s : State) (k : Nat) : State := (s.clu k).slices.foldl (fun s x => s.sliceMove k x) s

/-! ### Copies (R280, R284, R291, R292) -/

/-- Frame-relative time of a copy in 2^-6 ns units. -/
def DispWord.time (d : DispWord) : Nat := wordKey d.word / 16

/-- The slice whose interval holds a copy's time. -/
def State.keyOf (s : State) (k g : Nat) (d : DispWord) : SliceKey :=
  { region := ⟨g % 4096, Nat.mod_lt _ (by decide)⟩, idx := d.time / max 1 (s.sliceK k g * s.slotW) }

/-- Some slice may still list a copy: one that has a descriptor, or could still get one. -/
def State.copyNeeded (s : State) (k g : Nat) (d : DispWord) : Bool :=
  let sw := max 1 (s.sliceK k g * s.slotW)
  let key := s.keyOf k g d
  (List.range (bf (s.progWord k g 2) 15 0 / sw + 2)).any fun m =>
    let y : SliceKey := { key with idx := key.idx - m }
    decide (m ≤ key.idx) && decide (d.time < s.sliceTarget k y) &&
      ((s.slice k y).isSome || (!((s.clu k).gone.any fun e => e.1 == y) && decide (s.regionFw k g < s.sliceE k y)))

/-- Copies that no slice can list leave the hit queue. -/
def State.pruneCopies (s : State) (k : Nat) : State :=
  let z := s.clu k
  let l := z.copies.map fun e => (e.1, e.2.filter fun d => s.copyNeeded k e.1 d)
  s.setClu k { z with copies := l.filter fun e => !e.2.isEmpty }

/-- The copy joins the hit queue; `due` becomes its time of arrival. -/
def State.storeCopy (s : State) (k g : Nat) (d : DispWord) : State :=
  let z := s.clu k
  s.setClu k { z with copies := sset [] g (sget [] g z.copies ++ [{ d with due := s.now }]) z.copies }

/-- A new descriptor (R280). -/
def newSlice (key : SliceKey) : Slice :=
  { key := key, st := .waiting, ended := false, prov := false, unravels := 0, holder := none, ckpt := none, staged := [],
    late := false, rebuild := false, begun := 0, lost := false, mark := 0, markChunk := 0, taken := [] }

/-- Report every slot of a slice (R280). -/
def State.reportSlots (s : State) (k : Nat) (key : SliceKey) : State :=
  (List.range (s.sliceAfter k key - s.sliceFirst k key)).foldl (fun s i => s.slotRep (32 + k) (s.sliceFirst k key + i)) s

/-- A copy that would create a slice finds no descriptor free (R280). -/
def State.descFull (s : State) (k : Nat) (key : SliceKey) : State :=
  let s := (s.bump (oCnt k 0x3140)).reportSlots k key
  if (s.clu k).fullRec then s else (s.setClu k { s.clu k with fullRec := true }).err 1 2 k 2 key.region

/-- A copy after commit, or after the slice has become firm, is dropped (R291). -/
def State.lateCommit (s : State) (k g : Nat) : State := (s.bump (oCnt k 0x3158)).err 2 2 k 4 g

/-- What a copy does to the slice whose interval holds it: the state, and whether the copy is kept. -/
def State.copyToSlice (s : State) (k : Nat) (d : DispWord) (key : SliceKey) : State × Bool :=
  match s.slice k key with
  | some x =>
    if x.st = SliceSt.firmRun then (s.lateCommit k key.region, false)
    else if x.st = SliceSt.provRun ∨ x.st = SliceSt.provDone then (s.setSlice k { x with late := true }, true)
    else if x.st = SliceSt.build then (s.setSlice k { x with rebuild := true }, true)
    else (s, true)
  | none => match (s.clu k).gone.find? fun e => e.1 == key with
    | some e => if e.2 then (s.lateCommit k key.region, false) else (s.bump (oCnt k 0x3160), true)
    | none =>
      if d.halo then (s, true)
      else if 8192 ≤ (s.clu k).slices.length then (s.descFull k key, false)
      else
        let x := newSlice key
        (s.setClu k { s.clu k with slices := (s.clu k).slices ++ [{ x with st := s.waitState k x }] }, true)

/-- A copy reaches the dispatcher. -/
def State.copyIn (s : State) (k : Nat) (d : DispWord) : State :=
  let g := d.target
  let s := s.progRead k g
  if s.runsRegion k g = false then s.bump (oCnt k 0x3150)
  else
    let r := s.copyToSlice k d (s.keyOf k g d)
    if r.2 then ((r.1.storeCopy k g d).pruneCopies k).wakeCheck k else r.1

/-- DISPATCH_WORD_ARRIVAL: the oldest word whose crossbar transit has ended (R30, R113, R280). -/
def execDispatchWordArrival (t : Time) (c : ClusterId) (s : State) : Out :=
  let s := s.at t
  let k : Nat := c
  match sget [] k s.cluIn with
  | [] => .next s
  | d :: rest =>
    if t < d.due then .next s
    else
      let s : State := { s with cluIn := sset [] k rest s.cluIn }
      .next (if d.eof then s.setClu k { s.clu k with eofs := d.row :: (s.clu k).eofs } else (s.copyIn k d).stir k)

/-- WATERMARK_RECEIVE: the oldest message whose transit has ended (R101, R282, R289). -/
def execWatermarkReceive (t : Time) (c : ClusterId) (s : State) : Out :=
  let s := s.at t
  let k : Nat := c
  match sget [] k s.wmIn with
  | [] => .next s
  | m :: rest =>
    if t < m.due then .next s
    else
      let z := s.clu k
      let fw := if m.cls < 64 then sset 0 (m.row * 64 + m.cls) m.fw z.fw else z.fw
      let s : State := { s with wmIn := sset [] k rest s.wmIn }
      .next ((((s.setClu k { z with pw := sset 0 m.row m.pw z.pw, fw := fw }).slicesMove k).pruneCopies k).wakeCheck k)

/-! ### Dispatch (R283, R286, R583) -/

/-- Order of R283: deadline, region, index. -/
def State.sliceBefore (s : State) (k : Nat) (a b : SliceKey) : Bool :=
  let x := s.cutoffT (s.sliceFirst k a)
  let y := s.cutoffT (s.sliceFirst k b)
  decide (x < y ∨ (x = y ∧ (a.region < b.region ∨ (a.region = b.region ∧ a.idx < b.idx))))

/-- Insert a slice by the order of R283. -/
def State.insertSlice (s : State) (k : Nat) (x : Slice) : List Slice → List Slice
  | [] => [x]
  | y :: l => if s.sliceBefore k x.key y.key then x :: y :: l else y :: s.insertSlice k x l

/-- The QUEUED slices in order. -/
def State.queuedSlices (s : State) (k : Nat) : List Slice :=
  ((s.clu k).slices.filter fun x => x.st == .queued).foldl (fun l x => s.insertSlice k x l) []

/-- Cores that may run a region's slices: FIT asks for a fit core. -/
def State.fitsCore (s : State) (k g c : Nat) : Bool := bf (s.progWord k g 2) 54 54 == 0 || isFit c

/-- Contexts that may take the slice, in order of core and context. -/
def State.candidates (s : State) (k : Nat) (x : Slice) : List (Nat × Nat) :=
  let g := x.key.region
  let cores := (List.range 16).map fun i => k * 16 + i
  (cores.filter fun c => s.fitsCore k g c && (s.core c).up && !(s.core c).out).flatMap fun c =>
    ([0, 1, 2, 3].filter fun j => s.ctxWorld c j == bf (s.progWord k g 2) 53 53).map fun j => (c, j)

/-- The context holds one slice, which is in PROV_DONE and is not to be unravelled. -/
def State.provDoneCtx (s : State) (k : Nat) (h : Nat × Nat) : Bool :=
  match (s.ctx h.1 h.2).slices with
  | [key] => (match s.slice k key with
    | some y => y.st == .provDone && !y.late
    | none => false)
  | _ => false

/-- The first context that qualifies (R283). -/
def State.chooseCtx (s : State) (k : Nat) (x : Slice) : Option (Nat × Nat) :=
  let l := s.candidates k x
  match l.find? fun h => s.ctxState h.1 h.2 == 0 && (s.ctx h.1 h.2).slices.isEmpty with
  | some h => some h
  | none => if s.provAllowed k x then l.find? fun h => s.provDoneCtx k h else none

/-- The context's allocation pointer is usable; else allocation starts at the heap base (log entry 63). -/
def State.fixS6 (s : State) (c j w : Nat) : State :=
  let v := s.rf c (globKey j w 6)
  let b := frameVa (cluOf c)
  if tagOf v = tFix ∧ pay v % 16 = 0 ∧ b ≤ pay v ∧ pay v < b + s.frameSize (cluOf c) w then s
  else (s.rput c (globKey j w 6) (fixN b)).setChunk c j w 0

/-- The chunk that holds the context's allocation pointer, none (0) when no chunk does. -/
def State.s6Chunk (s : State) (c j w : Nat) : Nat :=
  let v := pay (s.rf c (globKey j w 6))
  if v % 65536 ≠ 0 then v / 65536 * 65536 else if sget 0 w (s.ctx c j).chunk = v then v else 0

/-- The checkpoint of Table 8.3. -/
def State.checkpoint (s : State) (c j w : Nat) (x : Slice) : Ckpt :=
  let y := s.ctx c j
  { win := (List.range 16).map fun r => s.rf c (winKey j y.base r)
    globals := (List.range 8).map fun i => s.rf c (globKey j w i)
    spec := y.spec
    base := y.base
    depth := s.field (oSpill c j w) 63 48
    shadow := y.shadow
    spilled := s.field (oShadow c j) 55 43
    staged := x.staged.length
    chunk := y.chunk }

/-- Give a slice to a context: BUILD begins (R283, R286). Multiplier operations in flight end before the checkpoint (R178). -/
def State.giveTo (s : State) (k : Nat) (x : Slice) (h : Nat × Nat) : State :=
  let w := s.ctxWorld h.1 h.2
  let s := (s.fixS6 h.1 h.2 w).multOf h.1 h.2
  let y := s.ctx h.1 h.2
  let x := { x with st := SliceSt.build, holder := some h, ckpt := some (s.checkpoint h.1 h.2 w x), rebuild := false,
                    begun := s.now, late := false, ended := false, mark := pay (s.rf h.1 (globKey h.2 w 6)),
                    markChunk := s.s6Chunk h.1 h.2 w, taken := [] }
  let s := s.setCtx h.1 h.2 { y with state := 1, waits := 1, slices := y.slices ++ [x.key] }
  (s.setSlice k x).stir k

/-- The first QUEUED slice that finds a context. -/
def State.dispatchFirst (s : State) (k : Nat) : List Slice → State
  | [] => s
  | x :: l => match s.chooseCtx k x with
    | some h => s.giveTo k x h
    | none => s.dispatchFirst k l

/-- SLICE_DISPATCH (R283, R583): a frame is cast on and the cluster is HOT and not under test. -/
def execSliceDispatch (t : Time) (c : ClusterId) (s : State) : Out :=
  let s := s.at t
  let k : Nat := c
  .next (
    if s.castOn = false then s
    else
      let s := s.coverage k
      if s.clocked k = false ∨ (s.clu k).bist ≠ 0 then s else s.dispatchFirst k (s.queuedSlices k))

/-! ### Build (R202, R284, R285) -/

/-- Order of R114. -/
def copyBefore (a b : DispWord) : Bool :=
  let x := wordKey a.word
  let y := wordKey b.word
  decide (x < y ∨ (x = y ∧ (a.row < b.row ∨ (a.row = b.row ∧ a.stream < b.stream))))

/-- Insert a copy behind those that it does not precede. -/
def insertCopy (d : DispWord) : List DispWord → List DispWord
  | [] => [d]
  | e :: l => if copyBefore d e then d :: e :: l else e :: insertCopy d l

/-- Copies that reached the cluster before the build began, in order. -/
def State.buildCopies (s : State) (k : Nat) (x : Slice) : List DispWord :=
  ((sget [] x.key.region.val (s.clu k).copies).filter fun d => decide (d.due ≤ x.begun)).foldl (fun l d => insertCopy d l) []

/-- The own list and the context list (R284). -/
def State.ownCopies (s : State) (k : Nat) (x : Slice) : List DispWord :=
  (s.buildCopies k x).filter fun d => !d.halo && decide (s.sliceS k x.key ≤ d.time ∧ d.time < s.sliceE k x.key)
def State.ctxCopies (s : State) (k : Nat) (x : Slice) : List DispWord :=
  (s.buildCopies k x).filter fun d =>
    decide ((if d.halo then s.sliceS k x.key else s.sliceE k x.key) ≤ d.time ∧ d.time < s.sliceTarget k x.key)

/-- Allocate `n` cells: their addresses and the pointer after them, or none when the heap is full. -/
def State.allocCells (s : State) (c j w s6 : Nat) : Nat → State × Option (List Nat × Nat)
  | 0 => (s, some ([], s6))
  | n + 1 => match s.allocAt c j w s6 16 with
    | (s, .inl _) => (s, none)
    | (s, .inr a) => match s.allocCells c j w a.2 n with
      | (s, none) => (s, none)
      | (s, some r) => (s, some (a.1 :: r.1, r.2))

/-- Write the cells of a list; `last` is its final cdr. -/
def State.putCells (s : State) (c w : Nat) (last : Word) : List (Nat × Word) → State
  | [] => s
  | e :: l =>
    let pa := s.framePa (cluOf c) w e.1
    let next := match l with
      | [] => last
      | f :: _ => ptrW tCons f.1
    ((s.storeOut c pa e.2).storeOut c (pa + 8) next).putCells c w last l

/-- Write a list on the frame heap: the list's word and the allocation pointer after it (R284). -/
def State.putList (s : State) (c j w s6 : Nat) (l : List DispWord) : State × Option (Word × Nat) :=
  let cut := decide (65536 < l.length)
  let l := l.take 65536
  let s := if cut then s.bump (oCnt (cluOf c) 0x3148) else s
  match s.allocCells c j w s6 l.length with
  | (s, none) => (s, none)
  | (s, some r) =>
    let cells := r.1.zip (l.map fun d => d.word)
    let head := match r.1 with
      | [] => nilW
      | a :: _ => ptrW tCons a
    ((s.putCells c w (if cut then trueW else nilW) cells).spend c l.length, some (head, r.2))

/-- ENTRY of the program's CODE object, read as CALLR reads it; none when it cannot be read (log entry 64). -/
def State.entryOf (s : State) (c w : Nat) (p : Word) : State × Option Nat :=
  let get : State → Nat → State × (Flt ⊕ Word) := fun s va => match s.translate c w true .load va with
    | (s, .inl f) => (s, .inl f)
    | (s, .inr pa) => s.coreGet c pa va
  match get s (pay p) with
  | (s, .inl _) => (s, none)
  | (s, .inr h) => match get s (pay p + 8) with
    | (s, .inl _) => (s, none)
    | (s, .inr e) => (s, if headerOk tCode h && bf e 46 0 % 4 == 0 then some (bf e 46 0) else none)

/-- ST at slice entry: that of a context after reset (R202, log entry 54). -/
def entrySt (world prov : Nat) : Word := setBf (stReset world) 28 28 prov

/-- REGION word and SPAN of a slice (R202). -/
def State.regionW (s : State) (g : Nat) : Word := mkTag tRegion (s.node * 4096 + g)
def State.sliceSpan (s : State) (k : Nat) (key : SliceKey) : Word :=
  spanW (s.sliceS k key) (s.sliceE k key - s.sliceS k key)

/-- Registers at slice entry: w0 to w15, s0 to s7 (R202). No other register of the context holds a value of an earlier slice: they hold
NIL, but for the allocation pointer of the other world (log entry 54). -/
def State.entryRegs (s : State) (k c j w : Nat) (key : SliceKey) (own ctx : Word) (s6 : Nat) : State :=
  let b := (s.ctx c j).base
  let wins := [s.regionW key.region, s.sliceSpan k key, own, ctx] ++ List.replicate 12 nilW
  let globs := List.replicate 6 nilW ++ [fixN s6, fixN (bf (s.progWord k key.region 3) 46 0)]
  let other := [0, 1, 2, 3, 4, 5, 7].map fun i => (globKey j (1 - w) i, nilW)
  let l := ((List.range 72).map fun r => (j * 128 + r, nilW)) ++ other ++
    ((List.range 16).map fun r => (winKey j b r, wins.getD r nilW)) ++
    ((List.range 8).map fun i => (globKey j w i, globs.getD i nilW))
  l.foldl (fun s e => s.rput c e.1 e.2) s

/-- Special registers at slice entry (R202): those that it does not name are as after reset (log entry 54). -/
def entrySpec (bank : Word) (world prov : Nat) : SpecSt :=
  { SpecSt.reset with lr := fixN Config.sliceExit, bank := bank, st := entrySt world prov }

/-- The context at slice entry (R202, R254, R264, R288). -/
def entryCtx (y : CtxSt) (key : SliceKey) (entry world prov : Nat) (bank : Word) : CtxSt :=
  { y with
    flow := .start entry
    spec := entrySpec bank world prov
    groupW := sset 0 y.base world (sset 0 ((y.base + 1) % 9) world y.groupW)
    shadow := [shadowW 2 0 0 Config.sliceExit]
    mult := []
    level := 0
    micro := []
    spillW := []
    prog := some key
    susp := none }

/-- The build has ended (R281, R284, R287, R295): provisional when FW(g) is below e_i, else firm without a checkpoint. -/
def State.begin (s : State) (k : Nat) (x : Slice) : State :=
  let prov := !s.firm k x.key
  let s := s.bump (oCnt k (if prov then 0x3100 else 0x3108))
  let top := bf (s.effReg (oClu k 0x3008)) 3 0
  let s := if 0 < x.unravels ∧ top ≤ x.unravels then s.bump (oCnt k 0x3128) else s
  s.setSlice k { x with st := if prov then SliceSt.provRun else SliceSt.firmRun, prov := prov,
                        ckpt := if prov then x.ckpt else none }

/-- The program starts on its context (R202). -/
def State.startProg (s : State) (k c j w : Nat) (key : SliceKey) (own ctx : Word) (s6 entry : Nat) (prov : Bool) : State :=
  let s := s.entryRegs k c j w key own ctx s6
  let s := s.setCtx c j (entryCtx (s.ctx c j) key entry w (b2n prov) (s.progWord k key.region 1))
  let s := ((s.setField (oSpill c j 0) 63 48 0).setField (oSpill c j 1) 63 48 0).setField (oShadow c j) 55 43 0
  let s := s.setCtx c j { s.ctx c j with state := 2, waits := 0 }
  (s.spend c 22).schedule c

/-- With F2 in host-assisted mode the host evaluates the slice; its context waits (Table 14.9). -/
def State.sendEval (s : State) (k c j w : Nat) (key : SliceKey) (own ctx : Word) (s6 : Nat) : State :=
  let d := s.cutoffT (s.sliceFirst k key)
  let s := s.rput c (globKey j w 6) (fixN s6)
  let s := s.haSend 2 0 (haUnit c j) (s.haDeadline 2 (some (s.cutoffT (s.sliceAfter k key - 1))))
    [s.regionW key.region, s.sliceSpan k key, own, ctx, s.progWord k key.region 0, BitVec.ofNat 64 (key.idx % 2 ^ 32),
     BitVec.ofNat 64 (devUnits d % 2 ^ 56)]
  s.setCtx c j { s.ctx c j with state := 1, waits := 3, prog := some key }

/-- FRAME_FULL in BUILD: the slice is abandoned with a record (R285). -/
def State.listsFail (s : State) (k : Nat) (x : Slice) : State := (s.abandon k x).err 1 2 k 3 x.key.region

/-- The lists are written: the slice begins. -/
def State.listsDone (s : State) (k c j w : Nat) (key : SliceKey) (own ctx : Word) (s6 : Nat) : State :=
  match s.slice k key with
  | none => s
  | some x =>
    if s.haOn 2 k then (s.begin k x).sendEval k c j w key own ctx s6
    else match s.entryOf c w (s.progWord k key.region 0) with
      | (s, none) => s.abandon k x
      | (s, some e) => (s.begin k x).startProg k c j w key own ctx s6 e (!s.firm k key)

/-- Write both lists, own list first, and begin. The stores that the context has committed stand before them. -/
def State.build (s : State) (k c j : Nat) (x : Slice) : State :=
  let w := s.ctxWorld c j
  let own := s.ownCopies k x
  let ctx := s.ctxCopies k x
  let s := s.drainAll c j
  match s.putList c j w (pay (s.rf c (globKey j w 6))) own with
  | (s, none) => s.listsFail k x
  | (s, some a) => match s.putList c j w a.2 ctx with
    | (s, none) => s.listsFail k x
    | (s, some b) => s.listsDone k c j w x.key a.1 b.1 b.2

/-- SLICE_START: the build of a slice ends; after a late copy it starts again (R284). -/
def execSliceStart (t : Time) (c : ClusterId) (k : SliceKey) (s : State) : Out :=
  let s := s.at t
  let n : Nat := c
  match s.slice n k with
  | none => .next s
  | some x =>
    .next (match x.holder with
      | none => s
      | some h =>
        if x.st ≠ SliceSt.build ∨ s.clocked n = false then s
        else if x.rebuild then s.setSlice n { x with rebuild := false, begun := t }
        else (s.build n h.1 h.2 x).stir n)

end Sys2Proof.Machine
end

