-- ==== Sys2Proof/Machine/SliceEnd.lean ====
section
/-! DEFINITION. How slices end (08_provisional_execution.md): commit, time-out, unravel, done times; replies of F2, F4 and F7 and items
without a reply (14_host_queues_modes.md). -/

namespace Sys2Proof.Machine

/-! ### Commit (R290, R297) -/

/-- The slice has ended, its input is firm, no copy asks for an unravel, it is the oldest of its context, and the output queue has
room. -/
def State.canCommit (s : State) (k : Nat) (x : Slice) : Bool :=
  x.ended && !x.late && s.firm k x.key &&
    (match x.holder with
      | some h => (s.ctx h.1 h.2).slices.head? == some x.key
      | none => false) &&
    decide ((sget [] k s.outqs).length + x.staged.length ≤ 1024)

/-- The next slice of a context has no older one before it: a firm one gives up its checkpoint (R289). -/
def State.nextOldest (s : State) (k : Nat) (h : Nat × Nat) : State :=
  match (s.ctx h.1 h.2).slices.head?.bind (s.slice k) with
  | some y => if y.st = SliceSt.firmRun then s.setSlice k { y with ckpt := none } else s
  | none => s

/-- Release the candidates and the descriptor. -/
def State.commit (s : State) (k : Nat) (x : Slice) : State :=
  let recs := x.staged.map fun ws => (ws, s.frame.count)
  let s : State := { s with outqs := sset [] k (sget [] k s.outqs ++ recs) s.outqs }
  let s := (s.bump (oCnt k 0x3110)).sliceGone k x true
  let s := match x.holder with
    | some h => s.nextOldest k h
    | none => s
  (s.pruneCopies k).stir k

/-- SLICE_COMMIT. -/
def execSliceCommit (t : Time) (c : ClusterId) (k : SliceKey) (s : State) : Out :=
  let s := s.at t
  let n : Nat := c
  .next (match s.slice n k with
    | none => s
    | some x => if s.canCommit n x then s.commit n x else s)

/-! ### Time-out (R28, R582) -/

/-- Slots of a slice that a lost core or a cluster out of service leaves without it, and whose cut-off is not yet handled. -/
def State.missReports (s : State) (k : Nat) (x : Slice) : State :=
  (List.range (s.sliceAfter k x.key - s.sliceFirst k x.key)).foldl (fun s i =>
    let n := s.sliceFirst k x.key + i
    if s.mast.cut ≤ n ∧ s.missesSlot k n then s.reefIn (32 + k) n else s) s

/-- A slice times out. -/
def State.timeOut (s : State) (k : Nat) (x : Slice) : State :=
  let s := ((s.missReports k x).bump (oCnt k 0x3130)).sliceGone k x false
  let s := match x.holder with
    | some h => s.nextOldest k h
    | none => s
  (s.pruneCopies k).stir k

/-- SLICE_TIMEOUT: the cut-off of the last slot it covers has come. -/
def execSliceTimeout (t : Time) (c : ClusterId) (k : SliceKey) (s : State) : Out :=
  let s := s.at t
  let n : Nat := c
  .next (match s.slice n k with
    | none => s
    | some x => if s.cutoffT (s.sliceAfter n k - 1) ≤ t then s.timeOut n x else s)

/-! ### Unravel (R231, R232, R292 to R294) -/

/-- The core can take a scheduler event: a running context stands at a recognition point, no bank and no window trap runs (R235). -/
def State.takesEvent (s : State) (c : Nat) : Bool :=
  if (s.core c).run then s.recognises c else s.clocked (cluOf c) && s.ctxFree c

/-- The core can restore a checkpoint of context `j`, which is in no held handler (R232). -/
def State.canRestore (s : State) (c j : Nat) : Bool := s.takesEvent c && stHeld (s.ctx c j).spec.st == 0

/-- Registers and special registers of a checkpoint (Table 8.3); stores that the context has committed complete first (R236). -/
def State.restore (s : State) (c j : Nat) (q : Ckpt) : State :=
  let w := s.ctxWorld c j
  let s := s.drainAll c j
  let y := s.ctx c j
  let s := s.setCtx c j { y with
    base := q.base, spec := q.spec, shadow := q.shadow, chunk := sset 0 w (sget 0 w q.chunk) y.chunk, mult := [], level := 0, micro := [],
    spillW := [], groupW := sset 0 q.base w (sset 0 ((q.base + 1) % 9) w y.groupW), prog := none, susp := none, flow := .start 0 }
  let l := ((List.range 16).map fun r => (winKey j q.base r, q.win.getD r 0)) ++
    ((List.range 8).map fun i => (globKey j w i, q.globals.getD i 0))
  let s := l.foldl (fun s e => s.rput c e.1 e.2) s
  (s.setField (oSpill c j w) 63 48 q.depth).setField (oShadow c j) 55 43 q.spilled

/-- An unravelled slice goes back to QUEUED or WAITING (R293 step 5). -/
def State.requeue (s : State) (k : Nat) (x : Slice) (n : Nat) : State :=
  let x := { x with staged := [], unravels := n, holder := none, ckpt := none, late := false, ended := false, prov := false, taken := [] }
  s.setSlice k { x with st := s.waitState k x }

/-- The slices that the context holds behind `key` (R294). -/
def behindOf (l : List SliceKey) (key : SliceKey) : List SliceKey := ((l.dropWhile fun y => y != key)).drop 1

/-- Unravel a slice held by context `j` of core `c`. -/
def State.unravel (s : State) (k c j : Nat) (x : Slice) (q : Ckpt) : State :=
  let y := s.ctx c j
  let young := behindOf y.slices x.key
  let s := (s.forgetJobs c j).restore c j q
  let rest := y.slices.filter fun z => z != x.key && !young.contains z
  let s := s.setCtx c j { s.ctx c j with slices := rest }
  let s := (s.bump (oCnt k 0x3118)).requeue k x (x.unravels + 1)
  let s := young.foldl (fun s z => match s.slice k z with
    | some v => (s.bump (oCnt k 0x3120)).requeue k v v.unravels
    | none => s) s
  (((s.spend c 20).stopCtx c j (if rest = [] then 0 else 1) (if rest = [] then 0 else 1)).wakeCheck k).stir k

/-- UNRAVEL: a late copy has come for a slice that has run provisionally (R292). -/
def execUnravel (t : Time) (c : ClusterId) (k : SliceKey) (s : State) : Out :=
  let s := s.at t
  let n : Nat := c
  .next (match s.slice n k with
    | none => s
    | some x => match x.holder, x.ckpt with
      | some h, some q =>
        if x.late ∧ (x.st = SliceSt.provRun ∨ x.st = SliceSt.provDone) ∧ s.canRestore h.1 h.2 then s.unravel n h.1 h.2 x q else s
      | _, _ => s)

/-! ### Done times (R367) -/

/-- Done time of a cluster in 2^-6 ns. -/
def State.cluDone (s : State) (k : Nat) : Nat :=
  let mine := (dmapOn s.dmapA).filter fun g => s.clusterOf g == k && s.runsRegion k g
  mine.foldl (fun d g =>
    let ws := (s.progNow k g).getD []
    let sw := max 1 (bf (ws.getD 2 0) 39 32 * s.slotW)
    let fw := s.regionFw k g
    let d := min d (if s.lenL ≤ fw then s.lenL else fw / sw * sw)
    ((s.clu k).slices.filter fun x => x.key.region.val == g).foldl (fun d x => min d (s.sliceS k x.key)) d) s.lenL

/-- DONE_TIME: the cluster's done time goes in band behind the records it has released; while such records wait in its output queue
none can follow them. -/
def execDoneTime (t : Time) (c : ClusterId) (s : State) : Out :=
  let s := s.at t
  let k : Nat := c
  .next (if s.castOn = false ∨ sget [] k s.outqs ≠ [] then s else s.fifoPut k (.done (s.cluDone k)))

/-! ### Replies for a context (R466 to R468) -/

/-- Core and context that a work item's UNIT names. -/
def unitCore (u : Nat) : Nat := u / 32768 % 512
def unitCtx (u : Nat) : Nat := u / 8192 % 4

/-- The suspension that an item of function `f` answers, with the number of its context, 4 for the bank. -/
def State.suspOf (s : State) (f : Nat) (h : HaJob) : Option (Nat × SuspSt) :=
  [unitCtx h.unit, 4].findSome? fun j =>
    ((s.ctx (unitCore h.unit) j).susp.filter fun x => x.func == f && x.job == h.job).map fun x => (j, x)

/-- The bank, or a window trap of context `key`, holds the core and waits for the answer of its own item. -/
def State.waitsHere (s : State) (c key : Nat) : Bool :=
  let x := s.core c
  x.hostWait && if x.bankOn then key == 4 else key == x.cur

/-- The core takes the answer to an item now: the code that holds the core waits for it, or the core takes a queue completion
(R231, R235). An item that nothing waits for is taken at once. -/
def State.takesAnswer (s : State) (f : Nat) (h : HaJob) : Bool :=
  let c := unitCore h.unit
  match s.suspOf f h with
  | none => true
  | some (key, _) => s.waitsHere c key || s.takesEvent c

/-- Serve the word that waits: in place where it holds the core, else as its context. -/
def State.serve (s : State) (c key : Nat) (f : State → State) : State :=
  if s.waitsHere c key then f ((s.setCore c { s.core c with hostWait := false }).spend c 0) else s.asCtx c key f

/-- Its wait is over. -/
def State.unsuspend (s : State) (c key : Nat) : State := s.setCtx c key { s.ctx c key with susp := none }

/-- The word that waited has its result: it completes; ply A leaves ply B to do (R171); a customer routine that made a store goes on
(Table 13.4). -/
def State.answered (s : State) (c key : Nat) (x : SuspSt) (writes : List (Nat × Word)) : State :=
  let s := s.unsuspend c key
  match x.next with
  | some r => s.setRun c (some r)
  | none =>
    let s := writes.foldl (fun s w => s.rput c w.1 w.2) s
    if x.ply = 1 then s.setFlow c { s.flow c with plyB := true } else s.complete c .seq []

/-- The word that waited faults; s6 is as it was before the word (R415). -/
def State.answerFault (s : State) (c key : Nat) (x : SuspSt) (f : Flt) : State :=
  let s := s.unsuspend c key
  let s := match x.s6.or (x.next.bind fun r => r.temps.head?) with
    | some v => s.rset c 22 v
    | none => s
  s.raise c f (decide (x.ply = 2)) (decide (x.ply = 2))

/-- A reply of a function: taken from its queue, and found, or stale and counted (R466). One whose core takes no answer now is not taken
yet (log entry 61). -/
def State.reply (s : State) (f : Nat) (reply : List Word) (use : State → HaJob → State) : State :=
  match s.haFind f reply with
  | none => (s.cqTake f).haStale
  | some h => if f ≠ 2 ∧ s.takesAnswer f h = false then s else use (s.cqTake f) h

/-- HEAP_KEEP_REPLY (Table 14.9). -/
def State.heapKeep (s : State) (reply : List Word) (h : HaJob) : State :=
  let c := unitCore h.unit
  let st := bf (reply.headD 0) 51 48
  match s.suspOf 4 h with
  | none => s.haStale
  | some (j, x) =>
    if 3 < st then s.haStale
    else (s.haDone 4 h.job).serve c j fun s =>
      if st = 0 then s.answered c j x x.writes
      else s.answerFault c j x { cls := xEscape, cause := st, detail := 0, va := pay (h.words.getD 0 0) }

def execHeapKeepReply (t : Time) (reply : List Word) (s : State) : Out :=
  .next ((s.at t).reply 4 reply fun s h => s.heapKeep reply h)

/-- Words of a result object, from the parts received: all of them, once there are as many as its header says. -/
def partWords (parts : Sparse (List Word)) : Option (List Word) :=
  match sget [] 0 parts with
  | [] => none
  | h :: _ =>
    let n := headLen h + 1
    let have_ := (List.range ((n + 6) / 7)).all fun p => sget [] p parts != []
    if have_ then some (((List.range ((n + 6) / 7)).flatMap fun p => sget [] p parts).take n) else none

/-- Pointer tag for an object by the KIND of its header (Table 4.10). -/
def kindTag (h : Word) : Nat := if bf h 55 52 = 1 then tVec else if bf h 55 52 = 3 then tCode else tBox

/-- The result object is allocated and written, and its pointer is the result. -/
def State.partsDone (s : State) (c j : Nat) (x : SuspSt) (ws : List Word) : State :=
  match s.newObj c (kindTag (ws.headD 0)) ws with
  | (s, .inl f) => s.answerFault c j x f
  | (s, .inr w) => s.answered c j x ((x.rd, w) :: x.writes)

/-- SLOW_PATH_REPLY (Table 14.9). -/
def State.slowReply (s : State) (reply : List Word) (h : HaJob) : State :=
  let c := unitCore h.unit
  let w0 := reply.headD 0
  let st := bf w0 51 48
  match s.suspOf 7 h with
  | none => s.haStale
  | some (j, x) =>
    if 1 < st then s.haStale
    else if st = 1 then
      (s.haDone 7 h.job).serve c j fun s => s.answerFault c j x (flt xTag (bf (reply.getD 1 0) 7 0))
    else if bf w0 55 52 = 0 then
      (s.haDone 7 h.job).serve c j fun s => s.answered c j x ((x.rd, reply.getD 1 0) :: x.writes)
    else if bf w0 55 52 = 1 then
      let parts := sset [] (bf w0 23 0) ((List.range 7).map fun i => reply.getD (i + 1) 0) x.parts
      match partWords parts with
      | none => s.setCtx c j { s.ctx c j with susp := some { x with parts := parts } }
      | some ws => (s.haDone 7 h.job).serve c j fun s => s.partsDone c j x ws
    else s.haStale

def execSlowPathReply (t : Time) (reply : List Word) (s : State) : Out :=
  .next ((s.at t).reply 7 reply fun s h => s.slowReply reply h)

/-! ### F2 RULE_EVAL -/

/-- The slice that an item evaluates. -/
def State.evalSlice (s : State) (h : HaJob) : Option Slice :=
  ((s.ctx (unitCore h.unit) (unitCtx h.unit)).prog).bind (s.slice (cluOf (unitCore h.unit)))

/-- OP 1 stages one candidate, of which a slice has room for 64; OP 0 ends the slice. -/
def State.evalReply (s : State) (reply : List Word) (h : HaJob) : State :=
  let c := unitCore h.unit
  let j := unitCtx h.unit
  match s.evalSlice h with
  | none => s.haStale
  | some x =>
    if bf (reply.headD 0) 55 52 = 1 then
      let ws := ((List.range 7).map fun i => reply.getD (i + 1) 0) ++ [0]
      if 64 ≤ x.staged.length then s else s.setSlice (cluOf c) { x with staged := x.staged ++ [ws] }
    else
      let s := (s.haDone 2 h.job).setSlice (cluOf c) { x with ended := true }
      (s.shadowEmpty c j).setCtx c j { (s.shadowEmpty c j).ctx c j with prog := none, state := 1, waits := 1 }

/-- RULE_EVAL_REPLY (Table 14.9). -/
def execRuleEvalReply (t : Time) (reply : List Word) (s : State) : Out :=
  .next ((s.at t).reply 2 reply fun s h => s.evalReply reply h)

/-! ### No reply (R467) -/

/-- A work item with its deadline in the past. -/
def State.haLate (s : State) (f job : Nat) : Option HaJob :=
  ((s.haFn f).out ++ (s.haFn f).stalled).find? fun h => h.job == job && (match h.deadline with
    | some d => decide (d ≤ s.now)
    | none => false)

/-- F0: the stitch closes for the frame as in R55. -/
def State.haLost0 (s : State) (p : Nat) : State :=
  if s.castOn ∧ (s.port p).closed = false then ((s.closeStitch p).portReef p).err 1 0 p 1 0 else s

/-- F4 and F7: ILLEGAL_OPERATION with DETAIL 1 (R468). -/
def State.haLostCtx (s : State) (f : Nat) (h : HaJob) : State :=
  let c := unitCore h.unit
  match s.suspOf f h with
  | none => s
  | some (j, x) => s.serve c j fun s => s.answerFault c j x { cls := xIllegalOp, cause := 0, detail := 1, va := 0 }

/-- The outcome of a function without a reply (Table 14.9). -/
def State.haLost (s : State) (f : Nat) (h : HaJob) : State :=
  if f = 0 then s.haLost0 (h.unit % 512)
  else if f = 1 then (if (s.row (h.unit % 32)).vstate = 2 then s else s.rowStop (h.unit % 32) false)
  else if f = 2 then (match s.evalSlice h with
    | some x => s.timeOut (cluOf (unitCore h.unit)) x
    | none => s)
  else if f = 4 ∨ f = 7 then s.haLostCtx f h
  else s

/-- HA_TIMEOUT. An item whose core takes no answer now waits (log entry 61). -/
def execHaTimeout (t : Time) (f : Fin 8) (job : BitVec 24) (s : State) : Out :=
  let s := s.at t
  .next (match s.haLate f job.toNat with
    | none => s
    | some h =>
      if (f.val = 4 ∨ f.val = 7) ∧ s.takesAnswer f h = false then s
      else (s.haForget f fun x => x.job == h.job).haLost f h)

end Sys2Proof.Machine
end

