-- ==== Sys2Proof/Machine/Start.lean ====
section
/-! DEFINITION. Steps 6 to 9 of start-up, the CXL link, and SPDM attestation (14_host_queues_modes.md,
15_start_and_attestation.md). -/

namespace Sys2Proof.Machine

def State.bootStep (s : State) : Nat := s.field (oDev 8) 61 58
def State.bare (s : State) : Bool := s.field (oDev 8) 62 62 == 1

/-! ### Hold heaps (R149, R480) -/

/-- Write words that start anywhere, one at a time. -/
def State.putEach (s : State) (a : Nat) : List Word → State
  | [] => s
  | w :: ws => (s.memPut a [w]).putEach (a + 8) ws

/-- Write a FIX word. -/
def State.putFix (s : State) (a : Nat) (v : Nat) : State := s.memPut a [mkTag 0 v]

def State.holdBaseOf (s : State) (w : Nat) : Nat := sget 0 w s.world.holdBase
def State.holdUnitsOf (s : State) (w : Nat) : Nat := sget 0 w s.world.holdUnits

/-- Put a block of a hold heap into a state (Tables 4.12, 4.13). -/
def State.holdBlock (s : State) (w b st : Nat) : State := s.putFix (s.holdBaseOf w + 0x100000 + 8 * b) (st * 2 ^ 52)

/-- Header and block table of a created hold heap: block 0 METADATA, the others FREE (Table 4.12). -/
def State.holdInit (s : State) (w : Nat) : State :=
  let n := s.holdUnitsOf w
  let b := s.holdBaseOf w
  if n = 0 then s
  else
    let s := (s.putFix b 0x484F4C44).putFix (b + 8) (n * 0x2000000)
    let s := [0x10, 0x18, 0x20, 0x28].foldl (fun s o => s.putFix (b + o) 0) s
    let s := forN 32 (fun s c => s.putFix (b + 0x100 + 8 * c) 0) s
    forN n (fun s k => s.holdBlock w k (if k = 0 then 4 else 0)) s

/-- Every block that a record touches, but block 0, becomes FULL. -/
def State.holdTouch (s : State) (w pa n : Nat) : State :=
  let first := (pa - s.holdBaseOf w) / 0x2000000
  let last := (pa + n - 1 - s.holdBaseOf w) / 0x2000000
  (List.range (last + 1 - first)).foldl (fun s i => if first + i = 0 then s else s.holdBlock w (first + i) 2) s

/-! ### Memory records (R479) -/

/-- A range lies in usable memory that world `w` or both worlds own. -/
def State.progTarget (s : State) (w pa n : Nat) : Bool :=
  decide (pa + n ≤ s.stacks * stackSize) &&
    (List.range ((pa + n - 1) / 0x2000000 + 1 - pa / 0x2000000)).all fun i => reaches w (s.regionOwner (pa / 0x2000000 + i))

/-- A range lies in the hold heap of world `w` beyond block 0, or in its root table (R480). -/
def State.holdTarget (s : State) (w roots pa n : Nat) : Bool :=
  let b := s.holdBaseOf w
  decide (b + 0x1000 ≤ pa ∧ pa + n ≤ b + 0x1000 + 8 * roots) ||
    decide (b + 0x2000000 ≤ pa ∧ pa + n ≤ b + s.holdUnitsOf w * 0x2000000)

/-- A record is malformed (R479). -/
def recordBad (w0 w1 : Word) (rest : Nat) : Bool :=
  let n := bf w1 31 0
  bf w0 63 46 != 0 || bf w0 2 0 != 0 || bf w1 63 32 != 0 || decide (n < 8 ∨ 2 ^ 31 < n ∨ n % 8 ≠ 0 ∨ 8 * rest < n)

/-- Memory records of slot `k`: `hits` tells the section's targets, `after` follows a record that was written. -/
def State.loadMem (k : Nat) (hits : Nat → Nat → Bool) (after : State → Nat → Nat → State) : Nat → List Word → State → State
  | 0, _, s => s
  | fuel + 1, ws, s =>
    match ws with
    | [] => s
    | [w] => s.slotReject k (bf w 45 0) w
    | w0 :: w1 :: rest =>
      let pa := bf w0 45 0
      let n := bf w1 31 0
      if recordBad w0 w1 rest.length then s.slotReject k pa w0
      else
        let s := if hits pa n then after (s.putEach pa (rest.take (n / 8))) pa n else s.note k 3 pa (BitVec.ofNat 64 n) 0
        State.loadMem k hits after fuel (rest.drop (n / 8)) s

/-- PROGRAMS_PORT, PROGRAMS_STBD (Table 15.5). -/
def State.loadProgs (s : State) (w : Nat) (x : Sec) : State :=
  let (s, ws) := s.openSec x
  s.loadMem (slotOf x.typ) (s.progTarget w) (fun s _ _ => s) ws.length ws

/-- HOLD_PORT, HOLD_STBD (R480, R481): not applied when the heap was not created. -/
def State.loadHold (s : State) (w : Nat) (x : Sec) : State :=
  let (s, ws) := s.openSec x
  let k := slotOf x.typ
  let w0 := ws.getD 0 0
  if s.holdUnitsOf w = 0 then s.setField (oSlot k 0) 23 16 3
  else if 65536 < w0.toNat then s.slotReject k 0 w0
  else
    let s := s.putFix (s.holdBaseOf w + 0x18) w0.toNat
    s.loadMem k (s.holdTarget w w0.toNat) (fun s pa n => s.holdTouch w pa n) ws.length (ws.drop 1)

/-- One section of step 6. -/
def State.loadMemory (s : State) (x : Sec) : State :=
  if x.typ = 0x0A then s.loadProgs 0 x
  else if x.typ = 0x0B then s.loadProgs 1 x
  else if x.typ = 0x0C then s.loadHold 0 x
  else s.loadHold 1 x

/-! ### Register sections (R478, Table 15.5) -/

/-- Targets of a register section, as BAR0 offsets. -/
def secHits (typ o : Nat) : Bool :=
  let port := decide (0x200000 ≤ o ∧ o < 0x240000)
  let row := decide (0x300000 ≤ o ∧ o < 0x320000)
  let map := o == oFmt 0x100 || o == oFmt 0x108
  let dmap := row && (o % 0x1000 == 0x18 || o % 0x1000 == 0x20 || o % 0x1000 == 0x28)
  if typ = 1 then decide (oTmg 0 ≤ o ∧ o < 0x80000)
  else if typ = 2 then (decide (oFmt 0 ≤ o ∧ o < oMst 0) && !map) || port || (row && !dmap)
  else if typ = 3 then map
  else if typ = 4 then dmap
  else if typ = 5 then decide (oMst 0 ≤ o ∧ o < oShr 0)
  else if typ = 6 then decide (oShr 0 ≤ o ∧ o < oTmg 0)
  else if typ = 7 then decide (oQue 0 ≤ o ∧ o < oQue 0x80) || o == oQue 0x100
  else if typ = 9 then decide (0x400000 ≤ o ∧ o < 0x600000)
  else decide (oQcfg 0 ≤ o ∧ o < oQcfg 32768) && (o % 0x40 == 0 || o % 0x40 == 8 || o % 0x40 == 0x18)

/-- A section of unknown type is measured into slot 21 and not applied (R486). -/
def State.loadUnknown (s : State) (x : Sec) : State :=
  let dig := Config.sha3 (s.flashBs x.off x.len)
  { s with boot := { s.boot with unknown := s.boot.unknown ++ leBytes 2 x.typ ++ leBytes 4 x.len ++ digBytes dig } }

/-- One section of step 7. -/
def State.loadReg (s : State) (x : Sec) : State :=
  if slotOf x.typ = 21 then s.loadUnknown x
  else
    let (s, ws) := s.openSec x
    s.loadRegs (slotOf x.typ) (secHits x.typ) (fun s o v => s.blockWrite true o v) ws.length ws

/-- The engines that serve enabled ports are raised; their lasers warm up (Table 15.1). -/
def State.raiseEngines (s : State) : State :=
  forN 16 (fun s e =>
    if (List.range 32).any fun i => s.field (oPort (e * 32 + i) 0) 0 0 == 1 then s.domainRequest (64 + e) 2 else s) s

/-- Step 7 of a start with an image. -/
def State.stepSeven (s : State) : State :=
  ((s.ofStep 7).foldl (fun s x => s.loadReg x) s).tdcBegin.raiseEngines

/-! ### End of the fill (R353 to R355) -/

def State.filled (s : State) (m : Nat) : Bool := s.field (oMem m 8) 62 62 == 1

/-- Step 6 ends: failed fills are noted, the memory sections are loaded, and step 7 reads the register sections. -/
def State.stepSix (s : State) : State :=
  let s := forN s.stacks (fun s m => if s.memFailed m then s.note 20 5 (oMem m 8) (BitVec.ofNat 64 m) 0 else s) s
  if s.bare then s.setStep 7
  else
    let s := forN 2 (fun s w => s.holdInit w) s
    (((s.ofStep 6).foldl (fun s x => s.loadMemory x) s).setStep 7).stepSeven

/-- FILL_DONE (R354, R355, Table 15.1). -/
def execFillDone (t : Time) (s : State) : Out :=
  let s := s.at t
  let all := (List.range s.stacks).all fun m => s.filled m
  let s : State := { s with memActive := s.memActive || (s.pwr.main && all) }
  let over_ := (List.range s.stacks).all fun m => s.filled m || s.memFailed m
  .next (if s.bootStep = 6 ∧ over_ then s.stepSix else s)

/-- LASER_WARMUP_DONE (R470): ports leave OFF and train. -/
def execLaserWarmupDone (t : Time) (s : State) : Out :=
  let s := s.at t
  .next (if s.bootStep = 7 ∧ s.bare = false then
      forN 512 (fun s p => s.tryLeaveOff p) { s with boot := { s.boot with warm := true } }
    else s)

/-! ### Adjusted and ignored values (R487, Table 15.12) -/

/-- Slot of a section type, or the start report where the image carries no such section that can be read. -/
def State.noteSlot (s : State) (k : Nat) : Nat := if s.field (oSlot k 0) 23 16 = 0 ∨ s.field (oSlot k 0) 23 16 = 4 then 20 else k

/-- A register takes a legal value; a change is noted as ADJUSTED. -/
def State.adjust (s : State) (k o : Nat) (v : Word) : State :=
  if s.reg o = v then s else (s.setReg o v).note (s.noteSlot k) 0 o (s.reg o) v

/-- A value without effect is noted as IGNORED. -/
def State.ignored (s : State) (k o : Nat) : State := s.note (s.noteSlot k) 1 o (s.reg o) 0

/-- MST_TIMING (R360), TMG_FRAME (R527), TMG_FRAME2 (R18), the hold limits (R267) and SHR_BCAST. -/
def State.adjustAll (s : State) : State :=
  let w := s.reg (oMst 0x10)
  let s := s.adjust 6 (oMst 0x10) (setBf (setBf w 27 0 (max 800 (bf w 27 0))) 42 32 (min 1937 (bf w 42 32)))
  let w := s.reg (oTmg 0x18)
  let s := s.adjust 2 (oTmg 0x18) (setBf (setBf w 60 56 s.markQ) 28 0 s.lenL)
  let w := s.reg (oTmg 0x20)
  let s := s.adjust 2 (oTmg 0x20) (setBf (setBf w 47 24 (s.gapG / 12800000)) 9 0 (s.drainD / 12800000))
  let s := forN 32 (fun s c =>
    let w := s.reg (oClu c 0x2020)
    s.adjust 10 (oClu c 0x2020) (setBf w 16 0 (max 64 (min 65536 (bf w 16 0))))) s
  let w := s.reg (oShr 0x18)
  s.adjust 7 (oShr 0x18) (setBf (setBf w 15 8 (min 128 (bf w 15 8))) 7 0 (min 128 (bf w 7 0)))

/-- The program table of a cluster lies where no dispatcher reads it (Table 8.6). -/
def State.progBad (s : State) (k : Nat) : Bool :=
  s.reg (oClu k 0x3000) != 0 && !(let w := s.ownerAt (s.progAddr k 0) 17; w == 3 || w == 4)

/-- Values without a legal substitute: history sizes (R119), program tables (R277), MST_ROLE (R381), SHR_NODE (R389). -/
def State.ignoreAll (s : State) : State :=
  let s := forN 32 (fun s r => if s.histOn r then s else s.ignored 3 (oRow r 0x40)) s
  let s := forN 32 (fun s c => if s.progBad c then s.ignored 10 (oClu c 0x3000) else s) s
  let s := if s.field (oMst 0x18) 63 62 = 3 then s.ignored 6 (oMst 0x18) else s
  if s.badNode then (s.ignored 7 (oShr 8)).configBad else s

/-- Bytes of the start report. -/
def State.reportBytes (s : State) : List Byte :=
  wordBytes ((List.range (s.field (oSec 0x30) 10 0)).flatMap fun e => (List.range 4).map fun w => s.reg (oReport e w))

/-- Slots 20 and 21 take their digests (R486, R487). -/
def State.closeSlots (s : State) : State :=
  let u := s.boot.unknown
  let s := if u = [] then s else s.slotSet 21 0xFF03 1 0 u.length 0 (digWords (Config.sha3 u))
  let r := s.reportBytes
  s.slotSet 20 0xFF02 1 0 r.length 0 (digWords (Config.sha3 r))

/-- LCK fields lock, the slots are fixed, and the clusters are raised (Table 15.1, step 8). -/
def State.lockAll (s : State) : State :=
  let s : State := { s.closeSlots with boot := { s.closeSlots.boot with locked := true } }
  forN 32 (fun s k => (s.setField (oDom k) 63 62 2).domAsk k 2) s

/-- Step 9: the ring is joined when AUTOJOIN asks for it; the device is ready once no join is under way. -/
def State.stepNine (s : State) : State :=
  let s := s.setStep 9
  let s := if s.field (oShr 8) 63 63 = 1 then s.join else s
  if s.rstate = 1 then s else s.joinEnded

/-- START_LOCK: step 8 ends (R470, R475, R486). -/
def execStartLock (t : Time) (s : State) : Out :=
  let s := s.at t
  .next (
    if s.bootStep ≠ 7 ∨ s.boot.locked then s
    else if s.bare then s.lockAll.setStep 8
    else if s.boot.warm = false then s
    else s.adjustAll.ignoreAll.lockAll.stepNine)

/-! ### The CXL link (R436, R438, R512, R568) -/

/-- CXL_LINK_TRAINED (R438). -/
def execCxlLinkTrained (t : Time) (gts : Nat) (width : Nat) (s : State) : Out :=
  let s := s.at t
  if s.pwr.main = false then .next s
  else
    let s : State := { s with cxl := { s.cxl with up := true, rate := gts, width := width } }
    .next (if gts < 64 ∨ width < 16 then s.err 1 9 0 1 0 else s)

/-- The running job of a queue still has to read or write host memory. -/
def JobSt.crossesHost (j : JobSt) : Bool :=
  let op := jobOp j.words
  (op == 0x01 && isHostPa (j.w 3)) || (op == 0x03 && isHostPa (j.w 3)) || (op == 0x12 && isHostPa (j.w 4)) ||
    (op == 0x20 && isHostPa (j.w 3) && decide (j.progress < j.w 4))

/-- The job of a queue ends ERROR when its crossing to the host is reset (Table 16.8, class 3). -/
def State.jobCut (s : State) (q : Nat) : State :=
  match (s.queue q).busy with
  | none => s
  | some j => if j.crossesHost then s.jobEnd q 2 (BitVec.ofNat 64 j.acked) else s

/-- The link goes down; under TOGETHER what waits in the crossings of class 3 ends (R512). -/
def State.linkDown (s : State) : State :=
  let s : State := { s with cxl := { s.cxl with up := false }, hostLines := [] }
  if s.field (oPwr 8) 3 3 = 0 then s else (s.queues.map (·.1)).foldl (fun s q => s.jobCut q) s

/-- CXL_LINK_DOWN (R512). -/
def execCxlLinkDown (t : Time) (s : State) : Out := .next (s.at t).linkDown

/-- PERST_N: only the CXL link is reset; without effect while ENABLE is low (R568). -/
def execPerstN (t : Time) (s : State) : Out :=
  let s := s.at t
  .next (if s.pwr.enable then s.linkDown else s)

/-! ### Host accesses to device memory (R441, R442) -/

/-- An access outside what the host may see: poison or a dropped write, one record per 32 MiB region and frame. -/
def State.hostRefused (s : State) (a : Nat) (write : Bool) : State :=
  let s : State := if write then s else { s.useFree with rdata := s.freeVal, cxl := { s.cxl with poison := true } }
  let g := a / 0x2000000
  if s.cxl.refused.contains g then s
  else ({ s with cxl := { s.cxl with refused := g :: s.cxl.refused } }).err 1 5 (ctlOf a) 7 (a / 64 * 64)

/-- The host takes a line: every cluster that holds it is snooped (R329). -/
def State.hostTakes (s : State) (line : Nat) (write : Bool) : State :=
  let s := forN 32 (fun s h => s.snoopLine h line write) s
  { s with hostLines := sset 0 line (if write then 2 else max 1 (sget 0 line s.hostLines)) s.hostLines }.track line

/-- A host read: the word, with poison where the code rules return a bus error (Table 10.4). -/
def State.hostRead (s : State) (a : Nat) : State :=
  let s := (s.devLine 6 0 a).hostTakes (a / 64) false
  let bad := (s.busErr a).isSome
  let s := if bad then s.busErrLog a 6 0 else s
  if s.memDead a then { s.useFree with rdata := s.freeVal, cxl := { s.cxl with poison := true } }
  else { s with rdata := mrdW (a / 8 * 8) s.mem, cxl := { s.cxl with poison := bad } }

/-- A host write of one word: a partial write of its line (R343, R347). -/
def State.hostWrite (s : State) (a : Nat) (v : Word) : State :=
  let s := (s.touchMem a).hostTakes (a / 64) true
  if s.memDead a then s
  else ({ s with mem := mwrW (a / 8 * 8) v s.mem }.mergePut (ctlOf a) (a / 64) (1 <<< (a / 8 % 8))).mergeFull (ctlOf a) (a / 64)

/-- HOST_MEMORY_ACCESS (R441, R442): one word at a device physical address; without a link nothing arrives. -/
def execHostMemoryAccess (t : Time) (dpa : BitVec 46) (write : Bool) (v : Word) (s : State) : Out :=
  let s := s.at t
  let a := dpa.toNat
  .next (
    if s.cxl.up = false ∨ s.stacks * stackSize ≤ a then s
    else if s.hostSees a = false then s.hostRefused a write
    else if write then s.hostWrite a v
    else s.hostRead a)

/-! ### SPDM (R488 to R490) -/

def keyOfX : Transport → Nat
  | .doe => 0
  | .mctp => 1

/-- DataTransferSize of a transport. -/
def transferOf : Transport → Nat
  | .doe => 65536
  | .mctp => 4096

def State.conn (s : State) (x : Transport) : SpdmSt := sget .reset (keyOfX x) s.spdm
def State.setConn (s : State) (x : Transport) (y : SpdmSt) : State := { s with spdm := sset .reset (keyOfX x) y s.spdm }

/-- Answer a request; a response that was sent in chunks is over. -/
def State.spdmSay (s : State) (x : Transport) (r : SpdmResp) : State :=
  s.setConn x { s.conn x with resp := some r, large := none }

/-- Answer with a response of `size` bytes: one larger than DataTransferSize is announced and sent in chunks. -/
def State.spdmSend (s : State) (x : Transport) (r : SpdmResp) (size : Nat) : State :=
  if transferOf x < size then s.setConn x { s.conn x with resp := some .errLarge, large := some (r, 0) } else s.spdmSay x r

/-- The device answers while its switched domains have power. -/
def State.spdmDo (s : State) (f : State → State) : Out := .next (if s.pwr.main ∧ s.pwr.shut = false then f s else s)

/-- A request that a connection takes only after its algorithms are negotiated (log entry 65). -/
def State.afterAlgs (s : State) (x : Transport) (f : State → Bool → State) : State :=
  match (s.conn x).algs with
  | none => s.spdmSay x .errUnexpected
  | some a => f s a

/-- GET_VERSION: 1.3 only; the connection starts again. -/
def execGetVersion (x : Transport) (s : State) : Out :=
  s.spdmDo fun s => s.setConn x { SpdmSt.reset with version := true, resp := some (.version 0x13) }

/-- GET_CAPABILITIES (R488, Table 15.13). -/
def execGetCapabilities (x : Transport) (s : State) : Out :=
  s.spdmDo fun s =>
    if (s.conn x).version then
      (s.setConn x { s.conn x with caps := true }).spdmSay x (.capabilities true true true true (transferOf x) 65536)
    else s.spdmSay x .errUnexpected

/-- NEGOTIATE_ALGORITHMS (R489). -/
def execNegotiateAlgorithms (x : Transport) (extAsym : Bool) (s : State) : Out :=
  s.spdmDo fun s =>
    if (s.conn x).caps then (s.setConn x { s.conn x with algs := some extAsym }).spdmSay x (.algorithms extAsym)
    else s.spdmSay x .errUnexpected

/-- GET_DIGESTS: the digest of the chain of certificate slot 0. -/
def execGetDigests (x : Transport) (s : State) : Out :=
  s.spdmDo fun s => s.afterAlgs x fun s _ => s.spdmSay x (.digests (Config.sha3 s.chain))

/-- GET_CERTIFICATE (R483): slot 0 only. -/
def execGetCertificate (x : Transport) (slot : Nat) (offset length : Nat) (s : State) : Out :=
  s.spdmDo fun s => s.afterAlgs x fun s _ =>
    if Config.chainHasKey s.chain = false then s.spdmSay x .errUnspecified
    else if slot ≠ 0 ∨ s.chain.length ≤ offset then s.spdmSay x .errInvalid
    else
      let part := (s.chain.drop offset).take length
      s.spdmSend x (.certificate part (s.chain.length - offset - part.length)) (8 + part.length)

/-- The 64 bytes of a slot record (Table 15.11). -/
def State.slotBytes (s : State) (k : Nat) : List Byte := wordBytes ((List.range 8).map fun w => s.reg (oSlot k w))

/-- Value type of a slot (Table 15.14). -/
def slotType (k : Nat) : Nat := if k = 0 then 0 else if 11 ≤ k ∧ k ≤ 16 then 1 else if k = 19 then 2 else 3

/-- The digest block, the raw block and the start report as measurement blocks (Table 15.14). -/
def State.digBlock (s : State) (k : Nat) : Nat × Nat × Bool × List Byte := (k + 1, slotType k, false, (s.slotBytes k).drop 16 |>.take 32)
def State.rawBlock (s : State) (k : Nat) : Nat × Nat × Bool × List Byte := (0x41 + k, slotType k, true, s.slotBytes k)
def State.reportBlock (s : State) : Nat × Nat × Bool × List Byte := (0xFD, 4, true, s.reportBytes)

/-- Blocks of a measurement index; none for an index that no block has. Index 0 asks for none (log entry 65). -/
def State.measBlocks (s : State) (i : Nat) : Option (List (Nat × Nat × Bool × List Byte)) :=
  if i = 0 then some []
  else if i ≤ 0x18 then some [s.digBlock (i - 1)]
  else if 0x41 ≤ i ∧ i ≤ 0x58 then some [s.rawBlock (i - 0x41)]
  else if i = 0xFD then some [s.reportBlock]
  else if i = 0xFF then
    some ((List.range 24).map (fun k => s.digBlock k) ++ (List.range 24).map (fun k => s.rawBlock k) ++ [s.reportBlock])
  else none

/-- 256 free bits. -/
def State.free256 (s : State) : BitVec 256 :=
  Config.freeWord s.free ++ Config.freeWord (s.free + 1) ++ Config.freeWord (s.free + 2) ++ Config.freeWord (s.free + 3)
def State.useFree4 (s : State) : State := { s with free := s.free + 4 }

/-- The signature of the identity key over the message that SPDM 1.3 defines, which the spec does not give (R489, log entry 65). -/
def State.spdmSign (s : State) : List Byte := Config.devSign (digBytes s.free256)

/-- CHALLENGE (R489, R490). -/
def execChallenge (x : Transport) (summary : Bool) (_nonce : BitVec 256) (s : State) : Out :=
  s.spdmDo fun s =>
    if s.boot.locked = false then s.spdmSay x .errBusy
    else s.afterAlgs x fun s alg =>
      if alg = false then s.spdmSay x .errUnexpected
      else
        let nonce := s.free256
        let s := s.useFree4
        let sum := if summary then some s.free256 else none
        let s := if summary then s.useFree4 else s
        s.useFree4.spdmSay x (.challengeAuth (Config.sha3 s.chain) sum nonce s.spdmSign)

/-- Bytes of a MEASUREMENTS response (log entry 65). -/
def measSize (blocks : List (Nat × Nat × Bool × List Byte)) (signed : Bool) : Nat :=
  42 + (blocks.map fun b => 7 + b.2.2.2.length).sum + (if signed then 2420 else 0)

/-- GET_MEASUREMENTS (R489, R490, Table 15.14). -/
def execGetMeasurements (x : Transport) (index : BitVec 8) (signed : Bool) (_nonce : BitVec 256) (s : State) : Out :=
  s.spdmDo fun s =>
    if s.boot.locked = false then s.spdmSay x .errBusy
    else s.afterAlgs x fun s alg =>
      if signed ∧ alg = false then s.spdmSay x .errUnexpected
      else match s.measBlocks index.toNat with
        | none => s.spdmSay x .errInvalid
        | some bs =>
          let nonce := s.free256
          let s := s.useFree4
          let sig := if signed then some s.spdmSign else none
          let s := if signed then s.useFree4 else s
          s.spdmSend x (.measurements bs nonce sig) (measSize bs signed)

/-- Bytes of a large response. -/
def respSize : SpdmResp → Nat
  | .certificate part _ => 8 + part.length
  | .measurements bs _ sig => measSize bs sig.isSome
  | _ => 0

/-- CHUNK_GET: chunks of a large response in order; each carries 16 bytes of header (log entry 65). -/
def execChunkGet (x : Transport) (seq : Nat) (s : State) : Out :=
  s.spdmDo fun s =>
    match (s.conn x).large with
    | none => s.spdmSay x .errUnexpected
    | some (r, n) =>
      if seq ≠ n then s.spdmSay x .errInvalid
      else
        let room := transferOf x - 16
        let start := n * room
        let size := min room (respSize r - start)
        let last := decide (respSize r ≤ start + size)
        s.setConn x { s.conn x with resp := some (.chunk seq last start size), large := if last then none else some (r, n + 1) }

/-- UNSUPPORTED_SPDM_REQUEST (Table 15.13). -/
def execUnsupportedSpdmRequest (x : Transport) (_code : BitVec 8) (s : State) : Out :=
  s.spdmDo fun s => s.spdmSay x .errUnsupported

end Sys2Proof.Machine
end

