-- ==== Sys2Proof/Machine/Frame.lean ====
section
/-! DEFINITION. Frame end, drain, reset interval, overrun and cast-on (01_frame_path.md), with what the units' chapters do then. -/

namespace Sys2Proof.Machine

/-! ### Frame end and drain (R29 to R31) -/

/-- The frame ends: the BINDOFF source is raised (Table 7.3). -/
def State.frameEnd (s : State) : State :=
  if s.frame.phase = Phase.running ∧ s.endT ≤ s.now then
    { s with frame := { s.frame with phase := .draining }, irqBind := s.irqBind + 1 }
  else s

/-- FRAME_END. -/
def execFrameEnd (t : Time) (s : State) : Out := .next (s.at t).frameEnd

/-- Every row in service has flushed, its end-of-frame words with it (R30, R31). -/
def State.rowsFlushed (s : State) : Bool :=
  (List.range 32).all fun r => !s.rowIn r || ((s.row r).flushed && (s.row r).eof.isEmpty)

/-- No slice of the frame is left. -/
def State.slicesOver (s : State) : Bool := (List.range 32).all fun k => (s.clu k).slices.isEmpty

/-- The decision of the last slot has left the ports. -/
def State.decided (s : State) : Bool :=
  decide (s.slotCount ≤ s.mast.next) && decide (s.slotT (s.slotCount - 1) + s.horizon ≤ s.now)

/-- Every readout record has been written to its queue; a queue that is not ACTIVE takes none. -/
def State.roWritten (s : State) : Bool := s.mast.ro.isEmpty && s.mast.roOut.all fun e => e.2.isEmpty || s.qState e.1 != 1

/-- The drain is complete (R31). -/
def State.drained (s : State) : Bool := s.rowsFlushed && s.slicesOver && s.decided && s.roWritten

/-- Waiting readout records go into the queues that have room. -/
def State.roDrainAll (s : State) : State := (s.mast.roOut.map (·.1)).foldl (fun s q => s.roDrain q) s

/-! ### Checks of the reset interval (R108, R581, R585) -/

/-- A row stays STOPPED: the record of R107 after those of its lanes; voter copies that differ set VOTER_FAULT (R108, Table 3.1). -/
def State.rowRetire (s : State) (r lanes : Nat) (voters : Bool) : State :=
  let s := s.setRow r { s.row r with vstate := 2, retired := true, voterFault := (s.row r).voterFault || voters }
  s.errWith 2 1 r 5 noSlot 0 0 0 0 (if lanes = 0 then none else some (s.errNum - 1))

/-- Lanes of a row that are not disabled. -/
def RowSt.lanesOn (x : RowSt) : Nat := ((List.range 3).filter fun i => !bit x.lanesOff.toNat i).length

/-- The clock of a row runs. -/
def State.rowClock (s : State) (r : Nat) : Bool := s.rowIn r && (!(s.pll r).lost || (s.pll r).locked.isSome)

/-- The lane check of one row. A row whose PLL was lost returns to service only at its cast-on (R494). -/
def State.laneCheck (s : State) (chk : DrainChecks) (r : Nat) : State :=
  if (s.row r).retired ∨ s.rowClock r = false then s
  else
    let bad := (List.range 3).filter fun i =>
      !bit (s.row r).lanesOff.toNat i && chk.lanes.any fun e => e.1.val == r && e.2.val == i
    let s := bad.foldl (fun s i => s.laneOff r i) s
    let n := (s.row r).lanesOn
    let voters := chk.voters.any fun v => v.val == r
    if n < 2 ∨ voters then s.rowRetire r bad.length voters
    else s.setRow r { s.row r with vstate := if (s.pll r).lost then 2 else 3 - n }

/-- The self-check of a DEAD port whose FORCE_DEAD is 0. -/
def State.stitchCheck (s : State) (chk : DrainChecks) (p : Nat) : State :=
  if (s.port p).link ≠ .dead ∨ s.field (oPort p 0) 1 1 = 1 then s
  else if chk.stitches.any (fun q => q.val == p) then
    (s.setPort p { s.port p with failed := true, checked := false }).err 2 0 p 8 0
  else s.setPort p { s.port p with failed := false, checked := true }

/-- Every check of the reset interval. -/
def State.checks (s : State) (chk : DrainChecks) : State :=
  let s := forN 32 (fun s r => s.laneCheck chk r) s
  let s := (s.ports.map (·.1)).foldl (fun s p => s.stitchCheck chk p) s
  if chk.masthead then s.mastFail else s

/-- Units still out of service after a PLL loss start a relock attempt (R494). -/
def State.relock (s : State) : State :=
  { s with pwr := { s.pwr with
      plls := s.pwr.plls.map fun e => (e.1, if e.2.lost ∧ e.2.locked.isNone then { e.2 with trying := true } else e.2) } }

/-! ### The empty state (R24, R32) -/

/-- A context begins the next frame with its allocation pointers, one of each world, at the heap base (log entry 63). -/
def State.ctxClear (s : State) (c j : Nat) : State :=
  let s := forN 2 (fun s w => s.rput c (globKey j w 6) (fixN (frameVa (cluOf c)))) s
  s.setCtx c j { s.ctx c j with chunk := [], slices := [], prog := none }

/-- The cores of a cluster: L1 TLBs are empty, contexts hold nothing of the frame. -/
def State.coreClear (s : State) (c : Nat) : State :=
  let s := s.setCore c { s.core c with itlb := [], dtlb := [], bankChunk := [] }
  forN 4 (fun s j => s.ctxClear c j) s

/-- Dispatcher endpoint and cluster TLB. -/
def CluSt.clear (x : CluSt) : CluSt :=
  { x with tlb := x.tlb.filter fun e => e.2.locked, chunk := [], slices := [], gone := [], copies := [], pw := [], fw := [],
           progs := [], badProg := [], fullRec := false, covRec := false, eofs := [] }

/-- A cluster for the next frame. -/
def State.cluClear (s : State) (k : Nat) : State :=
  let s := s.setClu k (s.clu k).clear
  forN 16 (fun s i => s.coreClear (k * 16 + i)) s

/-- A row for the next frame; what stands for its whole life stays. It takes no hit before the next cast-on. -/
def RowSt.clear (x : RowSt) : RowSt :=
  { RowSt.reset with
    inbox := x.inbox, lanesOff := x.lanesOff, vstate := x.vstate, voterFault := x.voterFault, retired := x.retired,
    classMerged := x.classMerged, fanoutCut := x.fanoutCut, classes := x.classes, oldClasses := x.oldClasses,
    rebuilt := x.rebuilt, served := x.served, stallAt := x.stallAt, flushed := true }

/-- Counters of the kind frame become zero (R32). -/
def State.zeroFrame (s : State) : State := { s with regs := s.regs.filter fun e => !frameCounter e.1 }

/-- Items of F1 to F3 belong to the frame that ends: their replies are stale (R466). Those of F0 hold blocks of the next frame as well
and stay (R64, log entry 46). -/
def State.haClear (s : State) : State := [1, 2, 3].foldl (fun s f => s.haForget f fun _ => true) s

/-- Requested calibrations of ports that are in service begin (R79). -/
def State.calDue (s : State) (p : Nat) : State :=
  let x := s.port p
  if x.calReq ∧ (x.link = .ready ∨ x.link = .up) ∧ s.isHit p then s.calBegin p else s

/-- A deferred TDC calibration begins at the end of the reset interval (R531). -/
def State.tdcDue (s : State) : State :=
  if s.time.tdcWait then
    ({ s with time := { s.time with tdc := some (s.frame.clear * unitT), tdcWait := false } }).setField (oTmg 0x58) 58 56 1
  else s

/-- Every pending live table is activated at one instant (R544). -/
def State.activateAll (s : State) : State := s.activateSet ((List.range 4).filter fun k => s.tabPending k)

/-- A step of device time that waits is made (R520). -/
def State.stepDue (s : State) : State :=
  match s.time.step with
  | some d => s.applyStep d
  | none => s

/-- Longest reset interval, 2 µs in units of 2^-10 ns (R23). -/
def resetMax : Nat := 2048000

/-- The reset interval begins; its length is open up to 2 µs (R23), a free value. -/
def State.intervalBegin (s : State) : State :=
  let s : State := { s with frame := { s.frame with
    phase := .resetting, clear := devUnits s.now + s.freeVal.toNat % (resetMax + 1) } }
  s.useFree

/-- Words and messages between rows and clusters are dropped. -/
def State.pathsClear (s : State) : State := { s with cluIn := [], wmIn := [], wms := [], xbar := [], reports := [] }

/-- The reset interval (R23, R32). -/
def State.resetInterval (s : State) (chk : DrainChecks) : State :=
  let s := s.stepDue.intervalBegin
  let s := forN 32 (fun s r => s.setRow r (s.row r).clear) s
  let s := (forN 32 (fun s k => s.cluClear k) s).pathsClear.haClear
  let s := (s.checks chk).relock.activateAll.zeroFrame
  let s := ((s.ports.map (·.1)).foldl (fun s p => s.calDue p) s).tdcDue
  forN 32 (fun s k => s.bistPoll k) s

/-- DRAIN_COMPLETE (R31, R32). -/
def execDrainComplete (t : Time) (chk : DrainChecks) (s : State) : Out :=
  let s := (s.at t).frameEnd.roDrainAll
  .next (
    if s.frame.phase = Phase.draining ∧ s.drained then
      (s.event 2 0 [BitVec.ofNat 64 s.frame.count, BitVec.ofNat 64 ((t - s.endT) / 128000)]).resetInterval chk
    else s)

/-! ### Frame overrun (R33) -/

/-- Stages not closed (R579). -/
def State.openStages (s : State) : Nat :=
  let stitch := s.ports.any fun e => e.2.link == .up && s.isHit e.1 && !e.2.closed
  b2n stitch + b2n (!s.rowsFlushed) * 2 + b2n (!s.slicesOver) * 4 + b2n (!s.decided) * 8 + b2n (!s.roWritten) * 16

/-- Readout records not yet written, with those that would still have been formed; nothing is read for these. -/
def State.roLost (s : State) : List (List Word) :=
  let qs := (s.activeQueues 1).filter fun q => bit (s.kinds q) 2
  (s.mast.roOut.flatMap fun e => e.2) ++
    s.mast.ro.flatMap fun j => qs.flatMap fun q => (s.roRecords j (s.field (oQbind q) 31 0) true).2

/-- First and last slot of a list of readout records. -/
def slotSpan (l : List (List Word)) : Nat :=
  match l.map fun r => bf (r.headD 0) 31 0 with
  | [] => 0
  | a :: m => m.foldl min a * 2 ^ 32 + m.foldl max a

/-- The hits that a row still holds, up to those whose last copy waits for the crossbar, are late hits, and its end-of-frame words
leave (R33, log entry 87). -/
def State.rowOverrun (s : State) (r : Nat) : State :=
  let x := s.row r
  if s.rowIn r = false ∨ x.flushed then s
  else
    let words := (x.copies ++ x.voq.flatMap fun e => e.2).filter fun d => d.last && !d.eof
    let held := (x.store ++ x.picked).map (·.stream) ++ words.map (·.stream)
    let s := held.foldl (fun s i => s.lateHit r i) s
    (s.setRow r { s.row r with store := [], picked := [], copies := [], voq := [] }).rowEof r false

/-- Every slice that is left is abandoned. -/
def State.sliceOverrun (s : State) (k : Nat) : State := (s.clu k).slices.foldl (fun s x => s.abandon k x) s

/-- The work of the frame that is left is given up, with one record. -/
def State.overrun (s : State) : State :=
  let n := ((List.range 32).map fun k => (s.clu k).slices.length).sum
  let lost := s.roLost
  let s := s.errWith 1 8 0 1 noSlot s.openStages n lost.length (slotSpan lost) none
  let s := forN 32 (fun s r => s.rowOverrun r) s
  let s := forN 32 (fun s k => s.sliceOverrun k) s
  { s with mast := { s.mast with ro := [], roOut := [] } }

/-- FRAME_OVERRUN (R33): the drain is not complete at E(n) + D. -/
def execFrameOverrun (t : Time) (chk : DrainChecks) (s : State) : Out :=
  let s := (s.at t).frameEnd.roDrainAll
  .next (
    if s.frame.phase = Phase.draining ∧ s.endT + s.drainD ≤ t ∧ s.drained = false then s.overrun.resetInterval chk else s)

/-! ### Cast-on (R19 to R24, Table 1.2) -/

/-- An entry of the Function Mode Table asks for queues that it may not have (R465). -/
def State.fmtBad (s : State) (f : Nat) : Bool :=
  let sq := s.field (oQue (f * 0x10)) 61 47
  let cq := s.field (oQue (f * 0x10)) 46 32
  !(s.qType sq == 2 && s.qState sq == 1) || !(s.qType cq == 3 && s.qState cq == 1) || s.isCq cq

/-- ACTIVE takes MODE, or the change is refused (R465); a change makes every outstanding item of the function stale (R466). -/
def State.modeTake (s : State) (f : Nat) : State :=
  let o := oQue (f * 0x10)
  let m := s.field o 63 63
  if m = s.field o 62 62 then s
  else if m = 1 ∧ s.fmtBad f then s.err 1 9 f 3 0
  else ((s.setField o 62 62 m).haForget f fun _ => true).event 6 f [BitVec.ofNat 64 m]

/-- Per-channel counters and auto-masks (R70, R72). DESIGN CHOICE (log entry 100): a channel that STICKY keeps masked has no new
record. -/
def State.chanCast (s : State) : State :=
  let keep := s.field (oFmt 0x128) 1 1 == 1
  let sticky := s.field (oFmt 0x128) 0 0 == 1
  let f := fun (c : ChanSt) =>
    { (if keep then c else { c with fwd := 0, masked := 0, supp := 0 }) with
      auto := c.auto && sticky, win := 0, cnt := 0, told := false }
  { s with chans := (s.chans.map fun e => (e.1, f e.2)).filter fun e => e.2 != ChanSt.reset }

/-- A PLL that was lost has held lock for 100 µs (R494). -/
def State.pllBack (s : State) (u : Nat) : Bool :=
  (s.pll u).lost && (match (s.pll u).locked with
    | some t0 => decide (t0 + usT 100 ≤ s.now)
    | none => false)

/-- A row whose PLL has returned is in service again with the lanes it has. -/
def State.rowPll (s : State) (r : Nat) : State :=
  if s.pllBack r then
    let x := s.row r
    (s.setPll r .reset).setRow r { x with vstate := if x.retired ∨ x.lanesOn < 2 then 2 else 3 - x.lanesOn }
  else s

/-- The cores of a cluster are dispatched again (R271, R494), but for those that a self-test took out (R589). -/
def State.cluCast (s : State) (k : Nat) : State :=
  let s := if s.pllBack (32 + k) then (s.setPll (32 + k) .reset).restart k else s
  let lost := (s.pll (32 + k)).lost
  forN 16 (fun s i =>
    let c := k * 16 + i
    let s := s.setCore c { s.core c with out := lost || bit (s.clu k).coresOff i }
    forN 4 (fun s j => s.setCtx c j { s.ctx c j with micro := [] }) s) s

/-- MODE of port `p` under the registers that take effect at this cast-on. -/
def State.modeNext (s : State) (p : Nat) : Nat := dMode (s.reg (oFmt (s.field (oPort p 0) 11 8 * 0x10)))

/-- The port is refused as a readout port beyond the 64th at this cast-on (R80). -/
def State.refusedNext (s : State) (p : Nat) : Bool :=
  s.modeNext p == 2 && decide (64 ≤ ((List.range p).filter fun q => s.modeNext q == 2).length)

/-- A port whose descriptor changes its mode, or that is refused, goes to OFF, still under the descriptor of the frame that ended
(R56, R67, R80, R82); the cast-on takes it on to ACQUIRE when it may leave OFF. -/
def State.modeLeave (s : State) (p : Nat) : State :=
  if (s.port p).link ≠ .off ∧ (s.modeNext p ≠ dMode (s.descA p) ∨ s.modeNext p = 0 ∨ s.refusedNext p = true) then s.enter p .off true
  else s

/-- The frame that ended is over for a port: a stitch still open, as after an overrun, closes (R33, R67). -/
def State.portOver (s : State) (p : Nat) : State :=
  (if (s.port p).link = .up ∧ (s.port p).closed = false ∧ s.frame.count ≠ 0 ∧ s.isHit p then s.closeStitch p else s).modeLeave p

/-- Descriptor index of a port in effect. -/
def State.fmtOf (s : State) (p : Nat) : Nat := bf (s.effReg (oPort p 0)) 11 8

/-- Port state at a cast-on before links change: per-frame marks. Blocks gathered for a host that translates no longer go back to
the head of the buffer. -/
def State.portFresh (s : State) (p : Nat) : State :=
  let x := s.port p
  let x := if s.haOn 0 (p / 16) then x else { x with buf := x.gathered ++ x.buf, gathered := [] }
  (s.setPort p { x with closed := true, faultRec := false, ovfRec := false }).setField (oPort p 8) 7 7 0

/-- A port with an invalid descriptor does not run in the frame (R59): it is shown, and recorded once for each descriptor. -/
def State.badDesc (s : State) (p : Nat) (seen : List Nat) : State :=
  let s := s.setField (oPort p 8) 6 6 1
  let s := if seen.contains (s.fmtOf p) then s else s.err 1 0 p 2 (s.fmtOf p)
  if (s.port p).link = .up then s.enter p .ready true else s

/-- A port in READY comes UP, a DEAD port that has passed its check leaves DEAD (Table 2.4). `seen`: descriptors recorded. -/
def State.portCast (s : State) (p : Nat) (seen : List Nat) : State × List Nat :=
  let l := (s.port p).link
  if l = .dead then
    (if (s.port p).checked ∧ s.field (oPort p 0) 1 1 = 0 then s.enter p .acquire true else s, seen)
  else if l = .ready ∨ l = .up then
    if descBad (s.descA p) (s.descB p) then (s.badDesc p seen, s.fmtOf p :: seen)
    else (if l = .ready then (s.setField (oPort p 8) 6 6 0).enter p .up true else s.setField (oPort p 8) 6 6 0, seen)
  else (s.setField (oPort p 8) 6 6 0, seen)

/-- Ports at a cast-on, in ascending order. -/
def State.portsCast (s : State) : State :=
  let known := s.ports.map (·.1)
  let s := known.foldl (fun s p => s.portFresh p) s
  let s := forN 512 (fun s p => s.showMode p) s
  let r := known.foldl (fun (a : State × List Nat) p => a.1.portCast p a.2) (s, [])
  forN 512 (fun s p => s.tryLeaveOff p) r.1

/-- The stitch of an UP hit port opens at a cast-on (R35, R68), that of a stopped row too: its hits are lost in the row (R107). -/
def State.stitchCast (s : State) (p : Nat) : State :=
  if (s.port p).link = .up ∧ s.isHit p then s.setPort p { s.port p with closed := false } else s

/-- A row at a cast-on (R87, R90, R107, R501): stop, or live streams from its UP hit ports and enabled spike inputs. -/
def State.rowCast (s : State) (r : Nat) : State :=
  let x := { (s.row r).clear with inbox := [], flushed := false }
  if s.rowIn r = false then s.setRow r { x with rt := s.keyL }
  else
    let s := forN 16 (fun s i => s.stitchCast (r * 16 + i)) s
    if x.vstate = 2 then ((s.setRow r { x with rt := s.keyL }).rowEof r false).sticky r
    else
      let live := fun (i : Nat) =>
        if i < 16 then (s.port (r * 16 + i)).link == .up && s.isHit (r * 16 + i) else s.spikeOn (r * 2 + i - 16)
      let st := fun (i : Nat) =>
        { StreamSt.reset with live := live i, ts := if live i then 0 else s.keyL, changed := s.now }
      (s.setRow r { x with streams := (List.range 18).foldl (fun l i => sset .reset i (st i) l) [] }).rowTick r

/-- Hits that reach a row between drain and cast-on are late hits (R33). -/
def State.inboxLate (s : State) (r : Nat) : State :=
  (s.row r).inbox.foldl (fun s e => match e.2.2 with
    | .hit _ _ => if (s.row r).vstate = 2 then s.bump (oRow r 0x130) else s.lateHit r e.2.1
    | _ => s) s

/-- A spike channel opens and releases the edges that wait (R529). -/
def State.spikeCast (s : State) (i : Nat) : State :=
  let edges := (s.spike i).buf
  let s := s.setSpike i { s.spike i with closed := !s.spikeOn i, buf := [], win := 0, cnt := 0, rateRec := false }
  if s.spikeOn i then edges.foldl (fun s t => if (s.spike i).closed then s.spikeWait i t else s.spikeEdge i t) s else s

/-- A front-end fault that lasts is treated as new (R57). -/
def State.faultCast (s : State) (p : Nat) : State :=
  if s.field (oPort p 8) 2 2 = 1 then s.feFaultIn p else s

/-- The masthead for a new frame; prescale counts, tables and FIFO contents stay (Table 1.2). -/
def MastSt.cast (m : MastSt) : MastSt :=
  { MastSt.reset with counts := m.counts, failed := m.failed, record := m.record, fifos := m.fifos }

/-- What a combiner and a contributor know of the frame (R395, R396, R398). -/
def State.ringCast (s : State) : State :=
  let fresh : Sparse ContribSt := (List.range 64).foldl (fun m k =>
    if s.contribOn k then sset .reset k { ContribSt.reset with heard := s.now } m else m) []
  ({ s with ring := { s.ring with contribs := fresh, candSeq := 0, candAt := s.now, doneSent := 0, reefTold := 0 } }).ringDones

/-- A TDC calibration that has not ended is aborted and deferred again (R531). -/
def State.tdcCast (s : State) : State :=
  match s.time.tdc with
  | some t0 =>
    if s.now < t0 + usT 1050 then
      ({ s with time := { s.time with tdc := none, tdcWait := true } }).setField (oTmg 0x58) 58 56 5
    else s
  | none => s

/-- Records that are written once a frame may be written again; the ring roles of the frame are settled (R408); the clusters leave the throttle step once the junction has been cool
for 1 ms (R508). -/
def State.onceCast (s : State) : State :=
  let cool : Bool := match s.pwr.coolAt with
    | some t0 => decide (t0 + usT 1000 ≤ s.now)
    | none => false
  { s with
    time := { s.time with hotRec := [], alignRec := [] }
    pwr := { s.pwr with stalls := [], throttled := s.pwr.throttled && !cool }
    cxl := { s.cxl with refused := [] }
    ring := { s.ring with joined := s.rstate == 2 } }

/-- The frame is active: its start and end, and in FIXED mode the start of the next (R19, R23). -/
def State.frameBegin (s : State) (start : Nat) : State :=
  let stop := start + s.lenL * 16
  { s with frame := { phase := .running, count := s.frame.count + 1, start := start, stop := stop,
                      next := if s.markMode then none else some (stop + s.gapG / unitT), clear := 0 } }

/-- Fields that take effect at a cast-on do; a row whose streams then feed other regions, by ROW_SPIKE or by a port that becomes a
readout port or a hit port, builds its classes again (R81, R88, R97). -/
def State.effCast (s : State) : State :=
  let u : State := { s with eff := s.regs }
  forN 32 (fun u r => if s.feeds r = u.feeds r then u else u.buildClasses r) u

/-- What the frame that ended leaves behind: late hits in the rows, stitches still open, ports that change their mode; then the
counters of the kind frame start at zero (R32, R33, R84). -/
def State.frameOver (s : State) : State :=
  let s := forN 32 (fun s r => s.inboxLate r) s
  ((s.ports.map (·.1)).foldl (fun s p => s.portOver p) s).zeroFrame

/-- Units at a cast-on, before the frame is active. What ran between frames in clusters, rows and on their paths leaves nothing
(Table 1.2, R101, R113, R146). -/
def State.unitsCast (s : State) : State :=
  let s := (forN 8 (fun s f => s.modeTake f) s).frameOver.effCast.chanCast
  let s := forN 32 (fun s r => (s.domNext (32 + r) true 8).rowPll r) s
  let s := (forN 32 (fun s k => (s.cluClear k).cluCast k) s).pathsClear
  s.tdcCast.onceCast.setExpect.portsCast

/-- CAST_ON of a frame that starts at `start` (R24, Table 1.2). -/
def State.castOnNow (s : State) (start : Nat) : State :=
  let s := if s.frame.count = 0 then s.settleAll.activateAll else s.settleAll
  let s := (s.gcSuspend.unitsCast.setField (oMst 0x30) 63 0 0).frameBegin start
  let s := ({ (s.setField (oMst 8) 61 61 0) with mast := s.mast.cast, irqCast := s.irqCast + 1 }).dropOld
  let s := forN 32 (fun s k => s.coverage k) (forN 32 (fun s r => s.rowCast r) s).ringCast
  let s := forN 64 (fun s i => s.spikeCast i) s
  let s := (s.ports.map (·.1)).foldl (fun s p => s.faultCast p) s
  (s.setStep 10).event 1 0 [BitVec.ofNat 64 (s.frame.count % 2 ^ 32), BitVec.ofNat 64 (start % 2 ^ 56)]

/-- CAST_ON: at S(n+1) or the end of the reset interval, whichever is later (R23). -/
def execCastOn (t : Time) (s : State) : Out :=
  let s := s.at t
  .next (match s.frame.next with
    | none => s
    | some start =>
      if s.castOn ∨ t < start * unitT ∨ t < s.frame.clear * unitT then s else s.castOnNow start)

end Sys2Proof.Machine
end

