-- ==== Sys2Proof/Machine/RingMgmt.lean ====
section
/-! DEFINITION. Management and bulk messages of the ring (R403, R404, R455, Table 12.4). -/

namespace Sys2Proof.Machine

/-- The answer of a request that has been executed before. -/
def State.servedFor (s : State) (src seq : Nat) : Option (Nat × Word) :=
  (s.ring.served.find? fun e => e.1 == src && e.2.1 == seq).map fun e => e.2.2

/-- Answer a request with ACK. -/
def State.answer (s : State) (m : RingMsg) (status : Nat) (data : Word) : State :=
  s.originate (s.mkMsg 4 1 6 0 m.src.toNat m.seq.toNat [BitVec.ofNat 64 status, data])

/-- Record an executed request among the last 256 and answer it. -/
def State.served (s : State) (m : RingMsg) (status : Nat) (data : Word) : State :=
  let l := (m.src.toNat, m.seq.toNat, status, data) :: s.ring.served
  ({ s with ring := { s.ring with served := l.take 256 } }).answer m status data

/-- BAR0 ends here; an offset beyond it returns a bus error. -/
def barEnd : Nat := 0x4000000

/-- RD: always served (R403); a misaligned offset is the access of R9. A register of one world is out of its reach (R272): the answer is
a free value (log entry 90). -/
def State.serveRd (s : State) (m : RingMsg) : State :=
  let o := (m.body.getD 0 0).toNat
  match s.servedFor m.src.toNat m.seq.toNat with
  | some (st, d) => s.answer m st d
  | none =>
    if barEnd ≤ o then s.served m 2 0
    else if (worldReg o).isSome then s.useFree.served m 0 s.freeVal
    else
      let s := if o % 8 = 0 then s.barRead o else s.badAccess o false
      s.served m 0 s.rdata

def execRd (t : Time) (i : RingPort) (m : RingMsg) (s : State) : Out :=
  .next ((s.at t).receive i 4 4 m fun s => s.serveRd m)

/-- WR: acted on with MGMT_WR and outside SEC, else refused (R403). -/
def State.serveWr (s : State) (m : RingMsg) : State :=
  let o := (m.body.getD 0 0).toNat
  let v := m.body.getD 1 0
  match s.servedFor m.src.toNat m.seq.toNat with
  | some (st, d) => s.answer m st d
  | none =>
    if s.field (oShr 0) 2 2 = 0 ∨ (oSec 0 ≤ o ∧ o < oFmt 0) then s.answer m 1 0
    else if barEnd ≤ o then s.served m 2 0
    else if o % 8 ≠ 0 then (s.badAccess o true).served m 0 0
    else (s.barWrite .ring o v).served m 0 0

def execWr (t : Time) (i : RingPort) (m : RingMsg) (s : State) : Out :=
  .next ((s.at t).receive i 4 5 m fun s => s.serveWr m)

/-- An ACK ends the job whose request it answers (R403, R455): RING_RD commits at it, and its RESULT is the data; the RESULT of
RING_WR is the status. -/
def State.ackIn (s : State) (m : RingMsg) : State :=
  match s.ring.pend.find? fun r => r.seq == m.seq.toNat && r.msg.dst == m.src with
  | none => s
  | some r =>
    let st := bf (m.body.getD 0 0) 7 0
    let status := if st = 0 then 0 else if st = 1 then 3 else 2
    let result := if r.msg.typ.toNat = 4 then m.body.getD 1 0 else BitVec.ofNat 64 st
    (s.jobCommit r.queue).jobEnd r.queue status result

def execAck (t : Time) (i : RingPort) (m : RingMsg) (s : State) : Out :=
  .next ((s.at t).receive i 4 6 m fun s => s.ackIn m)

/-- Wait after the n-th send of a request (R404). -/
def retryWait (sends : Nat) : Time := usT (min 1280 (20 * 2 ^ min 6 (sends - 1)))

/-- MGMT_RETRANSMIT: a request without its ACK is sent again, or after 32 sends ends with TIMEOUT (R404, Table 14.5). -/
def execMgmtRetransmit (t : Time) (seq : BitVec 32) (s : State) : Out :=
  let s := s.at t
  match s.ring.pend.find? fun r => r.seq == seq.toNat && decide (r.again ≤ t) with
  | none => .next s
  | some r =>
    if 32 ≤ r.sends then .next (s.jobEnd r.queue 4 0)
    else
      let r' : PendReq := { r with sends := r.sends + 1, again := t + retryWait (r.sends + 1) }
      let s := { s with ring := { s.ring with pend := s.ring.pend.map fun (x : PendReq) => if x.seq = r.seq then r' else x } }
      let s := s.originate r.msg
      .next (if r.msg.typ = 5 ∧ s.departs r.msg.dst.toNat then s.jobCommit r.queue else s)

/-- The range of a BWRITE lies in host-visible SHARED regions (Table 14.4). -/
def State.bulkTarget (s : State) (a n : Nat) : Bool :=
  decide (0 < n) && decide (a + n ≤ 0x100000000000) &&
  [a, a + n - 1].all fun x => s.hostSees x && s.ownerAt x 0 == 3

/-- BWRITE: the data words that SEQ counts are written at the target, and BDONE answers with the same SEQ (log entry 57). -/
def State.bulkIn (s : State) (m : RingMsg) : State :=
  let a := (m.body.getD 0 0).toNat
  let bs := wordBytes ((m.body.drop 1).take (m.seq.toNat / 2 ^ 25))
  let ans := fun (s : State) (refused : Nat) =>
    s.originate (s.mkMsg 5 1 1 0 m.src.toNat m.seq.toNat [BitVec.ofNat 64 refused])
  if s.bulkTarget a bs.length = false then ans s 1
  else match s.engineWrite a bs with
    | (s, true) => ans s 0
    | (s, false) => ans s 1

def execBwrite (t : Time) (i : RingPort) (m : RingMsg) (s : State) : Out :=
  .next ((s.at t).receive i 5 0 m fun s => s.bulkIn m)

/-- The queue whose running BULK job a BDONE answers: the first with a job for that node. -/
def State.bulkQueue (s : State) (node : Nat) : Option Nat :=
  (s.queues.find? fun e => match e.2.busy with
    | some j => jobOp j.words == 0x20 && j.w 1 == node
    | none => false).map (·.1)

/-- BDONE: the bytes of its message have arrived, or were refused; when every message is answered the job ends (log entry 57). -/
def State.bulkDone (s : State) (m : RingMsg) : State :=
  match s.bulkQueue m.src.toNat with
  | none => s
  | some q => match (s.queue q).busy with
    | none => s
    | some j =>
      let i := m.seq.toNat % 2 ^ 25
      let n := min (8 * bwriteWords) (j.w 4 - i * (8 * bwriteWords))
      let bad := bf (m.body.getD 0 0) 7 0 != 0
      let j := { j with acked := j.acked + (if bad then 0 else n), refused := j.refused || bad }
      let s := s.setQueue q { s.queue q with busy := some j }
      if (i + 1) * (8 * bwriteWords) < j.w 4 then s
      else s.jobEnd q (if j.acked = j.w 4 ∧ j.refused = false then 0 else 2) (BitVec.ofNat 64 j.acked)

def execBdone (t : Time) (i : RingPort) (m : RingMsg) (s : State) : Out :=
  .next ((s.at t).receive i 5 1 m fun s => s.bulkDone m)

end Sys2Proof.Machine
end

