-- ==== Sys2Proof/Machine/Dispatch.lean ====
section
/-! DEFINITION. One arm per command: a direct call of its meaning. -/

namespace Sys2Proof.Machine

/-- The effect of a command on everything but the queue of waiting commands. -/
def exec (i : Instr) (s : State) : Host.Outcome State Fault Refusal :=
  match i with
  | .registerWrite t path off v => Sys2Proof.Machine.execRegisterWrite t path off v s
  | .misalignedRegisterAccess t off size write v => Sys2Proof.Machine.execMisalignedRegisterAccess t off size write v s
  | .frameMark t widthPs => Sys2Proof.Machine.execFrameMark t widthPs s
  | .fmsoftWrite t v => Sys2Proof.Machine.execFmsoftWrite t v s
  | .frameEnd t => Sys2Proof.Machine.execFrameEnd t s
  | .drainComplete t chk => Sys2Proof.Machine.execDrainComplete t chk s
  | .castOn t => Sys2Proof.Machine.execCastOn t s
  | .frameOverrun t chk => Sys2Proof.Machine.execFrameOverrun t chk s
  | .uplinkIdle t p => Sys2Proof.Machine.execUplinkIdle t p s
  | .uplinkTrain t p feType serial ack => Sys2Proof.Machine.execUplinkTrain t p feType serial ack s
  | .tick t p raw => Sys2Proof.Machine.execTick t p raw s
  | .echo t p ident turnaround => Sys2Proof.Machine.execEcho t p ident turnaround s
  | .status t p dlLock synced feFault word => Sys2Proof.Machine.execStatus t p dlLock synced feFault word s
  | .scReply t p payload => Sys2Proof.Machine.execScReply t p payload s
  | .credit t p grant => Sys2Proof.Machine.execCredit t p grant s
  | .invalidUplinkBlock t p sync block => Sys2Proof.Machine.execInvalidUplinkBlock t p sync block s
  | .hitBlock t p block => Sys2Proof.Machine.execHitBlock t p block s
  | .stitchPipeline t p fail => Sys2Proof.Machine.execStitchPipeline t p fail s
  | .blockLockGained t p => Sys2Proof.Machine.execBlockLockGained t p s
  | .blockLockLost t p => Sys2Proof.Machine.execBlockLockLost t p s
  | .trainTimeout t p => Sys2Proof.Machine.execTrainTimeout t p s
  | .syncCommand t p => Sys2Proof.Machine.execSyncCommand t p s
  | .syncTimeout t p => Sys2Proof.Machine.execSyncTimeout t p s
  | .echoCommand t p => Sys2Proof.Machine.execEchoCommand t p s
  | .echoTimeout t p => Sys2Proof.Machine.execEchoTimeout t p s
  | .prtEnable t p en => Sys2Proof.Machine.execPrtEnable t p en s
  | .prtForceDead t p set => Sys2Proof.Machine.execPrtForceDead t p set s
  | .prtRetrain t p => Sys2Proof.Machine.execPrtRetrain t p s
  | .calStart t p => Sys2Proof.Machine.execCalStart t p s
  | .fcsend t p v => Sys2Proof.Machine.execFcsend t p v s
  | .slowControlSend t p v => Sys2Proof.Machine.execSlowControlSend t p v s
  | .readoutRecordSend t p q => Sys2Proof.Machine.execReadoutRecordSend t p q s
  | .regmapDataAccess t write v => Sys2Proof.Machine.execRegmapDataAccess t write v s
  | .chcntData1Read t => Sys2Proof.Machine.execChcntData1Read t s
  | .automaskClear t v => Sys2Proof.Machine.execAutomaskClear t v s
  | .rowHitArrival t r => Sys2Proof.Machine.execRowHitArrival t r s
  | .rowMergeSelect t r differ voters => Sys2Proof.Machine.execRowMergeSelect t r differ voters s
  | .rowFlush t r => Sys2Proof.Machine.execRowFlush t r s
  | .copyStage t r => Sys2Proof.Machine.execCopyStage t r s
  | .crossbarGrant t c => Sys2Proof.Machine.execCrossbarGrant t c s
  | .watermarkMessage t r c => Sys2Proof.Machine.execWatermarkMessage t r c s
  | .streamStall t r n => Sys2Proof.Machine.execStreamStall t r n s
  | .historyLineWrite t r => Sys2Proof.Machine.execHistoryLineWrite t r s
  | .dmapDataAccess t r data1 write v => Sys2Proof.Machine.execDmapDataAccess t r data1 write v s
  | .dispatchWordArrival t c => Sys2Proof.Machine.execDispatchWordArrival t c s
  | .watermarkReceive t c => Sys2Proof.Machine.execWatermarkReceive t c s
  | .sliceDispatch t c => Sys2Proof.Machine.execSliceDispatch t c s
  | .sliceStart t c k => Sys2Proof.Machine.execSliceStart t c k s
  | .sliceCommit t c k => Sys2Proof.Machine.execSliceCommit t c k s
  | .sliceTimeout t c k => Sys2Proof.Machine.execSliceTimeout t c k s
  | .unravel t c k => Sys2Proof.Machine.execUnravel t c k s
  | .provClear core ctx => Sys2Proof.Machine.execProvClear core ctx s
  | .candidateTransfer t c => Sys2Proof.Machine.execCandidateTransfer t c s
  | .contextSwitch core => Sys2Proof.Machine.execContextSwitch core s
  | .ctxTimerExpiry core ctx => Sys2Proof.Machine.execCtxTimerExpiry core ctx s
  | .ctxTimerWrite t core ctx v => Sys2Proof.Machine.execCtxTimerWrite t core ctx v s
  | .interruptTaken core => Sys2Proof.Machine.execInterruptTaken core s
  | .fiqEntry core => Sys2Proof.Machine.execFiqEntry core s
  | .holdOverrun core => Sys2Proof.Machine.execHoldOverrun core s
  | .twoPlyWord core w => Sys2Proof.Machine.execTwoPlyWord core w s
  | .nopS core => Sys2Proof.Machine.execNopS core s
  | .add core rd ra rb => Sys2Proof.Machine.execAdd core rd ra rb s
  | .sub core rd ra rb => Sys2Proof.Machine.execSub core rd ra rb s
  | .mul core rd ra rb => Sys2Proof.Machine.execMul core rd ra rb s
  | .cmp core rd ra rb => Sys2Proof.Machine.execCmp core rd ra rb s
  | .min core rd ra rb => Sys2Proof.Machine.execMin core rd ra rb s
  | .max core rd ra rb => Sys2Proof.Machine.execMax core rd ra rb s
  | .addi core rd ra imm => Sys2Proof.Machine.execAddi core rd ra imm s
  | .andR core rd ra rb => Sys2Proof.Machine.execAndR core rd ra rb s
  | .orR core rd ra rb => Sys2Proof.Machine.execOrR core rd ra rb s
  | .xorR core rd ra rb => Sys2Proof.Machine.execXorR core rd ra rb s
  | .andi core rd ra imm => Sys2Proof.Machine.execAndi core rd ra imm s
  | .ori core rd ra imm => Sys2Proof.Machine.execOri core rd ra imm s
  | .xori core rd ra imm => Sys2Proof.Machine.execXori core rd ra imm s
  | .shl core rd ra rb => Sys2Proof.Machine.execShl core rd ra rb s
  | .shr core rd ra rb => Sys2Proof.Machine.execShr core rd ra rb s
  | .shru core rd ra rb => Sys2Proof.Machine.execShru core rd ra rb s
  | .shli core rd ra imm => Sys2Proof.Machine.execShli core rd ra imm s
  | .shri core rd ra imm => Sys2Proof.Machine.execShri core rd ra imm s
  | .movi core rd imm => Sys2Proof.Machine.execMovi core rd imm s
  | .mov core rd ra => Sys2Proof.Machine.execMov core rd ra s
  | .tag core rd ra => Sys2Proof.Machine.execTag core rd ra s
  | .eqR core rd ra rb => Sys2Proof.Machine.execEqR core rd ra rb s
  | .retag core rd ra rb => Sys2Proof.Machine.execRetag core rd ra rb s
  | .cvtf core rd ra => Sys2Proof.Machine.execCvtf core rd ra s
  | .cvti core rd ra => Sys2Proof.Machine.execCvti core rd ra s
  | .tchk core rd ra imm => Sys2Proof.Machine.execTchk core rd ra imm s
  | .fld core rd ra sel => Sys2Proof.Machine.execFld core rd ra sel s
  | .ld core rd base post ofs => Sys2Proof.Machine.execLd core rd base post ofs s
  | .pageWalk core acc va speculative => Sys2Proof.Machine.execPageWalk core acc va speculative s
  | .lineFill core kind pa => Sys2Proof.Machine.execLineFill core kind pa s
  | .st core src base post ofs => Sys2Proof.Machine.execSt core src base post ofs s
  | .storeRelease core ctx => Sys2Proof.Machine.execStoreRelease core ctx s
  | .lda core rd abs => Sys2Proof.Machine.execLda core rd abs s
  | .sta core src abs => Sys2Proof.Machine.execSta core src abs s
  | .car core rd ra => Sys2Proof.Machine.execCar core rd ra s
  | .cdr core rd ra => Sys2Proof.Machine.execCdr core rd ra s
  | .ldp core rd ra => Sys2Proof.Machine.execLdp core rd ra s
  | .stp core src ra => Sys2Proof.Machine.execStp core src ra s
  | .setcar core ra rb => Sys2Proof.Machine.execSetcar core ra rb s
  | .setcdr core ra rb => Sys2Proof.Machine.execSetcdr core ra rb s
  | .vld core rd ra rb => Sys2Proof.Machine.execVld core rd ra rb s
  | .vst core src ra rb => Sys2Proof.Machine.execVst core src ra rb s
  | .vlen core rd ra => Sys2Proof.Machine.execVlen core rd ra s
  | .cons core rd ra rb => Sys2Proof.Machine.execCons core rd ra rb s
  | .allocv core rd ra => Sys2Proof.Machine.execAllocv core rd ra s
  | .cpyl core rd ra => Sys2Proof.Machine.execCpyl core rd ra s
  | .assoc core rd ra rb => Sys2Proof.Machine.execAssoc core rd ra rb s
  | .hlook core rd ra rb => Sys2Proof.Machine.execHlook core rd ra rb s
  | .hset core rd ra rb mode => Sys2Proof.Machine.execHset core rd ra rb mode s
  | .llen core rd ra => Sys2Proof.Machine.execLlen core rd ra s
  | .halloc core rd ra mode => Sys2Proof.Machine.execHalloc core rd ra mode s
  | .hgc core rd => Sys2Proof.Machine.execHgc core rd s
  | .collectionCycle t core ctx => Sys2Proof.Machine.execCollectionCycle t core ctx s
  | .b core ofs => Sys2Proof.Machine.execB core ofs s
  | .bS core ofs => Sys2Proof.Machine.execBS core ofs s
  | .call core ofs => Sys2Proof.Machine.execCall core ofs s
  | .callS core ofs => Sys2Proof.Machine.execCallS core ofs s
  | .bc core rt cond ofs => Sys2Proof.Machine.execBc core rt cond ofs s
  | .bcS core rt cond ofs => Sys2Proof.Machine.execBcS core rt cond ofs s
  | .ret core => Sys2Proof.Machine.execRet core s
  | .j core ra => Sys2Proof.Machine.execJ core ra s
  | .callr core ra => Sys2Proof.Machine.execCallr core ra s
  | .eret core => Sys2Proof.Machine.execEret core s
  | .lbrk core => Sys2Proof.Machine.execLbrk core s
  | .wret core => Sys2Proof.Machine.execWret core s
  | .wcall core imm => Sys2Proof.Machine.execWcall core imm s
  | .loopr core ra n => Sys2Proof.Machine.execLoopr core ra n s
  | .loopi core count n => Sys2Proof.Machine.execLoopi core count n s
  | .repr core ra => Sys2Proof.Machine.execRepr core ra s
  | .repi core count => Sys2Proof.Machine.execRepi core count s
  | .sys core imm => Sys2Proof.Machine.execSys core imm s
  | .mfs core rd spec => Sys2Proof.Machine.execMfs core rd spec s
  | .mts core spec ra => Sys2Proof.Machine.execMts core spec ra s
  | .xmul core ra rb => Sys2Proof.Machine.execXmul core ra rb s
  | .xfma core ra rb => Sys2Proof.Machine.execXfma core ra rb s
  | .fence core => Sys2Proof.Machine.execFence core s
  | .dsync core => Sys2Proof.Machine.execDsync core s
  | .tlbiA core ra => Sys2Proof.Machine.execTlbiA core ra s
  | .tlbiW core ra => Sys2Proof.Machine.execTlbiW core ra s
  | .tlbiAll core => Sys2Proof.Machine.execTlbiAll core s
  | .tlblk core ra => Sys2Proof.Machine.execTlblk core ra s
  | .tlbul core ra => Sys2Proof.Machine.execTlbul core ra s
  | .preload core rd ra rb => Sys2Proof.Machine.execPreload core rd ra rb s
  | .l2lock core ra => Sys2Proof.Machine.execL2lock core ra s
  | .stage core ra => Sys2Proof.Machine.execStage core ra s
  | .cx core slot rd ra rb mode => Sys2Proof.Machine.execCx core slot rd ra rb mode s
  | .safePointOverrun core slot maddr => Sys2Proof.Machine.execSafePointOverrun core slot maddr s
  | .decodeTableAccess t write v => Sys2Proof.Machine.execDecodeTableAccess t write v s
  | .cluL2lockWrite t c v => Sys2Proof.Machine.execCluL2lockWrite t c v s
  | .evictionAccept t c bank => Sys2Proof.Machine.execEvictionAccept t c bank s
  | .snoop t holder by_ pa write => Sys2Proof.Machine.execSnoop t holder by_ pa write s
  | .memoryRead t m pa req unit found => Sys2Proof.Machine.execMemoryRead t m pa req unit found s
  | .pageDecode t m pa req unit oneBurst => Sys2Proof.Machine.execPageDecode t m pa req unit oneBurst s
  | .memoryWrite t m pa mask data => Sys2Proof.Machine.execMemoryWrite t m pa mask data s
  | .mergeComplete t m pa => Sys2Proof.Machine.execMergeComplete t m pa s
  | .flipArm t m v => Sys2Proof.Machine.execFlipArm t m v s
  | .powerOnFill t m fails => Sys2Proof.Machine.execPowerOnFill t m fails s
  | .fillDone t => Sys2Proof.Machine.execFillDone t s
  | .stackFailure t m cause => Sys2Proof.Machine.execStackFailure t m cause s
  | .candidateTake t => Sys2Proof.Machine.execCandidateTake t s
  | .doneTime t c => Sys2Proof.Machine.execDoneTime t c s
  | .slotReport t unit slot => Sys2Proof.Machine.execSlotReport t unit slot s
  | .slotCutoff t slot differ => Sys2Proof.Machine.execSlotCutoff t slot differ s
  | .systemCutoff t slot differ => Sys2Proof.Machine.execSystemCutoff t slot differ s
  | .readoutGather t slot => Sys2Proof.Machine.execReadoutGather t slot s
  | .mstTabAccess t data1 write v => Sys2Proof.Machine.execMstTabAccess t data1 write v s
  | .mastheadActivation t => Sys2Proof.Machine.execMastheadActivation t s
  | .swap t v => Sys2Proof.Machine.execSwap t v s
  | .fecCodeword t p word => Sys2Proof.Machine.execFecCodeword t p word s
  | .ringIdle t p head credits => Sys2Proof.Machine.execRingIdle t p head credits s
  | .tsyncSend t p => Sys2Proof.Machine.execTsyncSend t p s
  | .tsync t p m => Sys2Proof.Machine.execTsync t p m s
  | .decision t p m => Sys2Proof.Machine.execDecision t p m s
  | .cand t p m => Sys2Proof.Machine.execCand t p m s
  | .done t p m => Sys2Proof.Machine.execDone t p m s
  | .doneSend t => Sys2Proof.Machine.execDoneSend t s
  | .loss t p m => Sys2Proof.Machine.execLoss t p m s
  | .contributorAbsent t k => Sys2Proof.Machine.execContributorAbsent t k s
  | .fcrel t p m => Sys2Proof.Machine.execFcrel t p m s
  | .hello t p m => Sys2Proof.Machine.execHello t p m s
  | .leave t p m => Sys2Proof.Machine.execLeave t p m s
  | .probe t p m => Sys2Proof.Machine.execProbe t p m s
  | .conflict t p m => Sys2Proof.Machine.execConflict t p m s
  | .rd t p m => Sys2Proof.Machine.execRd t p m s
  | .wr t p m => Sys2Proof.Machine.execWr t p m s
  | .ack t p m => Sys2Proof.Machine.execAck t p m s
  | .mgmtRetransmit t seq => Sys2Proof.Machine.execMgmtRetransmit t seq s
  | .bwrite t p m => Sys2Proof.Machine.execBwrite t p m s
  | .bdone t p m => Sys2Proof.Machine.execBdone t p m s
  | .ringLossOfSignal t p partly => Sys2Proof.Machine.execRingLossOfSignal t p partly s
  | .ringPortTrained t p => Sys2Proof.Machine.execRingPortTrained t p s
  | .join t => Sys2Proof.Machine.execJoin t s
  | .joinComplete t => Sys2Proof.Machine.execJoinComplete t s
  | .leaveRequest t => Sys2Proof.Machine.execLeaveRequest t s
  | .bypassClose t => Sys2Proof.Machine.execBypassClose t s
  | .doorbellWrite t q v => Sys2Proof.Machine.execDoorbellWrite t q v s
  | .doorbellArm t q => Sys2Proof.Machine.execDoorbellArm t q s
  | .queueInterrupt t q => Sys2Proof.Machine.execQueueInterrupt t q s
  | .queueEnable t q v => Sys2Proof.Machine.execQueueEnable t q v s
  | .queueDisable t q => Sys2Proof.Machine.execQueueDisable t q s
  | .abortRequest t v => Sys2Proof.Machine.execAbortRequest t v s
  | .abortDecide t => Sys2Proof.Machine.execAbortDecide t s
  | .norRead t q => Sys2Proof.Machine.execNorRead t q s
  | .norErase t q => Sys2Proof.Machine.execNorErase t q s
  | .norProgram t q => Sys2Proof.Machine.execNorProgram t q s
  | .ringRd t q => Sys2Proof.Machine.execRingRd t q s
  | .ringWr t q => Sys2Proof.Machine.execRingWr t q s
  | .fcrelJob t q => Sys2Proof.Machine.execFcrelJob t q s
  | .bwriteJob t q => Sys2Proof.Machine.execBwriteJob t q s
  | .jobComplete t q => Sys2Proof.Machine.execJobComplete t q s
  | .hitDecodeWork t p => Sys2Proof.Machine.execHitDecodeWork t p s
  | .hitDecodeReply t reply => Sys2Proof.Machine.execHitDecodeReply t reply s
  | .orderingReply t reply => Sys2Proof.Machine.execOrderingReply t reply s
  | .ruleEvalReply t reply => Sys2Proof.Machine.execRuleEvalReply t reply s
  | .combineReply t reply => Sys2Proof.Machine.execCombineReply t reply s
  | .heapKeepReply t reply => Sys2Proof.Machine.execHeapKeepReply t reply s
  | .linkCalReply t reply => Sys2Proof.Machine.execLinkCalReply t reply s
  | .slowPathReply t reply => Sys2Proof.Machine.execSlowPathReply t reply s
  | .haTimeout t f job => Sys2Proof.Machine.execHaTimeout t f job s
  | .hostMemoryAccess t dpa write v => Sys2Proof.Machine.execHostMemoryAccess t dpa write v s
  | .cxlLinkTrained t gts width => Sys2Proof.Machine.execCxlLinkTrained t gts width s
  | .errorRecordWrite t => Sys2Proof.Machine.execErrorRecordWrite t s
  | .clearLog t => Sys2Proof.Machine.execClearLog t s
  | .clearFirst t => Sys2Proof.Machine.execClearFirst t s
  | .errInject t v => Sys2Proof.Machine.execErrInject t v s
  | .deviceReset t v => Sys2Proof.Machine.execDeviceReset t v s
  | .undervoltageRelease t => Sys2Proof.Machine.execUndervoltageRelease t s
  | .enableHigh t => Sys2Proof.Machine.execEnableHigh t s
  | .enableLow t => Sys2Proof.Machine.execEnableLow t s
  | .undervoltageTrip t => Sys2Proof.Machine.execUndervoltageTrip t s
  | .overvoltageTrip t => Sys2Proof.Machine.execOvervoltageTrip t s
  | .aoStart t => Sys2Proof.Machine.execAoStart t s
  | .aoPowerLoss t => Sys2Proof.Machine.execAoPowerLoss t s
  | .inputOvercurrent t => Sys2Proof.Machine.execInputOvercurrent t s
  | .resetN t => Sys2Proof.Machine.execResetN t s
  | .perstN t => Sys2Proof.Machine.execPerstN t s
  | .laserWarmupDone t => Sys2Proof.Machine.execLaserWarmupDone t s
  | .startLock t => Sys2Proof.Machine.execStartLock t s
  | .getVersion x => Sys2Proof.Machine.execGetVersion x s
  | .getCapabilities x => Sys2Proof.Machine.execGetCapabilities x s
  | .negotiateAlgorithms x extAsym => Sys2Proof.Machine.execNegotiateAlgorithms x extAsym s
  | .getDigests x => Sys2Proof.Machine.execGetDigests x s
  | .getCertificate x slot offset length => Sys2Proof.Machine.execGetCertificate x slot offset length s
  | .challenge x summary nonce => Sys2Proof.Machine.execChallenge x summary nonce s
  | .getMeasurements x index signed nonce => Sys2Proof.Machine.execGetMeasurements x index signed nonce s
  | .chunkGet x seq => Sys2Proof.Machine.execChunkGet x seq s
  | .unsupportedSpdmRequest x code => Sys2Proof.Machine.execUnsupportedSpdmRequest x code s
  | .fuseProgram t v => Sys2Proof.Machine.execFuseProgram t v s
  | .fuseRevoke t v => Sys2Proof.Machine.execFuseRevoke t v s
  | .fuseDone t readback => Sys2Proof.Machine.execFuseDone t readback s
  | .domainRequest t d req => Sys2Proof.Machine.execDomainRequest t d req s
  | .domainTransitionDone t d => Sys2Proof.Machine.execDomainTransitionDone t d s
  | .clusterIdle t c => Sys2Proof.Machine.execClusterIdle t c s
  | .clusterWritebackDone t c => Sys2Proof.Machine.execClusterWritebackDone t c s
  | .hbmIdle t m => Sys2Proof.Machine.execHbmIdle t m s
  | .pllLockLoss t u => Sys2Proof.Machine.execPllLockLoss t u s
  | .crossingHold t pairs => Sys2Proof.Machine.execCrossingHold t pairs s
  | .crossingStallTimeout t cls d => Sys2Proof.Machine.execCrossingStallTimeout t cls d s
  | .temperatureSample t readings => Sys2Proof.Machine.execTemperatureSample t readings s
  | .syncEdge t widthPs => Sys2Proof.Machine.execSyncEdge t widthPs s
  | .sourceLost t => Sys2Proof.Machine.execSourceLost t s
  | .timeLocked t => Sys2Proof.Machine.execTimeLocked t s
  | .sourceRestored t => Sys2Proof.Machine.execSourceRestored t s
  | .spikeEdge t n => Sys2Proof.Machine.execSpikeEdge t n s
  | .tdcCalStart t => Sys2Proof.Machine.execTdcCalStart t s
  | .tdcCalDone t missing => Sys2Proof.Machine.execTdcCalDone t missing s
  | .bistStart t c => Sys2Proof.Machine.execBistStart t c s
  | .bistDrain t c => Sys2Proof.Machine.execBistDrain t c s
  | .bistDone t c found => Sys2Proof.Machine.execBistDone t c found s
  | .fastCommandDeparture t p => Sys2Proof.Machine.execFastCommandDeparture t p s
  | .pllLockGained t u => Sys2Proof.Machine.execPllLockGained t u s
  | .cxlLinkDown t => Sys2Proof.Machine.execCxlLinkDown t s
  | .alignBlock t p => Sys2Proof.Machine.execAlignBlock t p s
  | .illegalInstruction core w => Sys2Proof.Machine.execIllegalInstruction core w s

end Sys2Proof.Machine
end

