-- ==== Sys2Proof/Safety.lean ====
section
/-! DEFINITION. What a safe run of the block is: memory stays in its canonical form and every table is one value for one key. -/

namespace Sys2Proof

open Sys2Proof.Machine

/-- A state in which memory is in its canonical form. -/
abbrev Safe (s : State) : Prop := Memory.wf s.mem = true

end Sys2Proof
end

