-- ==== Sys2Proof/WellFormed.lean ====
section
/-! DEFINITION. Well-formed commands: what a sender of the block can put into the operands of a command (the lengths of lists,
numbers that a field of the wire or of the entry bounds). -/

namespace Sys2Proof

/-- A list of findings names nothing twice. -/
def DrainChecks.wf (c : DrainChecks) : Bool :=
  decide c.lanes.Nodup && decide c.voters.Nodup && decide c.stitches.Nodup

/-- A message of LEN blocks of four words has the two words of its header and the words of its body (R392). -/
def RingMsg.wf (m : RingMsg) : Bool := m.body.length + 2 == 4 * m.len.toNat

/-- The operands of a command are such as its sender can give. -/
def Instr.wf (i : Instr) : Bool :=
  match i with
  | .registerWrite _ _ _ _ => true
  | .misalignedRegisterAccess _ off size _ _ => decide (off + size ≤ 2 ^ 26 ∧ 1 ≤ size ∧ size ≤ 8) && !(size == 8 && off % 8 == 0)
  | .frameMark _ _ => true
  | .fmsoftWrite _ _ => true
  | .frameEnd _ => true
  | .drainComplete _ chk => chk.wf
  | .castOn _ => true
  | .frameOverrun _ chk => chk.wf
  | .uplinkIdle _ _ => true
  | .uplinkTrain _ _ _ _ _ => true
  | .tick _ _ _ => true
  | .echo _ _ _ _ => true
  | .status _ _ _ _ _ _ => true
  | .scReply _ _ _ => true
  | .credit _ _ _ => true
  | .invalidUplinkBlock _ _ _ _ => true
  | .hitBlock _ _ _ => true
  | .stitchPipeline _ _ _ => true
  | .blockLockGained _ _ => true
  | .blockLockLost _ _ => true
  | .trainTimeout _ _ => true
  | .syncCommand _ _ => true
  | .syncTimeout _ _ => true
  | .echoCommand _ _ => true
  | .echoTimeout _ _ => true
  | .prtEnable _ _ _ => true
  | .prtForceDead _ _ _ => true
  | .prtRetrain _ _ => true
  | .calStart _ _ => true
  | .fcsend _ _ _ => true
  | .slowControlSend _ _ _ => true
  | .readoutRecordSend _ _ _ => true
  | .regmapDataAccess _ _ _ => true
  | .chcntData1Read _ => true
  | .automaskClear _ _ => true
  | .rowHitArrival _ _ => true
  | .rowMergeSelect _ _ _ _ => true
  | .rowFlush _ _ => true
  | .copyStage _ _ => true
  | .crossbarGrant _ _ => true
  | .watermarkMessage _ _ _ => true
  | .streamStall _ _ _ => true
  | .historyLineWrite _ _ => true
  | .dmapDataAccess _ _ _ _ _ => true
  | .dispatchWordArrival _ _ => true
  | .watermarkReceive _ _ => true
  | .sliceDispatch _ _ => true
  | .sliceStart _ _ _ => true
  | .sliceCommit _ _ _ => true
  | .sliceTimeout _ _ _ => true
  | .unravel _ _ _ => true
  | .provClear _ _ => true
  | .candidateTransfer _ _ => true
  | .contextSwitch _ => true
  | .ctxTimerExpiry _ _ => true
  | .ctxTimerWrite _ _ _ _ => true
  | .interruptTaken _ => true
  | .fiqEntry _ => true
  | .holdOverrun _ => true
  | .twoPlyWord _ _ => true
  | .nopS _ => true
  | .add _ _ _ _ => true
  | .sub _ _ _ _ => true
  | .mul _ _ _ _ => true
  | .cmp _ _ _ _ => true
  | .min _ _ _ _ => true
  | .max _ _ _ _ => true
  | .addi _ _ _ _ => true
  | .andR _ _ _ _ => true
  | .orR _ _ _ _ => true
  | .xorR _ _ _ _ => true
  | .andi _ _ _ _ => true
  | .ori _ _ _ _ => true
  | .xori _ _ _ _ => true
  | .shl _ _ _ _ => true
  | .shr _ _ _ _ => true
  | .shru _ _ _ _ => true
  | .shli _ _ _ _ => true
  | .shri _ _ _ _ => true
  | .movi _ _ _ => true
  | .mov _ _ _ => true
  | .tag _ _ _ => true
  | .eqR _ _ _ _ => true
  | .retag _ _ _ _ => true
  | .cvtf _ _ _ => true
  | .cvti _ _ _ => true
  | .tchk _ _ _ _ => true
  | .fld _ _ _ _ => true
  | .ld _ _ _ _ _ => true
  | .pageWalk _ _ va _ => decide (va.toNat < 2 ^ 47)
  | .lineFill _ _ _ => true
  | .st _ _ _ _ _ => true
  | .storeRelease _ _ => true
  | .lda _ _ _ => true
  | .sta _ _ _ => true
  | .car _ _ _ => true
  | .cdr _ _ _ => true
  | .ldp _ _ _ => true
  | .stp _ _ _ => true
  | .setcar _ _ _ => true
  | .setcdr _ _ _ => true
  | .vld _ _ _ _ => true
  | .vst _ _ _ _ => true
  | .vlen _ _ _ => true
  | .cons _ _ _ _ => true
  | .allocv _ _ _ => true
  | .cpyl _ _ _ => true
  | .assoc _ _ _ _ => true
  | .hlook _ _ _ _ => true
  | .hset _ _ _ _ _ => true
  | .llen _ _ _ => true
  | .halloc _ _ _ _ => true
  | .hgc _ _ => true
  | .collectionCycle _ _ _ => true
  | .b _ _ => true
  | .bS _ _ => true
  | .call _ _ => true
  | .callS _ _ => true
  | .bc _ _ _ _ => true
  | .bcS _ _ _ _ => true
  | .ret _ => true
  | .j _ _ => true
  | .callr _ _ => true
  | .eret _ => true
  | .lbrk _ => true
  | .wret _ => true
  | .wcall _ _ => true
  | .loopr _ _ _ => true
  | .loopi _ _ _ => true
  | .repr _ _ => true
  | .repi _ _ => true
  | .sys _ _ => true
  | .mfs _ _ _ => true
  | .mts _ _ _ => true
  | .xmul _ _ _ => true
  | .xfma _ _ _ => true
  | .fence _ => true
  | .dsync _ => true
  | .tlbiA _ _ => true
  | .tlbiW _ _ => true
  | .tlbiAll _ => true
  | .tlblk _ _ => true
  | .tlbul _ _ => true
  | .preload _ _ _ _ => true
  | .l2lock _ _ => true
  | .stage _ _ => true
  | .cx _ _ _ _ _ _ => true
  | .safePointOverrun _ _ _ => true
  | .decodeTableAccess _ _ _ => true
  | .cluL2lockWrite _ _ _ => true
  | .evictionAccept _ _ _ => true
  | .snoop _ _ _ _ _ => true
  | .memoryRead _ _ _ _ _ _ => true
  | .pageDecode _ _ _ _ _ _ => true
  | .memoryWrite _ _ _ mask data => data.length == 8 && mask != 0
  | .mergeComplete _ _ _ => true
  | .flipArm _ _ _ => true
  | .powerOnFill _ _ _ => true
  | .fillDone _ => true
  | .stackFailure _ _ _ => true
  | .candidateTake _ => true
  | .doneTime _ _ => true
  | .slotReport _ _ _ => true
  | .slotCutoff _ _ _ => true
  | .systemCutoff _ _ _ => true
  | .readoutGather _ _ => true
  | .mstTabAccess _ _ _ _ => true
  | .mastheadActivation _ => true
  | .swap _ _ => true
  | .fecCodeword _ _ w => decide (1 ≤ w.symbols ∧ w.symbols ≤ 544 ∧ w.messages ≤ 20)
  | .ringIdle _ _ h credits => decide (h.kind ≠ 0 ∨ 2 ≤ h.cls.toNat ∧ h.cls.toNat ≤ 5 ∧ credits ≤ 640)
  | .tsyncSend _ _ => true
  | .tsync _ _ m => m.wf
  | .decision _ _ m => m.wf
  | .cand _ _ m => m.wf
  | .done _ _ m => m.wf
  | .doneSend _ => true
  | .loss _ _ m => m.wf
  | .contributorAbsent _ _ => true
  | .fcrel _ _ m => m.wf
  | .hello _ _ m => m.wf
  | .leave _ _ m => m.wf
  | .probe _ _ m => m.wf
  | .conflict _ _ m => m.wf
  | .rd _ _ m => m.wf
  | .wr _ _ m => m.wf
  | .ack _ _ m => m.wf
  | .mgmtRetransmit _ _ => true
  | .bwrite _ _ m => m.wf
  | .bdone _ _ m => m.wf
  | .ringLossOfSignal _ _ _ => true
  | .ringPortTrained _ _ => true
  | .join _ => true
  | .joinComplete _ => true
  | .leaveRequest _ => true
  | .bypassClose _ => true
  | .doorbellWrite _ _ _ => true
  | .doorbellArm _ _ => true
  | .queueInterrupt _ _ => true
  | .queueEnable _ _ _ => true
  | .queueDisable _ _ => true
  | .abortRequest _ _ => true
  | .abortDecide _ => true
  | .norRead _ _ => true
  | .norErase _ _ => true
  | .norProgram _ _ => true
  | .ringRd _ _ => true
  | .ringWr _ _ => true
  | .fcrelJob _ _ => true
  | .bwriteJob _ _ => true
  | .jobComplete _ _ => true
  | .hitDecodeWork _ _ => true
  | .hitDecodeReply _ reply => reply.length == 8
  | .orderingReply _ reply => reply.length == 8
  | .ruleEvalReply _ reply => reply.length == 8
  | .combineReply _ reply => reply.length == 8
  | .heapKeepReply _ reply => reply.length == 8
  | .linkCalReply _ reply => reply.length == 8
  | .slowPathReply _ reply => reply.length == 8
  | .haTimeout _ _ _ => true
  | .hostMemoryAccess _ _ _ _ => true
  | .cxlLinkTrained _ gts width => decide (0 < gts ∧ 0 < width ∧ width ≤ 16)
  | .errorRecordWrite _ => true
  | .clearLog _ => true
  | .clearFirst _ => true
  | .errInject _ _ => true
  | .deviceReset _ _ => true
  | .undervoltageRelease _ => true
  | .enableHigh _ => true
  | .enableLow _ => true
  | .undervoltageTrip _ => true
  | .overvoltageTrip _ => true
  | .aoStart _ => true
  | .aoPowerLoss _ => true
  | .inputOvercurrent _ => true
  | .resetN _ => true
  | .perstN _ => true
  | .laserWarmupDone _ => true
  | .startLock _ => true
  | .getVersion _ => true
  | .getCapabilities _ => true
  | .negotiateAlgorithms _ _ => true
  | .getDigests _ => true
  | .getCertificate _ slot offset length => decide (slot < 16 ∧ offset < 2 ^ 32 ∧ length < 2 ^ 32)
  | .challenge _ _ _ => true
  | .getMeasurements _ _ _ _ => true
  | .chunkGet _ _ => true
  | .unsupportedSpdmRequest _ _ => true
  | .fuseProgram _ _ => true
  | .fuseRevoke _ _ => true
  | .fuseDone _ readback => readback.length == 4
  | .domainRequest _ _ _ => true
  | .domainTransitionDone _ _ => true
  | .clusterIdle _ _ => true
  | .clusterWritebackDone _ _ => true
  | .hbmIdle _ _ => true
  | .pllLockLoss _ _ => true
  | .crossingHold _ _ => true
  | .crossingStallTimeout _ _ _ => true
  | .temperatureSample _ readings => readings.length == 60
  | .syncEdge _ _ => true
  | .sourceLost _ => true
  | .timeLocked _ => true
  | .sourceRestored _ => true
  | .spikeEdge _ _ => true
  | .tdcCalStart _ => true
  | .tdcCalDone _ missing => decide missing.Nodup
  | .bistStart _ _ => true
  | .bistDrain _ _ => true
  | .bistDone _ _ _ => true
  | .fastCommandDeparture _ _ => true
  | .pllLockGained _ _ => true
  | .cxlLinkDown _ => true
  | .alignBlock _ _ => true
  | .illegalInstruction _ _ => true

end Sys2Proof
end

