-- ==== Sys2Proof/Certificates/Slice0/Obligations.lean ====
section
/-! DEFINITION. Statements about the trigger module, for the provers. Each says of a family of commands when they complete, what they
leave in the state, and what they leave unchanged. -/

namespace Sys2Proof.Claims

open Sys2Proof.Machine

/-- The command completes: it answers a next state, of which `Q` holds. -/
def Completes (i : Instr) (s : State) (Q : State → Prop) : Prop := ∃ u, exec i s = .next u ∧ Q u

/-- Every byte of memory reads as before. -/
def SameMemory (s u : State) : Prop := ∀ a, mrd a u.mem = mrd a s.mem

/-- Every register of BAR0 outside `changed` holds what it held. -/
def SameRegs (changed : Nat → Prop) (s u : State) : Prop := ∀ o, ¬ changed o → u.reg o = s.reg o

/-- An error event of these fields has been sent to the error writer last. -/
def SentError (u : State) (cls src unit code : Nat) : Prop :=
  ∃ e, u.errs.getLast? = some e ∧ e.cls = cls ∧ e.src = src ∧ e.unit = unit ∧ e.code = code

/-- Memory takes a word at `pa`: it is installed, it is no check block, its stack answers. -/
def Takes (s : State) (pa : Nat) : Prop :=
  pa < s.stacks * stackSize ∧ s.isCheck pa = false ∧ s.memDead pa = false

/-- Memory answers the line of `pa` with good words: none is wrong or lost, no merge and no page decode is under way. -/
def Clean (s : State) (pa : Nat) : Prop :=
  Takes s pa ∧ sget (0, 0) (pa / 64) s.flips = (0, 0) ∧ sget 0 (pa / 64) s.bad = 0 ∧ s.decoding pa = false ∧
  (sget [] (ctlOf pa) s.merges).all (fun e => e.1 != pa / 64) = true

/-- The L2 of cluster `k` holds the line of `pa`, without an error and without waiting for its data. -/
def InL2 (s : State) (k pa : Nat) : Prop :=
  ∃ way x, s.l2Find k (pa / 64) = some way ∧ s.l2At k (pa / 64) way = some x ∧ x.one = 0 ∧ x.two = 0 ∧ x.lost = 0 ∧ x.behind = none

/-- Every byte outside the `n` bytes at `pa` reads as before. -/
def onlyAt (s u : State) (pa n : Nat) : Prop := ∀ b, (b < pa ∨ pa + n ≤ b) → mrd b u.mem = mrd b s.mem

end Sys2Proof.Claims

open Sys2Proof Sys2Proof.Machine Sys2Proof.Claims

/-! ### The block as a whole -/

/-- One step takes the command at the front of the queue and executes it with the queue's rest. -/
def Obligations.StepExecutesTheFrontCommand : Prop :=
  ∀ (c : Instr) (l : List Instr) (s : State), step { s with pending := c :: l } = exec c { s with pending := l }

/-- On an empty queue the block idles. The spec names no tick of the block: this is the model's choice (log entry 4). -/
def Obligations.EmptyQueueIdles : Prop := ∀ s : State, s.pending = [] → step s = .next s

/-- No command touches the queue of waiting commands: exec acts on everything else. -/
def Obligations.CommandsKeepTheQueue : Prop :=
  ∀ (c : Instr) (s u : State), exec c s = .next u → u.pending = s.pending

/-- Every step keeps memory in its canonical form. -/
def Obligations.StepKeepsMemoryCanonical : Prop :=
  ∀ s u : State, Memory.wf s.mem = true → step s = .next u → Memory.wf u.mem = true

/-- Every step keeps the register table in its canonical form: offsets rising, no register listed at its reset value. -/
def Obligations.StepKeepsRegistersCanonical : Prop :=
  ∀ s u : State, swf regReset s.regs = true → swf regReset s.eff = true → step s = .next u →
    swf regReset u.regs = true ∧ swf regReset u.eff = true

/-- What reset leaves: memory and registers in canonical form, every register at its reset value, every front-end port OFF, every
cluster, row, engine and controller domain OFF and the four fixed ones HOT, every core in reset, and the words of HBM that no one has
written UNINIT (what an unlisted byte reads as, log entry 5). -/
def Obligations.ResetState : Prop :=
  Memory.wf State.reset.mem = true ∧ swf regReset State.reset.regs = true ∧
  (∀ o, State.reset.reg o = regReset o) ∧
  (∀ p, (State.reset.port p).link = .off) ∧
  (∀ d, d < 92 → State.reset.domain d = 0) ∧ (∀ d, 92 ≤ d → d < 96 → State.reset.domain d = 2) ∧
  (∀ c, (State.reset.core c).up = false) ∧
  (∀ a, a % 8 = 0 → a < 0x300000000000 → mrdW a State.reset.mem = uninit)

/-! ### Registers (00_scope.md) -/

/-- Registers whose fields have no behaviour of their own: the scratch register of DEV, the registers of the time base but for
TMG_CTRL, TMG_FMSOFT and TMG_TDCCAL, those of the rows from ROW_SPIKE up to ROW_IDX, and the entries of the MSI-X table. -/
def Sys2Proof.Claims.plainReg (o : Nat) : Prop :=
  o % 8 = 0 ∧ (o = oDev 0x30 ∨ (oTmg 0 < o ∧ o < oTmg 0x1000 ∧ o ≠ oTmg 0x50 ∧ o ≠ oTmg 0x58) ∨
    (0x300000 ≤ o ∧ o < 0x320000 ∧ (o % 0x1000 = 0x10 ∨ o % 0x1000 = 0x18)) ∨ (0x2000000 ≤ o ∧ o < 0x2008000))

/-- What a write of software leaves in each field of a register, by its access code (R10, R13), and that bits of no field keep their values
(R12). A host's aligned write of a plain register, once start-up has locked the image, stores its fields and changes nothing else. -/
def Obligations.RegisterWritesFollowAccessCodes : Prop :=
  (∀ (o : Nat) (old v : Word),
      (∀ f ∈ fieldsOf o,
        bf (regWritten false o old v) f.hi f.lo =
          match f.acc with
          | .rw => if f.ok (bf v f.hi f.lo) then bf v f.hi f.lo else bf old f.hi f.lo
          | .rw1c => bf old f.hi f.lo &&& (2 ^ (f.hi + 1 - f.lo) - 1 - bf v f.hi f.lo)
          | .rw1s => bf old f.hi f.lo ||| bf v f.hi f.lo
          | .ro => bf old f.hi f.lo
          | .wo => bf old f.hi f.lo
          | .lck => bf old f.hi f.lo) ∧
      (∀ i, i < 64 → (∀ f ∈ fieldsOf o, i < f.lo ∨ f.hi < i) → (regWritten false o old v).getLsbD i = old.getLsbD i)) ∧
  (∀ (t : Time) (off : BitVec 26) (v : Word) (s : State),
      plainReg off.toNat → s.pwr.main = true → s.boot.locked = true →
      exec (.registerWrite t .host off v) s =
        .next ((s.at t).setReg off.toNat (regWritten false off.toNat (s.reg off.toNat) v)))

/-- A misaligned or partial access leaves every register, reads all ones, and sends one error event of class deferred. -/
def Obligations.MisalignedAccessHasNoEffect : Prop :=
  (∀ (t : Time) (off size : Nat) (write : Bool) (v : Word) (s : State), ¬ (size = 8 ∧ off % 8 = 0) →
    Completes (.misalignedRegisterAccess t off size write v) s fun u =>
      u.regs = s.regs ∧ u.mem = s.mem ∧ SentError u 1 11 0 1 ∧ u.errs.length = s.errs.length + 1 ∧
        (write = false → u.rdata = BitVec.allOnes 64) ∧ (write = true → u.rdata = s.rdata)) ∧
  (∀ (t : Time) (path : Path) (off : BitVec 26) (v : Word) (s : State), off.toNat % 8 ≠ 0 →
    Completes (.registerWrite t path off v) s fun u => u.regs = s.regs ∧ SentError u 1 11 0 1)

/-! ### Frames (01_frame_path.md) -/

/-- What the reset interval leaves of the frame: no slice, no copy of a hit, heaps empty, no unlocked entry of a cluster TLB. -/
def Sys2Proof.Claims.EmptyState (u : State) : Prop :=
  u.frame.phase = .resetting ∧ u.frame.clear ≤ devUnits u.now + 2048000 ∧
  (∀ k, k < 32 → (u.clu k).slices = [] ∧ (u.clu k).copies = [] ∧ (u.clu k).chunk = [] ∧
    ∀ e ∈ (u.clu k).tlb, e.2.locked = true) ∧
  (∀ c, c < 512 → (u.core c).itlb = [] ∧ (u.core c).dtlb = [] ∧ ∀ j, j < 4 → (u.ctx c j).slices = [] ∧ (u.ctx c j).prog = none) ∧
  u.cluIn = [] ∧ u.wmIn = []

/-- FRAME_END at or after E(n): the frame drains, and the BINDOFF source is raised. The drain ends, by completion or by overrun, in the reset
interval with the empty state; an overrun sends its record. -/
def Obligations.FrameEndsInDrainAndReset : Prop :=
  (∀ (t : Time) (s : State), s.frame.phase = .running → s.endT ≤ t →
      exec (.frameEnd t) s =
        .next { s with now := t, frame := { s.frame with phase := .draining }, irqBind := s.irqBind + 1 }) ∧
  ((∀ (t : Time) (chk : DrainChecks) (s : State),
      (s.at t).frameEnd.roDrainAll.frame.phase = .draining → (s.at t).frameEnd.roDrainAll.drained = true →
      s.time.step = none →
      Completes (.drainComplete t chk) s EmptyState) ∧
    (∀ (t : Time) (chk : DrainChecks) (s : State),
      (s.at t).frameEnd.roDrainAll.frame.phase = .draining → (s.at t).frameEnd.roDrainAll.drained = false →
      s.endT + s.drainD ≤ t → s.time.step = none →
      Completes (.frameOverrun t chk) s fun u =>
        EmptyState u ∧ ∃ e ∈ u.errs, e.cls = 1 ∧ e.src = 8 ∧ e.code = 1 ∧ e.num = (s.at t).frameEnd.roDrainAll.errNum))

/-- A mark time that MARK mode accepts: the device is ready, no start is waiting, and the mark is not inside the frame. -/
def Sys2Proof.Claims.MarkAccepted (s : State) (m : Nat) : Prop :=
  s.field (oDev 8) 63 63 = 1 ∧ s.markMode = true ∧ s.frame.next = none ∧ (s.frame.count = 0 ∨ s.endT ≤ m * unitT)

/-- CAST_ON at the later of the frame's start and the end of the reset interval: the frame is active from S to S + L, the CASTON source is
raised, the masthead starts at slot 0, and in FIXED mode the next frame starts a gap after this one's end. An FMARK edge of at least 5 ns
gives a mark time: its arrival less the input delay, rounded down to a multiple of 2^MARKQ, which starts the next frame where MARK mode
accepts it; a write of TMG_FMSOFT gives the mark time that it carries. A shorter pulse is counted and gives none. -/
def Obligations.CastOnAndMarks : Prop :=
  (∀ (t : Time) (s : State) (start : Nat),
      s.frame.next = some start → s.castOn = false → start * unitT ≤ t → s.frame.clear * unitT ≤ t →
      Completes (.castOn t) s fun u =>
        u.frame.phase = .running ∧ u.frame.count = s.frame.count + 1 ∧ u.frame.start = start ∧
        u.frame.stop = start + s.lenL * 16 ∧ u.irqCast = s.irqCast + 1 ∧ u.mast.next = 0 ∧
        u.frame.next = if s.markMode then none else some (start + s.lenL * 16 + s.gapG / unitT)) ∧
  ((∀ (t : Time) (w : Nat) (s : State) (m : Nat), 5000 ≤ w → s.field (oTmg 0) 56 56 = 0 →
      m = (devUnits t - s.field (oTmg 0x28) 63 40) / 2 ^ s.markQ * 2 ^ s.markQ → MarkAccepted s m →
      Completes (.frameMark t w) s fun u =>
        u.frame = { s.frame with next := some m } ∧ u.field (oTmg 0x48) 55 0 = m % 2 ^ 56 ∧ u.mem = s.mem) ∧
    (∀ (t : Time) (w : Nat) (s : State), w < 5000 →
      exec (.frameMark t w) s = .next ((s.at t).bump (oTmg 0x628))) ∧
    (∀ (t : Time) (v : Word) (s : State), s.field (oTmg 0) 56 56 = 1 → MarkAccepted s (bf v 55 0) →
      Completes (.fmsoftWrite t v) s fun u => u.frame = { s.frame with next := some (bf v 55 0) } ∧ u.mem = s.mem))

/-! ### Front-end ports (02_ports_and_stitches.md) -/

/-- A port with no EVENT queue to tell of it: a link state that changes is written to no ring. -/
def Sys2Proof.Claims.noEvents (s : State) : Prop := s.activeQueues 5 = []

/-- The command moves port `p` to a link state, and leaves memory, the other ports, cores, clusters and the region map as they are
when no EVENT queue is ACTIVE. -/
def Sys2Proof.Claims.MovesLink (i : Instr) (s : State) (p : PortId) (l : Link) : Prop :=
  Completes i s fun u =>
    (u.port p).link = l ∧ (u.port p).since = u.now ∧
    (noEvents s → u.mem = s.mem ∧ (∀ q : Nat, q ≠ p.val → u.port q = s.port q) ∧ u.cores = s.cores ∧ u.clus = s.clus ∧
      u.regionA = s.regionA ∧ u.regionS = s.regionS)

/-- The port state machine: block lock gained and lost, the sixteenth TRAIN block with ACK and the time-out of training, no answer to a fourth
SYNC, a STATUS block without DL_LOCK, and RETRAIN (Table 2.4, R54). ENABLE and FORCE_DEAD obey (R54, R56): a port in any state but OFF
goes to OFF on ENABLE 0 and to DEAD on FORCE_DEAD 1, and one in OFF that may leave it goes to ACQUIRE on ENABLE 1, or to DEAD while
FORCE_DEAD is 1 or a stitch failure marks it. A departure from UP is counted, and during a frame the open stitch of a hit port closes,
makes the sticky report of its row, and sends one deferred record, when block lock is lost (R54, R55). -/
def Obligations.LinksFollowTheTableAndSoftware : Prop :=
  ((∀ (t : Time) (p : PortId) (s : State), (s.port p).link = .acquire → MovesLink (.blockLockGained t p) s p .train) ∧
    (∀ (t : Time) (p : PortId) (s : State), (s.port p).link ≠ .off → (s.port p).link ≠ .dead →
      MovesLink (.blockLockLost t p) s p .acquire ∧ MovesLink (.prtRetrain t p) s p .acquire ∧
      ((s.port p).link ≠ .acquire → ∀ synced fault word, fault = false →
        MovesLink (.status t p false synced fault word) s p .acquire)) ∧
    (∀ (t : Time) (p : PortId) (s : State), (s.port p).link = .train → (s.port p).since + usT 1000 ≤ t →
      MovesLink (.trainTimeout t p) s p .acquire) ∧
    (∀ (t : Time) (p : PortId) (s : State) (e : Nat), (s.port p).link = .sync → 4 ≤ (s.port p).syncs →
      (s.port p).syncEff = some e → e * unitT + usT 64 < t → MovesLink (.syncTimeout t p) s p .acquire) ∧
    (∀ (t : Time) (p : PortId) (s : State) (feType : BitVec 16) (serial : BitVec 24) (a : Time), (s.port p).link = .train →
      15 ≤ (s.port p).trainAck → (s.port p).ackAt = some a → a + 16 * stitchT ≤ t → s.isReadout p = false →
      MovesLink (.uplinkTrain t p feType serial true) s p .sync)) ∧
  ((∀ (t : Time) (p : PortId) (s : State), (s.port p).link ≠ .off →
      MovesLink (.prtEnable t p false) s p .off ∧
      ((s.port p).link ≠ .dead → MovesLink (.prtForceDead t p true) s p .dead)) ∧
    (∀ (t : Time) (p : PortId) (s : State), (s.port p).link = .off →
      ((s.at t).setField (oPort p 0) 0 0 1).mayLeaveOff p = true →
      MovesLink (.prtEnable t p true) s p
        (if (s.port p).failed = true ∨ s.field (oPort p 0) 1 1 = 1 then .dead else .acquire)) ∧
    (∀ (t : Time) (p : PortId) (s : State),
      exec (.prtForceDead t p false) s = .next ((s.at t).setField (oPort p 0) 1 1 0))) ∧
  (∀ (t : Time) (p : PortId) (s : State), (s.port p).link = .up → s.isReadout p = false → s.castOn = true →
      (s.port p).closed = false → noEvents s →
      Completes (.blockLockLost t p) s fun u =>
        (u.port p).closed = true ∧ (u.port p).buf = [] ∧ u.field (oMst 0x30) (p.val / 16) (p.val / 16) = 1 ∧
        u.field (oPort p 8) 7 7 = 1 ∧ SentError u 1 0 p 1 ∧ (u.reg (oPort p 0x158)).toNat = min (2 ^ 64 - 1) ((s.reg (oPort p 0x158)).toNat + 1) ∧
        u.mem = s.mem)

/-- Blocks of the uplink that a port in lock takes: IDLE is counted and not stored; SC_REPLY shows in PRT_SCIN; CREDIT adds to the credit
count of a readout port, up to 65,535; CREDIT on a port that is no readout port, and TICK, ECHO and SC_REPLY on a readout port, are
discarded and counted, and end a run of TRAIN blocks (R47, R66, R82). A block with a bad sync header, a failed CRC-8 or an unknown type is
discarded and counted by what is wrong with it, and nothing of it is kept but the end of a run of TRAIN blocks; the CRC-8 of a data block
counts where the format has it checked (R44, R47). -/
def Obligations.UplinkBlocksAreControlledOrCounted : Prop :=
  ((∀ (t : Time) (p : PortId) (s : State), (s.port p).hears = true →
      Completes (.uplinkIdle t p) s fun u =>
        (u.reg (oPort p 0x100)).toNat = min (2 ^ 64 - 1) ((s.reg (oPort p 0x100)).toNat + 1) ∧ (u.port p).buf = (s.port p).buf ∧
        (u.port p).trainRx = 0 ∧ (u.port p).trainAck = 0 ∧ u.mem = s.mem ∧ SameRegs (· = oPort p 0x100) s u) ∧
    (∀ (t : Time) (p : PortId) (payload : BitVec 48) (s : State), (s.port p).hears = true → s.isReadout p = false →
      Completes (.scReply t p payload) s fun u =>
        u.field (oPort p 0x50) 55 8 = payload.toNat ∧ u.field (oPort p 0x50) 63 63 = 1 ∧ u.mem = s.mem) ∧
    (∀ (t : Time) (p : PortId) (grant : BitVec 16) (s : State), (s.port p).hears = true → s.isReadout p = true →
      Completes (.credit t p grant) s fun u =>
        (u.port p).credits = min 65535 ((s.port p).credits + grant.toNat) ∧ u.mem = s.mem) ∧
    (∀ (t : Time) (p : PortId) (grant : BitVec 16) (payload : BitVec 48) (raw : BitVec 28) (ident : BitVec 8) (turn : BitVec 24)
      (s u : State), (s.port p).hears = true →
      u = ((s.at t).setPort p { s.port p with trainRx := 0, trainAck := 0 }).bump (oPort p 0x120) →
      (s.isReadout p = false → exec (.credit t p grant) s = .next u) ∧
      (s.isReadout p = true → exec (.scReply t p payload) s = .next u ∧ exec (.tick t p raw) s = .next u ∧
        exec (.echo t p ident turn) s = .next u))) ∧
  (∀ (t : Time) (p : PortId) (sync : BitVec 2) (block : Word) (s : State) (o : Nat), (s.port p).hears = true →
      ((sync ≠ 1 ∧ sync ≠ 2 ∧ o = oPort p 0x118) ∨
        (sync = 1 ∧ dCheck (s.descA p) = 1 ∧ crc8 block ≠ bf block 7 0 ∧ o = oPort p 0x110) ∨
        (sync = 2 ∧ crc8 block ≠ bf block 7 0 ∧ o = oPort p 0x110) ∨
        (sync = 2 ∧ crc8 block = bf block 7 0 ∧ uplinkKnown (s.isReadout p) block = false ∧ o = oPort p 0x120)) →
      exec (.invalidUplinkBlock t p sync block) s =
        .next (((s.at t).setPort p { s.port p with trainRx := 0, trainAck := 0 }).bump o))

/-- An elastic-buffer entry as the entry stage makes it at time `t`. -/
def Sys2Proof.Claims.dataEntry (t : Time) (block : Word) : Elastic :=
  { data := true, block := block, arr := fineUnits t, hit2 := false }
def Sys2Proof.Claims.tickEntry (t : Time) (raw : BitVec 28) : Elastic :=
  { data := false, block := setBf (setBf 0 63 56 0x2D) 55 28 raw.toNat, arr := fineUnits t, hit2 := false }

/-- The newest entry of a buffer is a TICK. -/
def Sys2Proof.Claims.tickNewest (l : List Elastic) : Prop := ∃ m e, l = m ++ [e] ∧ e.data = false

/-- A port, a TICK at the head of its buffer that may be presented, no word of the host that waits, and device mode for its row. -/
def Sys2Proof.Claims.PresentsTick (t : Time) (p : PortId) (s : State) (e : Elastic) (l : List Elastic) : Prop :=
  (s.port p).buf = e :: l ∧ e.data = false ∧ (s.port p).link = .up ∧ (s.port p).closed = false ∧ s.castOn = true ∧
  (s.at t).presentable p e = true ∧ (s.port p).held = [] ∧ s.haOn 0 (p.val / 16) = false

/-- A data block that a hit port accepts and a TICK, at the open stitch of an UP port: each joins the elastic buffer while this holds fewer
than 3,125 blocks, a TICK takes the place of a newest TICK, and a block that a full buffer does not take is counted; at a closed stitch,
or in READY, a data block is judged by its corrected time: late and gap blocks are counted, another is stored (R36, R66 to R68). The
stitch pipeline on a TICK, in device mode: in order and within the frame it becomes the port time and goes to the row 5 stitch cycles
later; one before the port time is dropped and counted as out of order, one before the frame's start as a gap; one at or after E(n) closes
the stitch (R50, R63, R64). A failed pipeline check is a stitch failure: one unrecoverable-local record, and the port enters DEAD (R581). -/
def Obligations.BufferAndPipelineOfAStitch : Prop :=
  ((∀ (t : Time) (p : PortId) (block : Word) (s : State), (s.port p).link = .up → s.isHit p = true → (s.port p).closed = false →
      (dCheck (s.descA p) = 1 → crc8 block = bf block 7 0) →
      Completes (.hitBlock t p block) s fun u =>
        ((s.port p).buf.length < 3125 → (u.port p).buf = (s.port p).buf ++ [dataEntry t block] ∧ SameRegs (· = oPort p 0x100) s u) ∧
        (3125 ≤ (s.port p).buf.length → (u.port p).buf = (s.port p).buf ∧
          (u.reg (oPort p 0x148)).toNat = min (2 ^ 64 - 1) ((s.reg (oPort p 0x148)).toNat + 1)) ∧
        u.mem = s.mem ∧ (∀ q : Nat, q ≠ p.val → u.port q = s.port q)) ∧
    (∀ (t : Time) (p : PortId) (raw : BitVec 28) (s : State), (s.port p).link = .up → s.isReadout p = false → (s.port p).closed = false →
      Completes (.tick t p raw) s fun u =>
        (∀ l old, (s.port p).buf = l ++ [old] → old.data = false → (u.port p).buf = l ++ [tickEntry t raw]) ∧
        (¬ tickNewest (s.port p).buf → (s.port p).buf.length < 3125 → (u.port p).buf = (s.port p).buf ++ [tickEntry t raw]) ∧
        (¬ tickNewest (s.port p).buf → 3125 ≤ (s.port p).buf.length → (u.port p).buf = (s.port p).buf ∧
          (u.reg (oPort p 0x148)).toNat = min (2 ^ 64 - 1) ((s.reg (oPort p 0x148)).toNat + 1)) ∧
        u.mem = s.mem ∧ (∀ q : Nat, q ≠ p.val → u.port q = s.port q)) ∧
    (∀ (t : Time) (p : PortId) (block : Word) (s : State), (s.port p).link = .ready ∨ (s.port p).link = .up ∧ (s.port p).closed = true →
      s.isHit p = true → (dCheck (s.descA p) = 1 → crc8 block = bf block 7 0) →
      Completes (.hitBlock t p block) s fun u =>
        (s.judge p (dataEntry t block) = .late → (u.port p).buf = (s.port p).buf ∧
          (u.reg (oPort p 0x140)).toNat = min (2 ^ 64 - 1) ((s.reg (oPort p 0x140)).toNat + 1)) ∧
        (s.judge p (dataEntry t block) = .gap → (u.port p).buf = (s.port p).buf ∧
          (u.reg (oPort p 0x138)).toNat = min (2 ^ 64 - 1) ((s.reg (oPort p 0x138)).toNat + 1)) ∧
        (s.judge p (dataEntry t block) = .store → (s.port p).buf.length < 3125 →
          (u.port p).buf = (s.port p).buf ++ [dataEntry t block]) ∧ u.mem = s.mem)) ∧
  (∀ (t : Time) (p : PortId) (s : State) (e : Elastic) (l : List Elastic), PresentsTick t p s e l →
      (s.classify p (s.entryTime p e) = .pass →
        Completes (.stitchPipeline t p false) s fun u =>
          (u.port p).portTime = some (s.entryTime p e) ∧ (u.port p).buf = l ∧ u.regs = s.regs ∧ u.mem = s.mem ∧
          (u.row (p.val / 16)).inbox =
            insertDue (t + 5 * stitchT, p.val % 16, .time (((s.entryTime p e - s.startFine) * 16).toNat)) (s.row (p.val / 16)).inbox) ∧
      (s.classify p (s.entryTime p e) = .order →
        Completes (.stitchPipeline t p false) s fun u =>
          (u.port p).portTime = (s.port p).portTime ∧ (u.port p).buf = l ∧ u.rows = s.rows ∧ u.mem = s.mem ∧
          (u.reg (oPort p 0x130)).toNat = min (2 ^ 64 - 1) ((s.reg (oPort p 0x130)).toNat + 1)) ∧
      (s.classify p (s.entryTime p e) = .gap →
        Completes (.stitchPipeline t p false) s fun u =>
          (u.port p).portTime = (s.port p).portTime ∧ (u.port p).buf = l ∧ u.rows = s.rows ∧ u.mem = s.mem ∧
          (u.reg (oPort p 0x138)).toNat = min (2 ^ 64 - 1) ((s.reg (oPort p 0x138)).toNat + 1)) ∧
      (s.classify p (s.entryTime p e) = .close →
        Completes (.stitchPipeline t p false) s fun u =>
          (u.port p).closed = true ∧ (u.port p).buf = e :: l ∧ u.regs = s.regs ∧ u.mem = s.mem ∧
          (u.row (p.val / 16)).inbox = insertDue (t + 5 * stitchT, p.val % 16, .close) (s.row (p.val / 16)).inbox)) ∧
  (∀ (t : Time) (p : PortId) (s : State), (s.port p).link ≠ .off → noEvents s →
      Completes (.stitchPipeline t p true) s fun u =>
        (u.port p).link = .dead ∧ (u.port p).failed = true ∧ u.mem = s.mem ∧
        ∃ e ∈ u.errs, e.num = s.errNum ∧ e.cls = 2 ∧ e.src = 0 ∧ e.unit = p.val ∧ e.code = 8)

/-- SYNC and ECHO commands and the calibration run: the first SYNC of a stay in SYNC takes the first 2^28-unit boundary at least 128 ns
after its entry; an ECHO has the identifier of its round and number and a reply is expected of it, the next is due 256 ns later; the
first reply of a round gives a round trip, its receipt stamped in whole ps; a reply that is 64 µs overdue starts the next round, up to
the fourth; a run asked for outside MEASURE waits, but begins at once at a READY or UP port while no frame is cast on (R53, R78, R79). -/
def Obligations.SyncAndCalibration : Prop :=
  (∀ (t : Time) (p : PortId) (s : State), (s.port p).link = .sync → (s.port p).syncs = 0 →
    Completes (.syncCommand t p) s fun u =>
      (u.port p).syncs = 1 ∧ (u.port p).syncEff = some (syncBoundary (devUnits (s.port p).since)) ∧ u.mem = s.mem) ∧
  (∀ (t : Time) (p : PortId) (s : State), (s.port p).calRun = true → (s.port p).calSent < 16 →
    Completes (.echoCommand t p) s fun u =>
      (u.port p).calSent = (s.port p).calSent + 1 ∧ (u.port p).calNext = (s.port p).calNext + 32768000 ∧ u.mem = s.mem ∧
      (u.port p).echoes = (s.port p).echoes ++
        [(((s.port p).calRound * 16 + (s.port p).calSent) % 256, (s.port p).calNext)]) ∧
  (∀ (t : Time) (p : PortId) (ident : BitVec 8) (turn : BitVec 24) (s : State) (eff : Int), (s.port p).hears = true →
    s.isReadout p = false → (s.port p).calRun = true → (s.port p).echoes = [(ident.toNat, eff)] → (s.port p).rtts = [] →
    (t : Int) ≤ eff + (usT 64 : Int) →
    Completes (.echo t p ident turn) s fun u =>
      (u.port p).echoes = [] ∧ (u.port p).rtts = [((t / 128 * 128 : Nat) : Int) - eff - ((turn.toNat * 128 : Nat) : Int)] ∧
      u.mem = s.mem) ∧
  (∀ (t : Time) (p : PortId) (s : State) (ident : Nat) (eff : Int), (s.port p).calRun = true → (s.port p).calRound < 4 →
    (ident, eff) ∈ (s.port p).echoes → eff + (usT 64 : Int) < (t : Int) →
    Completes (.echoTimeout t p) s fun u =>
      (u.port p).calRound = (s.port p).calRound + 1 ∧ (u.port p).calSent = 0 ∧ (u.port p).echoes = [] ∧ u.regs = s.regs ∧
      u.mem = s.mem) ∧
  (∀ (t : Time) (p : PortId) (s : State), s.isReadout p = false → (s.port p).calRun = false → (s.port p).link ≠ .measure →
    Completes (.calStart t p) s fun u =>
      u.mem = s.mem ∧
      (((s.port p).link = .ready ∨ (s.port p).link = .up) ∧ s.castOn = false →
        (u.port p).calRun = true ∧ (u.port p).calRound = 1 ∧ u.field (oPort p 0x28) 58 56 = 1) ∧
      (¬ (((s.port p).link = .ready ∨ (s.port p).link = .up) ∧ s.castOn = false) →
        (u.port p).calRun = false ∧ (u.port p).calReq = true ∧ u.field (oPort p 0x28) 58 56 = 2))

/-- What leaves down a port. FCSEND of CAL_PULSE, FE_RESET or CUSTOM at a READY or UP port that has no other command holds the latest
block not after the effective time, when the format allows the code and the effective time is at least 1 µs ahead; one that is not so,
or at a readout port, is counted in PRT_CNT_FCLATE; any other code does nothing. A command leaves at the reference time of its block. A
slow-control word leaves at once from an UP hit port and waits at another. A readout record leaves as ten blocks, uses one credit and
consumes one entry of its queue (R48, R73 to R75, R77, R81, R82, R464). -/
def Obligations.DownlinkCommands : Prop :=
  (∀ (t : Time) (p : PortId) (v : Word) (s : State) (rank bitNo : Nat), (s.port p).cmds = [] →
    (s.port p).link = .up ∨ (s.port p).link = .ready → s.isReadout p = false → softClass (bf v 63 58) = some (rank, bitNo) →
    bit (dFcMask (s.descB p)) bitNo = true → t + usT 1 ≤ s.field (oPort p 0x38) 55 0 * unitT →
    Completes (.fcsend t p v) s fun u =>
      (∃ c, (u.port p).cmds = [c] ∧ c.code = bf v 63 58 ∧ c.arg = (if bf v 63 58 = 0x0B then 0 else bf v 57 36) ∧ c.soft = true ∧
        c.teff = ((s.field (oPort p 0x38) 55 0 * unitT : Nat) : Int) ∧ (t : Int) ≤ refTicks c.ref c.phase ∧
        refTicks c.ref c.phase ≤ c.teff ∧ c.teff < refTicks (c.ref + 1) c.phase) ∧ u.regs = s.regs ∧ u.mem = s.mem) ∧
  (∀ (t : Time) (p : PortId) (v : Word) (s : State) (rank bitNo : Nat), (s.port p).cmds = [] →
    softClass (bf v 63 58) = some (rank, bitNo) →
    s.field (oPort p 0x38) 55 0 * unitT < t + usT 1 ∨ bit (dFcMask (s.descB p)) bitNo = false ∨ s.isReadout p = true →
    exec (.fcsend t p v) s = .next ((s.at t).bump (oPort p 0x150))) ∧
  (∀ (t : Time) (p : PortId) (v : Word) (s : State), softClass (bf v 63 58) = none →
    exec (.fcsend t p v) s = .next (s.at t)) ∧
  (∀ (t : Time) (p : PortId) (v : Word) (s : State),
    ((s.port p).link = .up ∧ s.isHit p = true →
      exec (.slowControlSend t p v) s = .next ((s.at t).setPort p { s.port p with sent := [(true, withCrc8 v)] })) ∧
    (¬ ((s.port p).link = .up ∧ s.isHit p = true) →
      exec (.slowControlSend t p v) s = .next ((s.at t).setPort p { s.port p with scOut := some (withCrc8 v) }))) ∧
  (∀ (t : Time) (p : PortId) (s : State) (c : FastCmd), (s.port p).cmds = [c] → refTicks c.ref c.phase ≤ (t : Int) →
    Completes (.fastCommandDeparture t p) s fun u =>
      (u.port p).cmds = [] ∧ u.regs = s.regs ∧ u.mem = s.mem ∧
      (u.port p).sent =
        [(false, withCrc8 (setBf (setBf (setBf (setBf 0 63 56 0x87) 55 50 c.code) 49 34 c.fine) 33 12 c.arg))]) ∧
  (∀ (t : Time) (p : PortId) (q : QueueId) (s : State), (s.port p).link = .up → s.isReadout p = true → 0 < (s.port p).credits →
    (∀ a b e, (s.port p).sending = some (a, b, e) → e ≤ t) → s.qState q = 1 → s.qType q = 1 → bf (s.reg (oQbind q)) 52 52 = 1 →
    bf (s.reg (oQbind q)) 51 43 = p.val → s.qHost q ≠ s.qDev q →
    Completes (.readoutRecordSend t p q) s fun u =>
      (u.port p).credits = (s.port p).credits - 1 ∧ u.qHost q = (s.qHost q + 1) % 2 ^ 32 ∧ u.qDev q = s.qDev q ∧ u.mem = s.mem ∧
      (u.port p).sent = roBlocks (bf (s.reg (oQbind q)) 42 35) (s.qHost q % 65536) (s.qEntry q (s.qHost q)))

/-! ### Rows (03_rows.md) -/

/-- No spike channel of the row is live, so that no time of its own moves the row's streams, and F1 is in hardware mode. -/
def Sys2Proof.Claims.quietRow (s : State) (r : Nat) : Prop :=
  ((s.row r).stream 16).live = false ∧ ((s.row r).stream 17).live = false ∧ s.haOn 1 r = false

/-- The hit that a word of a stream makes in the row's store, with its sequence number in the stream. -/
def Sys2Proof.Claims.arrived (t : Time) (stream seq : Nat) (w : Word) (region : Nat) : RowHit :=
  { key := wordKey w, stream := stream, seq := seq, word := w, region := region, behind := false, cyc := t / rowT }

/-- The first two hits of the store, as far as they lie below RT. -/
def Sys2Proof.Claims.nextTwo (s : State) (r : Nat) : List RowHit :=
  ((s.row r).store.take 2).takeWhile fun h => decide (h.key < (s.row r).rt)

/-- Enabled lanes of a row that differ from the majority. -/
def Sys2Proof.Claims.badLanes (s : State) (r : Nat) (differ : BitVec 3) : List Nat :=
  (List.range 3).filter fun i => bit differ.toNat i && !bit (s.row r).lanesOff.toNat i

/-- The first event due at a row's input is taken, in hardware mode: a hit at or after RT enters the store in merge order, one before RT is
behind: it is counted and passes ahead; a stream time becomes the time of its stream; a closed stream is live no longer. RT never falls
(R87, R89, R90, R93, R95). At each selection up to two hits below RT leave the store in order for the copy stage and the history line,
while the copy buffer has room (R91, R111, R115); a lane that differs in VOTE3 is disabled and recorded, and the selection goes on; a
second one, one in VOTE2, or voter copies that differ stop the row, and its hits are lost (R105 to R107). -/
def Obligations.RowTakesSelectsAndVotes : Prop :=
  (∀ (t : Time) (r : RowId) (s : State) (due : Time) (i : Nat) (x : RowIn) (rest : List (Time × Nat × RowIn)),
      quietRow s r → (s.row r).inbox = (due, i, x) :: rest → due ≤ t → i < 18 →
      (∀ (w : Word) (g : Nat), x = .hit w g → (s.row r).vstate ≠ 2 → (s.row r).flushed = false → (s.row r).held < 32768 →
        (s.row r).rt ≤ wordKey w →
        Completes (.rowHitArrival t r) s fun u =>
          (u.row r).store = insertHit (arrived t i ((s.row r).stream i).seq w g) (s.row r).store ∧ (u.row r).inbox = rest ∧
          u.regs = s.regs ∧ u.mem = s.mem) ∧
      (∀ (w : Word) (g : Nat), x = .hit w g → (s.row r).vstate ≠ 2 → (s.row r).flushed = false → (s.row r).held < 32768 →
        wordKey w < (s.row r).rt →
        Completes (.rowHitArrival t r) s fun u =>
          (u.row r).store = (s.row r).store ∧
          (u.row r).picked = insertBehind { arrived t i ((s.row r).stream i).seq w g with behind := true } (s.row r).picked ∧
          (u.reg (oRow r 0x108)).toNat = min (2 ^ 64 - 1) ((s.reg (oRow r 0x108)).toNat + 1) ∧
          ((s.row r).line.length < 7 → u.mem = s.mem)) ∧
      (∀ k : Nat, x = .time k → ((s.row r).stream i).live = true →
        Completes (.rowHitArrival t r) s fun u =>
          ((u.row r).stream i).ts = k ∧ (s.row r).rt ≤ (u.row r).rt ∧ (u.row r).store = (s.row r).store ∧ u.mem = s.mem) ∧
      (x = .close →
        Completes (.rowHitArrival t r) s fun u =>
          ((u.row r).stream i).live = false ∧ ((u.row r).stream i).ts = s.keyL ∧ (s.row r).rt ≤ (u.row r).rt ∧ u.mem = s.mem)) ∧
  (∀ (t : Time) (r : RowId) (s : State) (differ : BitVec 3) (voters : Bool), quietRow s r → (s.row r).vstate ≠ 2 →
      ((s.row r).copies.length ≤ 14 → voters = false →
        badLanes s r differ = [] ∨ (s.row r).vstate = 0 ∧ (badLanes s r differ).length = 1 →
        Completes (.rowMergeSelect t r differ voters) s fun u =>
          (u.row r).store = (s.row r).store.drop (nextTwo s r).length ∧
          (u.row r).picked = (s.row r).picked ++ (nextTwo s r).map (fun h => { h with cyc := t / rowT }) ∧
          ((s.row r).line.length ≤ 5 → u.mem = s.mem ∧ (u.row r).line.length = (s.row r).line.length + (nextTwo s r).length) ∧
          (∀ i, badLanes s r differ = [i] → (u.row r).vstate = 1 ∧ bit (u.row r).lanesOff.toNat i = true ∧
            ((s.row r).line.length ≤ 5 → SentError u 0 1 r 4))) ∧
      (voters = true ∨ 2 ≤ (badLanes s r differ).length ∨ (s.row r).vstate ≠ 0 ∧ badLanes s r differ ≠ [] →
        Completes (.rowMergeSelect t r differ voters) s fun u =>
          (u.row r).vstate = 2 ∧ (u.row r).store = [] ∧ (u.row r).picked = [] ∧ (u.row r).copies = [] ∧ (u.row r).rt = s.keyL ∧
          (∀ i, i < 18 → ((u.row r).stream i).live = false) ∧ SentError u 2 1 r 5 ∧ u.field (oMst 0x30) r r = 1 ∧
          (s.histOn r = false → u.mem = s.mem)))

/-- The one copy of a hit for its one target region (Table 3.3). -/
def Sys2Proof.Claims.copyOf (r : Nat) (h : RowHit) (g : Nat) : DispWord :=
  { word := h.word, target := g, origin := h.region, row := r, stream := h.stream, halo := g != h.region, behind := h.behind,
    eof := false, last := true, due := 0 }

/-- The dispatch path (R101, R111, R113): a hit with one target region is copied to the queue of the cluster that runs the region; the
crossbar hands the oldest word of the row at its round-robin position to the cluster, due 6 row cycles on; a watermark message never
carries more than the row's RT and the firm watermark of its class. -/
def Obligations.DispatchPath : Prop :=
  (∀ (t : Time) (r : RowId) (s : State) (h : RowHit) (g : Nat), (s.row r).picked = [h] → (s.row r).copies = [] →
    (s.row r).flushing = false → (s.row r).eof = [] → s.targets h.region = [g] → (sget [] (s.clusterOf g) (s.row r).voq).length < 256 →
    Completes (.copyStage t r) s fun u =>
      (u.row r).picked = [] ∧ (u.row r).copies = [] ∧ u.mem = s.mem ∧
      sget [] (s.clusterOf g) (u.row r).voq = sget [] (s.clusterOf g) (s.row r).voq ++
        [copyOf r h g]) ∧
  (∀ (t : Time) (c : ClusterId) (r : RowId) (s : State) (d : DispWord), sget 0 c.val s.xbar = r.val →
    sget [] c.val (s.row r).voq = [d] → (∀ q : RowId, q ≠ r → sget [] c.val (s.row q).voq = []) →
    Completes (.crossbarGrant t c) s fun u =>
      sget [] c.val u.cluIn = sget [] c.val s.cluIn ++ [{ d with due := t + 6 * rowT }] ∧
      sget [] c.val (u.row r).voq = [] ∧ sget 0 c.val u.xbar = (r.val + 1) % 32 ∧ u.regs = s.regs ∧ u.mem = s.mem) ∧
  (∀ (t : Time) (r : RowId) (c : ClusterId) (s : State), quietRow s r → (s.row r).classes ≠ [] →
    Completes (.watermarkMessage t r c) s fun u =>
      u.regs = s.regs ∧ u.mem = s.mem ∧ u.rows = s.rows ∧
      ∃ m, sget [] c.val u.wmIn = sget [] c.val s.wmIn ++ [m] ∧ m.row = r.val ∧ m.due = t + 8 * rowT ∧
        m.pw * 16 ≤ (s.row r).rt ∧ m.cls < (s.row r).classes.length ∧ m.fw * 16 ≤ (s.at t).classFw r m.cls)

/-- A row whose firm watermark has passed E(n), or that is stopped, and that holds no hit flushes: the end-of-frame word enters its queue for
every cluster; where the queue is full it waits (R30, R113). A live stream whose time has stood for STALL_LIMIT µs is closed as if its
port had left UP: its stitch closes, the row makes the sticky report, and one deferred record is sent (R104). A full history line goes to
the ring of the row: 64 bytes at the address that ROW_HIST_BASE and ROW_HIST_COUNT give, its first word telling frame and count, the hits
after it; no other byte of memory changes when no bucket of the index is due (R115, R117, R118). -/
def Obligations.RowStreamsEndAndHistoryIsWritten : Prop :=
  (∀ (t : Time) (r : RowId) (s : State), quietRow s r → s.castOn = true → (s.row r).flushed = false → (s.row r).flushing = false →
      (s.at t).rowPassed r = true ∨ (s.row r).vstate = 2 → (s.row r).store = [] → (s.row r).picked = [] → (s.row r).copies = [] →
      Completes (.rowFlush t r) s fun u =>
        (u.row r).flushed = true ∧ (s.histOn r = false → u.regs = s.regs ∧ u.mem = s.mem) ∧
        ∀ c, c < 32 →
          ((sget [] c (s.row r).voq).length < 256 → sget [] c (u.row r).voq = sget [] c (s.row r).voq ++ [eofWord r]) ∧
          (256 ≤ (sget [] c (s.row r).voq).length → sget [] c (u.row r).voq = sget [] c (s.row r).voq ∧ c ∈ (u.row r).eof)) ∧
  (∀ (t : Time) (r : RowId) (i : Fin 16) (s : State) (k : Nat),
      k = s.field (oRow r 0) 63 56 → k ≠ 0 → ((s.row r).stream i).live = true → ((s.row r).stream i).ts < s.keyL → s.castOn = true →
      max ((s.row r).stream i).changed (s.row r).stallAt + usT k ≤ t → (s.port (r.val * 16 + i.val)).closed = false →
      Completes (.streamStall t r i) s fun u =>
        (u.port (r.val * 16 + i.val)).closed = true ∧ (u.port (r.val * 16 + i.val)).link = (s.port (r.val * 16 + i.val)).link ∧
        u.field (oMst 0x30) r r = 1 ∧ SentError u 1 1 r 3 ∧ u.mem = s.mem) ∧
  (∀ (t : Time) (r : RowId) (s : State) (a : Nat),
      a = s.field (oRow r 0x30) 45 0 + (s.field (oRow r 0x48) 31 0 % 2 ^ s.histLog r) * 64 →
      (s.row r).line.length = 7 → (s.row r).lineFull (t / rowT) = true → a % 64 = 0 → s.histOn r = true → ((s.row r).line.map (·.key)).foldl max 0 / 2 ^ 17 < (s.row r).bucket →
      s.memDead a = false → s.isCheck a = false →
      Completes (.historyLineWrite t r) s fun u =>
        (∀ b, (b < a ∨ a + 64 ≤ b) → mrd b u.mem = mrd b s.mem) ∧
        (∀ i, i < 7 → mrdW (a + 8 * (i + 1)) u.mem = ((s.row r).line[i]?.map (·.word)).getD 0) ∧
        bf (mrdW a u.mem) 63 48 = s.frame.count % 65536 ∧ bf (mrdW a u.mem) 47 45 = 7 ∧
        (u.row r).line = [] ∧ u.field (oRow r 0x48) 31 0 = (s.field (oRow r 0x48) 31 0 + 1) % 2 ^ 32)

/-- The windows of the region map and of the channel counters: a write stages the entry that FMT_MAP_IDX names and leaves the table pending, a
read shows it, the index advances with AUTOINC; AUTOMASK_CLEAR lifts the automatic mask of one channel, unless it was set in the same
cycle (R11, R14, R62, R70, R72). The dispatch-map windows: a write stages the half of the entry that the row's index names, keeping HALO_N
on a reserved encoding; a read shows the staged or the active copy (R13, R14, R109). -/
def Obligations.TableWindows : Prop :=
  ((∀ (t : Time) (v : Word) (s : State),
      Completes (.regmapDataAccess t true v) s fun u =>
        sget 0 (s.field (oFmt 0x100) 15 0) u.regionS =
          setBf (setBf (setBf (setBf 0 31 31 (bf v 31 31)) 30 30 (bf v 30 30)) 27 16 (bf v 27 16)) 11 0 (bf v 11 0) ∧
        (∀ c, c ≠ s.field (oFmt 0x100) 15 0 → sget 0 c u.regionS = sget 0 c s.regionS) ∧
        u.regionA = s.regionA ∧ u.tabPending 0 = true ∧ u.mem = s.mem ∧
        u.field (oFmt 0x100) 15 0 = (s.field (oFmt 0x100) 15 0 + s.field (oFmt 0x100) 63 63) % 65536) ∧
    (∀ (t : Time) (v : Word) (s : State),
      Completes (.regmapDataAccess t false v) s fun u =>
        u.rdata = sget 0 (s.field (oFmt 0x100) 15 0) (if s.field (oFmt 0x100) 62 62 = 1 then s.regionA else s.regionS) ∧
        u.regionS = s.regionS ∧ u.regionA = s.regionA ∧ u.mem = s.mem) ∧
    (∀ (t : Time) (s : State),
      Completes (.chcntData1Read t) s fun u =>
        u.rdata = s.chcnt1 ∧ u.chans = s.chans ∧
        u.field (oFmt 0x110) 15 0 = (s.field (oFmt 0x110) 15 0 + s.field (oFmt 0x110) 63 63) % 65536) ∧
    (∀ (t : Time) (v : Word) (s : State), bf v 63 63 = 1 →
      (s.at t).justRaised (2 ^ 32 + s.field (oFmt 0x110) 15 0) 63 = false →
      exec (.automaskClear t v) s = .next ((s.at t).setChan (s.field (oFmt 0x110) 15 0)
        { s.chan (s.field (oFmt 0x110) 15 0) with auto := false, cnt := 0 })) ∧
    (∀ (t : Time) (v : Word) (s : State),
      (s.at t).justRaised (2 ^ 32 + s.field (oFmt 0x110) 15 0) 63 = true → exec (.automaskClear t v) s = .next (s.at t))) ∧
  ((∀ (t : Time) (r : RowId) (v : Word) (s : State) (k : Nat), k = s.field (oRow r 0x18) 11 0 * 2 →
      Completes (.dmapDataAccess t r false true v) s fun u =>
        sget 0 k u.dmapS = dmapMerge0 (sget 0 k s.dmapS) v ∧ bf (sget 0 k u.dmapS) 62 59 ≤ max 8 (bf (sget 0 k s.dmapS) 62 59) ∧
        u.dmapA = s.dmapA ∧ u.tabPending 1 = true ∧ u.mem = s.mem ∧ u.field (oRow r 0x18) 11 0 = s.field (oRow r 0x18) 11 0) ∧
    (∀ (t : Time) (r : RowId) (v : Word) (s : State) (k : Nat), k = s.field (oRow r 0x18) 11 0 * 2 + 1 →
      Completes (.dmapDataAccess t r true true v) s fun u =>
        sget 0 k u.dmapS = setBf 0 47 0 (bf v 47 0) ∧ u.dmapA = s.dmapA ∧ u.tabPending 1 = true ∧ u.mem = s.mem ∧
        u.field (oRow r 0x18) 11 0 = (s.field (oRow r 0x18) 11 0 + s.field (oRow r 0x18) 63 63) % 4096) ∧
    (∀ (t : Time) (r : RowId) (data1 : Bool) (v : Word) (s : State),
      Completes (.dmapDataAccess t r data1 false v) s fun u =>
        u.rdata = sget 0 (s.field (oRow r 0x18) 11 0 * 2 + b2n data1)
          (if s.field (oRow r 0x18) 62 62 = 1 then s.dmapA else s.dmapS) ∧
        u.dmapS = s.dmapS ∧ u.dmapA = s.dmapA ∧ u.mem = s.mem))

/-! ### Slices (08_provisional_execution.md) -/

/-- The entry of region `g` is in use at cluster `k`, and the cluster runs the region's slices. -/
def Sys2Proof.Claims.progInUse (s : State) (k g : Nat) : Prop :=
  (s.clu k).badProg.contains g = false ∧ sget [] g (s.clu k).progs ≠ [] ∧ s.runsRegion k g = true

/-- A copy whose transit has ended reaches the dispatcher: an own hit of an interval without a descriptor makes one, WAITING or QUEUED; an
end-of-frame word marks its row (R30, R280). A watermark message sets the row's PW and the FW of its class at the cluster, and the
provisional slice that is firm by it becomes firm (R101, R289). -/
def Obligations.CopiesAndWatermarksMoveSlices : Prop :=
  (∀ (t : Time) (c : ClusterId) (s : State) (d : DispWord) (rest : List DispWord),
      sget [] c.val s.cluIn = d :: rest → d.due ≤ t →
      (d.eof = false → progInUse s c d.target → d.halo = false → s.slice c (s.keyOf c d.target d) = none →
        (s.clu c).gone.all (fun e => e.1 != s.keyOf c d.target d) = true → (s.clu c).slices.length < 8192 →
        Completes (.dispatchWordArrival t c) s fun u =>
          u.mem = s.mem ∧ sget [] c.val u.cluIn = rest ∧ (u.clu c).slices.length = (s.clu c).slices.length + 1 ∧
          ∃ x, (u.clu c).slices.getLast? = some x ∧ x.key = s.keyOf c d.target d ∧ (x.st = .waiting ∨ x.st = .queued) ∧
            x.holder = none) ∧
      (d.eof = true →
        Completes (.dispatchWordArrival t c) s fun u =>
          d.row ∈ (u.clu c).eofs ∧ (u.clu c).slices = (s.clu c).slices ∧ sget [] c.val u.cluIn = rest ∧ u.regs = s.regs ∧ u.mem = s.mem)) ∧
  (∀ (t : Time) (c : ClusterId) (s : State) (m : WmMsg) (rest : List WmMsg),
      sget [] c.val s.wmIn = m :: rest → m.due ≤ t → m.cls < 64 →
      Completes (.watermarkReceive t c) s fun u =>
        sget 0 m.row (u.clu c).pw = m.pw ∧ sget 0 (m.row * 64 + m.cls) (u.clu c).fw = m.fw ∧ u.mem = s.mem ∧
        ∀ x, (s.clu c).slices = [x] → x.st = .provRun → x.late = false → u.firm c x.key = true →
          ∃ y, (u.clu c).slices = [y] ∧ y.key = x.key ∧ y.st = .firmRun)

/-- What the build of a slice without a hit needs: the program's CODE object read through one entry of the context's data TLB from lines
that the cluster's L2 holds. -/
def Sys2Proof.Claims.entryReadable (s : State) (c w : Nat) (p : Word) (e : TlbEnt) (entry : Nat) : Prop :=
  (s.core c).dtlb.find? (fun a => a.hits w (pay p)) = some e ∧ (s.core c).dtlb.find? (fun a => a.hits w (pay p + 8)) = some e ∧
  InL2 s (cluOf c) ((e.pa + (pay p - e.va)) % 2 ^ 46) ∧ InL2 s (cluOf c) ((e.pa + (pay p + 8 - e.va)) % 2 ^ 46) ∧
  headerOk tCode (mrdW ((e.pa + (pay p - e.va)) % 2 ^ 46) s.mem) = true ∧
  bf (mrdW ((e.pa + (pay p + 8 - e.va)) % 2 ^ 46) s.mem) 46 0 = entry ∧ entry % 4 = 0

/-- The one QUEUED slice of a HOT cluster goes to the context that qualifies: it is in BUILD there, with a checkpoint, and the context waits
for hits (R283, R286). SLICE_START ends the build: the program starts at its ENTRY, provisionally unless the slice is firm, with w0 to
w15, s0 to s7 and the special registers that R202 names (the lists of a slice without a hit are NIL); a late copy makes the build start
again (R202, R284, R287). -/
def Obligations.SlicesAreGivenAndStarted : Prop :=
  (∀ (t : Time) (c : ClusterId) (s : State) (x : Slice) (h : Nat × Nat),
      s.castOn = true → ((dmapOn s.dmapA).all fun g => s.clusterOf g != c.val || !s.uncovered c g) = true → s.clocked c = true → (s.clu c).bist = 0 →
      (s.clu c).slices = [x] → x.st = .queued → s.chooseCtx c x = some h →
      Completes (.sliceDispatch t c) s fun u =>
        (∃ y, (u.clu c).slices = [y] ∧ y.key = x.key ∧ y.st = .build ∧ y.holder = some h ∧ y.ckpt.isSome = true ∧ y.begun = t) ∧
        (u.ctx h.1 h.2).state = 1 ∧ (u.ctx h.1 h.2).waits = 1 ∧ (u.ctx h.1 h.2).slices = (s.ctx h.1 h.2).slices ++ [x.key] ∧
        u.mem = s.mem ∧ u.regs = s.regs) ∧
  (∀ (t : Time) (k : ClusterId) (s : State) (x : Slice) (c j : Nat),
      (s.clu k).slices = [x] → x.st = .build → x.holder = some (c, j) → cluOf c = k.val → j < 4 → s.clocked k = true →
      (x.rebuild = true → Completes (.sliceStart t k x.key) s fun u =>
        (u.clu k).slices = [{ x with rebuild := false, begun := t }] ∧ u.mem = s.mem ∧ u.regs = s.regs) ∧
      (∀ (e : TlbEnt) (entry w : Nat), w = s.ctxWorld c j → x.rebuild = false → s.haOn 2 k = false →
        s.ownCopies k x = [] → s.ctxCopies k x = [] → (s.ctx c j).storeQ = [] →
        entryReadable s c w (s.progWord k x.key.region 0) e entry →
        Completes (.sliceStart t k x.key) s fun u =>
          (∃ y, (u.clu k).slices = [y] ∧ y.key = x.key ∧ y.st = (if s.firm k x.key then .firmRun else .provRun)) ∧
          (u.ctx c j).prog = some x.key ∧ (u.ctx c j).flow.pc = entry ∧ u.mem = s.mem ∧
          u.rf c (winKey j (s.ctx c j).base 0) = s.regionW x.key.region ∧
          u.rf c (winKey j (s.ctx c j).base 1) = s.sliceSpan k x.key ∧
          (∀ r, 2 ≤ r → r < 16 → u.rf c (winKey j (s.ctx c j).base r) = nilW) ∧
          (∀ i, i < 6 → u.rf c (globKey j w i) = nilW) ∧
          u.rf c (globKey j w 6) = fixN (pay (s.rf c (globKey j w 6))) ∧
          u.rf c (globKey j w 7) = fixN (bf (s.progWord k x.key.region 3) 46 0) ∧
          (u.ctx c j).spec.lr = fixN Config.sliceExit ∧ (u.ctx c j).spec.bank = s.progWord k x.key.region 1 ∧
          (u.ctx c j).spec.lc = 0 ∧ (u.ctx c j).spec.rc = 0 ∧ stProv (u.ctx c j).spec.st = b2n (!s.firm k x.key) ∧
          stWres (u.ctx c j).spec.st = 1 ∧ stWorld (u.ctx c j).spec.st = w))

/-- Slices end: a commit moves the staged candidates to the output queue in order; a time-out discards them; both release the descriptor, and
each is counted (R28, R290, R296, R297). An unravel restores the checkpoint and puts the slice back to be run again: the window and the
globals of the checkpoint are the context's, its special registers too, and the slice has no context, no staged candidate and one more
unravel (R292, R293). -/
def Obligations.SlicesEndOrUnravel : Prop :=
  (∀ (t : Time) (k : ClusterId) (s : State) (x : Slice), (s.clu k).slices = [x] →
      (s.canCommit k x = true →
        Completes (.sliceCommit t k x.key) s fun u =>
          sget [] k.val u.outqs = sget [] k.val s.outqs ++ x.staged.map (fun ws => (ws, s.frame.count)) ∧
          (u.clu k).slices = [] ∧ (u.clu k).gone = (x.key, true) :: (s.clu k).gone ∧ u.mem = s.mem ∧
          (u.reg (oCnt k 0x3110)).toNat = min (2 ^ 64 - 1) ((s.reg (oCnt k 0x3110)).toNat + 1)) ∧
      (s.cutoffT (s.sliceAfter k x.key - 1) ≤ t →
        Completes (.sliceTimeout t k x.key) s fun u =>
          u.outqs = s.outqs ∧ (u.clu k).slices = [] ∧ (u.clu k).gone = (x.key, false) :: (s.clu k).gone ∧ u.mem = s.mem ∧
          (u.reg (oCnt k 0x3130)).toNat = min (2 ^ 64 - 1) ((s.reg (oCnt k 0x3130)).toNat + 1))) ∧
  (∀ (t : Time) (k : ClusterId) (s : State) (x : Slice) (c j : Nat) (q : Ckpt),
      (s.clu k).slices = [x] → x.holder = some (c, j) → x.ckpt = some q → x.late = true → x.st = .provRun ∨ x.st = .provDone →
      cluOf c = k.val → j < 4 → (s.at t).canRestore c j = true → (s.ctx c j).slices = [x.key] → (s.ctx c j).storeQ = [] →
      Completes (.unravel t k x.key) s fun u =>
        (∀ r, r < 16 → u.rf c (winKey j q.base r) = q.win.getD r 0) ∧
        (∀ i, i < 8 → u.rf c (globKey j (s.ctxWorld c j) i) = q.globals.getD i 0) ∧
        (u.ctx c j).spec = q.spec ∧ (u.ctx c j).base = q.base ∧ (u.ctx c j).shadow = q.shadow ∧ (u.ctx c j).prog = none ∧
        (u.ctx c j).slices = [] ∧ u.mem = s.mem ∧
        ∃ y, (u.clu k).slices = [y] ∧ y.key = x.key ∧ y.unravels = x.unravels + 1 ∧ y.staged = [] ∧ y.holder = none ∧ y.late = false)

/-! ### Contexts, interrupts, the fast-interrupt bank (07_contexts_worlds_traps.md) -/

/-- ST.PROV is cleared for the oldest slice of a context once it is firm and no handler is active (R288). A core that runs no context takes
the best READY one (R233, R234, R236); a timer that TICK has reached makes the TIMER source pending, and a write of CTX_TIMER sets the
compare value and withdraws it (R237). -/
def Obligations.RecognitionSchedulerAndTimers : Prop :=
  (∀ (c : CoreId) (j : CtxId) (s : State) (key : SliceKey) (x : Slice),
      (s.core c).cur = j.val → s.recognises c = true → (s.ctx c j).prog = some key → (s.ctx c j).slices.head? = some key →
      s.slice (cluOf c) key = some x → x.st = .firmRun → (s.ctx c j).level = 0 →
      exec (.provClear c j) s = .next (s.setCtx c j { s.ctx c j with
        spec := { (s.ctx c j).spec with st := setBf (s.ctx c j).spec.st 28 28 0 } })) ∧
  ((∀ (c : CoreId) (s : State) (j : Nat), (s.core c).run = false → (s.core c).up = true → (s.core c).bankOn = false →
      s.clocked (cluOf c) = true → s.bestOf c ((List.range 4).filter fun i => s.ready c i) = some j →
      Completes (.contextSwitch c) s fun u =>
        (u.core c).run = true ∧ (u.core c).cur = j ∧ (u.ctx c j).state = 3 ∧ (u.core c).tick = (s.tick c + 2) % 2 ^ 56 ∧
        (u.core c).rf = (s.core c).rf ∧ u.mem = s.mem ∧ SameRegs (· = oUcs 0x110) s u) ∧
    (∀ (c : CoreId) (j : CtxId) (s : State), s.field (oTimer c j) 55 0 ≠ 0 → s.field (oTimer c j) 55 0 ≤ s.tick c →
      (s.core c).up = true → s.clocked (cluOf c) = true →
      Completes (.ctxTimerExpiry c j) s fun u =>
        bit (sget 0 (c.val * 4 + j.val) u.irqs) irqTimer = true ∧ u.mem = s.mem ∧ SameRegs (· = oUcs 0x110) s u ∧
        (u.core c).rf = (s.core c).rf) ∧
    (∀ (t : Time) (c : CoreId) (j : CtxId) (v : Word) (s : State),
      Completes (.ctxTimerWrite t c j v) s fun u =>
        u.field (oTimer c j) 55 0 = bf v 55 0 ∧ bit (sget 0 (c.val * 4 + j.val) u.irqs) irqTimer = false ∧ u.mem = s.mem ∧
        u.cores = s.cores ∧ SameRegs (· = oTimer c j) s u))

/-- A supervisor context at a word boundary whose stack pointer s7 is a FIX word with room for an entry frame in one writable page of
its data TLB, in memory that answers; nothing waits in its store queue or multiplier. -/
def Sys2Proof.Claims.entryReady (s : State) (c n : Nat) (e : TlbEnt) : Prop :=
  (s.core c).bankOn = false ∧ (s.core c).trap = none ∧ stSup (s.core c).me.spec.st = 1 ∧ (s.core c).me.storeQ = [] ∧
  (s.core c).me.mult = [] ∧ (s.core c).me.flow.pend = [] ∧ (s.core c).cur < 4 ∧
  s.rf c (globKey (s.core c).cur (stWorld (s.core c).me.spec.st) 7) = fixN n ∧ n % 8 = 0 ∧ 32 ≤ n ∧ n < 2 ^ 47 ∧
  e.va ≤ n - 32 ∧ e.w = true ∧ e.pa + (n - e.va) < 2 ^ 46 ∧
  (∀ i, i < 4 → (s.core c).dtlb.find? (fun a => a.hits (stWorld (s.core c).me.spec.st) (n - 32 + 8 * i)) = some e) ∧
  (∀ i, i < 4 → Takes s (e.pa + (n - 32 + 8 * i - e.va)))

/-- The exception has been entered (R243): EPC and ESR, supervisor level with interrupts off, the handler's first word, one nesting
level more, s7 below the frame, and in the frame the old ST, EPC and ESR. -/
def Sys2Proof.Claims.entered (s u : State) (c n : Nat) (e : TlbEnt) (cls cause epc : Nat) : Prop :=
  let y := (s.core c).me
  let z := (u.core c).me
  let pa := e.pa + (n - 32 - e.va)
  z.flow.pc = s.vbase c (stWorld y.spec.st) + cls * 0x40 ∧ z.spec.epc = fixN epc ∧ bf z.spec.esr 55 48 = cls % 256 ∧
  bf z.spec.esr 47 40 = cause % 256 ∧ stSup z.spec.st = 1 ∧ stIe z.spec.st = 0 ∧ stWorld z.spec.st = stWorld y.spec.st ∧
  z.level = y.level + 1 ∧ u.rf c (globKey (s.core c).cur (stWorld y.spec.st) 7) = fixN (n - 32) ∧
  mrdW pa u.mem = setBf y.spec.st 63 56 0 ∧ mrdW (pa + 8) u.mem = y.spec.epc ∧ mrdW (pa + 16) u.mem = y.spec.esr ∧
  (∀ a, (a < pa ∨ pa + 32 ≤ a) → mrd a u.mem = mrd a s.mem)

/-- At a recognition point the pending enabled source of lowest code is taken: it is no longer pending, and the exception of class 3 is
entered with its code as cause and the next word as EPC (R235, R237, R243). The fast-interrupt bank (R238 to R241): its enabled source
enters the bank at its vector with the level and world of FIQ_CTRL, held, and no register of the context changes; a hold overrun in the
bank ends it, masks it and sends one record. -/
def Obligations.InterruptsAndTheirBank : Prop :=
  (∀ (c : CoreId) (s : State) (code n : Nat) (e : TlbEnt), s.recognises c = true → s.irqNext c (s.core c).cur = some code →
      entryReady s c n e →
      Completes (.interruptTaken c) s fun u =>
        entered s u c n e 3 code (s.flow c).pc ∧ bit (u.irqMask c (s.core c).cur) code = false) ∧
  ((∀ (c : CoreId) (s : State), (s.core c).run = true → s.recognises c = true → (s.core c).bankGap = false → (s.flow c).run = none →
      s.field (oCore c 0x10) 63 63 = 1 → s.field (oCore c 0x10) 62 62 = 0 → s.bankPending c (s.field (oCore c 0x10) 55 52) = true →
      Completes (.fiqEntry c) s fun u =>
        (u.core c).bankOn = true ∧ (u.core c).bankFlow = .start (s.field (oCore c 0x10) 46 2 * 4) ∧
        stHeld (u.core c).bank.st = 1 ∧ (u.core c).rf = (s.core c).rf ∧ (u.core c).ctxs = (s.core c).ctxs ∧ u.regs = s.regs ∧
        u.mem = s.mem) ∧
    (∀ (c : CoreId) (s : State), (s.core c).bankOn = true → s.runs c = true → s.holdOut c = true → (s.core c).bankFlow.pend = [] →
      (s.core c).bankFlow.aLoads = [] →
      Completes (.holdOverrun c) s fun u =>
        (u.core c).bankOn = false ∧ u.field (oCore c 0x10) 62 62 = 1 ∧ SentError u 1 3 c 1 ∧ (u.core c).rf = (s.core c).rf ∧
        (u.core c).ctxs = (s.core c).ctxs ∧ u.mem = s.mem))

/-! ### Oxxus words (05 to 07, 13) -/

/-- Core `c` runs a context, not the bank nor a trap window; its next word is fetched through entry `e` of the instruction TLB, and the
instruction cache holds its line; no routine stands at a safe point or in a record. -/
def Sys2Proof.Claims.Issues (s : State) (c : Nat) (e : TlbEnt) : Prop :=
  s.runs c = true ∧ (s.core c).bankOn = false ∧ (s.core c).trap = none ∧ (s.core c).me.micro = [] ∧ (s.core c).upset = [] ∧
  (s.flow c).run = none ∧ (s.flow c).aLoads = [] ∧
  (s.core c).itlb.find? (fun a => a.hits (s.world_ c) (s.flow c).pc) = some e ∧ e.allows .fetch (s.sup c) = true ∧
  l1Has ((e.pa + ((s.flow c).pc - e.va)) % 2 ^ 46 / 64) (s.core c).l1i = true

/-- The word stands alone: no load slot and no loaded register to wait for, no branch before it, no repetition, whole, outside every
loop, no multiplier result to come. -/
def Sys2Proof.Claims.Steady (s : State) (c : Nat) (e : TlbEnt) : Prop :=
  Issues s c e ∧ (s.flow c).pend = [] ∧ (s.flow c).ready = [] ∧ (s.flow c).branch = none ∧ (s.flow c).rep = none ∧
  (s.flow c).plyB = false ∧ stLdep (s.st c) = 0 ∧ (s.core c).me.mult = []

/-- The word after the running one may stand in the slot of a .S branch and may be repeated (R187, R197). -/
def Sys2Proof.Claims.SlotFree (s : State) (c : Nat) : Prop := (s.pruneMicro c).badNext c { slot := true, rep := true } = false

/-- No register of core `c` but those that `dst` names changes, no special register changes, and the next word is at `pc`. -/
def Sys2Proof.Claims.Passes (s u : State) (c : Nat) (dst : List Nat) (pc : Nat) : Prop :=
  (∀ k, (∀ r ∈ dst, (s.core c).key r ≠ some k) → u.rf c k = s.rf c k) ∧ (u.core c).me.spec = (s.core c).me.spec ∧
  (u.core c).cur = (s.core c).cur ∧ (u.flow c).pc = pc

/-- Address of the word after the running one. -/
def Sys2Proof.Claims.nextPc (s : State) (c : Nat) : Nat := ((s.flow c).pc + 4) % 2 ^ 47

/-- The word writes `v` to register `rd` and goes on: no other register, special register, accumulator, memory byte, BAR0 register,
context or core changes. -/
def Sys2Proof.Claims.Steps (s u : State) (c : Nat) (rd : Reg5) (v : Word) : Prop :=
  Passes s u c [rd.toNat] (nextPc s c) ∧ u.rget c rd.toNat = v ∧ u.mem = s.mem ∧ u.regs = s.regs ∧
  (u.core c).me.mult = (s.core c).me.mult ∧ (u.core c).me.storeQ = (s.core c).me.storeQ ∧
  (∀ d, d ≠ c → u.core d = s.core d) ∧ (∀ j, j ≠ (s.core c).cur → u.ctx c j = s.ctx c j)

/-- A register specifier that names a register (R167). -/
def Sys2Proof.Claims.named (r : Reg5) : Prop := r.toNat < 24

/-- A register holds a FIX word. -/
def Sys2Proof.Claims.holdsFix (s : State) (c : Nat) (r : Reg5) : Prop := isFix (s.rget c r.toNat) = true

/-- Integer that a register's FIX word holds. -/
def Sys2Proof.Claims.int (s : State) (c : Nat) (r : Reg5) : Int := fixI (s.rget c r.toNat)

/-- Generic operations on FIX words whose result is in FIX range (R130 to R138): the exact sum, difference and product; CMP −1, 0 or 1; MIN
and MAX the first operand when they are equal. Generic operations on times (Tables 4.6 to 4.9): a point and a FIX give a TIME, two HITs
differ by the SPAN from the earlier to the later, a point is compared with a SPAN by where it lies. -/
def Obligations.GenericOperations : Prop :=
  (∀ (c : CoreId) (rd ra rb : Reg5) (s : State) (e : TlbEnt), Steady s c e → named rd → named ra → named rb →
      holdsFix s c ra → holdsFix s c rb →
      (inFix (int s c ra + int s c rb) = true →
        Completes (.add c rd ra rb) s fun u => Steps s u c rd (fixW (int s c ra + int s c rb))) ∧
      (inFix (int s c ra - int s c rb) = true →
        Completes (.sub c rd ra rb) s fun u => Steps s u c rd (fixW (int s c ra - int s c rb))) ∧
      (inFix (int s c ra * int s c rb) = true →
        Completes (.mul c rd ra rb) s fun u => Steps s u c rd (fixW (int s c ra * int s c rb))) ∧
      (∀ imm : BitVec 15, inFix (int s c ra + imm.toInt) = true →
        Completes (.addi c rd ra imm) s fun u => Steps s u c rd (fixW (int s c ra + imm.toInt))) ∧
      (Completes (.cmp c rd ra rb) s fun u => Steps s u c rd
        (fixW (if int s c ra < int s c rb then -1 else if int s c ra = int s c rb then 0 else 1))) ∧
      (Completes (.min c rd ra rb) s fun u => Steps s u c rd
        (if int s c ra ≤ int s c rb then s.rget c ra.toNat else s.rget c rb.toNat)) ∧
      (Completes (.max c rd ra rb) s fun u => Steps s u c rd
        (if int s c rb ≤ int s c ra then s.rget c ra.toNat else s.rget c rb.toNat))) ∧
  (∀ (c : CoreId) (rd ra rb : Reg5) (s : State) (e : TlbEnt) (a b : Word), Steady s c e → named rd → named ra → named rb →
      a = s.rget c ra.toNat → b = s.rget c rb.toNat → malformed a = false → malformed b = false →
      (isPoint a = true → tagOf b = tFix → inFix (timeOf a + fixI b) = true →
        Completes (.add c rd ra rb) s fun u => Steps s u c rd (mkTag tTime (lowBits 56 (timeOf a + fixI b)))) ∧
      (isPoint a = true → isPoint b = true → ¬ (tagOf a = tHit ∧ tagOf b = tHit) → inFix (timeOf a - timeOf b) = true →
        Completes (.sub c rd ra rb) s fun u => Steps s u c rd (mkTag tTime (lowBits 56 (timeOf a - timeOf b)))) ∧
      (tagOf a = tHit → tagOf b = tHit →
        Completes (.sub c rd ra rb) s fun u => Steps s u c rd
          (mkTag tSpan (min (bf a 27 0) (bf b 27 0) * 2 ^ 28 + (max (bf a 27 0) (bf b 27 0) - min (bf a 27 0) (bf b 27 0))))) ∧
      (tagOf a = tFix → tagOf b = tTime → inFix (fixI b * fixI a) = true →
        Completes (.mul c rd ra rb) s fun u => Steps s u c rd (mkTag tTime (lowBits 56 (fixI b * fixI a)))) ∧
      (isPoint a = true → tagOf b = tSpan →
        Completes (.cmp c rd ra rb) s fun u => Steps s u c rd (fixW
          (if timeOf a < (bf b 55 28 * 16 : Nat) then -1 else if timeOf a < ((bf b 55 28 + bf b 27 0) * 16 : Nat) then 0 else 1))))

/-- Logic, shifts, moves and tag tests (R207, R208, R211): logic on the payloads of FIX words; SHL drops what leaves the payload, SHR
divides rounding down, SHRU shifts in zeros; MOV and TAG take any word, EQ compares all 64 bits. -/
def Obligations.LogicShiftsAndMoves : Prop :=
  ∀ (c : CoreId) (rd ra rb : Reg5) (s : State) (e : TlbEnt), Steady s c e → named rd → named ra → named rb →
    (holdsFix s c ra → holdsFix s c rb → ∀ a b : Nat, a = pay (s.rget c ra.toNat) → b = pay (s.rget c rb.toNat) →
      (Completes (.andR c rd ra rb) s fun u => Steps s u c rd (mkTag 0 (a &&& b))) ∧
      (Completes (.orR c rd ra rb) s fun u => Steps s u c rd (mkTag 0 (a ||| b))) ∧
      (Completes (.xorR c rd ra rb) s fun u => Steps s u c rd (mkTag 0 (a ^^^ b))) ∧
      (b ≤ 63 →
        (Completes (.shl c rd ra rb) s fun u => Steps s u c rd (mkTag 0 (a * 2 ^ b))) ∧
        (Completes (.shr c rd ra rb) s fun u => Steps s u c rd (fixW (int s c ra / (2 ^ b : Nat)))) ∧
        (Completes (.shru c rd ra rb) s fun u => Steps s u c rd (mkTag 0 (a / 2 ^ b))))) ∧
    (∀ imm : BitVec 15, holdsFix s c ra → ∀ a : Nat, a = pay (s.rget c ra.toNat) →
      (Completes (.andi c rd ra imm) s fun u => Steps s u c rd (mkTag 0 (a &&& imm.toNat))) ∧
      (Completes (.ori c rd ra imm) s fun u => Steps s u c rd (mkTag 0 (a ||| imm.toNat))) ∧
      (Completes (.xori c rd ra imm) s fun u => Steps s u c rd (mkTag 0 (a ^^^ imm.toNat))) ∧
      (imm.toNat ≤ 63 →
        (Completes (.shli c rd ra imm) s fun u => Steps s u c rd (mkTag 0 (a * 2 ^ imm.toNat))) ∧
        (Completes (.shri c rd ra imm) s fun u => Steps s u c rd (fixW (int s c ra / (2 ^ imm.toNat : Nat)))))) ∧
    (∀ imm : BitVec 15,
      (Completes (.movi c rd imm) s fun u => Steps s u c rd (fixW imm.toInt)) ∧
      (imm.toNat < 256 → Completes (.tchk c rd ra imm) s fun u => Steps s u c rd
        (if tagOf (s.rget c ra.toNat) = imm.toNat then trueW else nilW))) ∧
    (Completes (.mov c rd ra) s fun u => Steps s u c rd (s.rget c ra.toNat)) ∧
    (Completes (.tag c rd ra) s fun u => Steps s u c rd (mkTag 0 (tagOf (s.rget c ra.toNat)))) ∧
    (readCause (s.rget c ra.toNat) = none → readCause (s.rget c rb.toNat) = none →
      Completes (.eqR c rd ra rb) s fun u => Steps s u c rd (if s.rget c ra.toNat = s.rget c rb.toNat then trueW else nilW))

/-- Selectors of FLD: selector, tag, bits (Table 6.3); selector 7 takes the payload of any word. -/
def Sys2Proof.Claims.fields : List (Nat × Nat × Nat × Nat) :=
  [(0, tHit, 55, 44), (1, tHit, 43, 28), (2, tHit, 27, 0), (3, tSpike, 55, 50), (4, tSpike, 49, 0), (5, tSpan, 55, 28),
   (6, tSpan, 27, 0), (8, tChan, 31, 16), (9, tChan, 15, 0), (10, tRegion, 27, 12), (11, tRegion, 11, 0), (12, tSym, 31, 0),
   (13, tTime, 55, 0)]

/-- The routine answers `v` in `rd`, counts itself in UCS_CNT, and changes nothing else. -/
def Sys2Proof.Claims.Answers (s u : State) (c : Nat) (rd : Reg5) (v : Word) : Prop :=
  Passes s u c [rd.toNat] (nextPc s c) ∧ u.rget c rd.toNat = v ∧ u.mem = s.mem ∧ SameRegs (· = oUcs 0x100) s u

/-- RETAG, FLD and the conversions in hardware (R131, R209, R210, R212): RETAG keeps the payload; an object tag needs supervisor level;
CVTF of a FIX is the binary64 nearest to it, rounded to SFLT; CVTI truncates toward zero, and gives NIL for what has no integer; on a general core a routine gives the same results. -/
def Obligations.TagsFieldsAndConversions : Prop :=
  ∀ (c : CoreId) (rd ra rb : Reg5) (s : State) (e : TlbEnt) (a : Word), Steady s c e → named rd → named ra → named rb →
    a = s.rget c ra.toNat → readCause a = none → malformed a = false →
    (holdsFix s c rb → ∀ t : Nat, t = pay (s.rget c rb.toNat) → t < 256 → t ≠ tUninit → t ≠ tFwd → isReserved t = false →
      (isObject t = true → s.sup c = true) →
      Completes (.retag c rd ra rb) s fun u => Steps s u c rd (mkTag t (pay a))) ∧
    (∀ f ∈ fields, tagOf a = f.2.1 →
      Completes (.fld c rd ra (BitVec.ofNat 15 f.1)) s fun u => Steps s u c rd (mkTag 0 (bf a f.2.2.1 f.2.2.2))) ∧
    (Completes (.fld c rd ra 7) s fun u => Steps s u c rd (mkTag 0 (pay a))) ∧
    (isFit c = true → tagOf a = tFix →
      Completes (.cvtf c rd ra) s fun u => Steps s u c rd (mkTag tSflt (sfltPay (fbits (fofInt (fixI a)))))) ∧
    (isFit c = false → s.haOn 7 0 = false →
      (tagOf a = tFix → Completes (.cvtf c rd ra) s fun u => Answers s u c rd (mkTag tSflt (sfltPay (fbits (fofInt (fixI a)))))) ∧
      (∀ i : Int, tagOf a = tSflt → ftrunc (fdec (pay a * 256)) = some i → inFix i = true →
        Completes (.cvti c rd ra) s fun u => Answers s u c rd (fixW i)) ∧
      (tagOf a = tSflt → ftrunc (fdec (pay a * 256)) = none → Completes (.cvti c rd ra) s fun u => Answers s u c rd nilW)) ∧
    (isFit c = true → tagOf a = tSflt →
      (∀ i : Int, ftrunc (fdec (pay a * 256)) = some i → inFix i = true →
        Completes (.cvti c rd ra) s fun u => Steps s u c rd (fixW i)) ∧
      (ftrunc (fdec (pay a * 256)) = none → Completes (.cvti c rd ra) s fun u => Steps s u c rd nilW))

/-- The load of a word at `va` finds `pa` of memory class through entry `e` of the data TLB, and `w`, which is no FWD, in the data cache
or in memory; the data cache waits for no line, and no store of the context to the word is queued. -/
def Sys2Proof.Claims.LoadFinds (s : State) (c va pa : Nat) (w : Word) : Prop :=
  ∃ e : TlbEnt, (s.core c).dtlb.find? (fun a => a.hits (s.world_ c) va) = some e ∧ e.allows .load (s.sup c) = true ∧
    pa = (e.pa + (va - e.va)) % 2 ^ 46 ∧ pa < 0x100000000000 ∧ (s.core c).me.storeQ = [] ∧ (s.core c).blocked = none ∧
    (s.l1dHas c (pa / 64) = true ∨ InL2 s (cluOf c) pa ∨ s.l2Find (cluOf c) (pa / 64) = none ∧ Clean s pa) ∧
    w = mrdW pa s.mem ∧ tagOf w ≠ tFwd

/-- The load finds its line in the core's data cache. -/
def Sys2Proof.Claims.Cached (s : State) (c va pa : Nat) (w : Word) : Prop :=
  LoadFinds s c va pa w ∧ l1Has (pa / 64) (s.core c).l1d = true

/-- A word of memory that the data cache holds and a load reads. -/
def Sys2Proof.Claims.ReadsAs (s : State) (c va : Nat) (w : Word) : Prop := ∃ pa, Cached s c va pa w

/-- `p` points to an object whose header `h` is sound and in the data cache (R145). -/
def Sys2Proof.Claims.HeadAt (s : State) (c : Nat) (p h : Word) : Prop :=
  malformed p = false ∧ ReadsAs s c (pay p) h ∧ headerOk (tagOf p) h = true

/-- The word loads `w` into `rd`, seen after the load slot: no register changes yet but those of `also`; no byte of memory changes, and
no register of BAR0 when the line is in the data cache. -/
def Sys2Proof.Claims.Loads (s u : State) (c : Nat) (rd : Reg5) (w : Word) (also : List Nat) (hit : Prop) : Prop :=
  Passes s u c also (nextPc s c) ∧ (u.flow c).pend = (((s.core c).key rd.toNat).toList.map fun k => (k, w)) ∧ u.mem = s.mem ∧
  (u.core c).me.storeQ = [] ∧ (hit → u.regs = s.regs)

/-- A raw address: 8-byte aligned, base and address in the 47 bits (R182, R183). -/
def Sys2Proof.Claims.rawOk (base a : Int) : Prop := a % 8 = 0 ∧ 0 ≤ base ∧ base < 2 ^ 47 ∧ 0 ≤ a ∧ a < 2 ^ 47

/-- A well-formed word of a tag in a register. -/
def Sys2Proof.Claims.holds (s : State) (c : Nat) (r : Reg5) (t : Nat) : Prop :=
  tagOf (s.rget c r.toNat) = t ∧ malformed (s.rget c r.toNat) = false

/-- Loads (R173, R182, R213, R214): raw with base and offset, with the base moved after (POST), absolute-short, of the halves of a CONS
cell, of a word of a VEC, BOX or CODE object, of a VEC element and of its length. -/
def Obligations.LoadsReadMemory : Prop :=
  ∀ (c : CoreId) (rd ra rb : Reg5) (s : State) (e : TlbEnt) (va pa : Nat) (w : Word) (hit : Prop),
    Steady s c e → named rd → named ra → named rb → LoadFinds s c va pa w → hit = Cached s c va pa w →
    (∀ ofs : BitVec 14, holdsFix s c ra → rawOk (int s c ra) (int s c ra + ofs.toInt * 8) → (va : Int) = int s c ra + ofs.toInt * 8 →
      Completes (.ld c rd ra false ofs) s fun u => Loads s u c rd w [] hit) ∧
    (∀ ofs : BitVec 14, holdsFix s c ra → rawOk (int s c ra) (int s c ra) → (va : Int) = int s c ra →
      Completes (.ld c rd ra true ofs) s fun u =>
        Loads s u c rd w [ra.toNat] hit ∧ u.rget c ra.toNat = fixW (int s c ra + ofs.toInt * 8)) ∧
    (∀ k : BitVec 14, holds s c ra tCons → (k = 0 ∨ k = 1) → va = pay (s.rget c ra.toNat) + 8 * k.toNat →
      Completes (.ld c rd ra false k) s fun u => Loads s u c rd w [] hit) ∧
    (∀ (k : BitVec 14) (h : Word), (tagOf (s.rget c ra.toNat) = tVec ∨ tagOf (s.rget c ra.toNat) = tBox ∨
        tagOf (s.rget c ra.toNat) = tCode) → hit → HeadAt s c (s.rget c ra.toNat) h → 0 ≤ k.toInt → k.toInt ≤ bf h 31 0 →
      (va : Int) = pay (s.rget c ra.toNat) + 8 * k.toInt →
      Completes (.ld c rd ra false k) s fun u => Loads s u c rd w [] True) ∧
    (∀ abs : BitVec 20, va = bf (s.core c).me.spec.bank 46 20 * 2 ^ 20 + abs.toNat → va % 8 = 0 →
      Completes (.lda c rd abs) s fun u => Loads s u c rd w [] hit) ∧
    (holds s c ra tCons → va = pay (s.rget c ra.toNat) → Completes (.car c rd ra) s fun u => Loads s u c rd w [] hit) ∧
    (holds s c ra tCons → va = pay (s.rget c ra.toNat) + 8 → Completes (.cdr c rd ra) s fun u => Loads s u c rd w [] hit) ∧
    (holds s c ra tNil →
      (Completes (.car c rd ra) s fun u => Loads s u c rd nilW [] True) ∧
      (Completes (.cdr c rd ra) s fun u => Loads s u c rd nilW [] True)) ∧
    (holdsFix s c ra → rawOk (int s c ra) (int s c ra) → (va : Int) = int s c ra →
      Completes (.ldp c rd ra) s fun u => Loads s u c rd w [ra.toNat] hit ∧ u.rget c ra.toNat = fixW (int s c ra + 8)) ∧
    (holds s c ra tVec → va = pay (s.rget c ra.toNat) → headerOk tVec w = true →
      Completes (.vlen c rd ra) s fun u => Loads s u c rd (mkTag 0 (bf w 31 0)) [] hit) ∧
    (∀ h : Word, holds s c ra tVec → holdsFix s c rb → hit → HeadAt s c (s.rget c ra.toNat) h →
      0 ≤ int s c rb → int s c rb < bf h 31 0 → va = pay (s.rget c ra.toNat) + 8 * ((int s c rb).toNat + 1) →
      Completes (.vld c rd ra rb) s fun u => Loads s u c rd w [] True)

/-- A store at `va` may be made: entry `e` of the data TLB maps it to `pa` of installed memory for writing, no FWD stands there, the word
is not provisional, and the queue has room. -/
def Sys2Proof.Claims.StoreFinds (s : State) (c va pa : Nat) : Prop :=
  ∃ e : TlbEnt, (s.core c).dtlb.find? (fun a => a.hits (s.world_ c) va) = some e ∧ e.allows .store (s.sup c) = true ∧
    pa = (e.pa + (va - e.va)) % 2 ^ 46 ∧ pa < s.stacks * stackSize ∧ tagOf (s.seen c pa) ≠ tFwd ∧ stProv (s.st c) = 0 ∧
    (s.core c).me.storeQ.length < 16

/-- A word that a store at `va` may take: tagged well, and no pointer into a frame heap for a store to a hold heap (R156, R164). -/
def Sys2Proof.Claims.mayStore (w : Word) (va : Nat) : Prop :=
  storeSrc w false = none ∧ ¬ (isObject (tagOf w) = true ∧ isFrameVa (pay w) = true ∧ isHoldVa va = true)

/-- The word stores `w` at `pa`: it waits in the context's queue, and no byte of memory changes until it is released. -/
def Sys2Proof.Claims.Stores (s u : State) (c pa : Nat) (w : Word) (also : List Nat) : Prop :=
  Passes s u c also (nextPc s c) ∧ (u.core c).me.storeQ = (s.core c).me.storeQ ++ [(pa, w)] ∧ u.mem = s.mem ∧ u.regs = s.regs

/-- Result of a short operation without memory on FIX words: `a` in its first register, `r` in its second (Table 6.2). -/
def Sys2Proof.Claims.shortWord (p : Ply) (a r : Word) : Word :=
  match p.op with
  | 0x01 => r
  | 0x02 => fixW p.imm
  | 0x03 => fixW (fixI a + fixI r)
  | 0x04 => fixW (fixI a - fixI r)
  | 0x05 => fixW (fixI a + p.imm)
  | 0x06 => fixW (if fixI a < fixI r then -1 else if fixI a = fixI r then 0 else 1)
  | 0x07 => if fixI a ≤ fixI r then a else r
  | 0x08 => if fixI r ≤ fixI a then a else r
  | 0x09 => mkTag 0 (pay a &&& pay r)
  | 0x0A => mkTag 0 (pay a ||| pay r)
  | 0x0B => mkTag 0 (pay a ^^^ pay r)
  | 0x0C => mkTag 0 (pay a * 2 ^ p.lo)
  | 0x0D => fixW (fixI a / (2 ^ p.lo : Nat))
  | _ => mkTag 0 (tagOf r)

/-- The ply is a short operation without memory, on FIX words where it asks for them, with a result in FIX range. -/
def Sys2Proof.Claims.shortOk (s : State) (c : Nat) (p : Ply) : Prop :=
  let a := s.rget c p.rd
  let r := s.rget c p.lo
  p.legal = true ∧ 0x01 ≤ p.op ∧ p.op ≤ 0x0E ∧ (0x03 ≤ p.op ∧ p.op ≤ 0x0D → isFix a = true) ∧
  ((p.op = 0x03 ∨ p.op = 0x04 ∨ 0x06 ≤ p.op ∧ p.op ≤ 0x0B) → isFix r = true) ∧
  (p.op = 0x03 → inFix (fixI a + fixI r) = true) ∧ (p.op = 0x04 → inFix (fixI a - fixI r) = true) ∧
  (p.op = 0x05 → inFix (fixI a + p.imm) = true)

/-- Words in a two-ply word: both plies read the registers as before the word and both results are written (R168 to R170); a memory ply
beside a no-operation loads or stores; the two no-operations change nothing; what the word before loaded becomes visible with this word
(R173). -/
def Obligations.TwoPlyWordsAndLoadSlot : Prop :=
  (∀ (c : CoreId) (w : BitVec 32) (s : State) (e : TlbEnt) (a b : Ply), Steady s c e →
    a = Ply.ofNat (w.toNat / 2 ^ 16) → b = Ply.ofNat (w.toNat / 2) → w.toNat % 2 = 0 → badPair a b = false →
    (shortOk s c a → shortOk s c b → Completes (.twoPlyWord c w) s fun u =>
      Passes s u c [a.rd, b.rd] (nextPc s c) ∧ u.rget c a.rd = shortWord a (s.rget c a.rd) (s.rget c a.lo) ∧
      u.rget c b.rd = shortWord b (s.rget c b.rd) (s.rget c b.lo) ∧ u.mem = s.mem ∧ u.regs = s.regs) ∧
    (a.legal = true → b.legal = true → b.op = 0 → ∀ (va pa : Nat),
      (∀ (m : Word) (hit : Prop), LoadFinds s c va pa m → hit = Cached s c va pa m →
        ((a.op = 0x0F ∧ va = pay (s.rget c a.lo) ∨ a.op = 0x10 ∧ va = pay (s.rget c a.lo) + 8) → tagOf (s.rget c a.lo) = tCons →
          malformed (s.rget c a.lo) = false →
          Completes (.twoPlyWord c w) s fun u => Loads s u c (BitVec.ofNat 5 a.rd) m [] hit) ∧
        (a.op = 0x11 → isFix (s.rget c a.lo) = true → rawOk (fixI (s.rget c a.lo)) (fixI (s.rget c a.lo)) →
          (va : Int) = fixI (s.rget c a.lo) →
          Completes (.twoPlyWord c w) s fun u =>
            Loads s u c (BitVec.ofNat 5 a.rd) m [a.lo] hit ∧ u.rget c a.lo = fixW (fixI (s.rget c a.lo) + 8))) ∧
      (a.op = 0x12 → isFix (s.rget c a.lo) = true → rawOk (fixI (s.rget c a.lo)) (fixI (s.rget c a.lo)) →
        (va : Int) = fixI (s.rget c a.lo) → StoreFinds s c va pa → mayStore (s.rget c a.rd) va →
        Completes (.twoPlyWord c w) s fun u =>
          Stores s u c pa (s.rget c a.rd) [a.lo] ∧ u.rget c a.lo = fixW (fixI (s.rget c a.lo) + 8)))) ∧
  (∀ (c : CoreId) (s : State) (e : TlbEnt), Steady s c e →
    Completes (.nopS c) s fun u => Passes s u c [] (nextPc s c) ∧ u.mem = s.mem ∧ u.regs = s.regs) ∧
  (∀ (c : CoreId) (s : State) (e : TlbEnt) (k : Nat) (w : Word), Issues s c e → (s.flow c).pend = [(k, w)] →
    (s.flow c).branch = none → (s.flow c).rep = none → stLdep (s.st c) = 0 →
    Completes (.nopS c) s fun u =>
      u.rf c k = w ∧ (∀ q, q ≠ k → u.rf c q = s.rf c q) ∧ (u.flow c).pend = [] ∧ (u.flow c).pc = nextPc s c ∧ u.mem = s.mem ∧
      u.regs = s.regs)

/-- Stores wait in the context's queue in order and reach memory when they are released (R164, R213 to R215, R275): raw, absolute-short,
into a CONS cell, into a word of an object and into a VEC element; a release writes the eight bytes of the oldest. -/
def Obligations.StoresWaitAndAreReleased : Prop :=
  (∀ (c : CoreId) (ra rb rs : Reg5) (s : State) (e : TlbEnt) (va pa : Nat) (w : Word),
    Steady s c e → named ra → named rb → named rs → StoreFinds s c va pa → w = s.rget c rs.toNat → mayStore w va →
    (∀ ofs : BitVec 14, holdsFix s c ra → rawOk (int s c ra) (int s c ra + ofs.toInt * 8) → (va : Int) = int s c ra + ofs.toInt * 8 →
      Completes (.st c rs ra false ofs) s fun u => Stores s u c pa w []) ∧
    (∀ ofs : BitVec 14, holdsFix s c ra → rawOk (int s c ra) (int s c ra) → (va : Int) = int s c ra →
      Completes (.st c rs ra true ofs) s fun u =>
        Stores s u c pa w [ra.toNat] ∧ u.rget c ra.toNat = fixW (int s c ra + ofs.toInt * 8)) ∧
    (∀ abs : BitVec 20, va = bf (s.core c).me.spec.bank 46 20 * 2 ^ 20 + abs.toNat → va % 8 = 0 →
      Completes (.sta c rs abs) s fun u => Stores s u c pa w []) ∧
    (holdsFix s c ra → rawOk (int s c ra) (int s c ra) → (va : Int) = int s c ra →
      Completes (.stp c rs ra) s fun u => Stores s u c pa w [ra.toNat] ∧ u.rget c ra.toNat = fixW (int s c ra + 8)) ∧
    (holds s c ra tCons →
      (va = pay (s.rget c ra.toNat) → Completes (.setcar c ra rs) s fun u => Stores s u c pa w []) ∧
      (va = pay (s.rget c ra.toNat) + 8 → Completes (.setcdr c ra rs) s fun u => Stores s u c pa w [])) ∧
    (∀ (k : BitVec 14) (h : Word), (tagOf (s.rget c ra.toNat) = tVec ∨ tagOf (s.rget c ra.toNat) = tBox ∨
        tagOf (s.rget c ra.toNat) = tCode) → HeadAt s c (s.rget c ra.toNat) h → 0 < k.toInt → k.toInt ≤ bf h 31 0 →
      (va : Int) = pay (s.rget c ra.toNat) + 8 * k.toInt →
      Completes (.st c rs ra false k) s fun u => Stores s u c pa w []) ∧
    (∀ h : Word, holds s c ra tVec → holdsFix s c rb → HeadAt s c (s.rget c ra.toNat) h →
      0 ≤ int s c rb → int s c rb < bf h 31 0 → va = pay (s.rget c ra.toNat) + 8 * ((int s c rb).toNat + 1) →
      Completes (.vst c rs ra rb) s fun u => Stores s u c pa w [])) ∧
  (∀ (c : CoreId) (j : CtxId) (s : State) (pa : Nat) (w : Word) (rest : List (Nat × Word)), (s.ctx c j).storeQ = (pa, w) :: rest →
    Takes s pa → tagOf (mrdW pa s.mem) ≠ tFwd →
    Completes (.storeRelease c j) s fun u =>
      (u.ctx c j).storeQ = rest ∧ mrdW pa u.mem = w ∧ onlyAt s u pa 8 ∧ (u.core c).rf = (s.core c).rf)

/-- The frame heap of the running context has room: s6 is the aligned address `n` of its own heap inside a chunk that holds `bytes` more
bytes, at physical address `pa` in memory that answers. -/
def Sys2Proof.Claims.HeapRoom (s : State) (c n bytes pa : Nat) : Prop :=
  s.rget c 22 = mkTag 0 n ∧ n < 2 ^ 47 ∧ n % 16 = 0 ∧ n % 65536 ≠ 0 ∧ n % 65536 + bytes ≤ 65536 ∧ frameVa (cluOf c) ≤ n ∧
  n + bytes ≤ frameVa (cluOf c) + s.frameSize (cluOf c) (s.world_ c) ∧ pa = s.framePa (cluOf c) (s.world_ c) n ∧
  ∀ i, i < bytes / 8 → Takes s (pa + 8 * i)

/-- `p` heads a list of the cars `l` that ends in NIL, whose words lie at physical addresses of which `ok` holds. -/
def Sys2Proof.Claims.listAt (s : State) (c : Nat) (ok : Nat → Prop) (p : Word) : List Word → Prop
  | [] => p = nilW
  | x :: l => tagOf p = tCons ∧ malformed p = false ∧ (∃ pa, Cached s c (pay p) pa x ∧ ok pa) ∧
      ∃ d, (∃ pa, Cached s c (pay p + 8) pa d ∧ ok pa) ∧ Sys2Proof.Claims.listAt s c ok d l

/-- The routine stands at a safe point of its word, and goes on when the word issues again: no register, special register or byte of memory has
changed (R416). -/
def Sys2Proof.Claims.Stands (s u : State) (c : Nat) : Prop :=
  (u.flow c).run.isSome = true ∧ (u.flow c).pc = (s.flow c).pc ∧ (u.core c).rf = (s.core c).rf ∧
  (u.core c).me.spec = (s.core c).me.spec ∧ u.mem = s.mem ∧ SameRegs (· = oUcs 0x100) s u

/-- The pairs of an alist and the key of each. -/
def Sys2Proof.Claims.pairsAt (s : State) (c : Nat) (p : Word) (l : List Word) (key : Word → Word) : Prop :=
  listAt s c (fun _ => True) p l ∧ l.length ≤ maxCells ∧
  ∀ x ∈ l, tagOf x = tCons ∧ malformed x = false ∧ ReadsAs s c (pay x) (key x)

/-- The bucket of a key in a hash table: the table's header, the bucket's address and its word (R218). -/
def Sys2Proof.Claims.bucketAt (s : State) (c : Nat) (t key : Word) (va : Nat) (w : Word) : Prop :=
  tagOf t = tVec ∧ malformed t = false ∧ ∃ h, ReadsAs s c (pay t) h ∧ headerOk tVec h = true ∧ bf h 31 0 ≠ 0 ∧
    va = pay t + 8 * (bucketOf key (bf h 31 0) + 1) ∧ ReadsAs s c va w

/-- The L2 holds every word of `bytes` at `pa`. -/
def Sys2Proof.Claims.AllInL2 (s : State) (k pa bytes : Nat) : Prop := ∀ i, i < bytes / 8 → InL2 s k (pa + 8 * i)

/-- List and table routines (R217, R218, R416, Table 6.6): LLEN counts cells, ASSOC and HLOOK find the first pair of a key or answer NIL,
CPYL copies the spine into new cells, HSET puts a new cell in front of its bucket, or a new value into the pair that it finds. A walk that
has more cells before it than a stretch between two safe points stands there, and an end of a list that is no NIL ends an alist (log
entries 27 and 76). -/
def Obligations.ListAndTableRoutines : Prop :=
  ∀ (c : CoreId) (rd ra rb : Reg5) (s : State) (e : TlbEnt) (a b : Word), Steady s c e → named rd → named ra → named rb →
    a = s.rget c ra.toNat → b = s.rget c rb.toNat →
    (∀ l : List Word, listAt s c (fun _ => True) a l → l.length ≤ maxCells →
      (l.length ≤ stretch → Completes (.llen c rd ra) s fun u => Answers s u c rd (mkTag 0 l.length)) ∧
      (stretch < l.length → Completes (.llen c rd ra) s fun u => Stands s u c)) ∧
    (∀ (l : List Word) (key : Word → Word), pairsAt s c a l key → srcCause anyTag b = none →
      ((l.takeWhile fun x => key x != b).length < stretch ∨ l.length ≤ stretch →
        Completes (.assoc c rd ra rb) s fun u => Answers s u c rd ((l.find? fun x => key x == b).getD nilW)) ∧
      (stretch ≤ (l.takeWhile fun x => key x != b).length → stretch < l.length →
        Completes (.assoc c rd ra rb) s fun u => Stands s u c)) ∧
    (∀ (va : Nat) (w : Word) (l : List Word) (key : Word → Word), bucketAt s c a b va w → pairsAt s c w l key →
      srcCause anyTag b = none → l.length ≤ stretch →
      Completes (.hlook c rd ra rb) s fun u => Answers s u c rd ((l.find? fun x => key x == b).getD nilW)) ∧
    (∀ h : Word, tagOf a = tVec → HeadAt s c a h → bf h 31 0 = 0 → srcCause anyTag b = none →
      Completes (.hlook c rd ra rb) s fun u => Answers s u c rd nilW) ∧
    (∀ (l : List Word) (n pa : Nat), listAt s c (fun q => q + 8 ≤ pa ∨ pa + 16 * l.length ≤ q) a l → l.length ≤ stretch → HeapRoom s c n (16 * l.length) pa →
      AllInL2 s (cluOf c) pa (16 * l.length) →
      Completes (.cpyl c rd ra) s fun u =>
        Passes s u c [rd.toNat, 22] (nextPc s c) ∧ u.rget c rd.toNat = (if l = [] then nilW else mkTag tCons n) ∧
        (rd.toNat ≠ 22 → u.rget c 22 = mkTag 0 (n + 16 * l.length)) ∧ onlyAt s u pa (16 * l.length) ∧
        ∀ i, i < l.length → mrdW (pa + 16 * i) u.mem = l.getD i 0 ∧
          mrdW (pa + 16 * i + 8) u.mem = if i + 1 = l.length then nilW else mkTag tCons (n + 16 * (i + 1))) ∧
    (∀ (va pb : Nat) (key w : Word), tagOf b = tCons → malformed b = false → ReadsAs s c (pay b) key → bucketAt s c a key va w →
      srcCause isConsNil w = none →
      (∀ n pa : Nat, StoreFinds s c va pb → isHoldVa va = false → HeapRoom s c n 16 pa → (pb + 8 ≤ pa ∨ pa + 16 ≤ pb) →
        Completes (.hset c rd ra rb 0) s fun u =>
          Passes s u c [rd.toNat, 22] (nextPc s c) ∧ u.rget c rd.toNat = b ∧ (u.core c).me.storeQ = [(pb, mkTag tCons n)] ∧
          mrdW pa u.mem = b ∧ mrdW (pa + 8) u.mem = w ∧ onlyAt s u pa 16) ∧
      (∀ (l : List Word) (keyOf : Word → Word) (x v : Word), pairsAt s c w l keyOf → l.length ≤ stretch →
        l.find? (fun y => keyOf y == key) = some x → ReadsAs s c (pay b + 8) v → mayStore v (pay x + 8) →
        StoreFinds s c (pay x + 8) pb →
        Completes (.hset c rd ra rb 1) s fun u =>
          Passes s u c [rd.toNat] (nextPc s c) ∧ u.rget c rd.toNat = x ∧ (u.core c).me.storeQ = [(pb, v)] ∧ u.mem = s.mem))

/-- The L2 of a cluster holds the metadata word at offset `o` of a world's hold heap, in memory that takes it. -/
def Sys2Proof.Claims.MetaHere (s : State) (w k o : Nat) : Prop := InL2 s k (s.holdPa w o) ∧ Takes s (s.holdPa w o)

/-- The open block of a cluster in a world's hold heap has room for `bytes` at its offset `o`, and the L2 holds its metadata (R151). -/
def Sys2Proof.Claims.OpenBlock (s : State) (w k blk o bytes : Nat) : Prop :=
  s.holdBlocks w ≠ 0 ∧ bf (s.metaW w (0x100 + k * 8)) 43 25 = blk ∧ bf (s.metaW w (0x100 + k * 8)) 24 0 = o ∧ blk ≠ 0 ∧
  bf (s.metaW w (blockOff blk)) 55 52 = 1 ∧ o + bytes < 2 ^ 25 ∧ MetaHere s w k (0x100 + k * 8) ∧ MetaHere s w k (blockOff blk)

/-- Every byte outside the open word and the block word of the metadata and `n` bytes at offset `o` of the hold heap is as before. -/
def Sys2Proof.Claims.holdOnly (s u : State) (w k blk o n : Nat) : Prop :=
  ∀ x, (x < s.holdPa w (0x100 + k * 8) ∨ s.holdPa w (0x100 + k * 8) + 8 ≤ x) →
    (x < s.holdPa w (blockOff blk) ∨ s.holdPa w (blockOff blk) + 8 ≤ x) →
    (x < s.holdPa w o ∨ s.holdPa w o + n ≤ x) → mrd x u.mem = mrd x s.mem

/-- World `w` has one block of hold heap, and no root: its root table is empty, no register of a core holds an object pointer, no window
of it is spilled. -/
def Sys2Proof.Claims.NoRoots (s : State) (w : Nat) : Prop :=
  s.holdBlocks w = 1 ∧ bf (s.metaW w 0x18) 55 0 = 0 ∧ (∀ d, d < 512 → ∀ k, isObject (tagOf (s.rf d k)) = false) ∧
  ∀ d, d < 512 → ∀ j, j < 4 → bf (s.reg (oSpill d j w)) 63 48 = 0

/-- Allocation (R146 to R148, R216): CONS makes a cell of its two sources at s6, ALLOCV a VEC with its header alone; the pointer goes to `rd`
and s6 goes up by the size, a multiple of 16. The hold heap (R150 to R153, R205, R219): HALLOC takes an object from the cluster's open
block, a VEC with its header or a CONS, and answers NIL for a size that is none; HGC asks for a collection cycle and answers the EPOCH; a
cycle that finds no root ends with EPOCH advanced, and its request with it, or stays running at the cast-on that comes first, which the
model leaves open (log entry 28). -/
def Obligations.HeapsAllocateAndCollect : Prop :=
  (∀ (c : CoreId) (rd ra rb : Reg5) (s : State) (e : TlbEnt) (n pa : Nat), Steady s c e → named rd → named ra → named rb →
      (∀ a b : Word, a = s.rget c ra.toNat → b = s.rget c rb.toNat → srcCause notFwd a = none → srcCause notFwd b = none →
        HeapRoom s c n 16 pa →
        Completes (.cons c rd ra rb) s fun u =>
          Passes s u c [rd.toNat, 22] (nextPc s c) ∧ u.rget c rd.toNat = mkTag tCons n ∧
          (rd.toNat ≠ 22 → u.rget c 22 = mkTag 0 (n + 16)) ∧ mrdW pa u.mem = a ∧ mrdW (pa + 8) u.mem = b ∧ onlyAt s u pa 16) ∧
      (∀ k : Nat, holdsFix s c ra → int s c ra = k → HeapRoom s c n ((k + 2) / 2 * 16) pa →
        Completes (.allocv c rd ra) s fun u =>
          Passes s u c [rd.toNat, 22] (nextPc s c) ∧ u.rget c rd.toNat = mkTag tVec n ∧
          (rd.toNat ≠ 22 → u.rget c 22 = mkTag 0 (n + (k + 2) / 2 * 16)) ∧ mrdW pa u.mem = mkTag 0 (2 ^ 52 + k) ∧ onlyAt s u pa 8)) ∧
  ((∀ (c : CoreId) (rd ra : Reg5) (s : State) (e : TlbEnt) (w k blk o : Nat), Steady s c e → named rd → named ra →
      w = s.world_ c → k = cluOf c → stProv (s.st c) = 0 → (s.core c).me.storeQ = [] →
      (OpenBlock s w k blk o 16 →
        Completes (.halloc c rd ra 1) s fun u =>
          Passes s u c [rd.toNat] (nextPc s c) ∧ u.rget c rd.toNat = mkTag tCons (0x500000000000 + blk * 2 ^ 25 + o) ∧
          u.metaW w (0x100 + k * 8) = mkTag 0 (blk * 2 ^ 25 + o + 16) ∧ holdOnly s u w k blk 0 0) ∧
      (∀ n : Nat, holdsFix s c ra → int s c ra = n → n ≤ 4194303 → OpenBlock s w k blk o ((n + 2) / 2 * 16) →
        Takes s (s.holdPa w (blk * 2 ^ 25 + o)) →
        Completes (.halloc c rd ra 0) s fun u =>
          Passes s u c [rd.toNat] (nextPc s c) ∧ u.rget c rd.toNat = mkTag tVec (0x500000000000 + blk * 2 ^ 25 + o) ∧
          mrdW (s.holdPa w (blk * 2 ^ 25 + o)) u.mem = mkTag 0 (2 ^ 52 + n) ∧
          holdOnly s u w k blk (blk * 2 ^ 25 + o) 8) ∧
      (holdsFix s c ra → (int s c ra < 0 ∨ 4194303 < int s c ra) →
        Completes (.halloc c rd ra 0) s fun u => Answers s u c rd nilW)) ∧
    (∀ (c : CoreId) (rd : Reg5) (s : State) (e : TlbEnt), Steady s c e → named rd → s.sup c = true → s.haOn 4 0 = false →
      s.holdBlocks (s.world_ c) ≠ 0 → InL2 s (cluOf c) (s.holdPa (s.world_ c) 0x10) →
      Completes (.hgc c rd) s fun u =>
        Answers s u c rd (mkTag 0 (bf (s.metaW (s.world_ c) 0x10) 55 0)) ∧
        sget 0 (s.world_ c) u.gc = c.val * 4 + (s.core c).cur + 1) ∧
    (∀ (t : Time) (c : CoreId) (j : CtxId) (s : State) (w : Nat), (w = 0 ∨ w = 1 ∧ sget 0 0 s.gc ≠ c.val * 4 + j.val + 1) →
      sget 0 w s.gc = c.val * 4 + j.val + 1 → (s.at t).inGap = true → s.haOn 4 0 = false → NoRoots s w → s.ctxFree c = true →
      (∀ o, o ∈ [0x10, 0x18, 0x20, 0x28] → MetaHere s w (cluOf c) o) →
      Completes (.collectionCycle t c j) s fun u =>
        (sget 0 w u.gc = 0 ∧ u.metaW w 0x20 = 0 ∧ u.metaW w 0x10 = fixN (bf (s.metaW w 0x10) 55 0 + 1)) ∨
          (u.gc = s.gc ∧ u.metaW w 0x20 = mkTag 0 1 ∧ u.metaW w 0x10 = s.metaW w 0x10)))

/-- The word transfers control to `pc` and changes nothing else but cycles. -/
def Sys2Proof.Claims.Goes (s u : State) (c pc : Nat) : Prop :=
  Passes s u c [] pc ∧ u.mem = s.mem ∧ u.regs = s.regs ∧ (u.core c).me.base = (s.core c).me.base ∧
  (u.core c).me.shadow = (s.core c).me.shadow

/-- Conditions of BC (Table 5.10). -/
def Sys2Proof.Claims.condTrue (cond : Nat) (w : Word) : Bool :=
  match cond with
  | 0 => tagOf w == tNil
  | 1 => tagOf w != tNil
  | 2 => fixI w == 0
  | 3 => fixI w != 0
  | 4 => decide (fixI w < 0)
  | 5 => decide (0 ≤ fixI w)
  | 6 => decide (0 < fixI w)
  | 7 => decide (fixI w ≤ 0)
  | 8 => tagOf w == tCons
  | _ => tagOf w != tCons

/-- Address `n` words from the running word, modulo 2^47 (R184). -/
def Sys2Proof.Claims.wordsOn (s : State) (c : Nat) (n : Int) : Nat := (((s.flow c).pc : Int) + 4 * n).emod (2 ^ 47) |>.toNat

/-- Resume flags that a branch or a repetition would resume with (Table 5.9). -/
def Sys2Proof.Claims.plainFlags (s : State) (c : Nat) : Nat := (s.flow c).flags false false

/-- Branches (R184 to R188): B and J go to their target, BC by its condition; the .S forms run one word first, after which the target is
reached. -/
def Obligations.BranchesAndTheirSlots : Prop :=
  (∀ (c : CoreId) (rt : Reg5) (cond : BitVec 4) (ofs : BitVec 25) (near : BitVec 16) (s : State) (e : TlbEnt) (w : Word) (h : Bool),
    Steady s c e → named rt → (s.flow c).pc % 4 = 0 → w = s.rget c rt.toNat → h = condTrue cond.toNat w →
    (Completes (.b c ofs) s fun u => Goes s u c (wordsOn s c ofs.toInt)) ∧
    (SlotFree s c → Completes (.bS c ofs) s fun u => Goes s u c (nextPc s c) ∧
      (u.flow c).branch = some { pc := (s.flow c).pc, target := some (wordsOn s c ofs.toInt), call := false, flags := plainFlags s c }) ∧
    (cond.toNat < 10 → readCause w = none → (2 ≤ cond.toNat → cond.toNat ≤ 7 → tagOf w = tFix) →
      (Completes (.bc c rt cond near) s fun u => Goes s u c (if h then wordsOn s c near.toInt else nextPc s c)) ∧
      (SlotFree s c → Completes (.bcS c rt cond near) s fun u => Goes s u c (nextPc s c) ∧
        (u.flow c).branch = some { pc := (s.flow c).pc, target := if h then some (wordsOn s c near.toInt) else none, call := false,
                                   flags := plainFlags s c })) ∧
    (tagOf w = tFix → bf w 46 0 % 4 = 0 → Completes (.j c rt) s fun u => Goes s u c (bf w 46 0))) ∧
  (∀ (c : CoreId) (s : State) (e : TlbEnt) (b : BranchSt), Issues s c e → (s.flow c).pend = [] → (s.flow c).rep = none →
    stLdep (s.st c) = 0 → (s.core c).me.mult = [] → (s.flow c).branch = some b → b.call = false →
    Completes (.nopS c) s fun u => Goes s u c (b.target.getD ((b.pc + 8) % 2 ^ 47)) ∧ (u.flow c).branch = none)

/-- The window of a call moves on by one group, LR holds the return address, the shadow stack the entry `w`, and the next word is at
`pc`; registers keep their values. -/
def Sys2Proof.Claims.Called (s u : State) (c pc ra : Nat) (w : Word) : Prop :=
  (u.flow c).pc = pc ∧ (u.core c).me.base = ((s.core c).me.base + 1) % 9 ∧ (u.core c).me.shadow = w :: (s.core c).me.shadow ∧
  (u.core c).me.spec.lr = mkTag 0 ra ∧ stWres (u.core c).me.spec.st = stWres (s.core c).me.spec.st + 1 ∧ u.mem = s.mem ∧
  (u.core c).cur = (s.core c).cur

/-- A call may be made: fewer than 8 windows are resident and the on-core shadow stack has room. -/
def Sys2Proof.Claims.MayCall (s : State) (c : Nat) : Prop :=
  stWres (s.core c).me.spec.st < 8 ∧ (s.core c).me.shadow.length < 32

/-- A return by shadow entry `top` of kind `kind` may be made: its window is resident. -/
def Sys2Proof.Claims.MayReturn (s : State) (c kind : Nat) (top : Word) (rest : List Word) : Prop :=
  (s.core c).me.shadow = top :: rest ∧ bf top 55 54 = kind ∧ bf top 46 0 % 4 = 0 ∧
  (stWres (s.core c).me.spec.st = 1 → (s.core c).me.spillW = [])

/-- The window moves back by one group and the shadow entry is gone. -/
def Sys2Proof.Claims.Returned (s u : State) (c pc : Nat) (rest : List Word) : Prop :=
  (u.flow c).pc = pc ∧ (u.core c).me.base = ((s.core c).me.base + 8) % 9 ∧ (u.core c).me.shadow = rest ∧
  stWres (u.core c).me.spec.st = max 1 (stWres (s.core c).me.spec.st - 1) ∧ (u.core c).rf = (s.core c).rf ∧ u.mem = s.mem ∧
  u.regs = s.regs ∧ (u.core c).me.spec.lr = (s.core c).me.spec.lr

/-- The entry `g` that WCALL `imm` names in the other world's table (Table 7.9). -/
def Sys2Proof.Claims.worldEntry (s : State) (c imm : Nat) (g : Word) : Prop :=
  let went := s.reg (oClu (cluOf c) (0x2028 + (1 - s.world_ c) * 8))
  let a := bf went 45 3 * 8 + imm * 8
  imm < bf went 63 48 ∧ InL2 s (cluOf c) a ∧ g = mrdW a s.mem ∧ tagOf g = tFix ∧ bf g 55 55 = 1 ∧ bf g 53 47 = 0 ∧
  stProv (s.st c) = 0 ∧ bf g 46 0 % 4 = 0

/-- Calls and returns (R179, R184, R188, R258 to R263): CALL, CALL.S at its slot, CALLR with the environment in r6 of the new window,
RET to LR against the shadow entry, WCALL into the other world and WRET back. -/
def Obligations.CallsAndReturns : Prop :=
  (∀ (c : CoreId) (ofs : BitVec 25) (ra : Reg5) (imm : BitVec 15) (s : State) (e : TlbEnt), Steady s c e → named ra →
    (s.flow c).pc % 4 = 0 → MayCall s c →
    (Completes (.call c ofs) s fun u =>
      Called s u c (wordsOn s c ofs.toInt) (nextPc s c) (shadowW 0 0 0 (nextPc s c)) ∧ (u.core c).rf = (s.core c).rf ∧
        u.regs = s.regs) ∧
    (SlotFree s c → Completes (.callS c ofs) s fun u => Goes s u c (nextPc s c) ∧
      (u.flow c).branch = some { pc := (s.flow c).pc, target := some (wordsOn s c ofs.toInt), call := true, flags := plainFlags s c }) ∧
    (∀ h entry env : Word, holds s c ra tCode → HeadAt s c (s.rget c ra.toNat) h →
      ReadsAs s c (pay (s.rget c ra.toNat) + 8) entry → ReadsAs s c (pay (s.rget c ra.toNat) + 16) env → bf entry 46 0 % 4 = 0 →
      Completes (.callr c ra) s fun u =>
        Called s u c (bf entry 46 0) (nextPc s c) (shadowW 0 0 0 (nextPc s c)) ∧ u.rget c 6 = env) ∧
    (∀ g : Word, worldEntry s c imm.toNat g →
      Completes (.wcall c imm) s fun u =>
        Called s u c (bf g 46 0) 0 (shadowW 1 (stSup (s.st c)) (s.world_ c) (nextPc s c)) ∧
        stWorld (u.core c).me.spec.st = 1 - s.world_ c ∧ stSup (u.core c).me.spec.st = bf g 54 54 ∧
        (u.core c).rf = (s.core c).rf ∧ u.regs = s.regs)) ∧
  (∀ (c : CoreId) (s : State) (e : TlbEnt) (b : BranchSt) (t : Nat), Issues s c e → (s.flow c).pend = [] → (s.flow c).rep = none →
    stLdep (s.st c) = 0 → (s.core c).me.mult = [] → (s.flow c).branch = some b → b.call = true → b.target = some t → MayCall s c →
    Completes (.nopS c) s fun u =>
      Called s u c t ((b.pc + 8) % 2 ^ 47) (shadowW 0 0 0 ((b.pc + 8) % 2 ^ 47)) ∧ (u.core c).rf = (s.core c).rf ∧ u.regs = s.regs) ∧
  (∀ (c : CoreId) (s : State) (e : TlbEnt) (top : Word) (rest : List Word), Steady s c e →
    (MayReturn s c 0 top rest → bf top 46 0 = bf (s.core c).me.spec.lr 46 0 →
      Completes (.ret c) s fun u => Returned s u c (bf top 46 0) rest) ∧
    (MayReturn s c 1 top rest →
      Completes (.wret c) s fun u => Returned s u c (bf top 46 0) rest ∧
        stSup (u.core c).me.spec.st = bf top 53 53 ∧ stWorld (u.core c).me.spec.st = bf top 52 52))

/-- Hardware loops and repetition (R190 to R197): a loop holds first word, length and count; its last word goes round while the count is
above 1 and else ends it; count 0 jumps over the body; LBRK leaves one level; REP runs the next word as often as RC says. -/
def Obligations.LoopsAndRepetition : Prop :=
  (∀ (c : CoreId) (ra : Reg5) (count : BitVec 10) (n : BitVec 9) (many : BitVec 15) (s : State) (e : TlbEnt) (p : SpecSt),
    Steady s c e → named ra → p = (s.core c).me.spec →
    (∀ (i : Instr) (k : Nat), (i = .loopi c count n ∧ k = count.toNat ∨
        i = .loopr c ra n ∧ holdsFix s c ra ∧ int s c ra = k ∧ k < 2 ^ 28) →
      (k = 0 → Completes i s fun u => Goes s u c (((s.flow c).pc + 4 * (n.toNat + 1) + 4) % 2 ^ 47)) ∧
      (k ≠ 0 → Completes i s fun u =>
        (u.flow c).pc = nextPc s c ∧ stLdep (u.st c) = 1 ∧ bf (u.spec c).lb0 46 0 = nextPc s c ∧ bf (u.spec c).lb0 55 47 = n.toNat ∧
        bf (u.spec c).lc 27 0 = k ∧ (u.spec c).lb1 = p.lb0 ∧ bf (u.spec c).lc 55 28 = bf p.lc 27 0 ∧
        (u.core c).rf = (s.core c).rf ∧ u.mem = s.mem ∧ u.regs = s.regs)) ∧
    (∀ (i : Instr) (k : Nat), (i = .repi c many ∧ k = many.toNat ∨
        i = .repr c ra ∧ holdsFix s c ra ∧ int s c ra = k ∧ k < 2 ^ 28) → SlotFree s c →
      Completes i s fun u =>
        (u.flow c).pc = nextPc s c ∧ (u.spec c) = { p with rc := mkTag 0 k } ∧
        (u.flow c).rep = some { pc := (s.flow c).pc, old := p.rc, started := false, flags := plainFlags s c } ∧ (u.core c).rf = (s.core c).rf ∧
        u.mem = s.mem ∧ u.regs = s.regs)) ∧
  (∀ (c : CoreId) (s : State) (e : TlbEnt) (p : SpecSt), Issues s c e → (s.flow c).pend = [] → (s.flow c).branch = none →
    (s.core c).me.mult = [] → p = (s.core c).me.spec →
    ((s.flow c).rep = none → 1 ≤ stLdep (s.st c) → stLdep (s.st c) ≤ 2 → s.isLast c (s.flow c).pc = false →
      Completes (.lbrk c) s fun u =>
        (u.flow c).pc = nextPc s c ∧ stLdep (u.st c) = stLdep (s.st c) - 1 ∧ (u.spec c).lb0 = p.lb1 ∧ (u.spec c).lb1 = 0 ∧
        bf (u.spec c).lc 27 0 = bf p.lc 55 28 ∧ (u.core c).rf = (s.core c).rf ∧ u.mem = s.mem ∧ u.regs = s.regs) ∧
    ((s.flow c).rep = none → stLdep (s.st c) = 1 → (s.flow c).pc = bf p.lb0 46 0 + bf p.lb0 55 47 * 4 →
      (1 < bf p.lc 27 0 → Completes (.nopS c) s fun u =>
        (u.flow c).pc = bf p.lb0 46 0 ∧ bf (u.spec c).lc 27 0 = bf p.lc 27 0 - 1 ∧ stLdep (u.st c) = 1 ∧ u.mem = s.mem) ∧
      (bf p.lc 27 0 ≤ 1 → Completes (.nopS c) s fun u =>
        (u.flow c).pc = nextPc s c ∧ stLdep (u.st c) = 0 ∧ (u.spec c).lb0 = p.lb1 ∧ u.mem = s.mem)) ∧
    (∀ r : RepSt, (s.flow c).rep = some r → stLdep (s.st c) = 0 → r.started = true →
      (1 < bf p.rc 27 0 → Completes (.nopS c) s fun u =>
        (u.flow c).pc = (s.flow c).pc ∧ bf (u.spec c).rc 27 0 = bf p.rc 27 0 - 1 ∧ (u.flow c).rep = some r ∧ u.mem = s.mem) ∧
      (bf p.rc 27 0 = 1 → Completes (.nopS c) s fun u =>
        (u.flow c).pc = nextPc s c ∧ bf (u.spec c).rc 27 0 = 0 ∧ (u.flow c).rep = none ∧ u.mem = s.mem)))

/-- A word that faults in a supervisor context may enter its handler: neither held nor at the first word of a handler. -/
def Sys2Proof.Claims.FaultReady (s : State) (c n : Nat) (e ef : TlbEnt) : Prop :=
  Steady s c ef ∧ entryReady s c n e ∧ stHeld (s.core c).me.spec.st = 0 ∧ (s.flow c).first = false

/-- The entry frame of the running handler, read back through entry `e` of the data TLB: saved ST, EPC and ESR. -/
def Sys2Proof.Claims.frameAt (s : State) (c n : Nat) (e : TlbEnt) (i : Nat) (w : Word) : Prop :=
  (s.core c).dtlb.find? (fun a => a.hits (stWorld (s.core c).me.spec.st) (n + 8 * i)) = some e ∧
  (e.pa + (n + 8 * i - e.va)) % 2 ^ 46 < 0x100000000000 ∧
  l1Has ((e.pa + (n + 8 * i - e.va)) % 2 ^ 46 / 64) (s.core c).l1d = true ∧ w = mrdW ((e.pa + (n + 8 * i - e.va)) % 2 ^ 46) s.mem

/-- Exceptions of words and the return from them (R166, R167, R203, R204, R221, R243 to R247): SYS enters class 0x0E with the word after
it as EPC; an illegal word or register specifier, an operand of a wrong tag and an UNINIT operand enter 0x06 and 0x0A at the word
itself; ERET restores ST, EPC and ESR from the frame and gives the frame back. -/
def Obligations.ExceptionsAndTheirReturn : Prop :=
  (∀ (c : CoreId) (imm : BitVec 15) (w : BitVec 32) (rd ra rb : Reg5) (s : State) (n : Nat) (e ef : TlbEnt), FaultReady s c n e ef →
    (Completes (.sys c imm) s fun u => entered s u c n e 0x0E 0 (nextPc s c) ∧ bf (u.core c).me.spec.esr 33 0 = imm.toNat) ∧
    (definedWord c w = false → Completes (.illegalInstruction c w) s fun u => entered s u c n e 0x06 0 (s.flow c).pc) ∧
    (¬ named rd → Completes (.andR c rd ra rb) s fun u => entered s u c n e 0x06 0 (s.flow c).pc) ∧
    (named rd → named ra → named rb → tagOf (s.rget c ra.toNat) = tUninit →
      Completes (.andR c rd ra rb) s fun u => entered s u c n e 0x0A 1 (s.flow c).pc) ∧
    (named rd → named ra → named rb → tagOf (s.rget c ra.toNat) = tSym →
      Completes (.andR c rd ra rb) s fun u => entered s u c n e 0x0A 3 (s.flow c).pc)) ∧
  (∀ (c : CoreId) (s : State) (n : Nat) (e ef : TlbEnt) (y : CtxSt) (saved epc esr : Word), Steady s c ef → y = (s.core c).me →
    stSup y.spec.st = 1 → y.storeQ = [] → (s.core c).blocked = none → (s.core c).cur < 4 → s.rf c (globKey (s.core c).cur (stWorld y.spec.st) 7) = mkTag 0 n →
    n % 8 = 0 → n + 32 < 2 ^ 47 → frameAt s c n e 0 saved → frameAt s c n e 1 epc → frameAt s c n e 2 esr →
    forgery y.spec.st saved = none → y.spec.epc ≠ 0 → bf y.spec.epc 46 0 % 4 = 0 →
    Completes (.eret c) s fun u =>
      (u.core c).me.spec = { y.spec with st := saved, epc := epc, esr := esr } ∧ (u.core c).me.level = y.level - 1 ∧
      (u.core c).me.flow.pc = bf y.spec.epc 46 0 ∧ u.mem = s.mem ∧
      (stSup saved = 1 → u.rf c (globKey (s.core c).cur (stWorld y.spec.st) 7) = mkTag 0 (n + 32) ∧ u.regs = s.regs) ∧
      (stSup saved = 0 → u.field (oSsp c (s.core c).cur (stWorld y.spec.st)) 46 3 = (n + 32) / 8 ∧
        u.rf c (globKey (s.core c).cur (stWorld y.spec.st) 7) =
          mkTag 0 (s.field (oSsp c (s.core c).cur (stWorld y.spec.st)) 46 3 * 8)))

/-- Special registers that a word reads, by number (Table 5.7): TICK is the core's count of cycles. -/
def Sys2Proof.Claims.specials (s : State) (c : Nat) : List (Nat × Word) :=
  let p := (s.core c).me.spec
  [(0, p.lr), (1, p.bank), (2, p.lc), (3, p.rc), (4, p.st), (5, p.epc), (6, p.esr), (7, p.mrh), (8, p.mrl),
   (9, mkTag 0 (s.tick c)), (10, p.lb0), (11, p.lb1)]

/-- What MTS of a FIX word leaves in the special registers, ST apart (Table 5.7). -/
def Sys2Proof.Claims.specWritten (p : SpecSt) (n : Nat) (w : Word) : SpecSt :=
  match n with
  | 0 => { p with lr := mkTag 0 (bf w 46 0) }
  | 1 => { p with bank := mkTag 0 (bf w 46 20 * 2 ^ 20) }
  | 2 => { p with lc := mkTag 0 (pay w) }
  | 3 => { p with rc := mkTag 0 (bf w 27 0) }
  | 5 => { p with epc := mkTag 0 (bf w 46 0) }
  | 6 => { p with esr := mkTag 0 (pay w) }
  | 7 => { p with mrh := w }
  | 8 => { p with mrl := w }
  | 10 => { p with lb0 := mkTag 0 (pay w) }
  | 11 => { p with lb1 := mkTag 0 (pay w) }
  | _ => p

/-- A level and core that may use special register `n`: EPC, ESR (and ST for a write) at supervisor level, MRH and MRL on a fit core. -/
def Sys2Proof.Claims.mayUse (s : State) (c n : Nat) : Prop :=
  (n = 5 ∨ n = 6 → s.sup c = true) ∧ (n = 7 ∨ n = 8 → isFit c = true)

/-- The 112 bits of an integer on their way to MRH and MRL, since the TICK at which the operation issued. -/
def Sys2Proof.Claims.inFlight (s u : State) (c : Nat) (i : Int) : Prop :=
  (u.core c).me.mult =
    [(s.tick c, mkTag 0 (lowBits 112 i / 2 ^ 56), mkTag 0 (lowBits 112 i % 2 ^ 56))]

/-- Special registers and the multiplier (R175 to R178, R181, R198): MFS reads each, MTS writes all but TICK, ST in SUP, IE and LDEP
only; XMUL and XFMA of FIX words give 112 bits that reach MRH and MRL four cycles later. -/
def Obligations.SpecialRegistersAndMultiplier : Prop :=
  (∀ (c : CoreId) (rd ra rb : Reg5) (spec : BitVec 5) (s : State) (e : TlbEnt), Steady s c e → named rd → named ra → named rb →
    mayUse s c spec.toNat →
    (∀ x ∈ specials s c, x.1 = spec.toNat → Completes (.mfs c rd spec) s fun u => Steps s u c rd x.2) ∧
    (holdsFix s c ra → spec.toNat < 12 → spec.toNat ≠ 4 → spec.toNat ≠ 9 →
      Completes (.mts c spec ra) s fun u =>
        (u.core c).me.spec = specWritten (s.core c).me.spec spec.toNat (s.rget c ra.toNat) ∧ (u.flow c).pc = nextPc s c ∧
        (u.core c).rf = (s.core c).rf ∧ u.mem = s.mem ∧ u.regs = s.regs) ∧
    (holdsFix s c ra → s.sup c = true → bf (s.rget c ra.toNat) 26 25 = 0 →
      Completes (.mts c 4 ra) s fun u =>
        stSup (u.st c) = bf (s.rget c ra.toNat) 31 31 ∧ stIe (u.st c) = bf (s.rget c ra.toNat) 29 29 ∧ stLdep (u.st c) = 0 ∧
        stWorld (u.st c) = stWorld (s.st c) ∧ stProv (u.st c) = stProv (s.st c) ∧ stHeld (u.st c) = stHeld (s.st c) ∧
        stWres (u.st c) = stWres (s.st c) ∧ (u.flow c).pc = nextPc s c ∧ (u.core c).rf = (s.core c).rf ∧ u.mem = s.mem ∧
        u.regs = s.regs) ∧
    (isFit c = true → holdsFix s c ra → holdsFix s c rb →
      (Completes (.xmul c ra rb) s fun u =>
        Passes s u c [] (nextPc s c) ∧ inFlight s u c (int s c ra * int s c rb) ∧ u.mem = s.mem ∧ u.regs = s.regs) ∧
      (isFix (s.core c).me.spec.mrh = true → isFix (s.core c).me.spec.mrl = true →
        Completes (.xfma c ra rb) s fun u =>
          Passes s u c [] (nextPc s c) ∧
          inFlight s u c (int s c ra * int s c rb +
            sx 112 (pay (s.core c).me.spec.mrh * 2 ^ 56 + pay (s.core c).me.spec.mrl)) ∧ u.mem = s.mem ∧ u.regs = s.regs))) ∧
  (∀ (c : CoreId) (s : State) (e : TlbEnt) (was : Nat) (h l : Word), Issues s c e → (s.flow c).pend = [] → (s.flow c).branch = none →
    (s.flow c).rep = none → stLdep (s.st c) = 0 → (s.core c).me.mult = [(was, h, l)] → 4 ≤ s.since c was →
    Completes (.nopS c) s fun u =>
      (u.core c).me.spec = { (s.core c).me.spec with mrh := h, mrl := l } ∧ (u.core c).me.mult = [] ∧ u.mem = s.mem)

/-- Entries of every TLB of the device that `p` chooses are gone, but for locked ones of the cluster TLBs and those of cores in reset, which hold
none. -/
def Sys2Proof.Claims.Invalidated (s u : State) (p : TlbEnt → Bool) : Prop :=
  (∀ d, d < 512 → (s.core d).up = true → (u.core d).itlb = (s.core d).itlb.filter (fun a => !p a) ∧
    (u.core d).dtlb = (s.core d).dtlb.filter (fun a => !p a)) ∧
  ∀ k, k < 32 → (u.clu k).tlb = (s.clu k).tlb.filter (fun a => a.2.locked || !p a.2)

/-- Ordering and the TLBs (R222 to R224, R310 to R313): FENCE empties the store queue into memory, DSYNC takes the active decode table,
TLBI drops the entries of an address, a world or all, TLBLK and TLBUL lock and unlock, a walk fills both TLBs, a fill brings a line. -/
def Obligations.OrderingAndTlbs : Prop :=
  (∀ (c : CoreId) (ra : Reg5) (s : State) (e : TlbEnt) (w : Word) (k : Nat), Steady s c e → named ra → w = s.rget c ra.toNat → k = cluOf c →
    (∀ (pa : Nat) (v : Word), (s.core c).me.storeQ = [(pa, v)] → Takes s pa → tagOf (mrdW pa s.mem) ≠ tFwd →
      Completes (.fence c) s fun u =>
        Passes s u c [] (nextPc s c) ∧ (u.core c).me.storeQ = [] ∧ mrdW pa u.mem = v ∧ onlyAt s u pa 8) ∧
    ((s.core c).me.storeQ = [] →
      Completes (.fence c) s fun u => Passes s u c [] (nextPc s c) ∧ u.mem = s.mem ∧ u.regs = s.regs) ∧
    (Completes (.dsync c) s fun u =>
      Passes s u c [] (nextPc s c) ∧ (u.core c).dec = s.ucode.decA ∧ u.mem = s.mem ∧ u.regs = s.regs) ∧
    (s.sup c = true →
      (tagOf w = tFix →
        (Completes (.tlbiA c ra) s fun u => Passes s u c [] (nextPc s c) ∧ u.mem = s.mem ∧ u.regs = s.regs ∧
          Invalidated s u (fun a => a.hits (s.world_ c) (bf w 46 0))) ∧
        (pay w < 2 → Completes (.tlbiW c ra) s fun u => Passes s u c [] (nextPc s c) ∧ u.mem = s.mem ∧ u.regs = s.regs ∧
          Invalidated s u (fun a => a.world == pay w))) ∧
      (Completes (.tlbiAll c) s fun u => Passes s u c [] (nextPc s c) ∧ u.mem = s.mem ∧ u.regs = s.regs ∧
        Invalidated s u (fun _ => true)) ∧
      (tagOf w = tFix →
        (∀ a : Nat × TlbEnt, (s.clu k).tlb = [a] → a.2.hits (s.world_ c) (bf w 46 0) = true →
          Completes (.tlblk c ra) s fun u => Passes s u c [] (nextPc s c) ∧ u.mem = s.mem ∧ u.regs = s.regs ∧
            (u.clu k).tlb = [(a.1, { a.2 with locked := true })]) ∧
        (Completes (.tlbul c ra) s fun u => Passes s u c [] (nextPc s c) ∧ u.mem = s.mem ∧ u.regs = s.regs ∧
          (u.clu k).tlb.length = (s.clu k).tlb.length ∧
          ∀ a ∈ (u.clu k).tlb, a.2.hits (s.world_ c) (bf w 46 0) = true → a.2.locked = false)))) ∧
  (∀ (c : CoreId) (s : State) (va : Word) (a : TlbEnt) (s1 : State), s.runs c = true →
    (s.core c).dtlb.find? (fun x => x.hits (s.world_ c) (bf va 46 0)) = none → (s.core c).dtlb.length < 64 →
    (s.clu (cluOf c)).tlb.find? (fun x => x.2.hits (s.world_ c) (bf va 46 0)) = none →
    (s.bump (oCnt (cluOf c) 0x4100)).walkFill (cluOf c) (s.world_ c) (bf va 46 0) (accFault .load (bf va 46 0)) false 5 =
      (s1, .inr (a, true)) →
    Completes (.pageWalk c .load va false) s fun u =>
      (u.core c).dtlb = (s.core c).dtlb ++ [{ a with locked := false }] ∧ u.mem = s.mem ∧ (u.core c).rf = (s.core c).rf) ∧
  (∀ (c : CoreId) (s : State) (pa : BitVec 46), InL2 s (cluOf c) pa.toNat → isDevice pa.toNat = false → (s.core c).upset = [] →
    ((s.core c).blocked = some (pa.toNat / 64) →
      Completes (.lineFill c .data pa) s fun u =>
        (u.core c).blocked = none ∧ l1Has (pa.toNat / 64) (u.core c).l1d = true ∧ u.mem = s.mem ∧ u.regs = s.regs) ∧
    (Completes (.lineFill c .instr pa) s fun u => l1Has (pa.toNat / 64) (u.core c).l1i = true ∧ u.mem = s.mem ∧ u.regs = s.regs) ∧
    (l1Has (pa.toNat / 64) (s.core c).l1d = false →
      Completes (.lineFill c .side pa) s fun u => pa.toNat / 64 ∈ (u.core c).side ∧ u.mem = s.mem ∧ u.regs = s.regs))

/-- What a snoop leaves of a line that is read: a clean shared copy, in which the words that were wrong are poison (R328, R329). -/
def Sys2Proof.Claims.sharedCopy (l : L2Line) : L2Line :=
  if l.dirty then { l with dirty := false, two := 0, lost := l.poison } else l

/-- The L2 of a cluster (R225, R320 to R325, R329): PRELOAD brings a line into its way and marks it; L2LOCK and CLU_L2LOCK lock up to 12
ways and clear the marks; a controller takes a line from an eviction register; a snoop leaves a clean copy, or none for a write, and the
host that asks holds the line. -/
def Obligations.LevelTwoCache : Prop :=
  (∀ (c : CoreId) (rd ra rb : Reg5) (s : State) (e a : TlbEnt) (way pa k : Nat), Steady s c e → named rd → named ra → named rb →
    s.sup c = true → k = cluOf c →
    (holdsFix s c ra → s.rget c rb.toNat = mkTag 0 way → way < 16 → bit (s.lockMask k) way = false →
      (s.core c).dtlb.find? (fun x => x.hits (s.world_ c) (bf (s.rget c ra.toNat) 46 0)) = some a →
      pa = (a.pa + (bf (s.rget c ra.toNat) 46 0 - a.va)) % 2 ^ 46 →
      (s.l2Find k (pa / 64) = none → s.l2At k (pa / 64) way = none → Clean s pa →
        Completes (.preload c rd ra rb) s fun u =>
          Passes s u c [rd.toNat] (nextPc s c) ∧ u.rget c rd.toNat = mkTag 0 way ∧ u.mem = s.mem ∧
          u.l2At k (pa / 64) way =
            some { line := pa / 64, dirty := false, mark := true, behind := none, one := 0, two := 0, lost := 0 }) ∧
      (∀ (was : Nat) (l : L2Line), InL2 s k pa → s.l2Find k (pa / 64) = some was → s.l2At k (pa / 64) was = some l →
        Completes (.preload c rd ra rb) s fun u =>
          Passes s u c [rd.toNat] (nextPc s c) ∧ u.rget c rd.toNat = mkTag 0 was ∧ u.mem = s.mem ∧ u.regs = s.regs ∧
          u.l2At k (pa / 64) was = some { l with mark := if was = way then true else l.mark })) ∧
    (∀ w : Word, w = s.rget c ra.toNat → tagOf w = tFix → bf w 55 16 = 0 → popcount16 (bf w 15 0) ≤ 12 →
      Completes (.l2lock c ra) s fun u =>
        Passes s u c [] (nextPc s c) ∧ u.mem = s.mem ∧ u.reg (oClu k 0x4010) = BitVec.ofNat 64 (bf w 15 0) ∧
        SameRegs (· = oClu k 0x4010) s u ∧ ∀ x ∈ (u.clu k).l2, ∀ l, x.2 = some l → l.mark = false)) ∧
  (∀ (t : Time) (k : ClusterId) (v : Word) (s : State),
    (popcount16 (bf v 15 0) ≤ 12 →
      Completes (.cluL2lockWrite t k v) s fun u =>
        u.reg (oClu k 0x4010) = BitVec.ofNat 64 (bf v 15 0) ∧ SameRegs (· = oClu k 0x4010) s u ∧ u.mem = s.mem ∧
        ∀ x ∈ (u.clu k).l2, ∀ l, x.2 = some l → l.mark = false) ∧
    (12 < popcount16 (bf v 15 0) → exec (.cluL2lockWrite t k v) s = .next (s.at t))) ∧
  (∀ (t : Time) (k : ClusterId) (bank : Fin 8) (s : State) (v : L2Line), sget none bank.val (s.clu k).evict = some v →
    (s.clu k).evWait = [] → s.domain (80 + ctlOf (v.line * 64)) ≠ 0 →
    Completes (.evictionAccept t k bank) s fun u => sget none bank.val (u.clu k).evict = none ∧ u.mem = s.mem ∧ u.cores = s.cores) ∧
  (∀ (t : Time) (k : ClusterId) (asker : ClusterId) (pa : BitVec 46) (s : State) (way : Nat) (l : L2Line),
    s.l2Find k (pa.toNat / 64) = some way → s.l2At k (pa.toNat / 64) way = some l →
    (Completes (.snoop t k (.cluster asker) pa false) s fun u =>
      u.l2At k (pa.toNat / 64) way = some (sharedCopy l) ∧ u.mem = s.mem ∧ u.cores = s.cores) ∧
    (Completes (.snoop t k (.cluster asker) pa true) s fun u => u.l2At k (pa.toNat / 64) way = none ∧ u.mem = s.mem) ∧
    (pa.toNat < s.stacks * stackSize →
      (Completes (.snoop t k .host pa false) s fun u => u.l2At k (pa.toNat / 64) way = some (sharedCopy l) ∧ u.mem = s.mem ∧
        1 ≤ sget 0 (pa.toNat / 64) u.hostLines ∧
        ∀ i, i < 16 → l1Has (pa.toNat / 64) (u.core (k * 16 + i)).l1d = false ∧ l1Has (pa.toNat / 64) (u.core (k * 16 + i)).l1i = false) ∧
      (Completes (.snoop t k .host pa true) s fun u => u.l2At k (pa.toNat / 64) way = none ∧ u.mem = s.mem ∧
        sget 0 (pa.toNat / 64) u.hostLines = 2)))

/-- The decode copy binds CX `slot` to the microaddress `m` for any core and level. -/
def Sys2Proof.Claims.CxBound (s : State) (c slot m : Nat) : Prop :=
  let g := sget 0 (32 + slot) (s.core c).dec
  bf g 63 63 = 1 ∧ bf g 62 61 = 0 ∧ bf g 14 0 = m ∧ inCustomer m = true

/-- A microword that always goes to SVC_RETURN and touches no memory (Tables 13.2, 13.4). -/
def Sys2Proof.Claims.returns (w : BitVec 144) : Prop :=
  mbf w 83 80 = 0 ∧ mbf w 143 142 = 1 ∧ mbf w 141 127 = 0x38 ∧ mbf w 126 122 = 0 ∧ mbf w 121 121 = 0

/-- Staging, candidates and customer words (R226, R227, R296, R364, R422, R423, R429, R430): STAGE appends eight words to the slice's
candidates; a committed record moves into a FIFO with room; CX with a routine that returns at once gives its word, which is open, or its
tag fault (log entry 23); an unbound slot is illegal, and a halt word, a forbidden microword and an overrun routine fault; the decode window stages an entry and shows it. -/
def Obligations.StagingAndCustomerWords : Prop :=
  (∀ (c : CoreId) (ra : Reg5) (s : State) (e : TlbEnt) (x : Slice) (h : Word) (ws : List Word), Steady s c e → named ra →
    holds s c ra tVec → (s.core c).me.prog = some x.key → (s.clu (cluOf c)).slices = [x] → x.staged.length < 64 →
    HeadAt s c (s.rget c ra.toNat) h → bf h 31 0 = 8 → ws.length = 8 →
    (∀ i, i < 8 → ReadsAs s c (pay (s.rget c ra.toNat) + 8 + 8 * i) (ws.getD i 0)) →
    Completes (.stage c ra) s fun u =>
      Passes s u c [] (nextPc s c) ∧ u.mem = s.mem ∧ (u.clu (cluOf c)).slices = [{ x with staged := x.staged ++ [ws] }]) ∧
  (∀ (t : Time) (k : ClusterId) (s : State) (ws : List Word) (f : Nat) (rest : List (List Word × Nat)),
    sget [] k.val s.outqs = (ws, f) :: rest → candCount (sget [] k.val s.mast.fifos) < 64 →
    Completes (.candidateTransfer t k) s fun u =>
      sget [] k.val u.outqs = rest ∧ sget [] k.val u.mast.fifos = sget [] k.val s.mast.fifos ++ [.cand ws f] ∧ u.regs = s.regs ∧
      u.mem = s.mem) ∧
  (∀ (c : CoreId) (slot : BitVec 5) (rd ra rb : Reg5) (mode : BitVec 4) (stop : BitVec 15) (s : State) (n : Nat) (e ef : TlbEnt),
    FaultReady s c n e ef → named rd → named ra → named rb →
    (bf (sget 0 (32 + slot.toNat) (s.core c).dec) 63 63 = 0 →
      Completes (.cx c slot rd ra rb mode) s fun u => entered s u c n e 0x06 0 (s.flow c).pc) ∧
    (∀ m : Nat, CxBound s c slot.toNat m →
      (∀ w : BitVec 144, s.microword m = some w → returns w → Completes (.cx c slot rd ra rb mode) s fun u =>
        if badResult s.useFree.freeVal = true then entered s u c n e 0x0A 8 (s.flow c).pc
        else Passes s u c [rd.toNat] (nextPc s c) ∧ u.rget c rd.toNat = s.useFree.freeVal ∧ u.mem = s.mem) ∧
      (∀ w : BitVec 144, s.microword m = some w → mbf w 83 80 ≠ 0 → Completes (.cx c slot rd ra rb mode) s fun u =>
        entered s u c n e 0x09 0 (s.flow c).pc) ∧
      (s.microword m = none → Completes (.cx c slot rd ra rb mode) s fun u => entered s u c n e 0x09 0 (s.flow c).pc) ∧
      (Completes (.safePointOverrun c slot stop) s fun u => entered s u c n e 0x09 0 (s.flow c).pc))) ∧
  (∀ (t : Time) (v : Word) (s : State) (slot : Nat), slot = s.field (oUcs 0x18) 5 0 → 32 ≤ slot →
    ((bf v 63 63 = 1 → 0x7800 ≤ bf v 14 0) →
      Completes (.decodeTableAccess t true v) s fun u =>
        sget 0 slot u.ucode.decS = setBf (setBf 0 63 61 (bf v 63 61)) 14 0 (bf v 14 0) ∧ u.ucode.decA = s.ucode.decA ∧
        u.tabPending 3 = true ∧ u.mem = s.mem) ∧
    (Completes (.decodeTableAccess t false v) s fun u =>
      u.rdata = sget 0 slot (if s.field (oUcs 0x18) 62 62 = 1 then s.ucode.decA else s.ucode.decS) ∧ u.ucode = s.ucode ∧
      u.mem = s.mem))

/-! ### HBM (10_hbm_and_error_protection.md) -/

/-- Controller `m` serves address `a` (R300, R356, R500): its stack is installed, neither failed nor being filled, the controller is not
OFF, and `a` lies in no check block. -/
def Sys2Proof.Claims.Serves (s : State) (m : CtlId) (a : Nat) : Prop :=
  ctlOf a = m.val ∧ a < 0x100000000000 ∧ s.memDead a = false ∧ s.isCheck a = false

/-- Writes and reads of lines (R337 to R345, R347, R348): a write stores the marked words and no other byte; a whole line is good after
it and its entry is gone, a part enters or joins the entry of its line, which is completed when all 8 words are there. No read changes
memory. Where no entry, decode or flip of the line is in the way: a clean read leaves codes and counts; corrected words are counted; a
word found uncorrectable is marked at once in a region without page code, and starts a decode of its page in one with it. -/
def Obligations.LinesAreWrittenAndRead : Prop :=
  (∀ (t : Time) (m : CtlId) (pa : BitVec 46) (mask : BitVec 8) (data : List Word) (s : State) (line : Nat), line = pa.toNat / 64 →
    Serves s m pa.toNat →
    Completes (.memoryWrite t m pa mask data) s fun u =>
      (∀ i, i < 8 → mrdW (line * 64 + 8 * i) u.mem = if bit mask.toNat i then data.getD i 0 else mrdW (line * 64 + 8 * i) s.mem) ∧
      onlyAt s u (line * 64) 64 ∧
      (mask = 0xFF → u.badMask pa.toNat = 0 ∧ (sget [] m.val u.merges).all (fun e => e.1 != line) = true) ∧
      (mask ≠ 0xFF → (sget [] m.val s.merges).all (fun e => e.1 != line) = true →
        (sget [] m.val u.merges).any (fun e => e.1 == line && e.2.1 == mask.toNat) = true) ∧
      (∀ old at_, mask ≠ 0xFF → (sget [] m.val s.merges).filter (fun e => e.1 == line) = [(line, old, at_)] →
        (sget [] m.val u.merges).filter (fun e => e.1 == line) =
          if old ||| mask.toNat = 0xFF then [] else [(line, old ||| mask.toNat, at_)])) ∧
  (∀ (t : Time) (m : CtlId) (pa : BitVec 46) (req : Requester) (unit : BitVec 6) (k : BitVec 8) (found : ReadFinding) (s : State),
    Completes (.memoryRead t m pa req unit found) s (SameMemory s) ∧
    (Serves s m pa.toNat → Completes (.memoryRead t m pa req unit found) s fun u =>
      (sget [] m.val u.merges).all (fun e => e.1 != pa.toNat / 64) = true) ∧
    (Serves s m pa.toNat → (sget [] m.val s.merges).all (fun e => e.1 != pa.toNat / 64) = true →
      (sget (0, 0) (pa.toNat / 64) s.flips).2 = 0 → s.decoding pa.toNat = false →
      (s.badMask pa.toNat = 0 → Completes (.memoryRead t m pa req unit .clean) s fun u =>
        u.errs = s.errs ∧ u.bad = s.bad ∧ u.suspect = s.suspect ∧ u.reg (oMem m 0x100) = s.reg (oMem m 0x100) ∧
        u.reg (oMem m 0x110) = s.reg (oMem m 0x110)) ∧
      (Completes (.memoryRead t m pa req unit (.corrected k)) s fun u => u.bad = s.bad ∧
        (u.reg (oMem m 0x100)).toNat = min (2 ^ 64 - 1) ((s.reg (oMem m 0x100)).toNat + (bitsOf k.toNat).length)) ∧
      (s.isPage pa.toNat = false → Completes (.memoryRead t m pa req unit (.uncorrectable k)) s fun u =>
        ∀ i, i < 8 → bit k.toNat i = true → bit (u.badMask pa.toNat) i = true) ∧
      (s.isPage pa.toNat = true → k ≠ 0 → Completes (.memoryRead t m pa req unit (.uncorrectable k)) s fun u =>
        u.bad = s.bad ∧ u.decoding pa.toNat = true ∧
        ∀ i, i < 8 → bit k.toNat i = true → bit (sget 0 (pa.toNat / 64) u.suspect) i = true)))

/-- The rest of a controller's work (R3, R339, R340, R343, R347, R353, R355, R357, R584): a page decode lifts the suspicion of the
page's words, or marks them lost when they fit no burst or the check block is uncorrectable; an entry of the merge buffer completes and
leaves the words it did not write of a bad line poisoned; a corruption is armed where the controller exists and none is armed; the
power-on fill makes every word of the stack UNINIT or fails it; a failed stack answers no more. -/
def Obligations.ControllersRepairFillAndFail : Prop :=
  (∀ (t : Time) (m : CtlId) (pa : BitVec 46) (req : Requester) (unit : BitVec 6) (s : State) (page : Nat) (fits : Bool),
    ctlOf pa.toNat = m.val → page = pa.toNat / 4096 → ((sget [] m.val s.decodes).take 4).contains page = true →
    (Completes (.pageDecode t m pa req unit fits) s fun u => u.mem = s.mem ∧ u.decoding pa.toNat = false ∧
      (∀ l, l / 64 = page → sget 0 l u.suspect = 0) ∧
      (u.reg (oMem m 0x118)).toNat = min (2 ^ 64 - 1) ((s.reg (oMem m 0x118)).toNat + 1)) ∧
    ((sget (0, 0) (checkBlock pa.toNat / 64) s.flips).2 < 2 → fits = true → Completes (.pageDecode t m pa req unit fits) s fun u =>
      u.bad = s.bad ∧ (u.reg (oMem m 0x108)).toNat = min (2 ^ 64 - 1) ((s.reg (oMem m 0x108)).toNat + 1)) ∧
    (fits = false ∨ s.small = false ∧ 2 ≤ (sget (0, 0) (checkBlock pa.toNat / 64) s.flips).2 →
      Completes (.pageDecode t m pa req unit fits) s fun u =>
        (∀ l i, l / 64 = page → bit (sget 0 l s.suspect) i = true → bit (sget 0 l u.bad) i = true) ∧
        ∀ l, l / 64 ≠ page ∨ s.suspect.all (fun e => e.1 != l) = true → sget 0 l u.bad = sget 0 l s.bad)) ∧
  (∀ (t : Time) (m : CtlId) (pa : BitVec 46) (s : State) (line : Nat), line = pa.toNat / 64 →
    Completes (.mergeComplete t m pa) s fun u =>
      (sget [] m.val u.merges).all (fun e => e.1 != line) = true ∧ u.mem = s.mem ∧ u.cores = s.cores ∧
      ∀ mask at_, (sget [] m.val s.merges).find? (fun e => e.1 == line) = some (line, mask, at_) → mask < 0xFF →
        s.decoding (line * 64) = false → (sget (0, 0) line s.flips).2 = 0 →
        sget 0 line u.bad = if s.small then (if s.badMask (line * 64) = 0 then 0 else 0xFF * 256)
          else (s.badMask (line * 64) &&& (0xFF - mask)) * 256) ∧
  (∀ (t : Time) (m : CtlId) (v : Word) (s : State),
    (m.val < s.stacks → s.field (oMem m 0x20) 63 63 = 0 ∨ bf v 63 63 = 0 → Completes (.flipArm t m v) s fun u =>
      u.field (oMem m 0x20) 63 62 = bf v 63 62 ∧ u.field (oMem m 0x20) 60 50 = bf v 60 50 ∧
      u.field (oMem m 0x20) 45 6 = bf v 45 6 ∧
      u.field (oMem m 0x20) 61 61 = (if s.small ∧ bf v 61 61 = 1 then s.field (oMem m 0x20) 61 61 else bf v 61 61) ∧
      u.mem = s.mem ∧ SameRegs (· = oMem m 0x20) s u) ∧
    (s.stacks ≤ m.val ∨ s.field (oMem m 0x20) 63 63 = 1 ∧ bf v 63 63 = 1 → Completes (.flipArm t m v) s fun u =>
      u.regs = s.regs ∧ u.mem = s.mem)) ∧
  (∀ (t : Time) (m : CtlId) (s : State), m.val < s.stacks → s.field (oMem m 8) 61 61 = 1 →
    (Completes (.powerOnFill t m false) s fun u =>
      (∀ a, ctlOf a = m.val → mrd a u.mem = memDefault a) ∧ (∀ a, ctlOf a ≠ m.val → mrd a u.mem = mrd a s.mem) ∧
      u.field (oMem m 8) 62 61 = 2 ∧ ∀ a, ctlOf a = m.val → u.badMask a = 0) ∧
    (Completes (.powerOnFill t m true) s fun u => u.field (oMem m 8) 61 60 = 1 ∧ u.mem = s.mem)) ∧
  (∀ (t : Time) (m : CtlId) (cause : StackCause) (s : State), m.val < s.stacks →
    Completes (.stackFailure t m cause) s fun u =>
      u.field (oMem m 8) 61 60 = 1 ∧ u.mem = s.mem ∧ ∀ a, ctlOf a = m.val → a < 0x100000000000 → u.memDead a = true)

/-! ### Masthead (11_masthead.md) -/

/-- The masthead decides slot `k` now: it is the next slot of the frame, its time has come, and F3 is not host-assisted. -/
def Sys2Proof.Claims.Decides (t : Time) (s : State) (k : BitVec 32) : Prop :=
  s.castOn = true ∧ k.toNat < s.slotCount ∧ s.mast.next = k.toNat ∧ s.decideT k.toNat ≤ t ∧ s.ha3 = false

/-- What the decision of a slot leaves: its record, with slot time, frame, slot, raw and fired bits, and the next slot. -/
def Sys2Proof.Claims.Decided (s u : State) (k raw fired : Nat) : Prop :=
  u.mast.next = k + 1 ∧ u.mast.record.length = 8 ∧
  u.mast.record.getD 0 0 = BitVec.ofNat 64 (s.slotT k / unitT % 2 ^ 56) ∧ bf (u.mast.record.getD 1 0) 31 0 = k ∧
  bf (u.mast.record.getD 1 0) 63 32 = s.frame.count % 2 ^ 32 ∧ u.mast.record.getD 2 0 = BitVec.ofNat 64 raw ∧
  u.mast.record.getD 3 0 = BitVec.ofNat 64 fired

/-- DECISION, TIMEOUT, DEAD and MISMATCH of the masthead's last record (Table 11.7). -/
def Sys2Proof.Claims.verdict (u : State) : Nat × Nat × Nat × Nat :=
  let w := u.mast.record.getD 5 0
  (bf w 63 62, bf w 61 61, bf w 60 60, bf w 59 59)

/-- The decision of a slot (R369 to R374, R380, R383, R408, R543, R546, R585), by a device that decides for itself at its cut-off and by a
combiner that has joined at its system cut-off, which marks the record SYSTEM; tables whose request is old enough become active first. A
dead slot rejects; a source not complete gives the configured time-out decision; else the fired bits decide; two copies that differ give
the safe decision and count a mismatch; a failed masthead gives the safe decision. -/
def Obligations.SlotsAreDecidedInOrder : Prop :=
  ∀ (t : Time) (k : BitVec 32) (s s0 : State) (i : Instr) (differ system : Bool) (c : Word) (raw : Nat),
    Decides t s k → s0 = (s.at t).mastSwapDue k.toNat → c = s.effReg (oMst 0) → raw = s0.raw k.toNat →
    (i = .slotCutoff t k differ ∧ system = false ∧ s.role ≠ 1 ∧ s.combines = false ∨
      i = .systemCutoff t k differ ∧ system = true ∧ s.combines = true) →
    (s.mast.failed = true → Completes i s fun u => Decided s u k.toNat 0 0 ∧ verdict u = (bf c 61 60, 0, 0, 1) ∧
      u.mast.counts = s0.mast.counts) ∧
    (s.mast.failed = false → differ = false →
      (s0.dead k.toNat = true → Completes i s fun u => Decided s u k.toNat raw 0 ∧ verdict u = (0, 0, 1, 0) ∧
        u.mast.counts = s0.mast.counts) ∧
      (s0.dead k.toNat = false → s0.lateSrc k.toNat ≠ 0 → Completes i s fun u =>
        Decided s u k.toNat raw (s0.prescale raw).1 ∧ verdict u = (bf c 63 62, 1, 0, 0) ∧
        bf (u.mast.record.getD 5 0) 35 0 = s0.lateSrc k.toNat % 2 ^ 36 ∧ u.mast.counts = (s0.prescale raw).2) ∧
      (s0.dead k.toNat = false → s0.lateSrc k.toNat = 0 → Completes i s fun u =>
        Decided s u k.toNat raw (s0.prescale raw).1 ∧ u.mast.counts = (s0.prescale raw).2 ∧
        verdict u = (if (s0.prescale raw).1 = 0 then 0
          else if (List.range 64).any (fun b => bit (s0.prescale raw).1 b && bf (s0.mtab 1 b 0) 61 61 == 0) then 1 else 2, 0, 0, 0) ∧
        bf (u.mast.record.getD 5 0) 57 57 = b2n system)) ∧
    (s.mast.failed = false → differ = true → Completes i s fun u => u.mast.next = k.toNat + 1 ∧ u.mast.mism = s.mast.mism + 1 ∧
      verdict u = (bf c 61 60, 0, 0, 1) ∧ u.field (oMst 8) 61 61 = 1)

/-- What enters the masthead (R362 to R367, R378, R396, R462): the record at the head of the one waiting FIFO is taken for its slot, a
late one is counted and kept out; a cluster's done time follows its records in band; a slot report marks its slot's record or the next;
the records of an accepted slot are formed once its readout window's wait is over, at once for a queue that binds no row, and wait where
the queue is full. -/
def Obligations.CandidatesDoneTimesAndReports : Prop :=
  (∀ (t : Time) (s : State) (i f k : Nat) (ws : List Word), s.mast.fifos = [(i, [.cand ws f])] → s.role ≠ 1 → s.ha3 = false →
    f = s.frame.count → k = bf (ws.getD 0 0) 31 0 → (s.at t).badCand ws = false →
    (s.mast.next ≤ k → t ≤ s.closeT k → Completes (.candidateTake t) s fun u =>
      u.mast.fifos = [] ∧ sget [] k u.mast.taken = sget [] k s.mast.taken ++ [(i, ws)] ∧ u.mem = s.mem ∧ u.errs = s.errs ∧
      (u.reg (oMst 0x128)).toNat = min (2 ^ 64 - 1) ((s.reg (oMst 0x128)).toNat + 1)) ∧
    (k < s.mast.next ∨ s.closeT k < t → Completes (.candidateTake t) s fun u =>
      u.mast.fifos = [] ∧ u.mast.taken = s.mast.taken ∧ u.mem = s.mem ∧
      (u.reg (oMst 0x130)).toNat = min (2 ^ 64 - 1) ((s.reg (oMst 0x130)).toNat + 1))) ∧
  (∀ (t : Time) (c : ClusterId) (s : State), s.castOn = true → sget [] c.val s.outqs = [] →
    Completes (.doneTime t c) s fun u =>
      sget [] c.val u.mast.fifos = sget [] c.val s.mast.fifos ++ [.done ((s.at t).cluDone c)] ∧ u.regs = s.regs ∧ u.mem = s.mem) ∧
  (∀ (t : Time) (unit : Fin 64) (slot : BitVec 32) (s : State), (unit.val, slot.toNat) ∈ s.reports →
    Completes (.slotReport t unit slot) s fun u =>
      u.reports = s.reports.erase (unit.val, slot.toNat) ∧ u.mem = s.mem ∧
      (s.mast.next ≤ slot.toNat → bit (sget 0 slot.toNat u.mast.slotReef) unit.val = true ∧ (s.role ≠ 1 → u.regs = s.regs)) ∧
      (slot.toNat < s.mast.next → bit u.mast.lateReef unit.val = true)) ∧
  (∀ (t : Time) (slot : BitVec 32) (s : State) (j : RoJob), s.mast.ro = [j] → j.slot = slot.toNat →
    (s.slotT j.slot + s.horizon + usT (bf (s.effReg (oQue 0x100)) 47 32) ≤ t →
      Completes (.readoutGather t slot) s fun u => u.mast.ro = []) ∧
    (∀ q, s.activeQueues 1 = [q] → bit (s.kinds q) 2 = true → s.qFull q = true → sget [] q s.mast.roOut = [] →
      s.slotT j.slot + s.horizon ≤ t → s.field (oQbind q) 31 0 = 0 →
      Completes (.readoutGather t slot) s fun u =>
        u.mast.ro = [] ∧ sget [] q u.mast.roOut = ((s.at t).roRecords j 0 false).2 ∧ u.mem = s.mem))

/-- GEN of table `k` in DEV_TABLES. -/
def Sys2Proof.Claims.gen (s : State) (k : Nat) : Nat := s.field (oDev 0x20) (39 + 8 * k) (32 + 8 * k)

/-- Table `k` has become active: its staged copy is the active one, GEN has advanced, and nothing is pending. -/
def Sys2Proof.Claims.Activated (s u : State) (k : Nat) : Prop :=
  gen u k = (gen s k + 1) % 256 ∧ u.tabPending k = false ∧ u.tabWaiting k = false ∧
  (k = 0 → u.regionA = s.regionS) ∧ (k = 1 → u.dmapA = s.dmapS) ∧ (k = 2 → u.mastA = s.mastS) ∧
  (k = 3 → u.ucode.decA = s.ucode.decS)

/-- Live tables (R13, R385, R542 to R546): between frames a request makes a pending table active at once; during a frame it waits, the decode
table apart; the masthead tables become active at the next slot when that is far enough ahead; the window of the masthead tables
stages words, and shows the copy that ACTIVE_VIEW selects, with the prescale count in the active view; beyond a table's end it takes
nothing and reads zero. -/
def Obligations.LiveTablesAreSwapped : Prop :=
  (∀ (t : Time) (s : State) (k : Fin 4), s.tabPending k = true →
    ((s.castOn = false ∨ k = 3) → Completes (.swap t (BitVec.ofNat 64 (2 ^ k.val))) s fun u => Activated s u k) ∧
    (s.castOn = true → k ≠ 3 → s.tabWaiting k = false → Completes (.swap t (BitVec.ofNat 64 (2 ^ k.val))) s fun u =>
      u.tabWaiting k = true ∧ gen u k = gen s k ∧ u.regionA = s.regionA ∧ u.dmapA = s.dmapA ∧ u.mastA = s.mastA ∧
      (k = 2 → u.mast.swapAt = some t))) ∧
  (∀ (t : Time) (s : State) (asked : Time), s.mast.swapAt = some asked → asked + 64 * mastT ≤ s.cutoffT s.mast.next →
    Completes (.mastheadActivation t) s fun u => Activated s u 2 ∧ u.mast.swapAt = none ∧ u.mem = s.mem) ∧
  (∀ (t : Time) (data1 : Bool) (v : Word) (s : State) (tab e key : Nat), tab = s.field (oMst 0x38) 17 16 →
    e = s.field (oMst 0x38) 7 0 → key = tab * 512 + e * 2 + b2n data1 → e < mtabSize tab →
    (Completes (.mstTabAccess t data1 true v) s fun u =>
      sget 0 key u.mastS = mtabMerge tab e (b2n data1) (sget 0 key s.mastS) v ∧
      (∀ x, x ≠ key → sget 0 x u.mastS = sget 0 x s.mastS) ∧ u.mastA = s.mastA ∧ u.tabPending 2 = true ∧ u.mem = s.mem) ∧
    (Completes (.mstTabAccess t data1 false v) s fun u =>
      u.rdata = (let w := sget 0 key (if s.field (oMst 0x38) 62 62 = 1 then s.mastA else s.mastS)
        if tab = 2 ∧ data1 = false ∧ s.field (oMst 0x38) 62 62 = 1 then setBf w 55 32 (sget 0 e s.mast.counts) else w) ∧
      u.mastS = s.mastS ∧ u.mastA = s.mastA ∧ u.mem = s.mem)) ∧
  (∀ (t : Time) (data1 write : Bool) (v : Word) (s : State), mtabSize (s.field (oMst 0x38) 17 16) ≤ s.field (oMst 0x38) 7 0 →
    Completes (.mstTabAccess t data1 write v) s fun u =>
      (write = false → u.rdata = 0) ∧ u.mastS = s.mastS ∧ u.mastA = s.mastA ∧ u.tabPending 2 = s.tabPending 2 ∧ u.mem = s.mem)

/-! ### The shroud ring (12_shroud_ring.md) -/

/-- Ring port `i` is UP and receives a sound message of this type that the device itself is to act on: link-local, a broadcast of another
device, or addressed to it. -/
def Sys2Proof.Claims.Heard (s : State) (i : RingPort) (cls typ : Nat) (m : RingMsg) : Prop :=
  s.pstate i = 4 ∧ msgSound cls typ m = true ∧
  (m.scope = 3 ∨ m.src.toNat ≠ s.node ∧ (m.scope = 0 → m.dst.toNat = s.node))

/-- Difference of two device times, which are kept modulo 2^56. -/
def Sys2Proof.Claims.timeDiff (y x : Nat) : Int := sx 56 ((y + 2 ^ 56 - x % 2 ^ 56) % 2 ^ 56)

/-- Twice the delay of a link and twice the neighbour's offset, in 2^-10 ns: `a` and `b` when this device's ALIGN block left and reached
the neighbour, `c` and `d` when the neighbour's left and arrived (R401). -/
def Sys2Proof.Claims.linkDelay2 (a b c d : Nat) : Int := timeDiff b a + timeDiff d c
def Sys2Proof.Claims.linkOffset2 (a b c d : Nat) : Int := timeDiff b a - timeDiff d c

/-- Word `i` of a message's body. -/
def Sys2Proof.Claims.bodyW (m : RingMsg) (i : Nat) : Word := m.body.getD i 0

/-- Links of the ring (R387, R388, R393, R394, R399, R401, R406, R407, R525, R591): a corrected codeword is counted, an uncorrectable one
counts the messages it loses; credits return; an ALIGN block is stamped, a control block of no known kind is counted; a TSYNC leaves with
its two times and one that arrives gives the delay of the link and the neighbour's offset in picoseconds; HELLO and LEAVE are noted, and
a HELLO with other ring sizes closes the bypasses; a PROBE of another device is passed on, one with the own address is a conflict, which
ends a join; a lost signal takes the port to LOS. -/
def Obligations.RingLinks : Prop :=
  (∀ (t : Time) (i : RingPort) (w : Codeword) (h : BlockHead) (credits : Nat) (s : State),
    (w.symbols = 0 → exec (.fecCodeword t i w) s = .next (s.at t)) ∧
    (0 < w.symbols → w.symbols ≤ 15 → exec (.fecCodeword t i w) s = .next ((s.at t).bump (oRcnt i 0))) ∧
    (15 < w.symbols → exec (.fecCodeword t i w) s = .next ((s.at t).bumpN (oRcnt i 8) w.messages)) ∧
    (h.kind = 0 → Completes (.ringIdle t i h credits) s fun u => u.regs = s.regs ∧ u.mem = s.mem ∧
      ((s.rport i).waitq = [] →
        sget 0 h.cls.toNat (u.rport i).credits = sget 0 h.cls.toNat (s.rport i).credits + credits)) ∧
    (h.kind = 0xA5 → exec (.ringIdle t i h credits) s = exec (.alignBlock t i) s) ∧
    (h.kind ≠ 0 → h.kind ≠ 0xA5 → exec (.ringIdle t i h credits) s = .next ((s.at t).bump (oRcnt i 0x10))) ∧
    (Completes (.alignBlock t i) s fun u => u.rport i = { s.rport i with t2 := some t } ∧ u.regs = s.regs ∧ u.mem = s.mem)) ∧
  (∀ (t a : Time) (i : RingPort) (s : State), a = (s.at t).lastAlign i →
    (s.pstate i = 4 → t ≤ a + 163840000 → (s.rport i).lastTsync < a + 1 → Completes (.tsyncSend t i) s fun u =>
      (u.rport i).lastTsync = t + 1 ∧ u.regs = s.regs ∧ u.mem = s.mem ∧
      ∃ x ∈ (u.rport i).outq, x.2.cls = 0 ∧ x.2.typ = 0 ∧ x.2.scope = 3 ∧
        x.2.body = [BitVec.ofNat 64 (devUnits a % 2 ^ 56), BitVec.ofNat 64 (devUnits ((s.rport i).t2.getD 0) % 2 ^ 56)]) ∧
    (s.pstate i ≠ 4 ∨ a + 163840000 < t ∨ a + 1 ≤ (s.rport i).lastTsync → exec (.tsyncSend t i) s = .next (s.at t))) ∧
  (∀ (t t2 : Time) (i : RingPort) (m : RingMsg) (s : State) (a b c d : Nat), Heard s i 0 0 m → (s.rport i).t2 = some t2 →
    a = devUnits ((s.at t).lastAlign i) → b = bf (bodyW m 1) 55 0 → c = bf (bodyW m 0) 55 0 → d = devUnits t2 →
    Completes (.tsync t i m) s fun u =>
      u.field (oShr (0x108 + i.val * 0x20)) 63 63 = 1 ∧ u.mem = s.mem ∧
      u.field (oShr (0x108 + i.val * 0x20)) 23 0 = lowBits 24 (roundDiv (linkDelay2 a b c d * 500) 1024) ∧
      u.field (oTmg (0x100 + i.val * 8)) 63 63 = 1 ∧
      u.field (oTmg (0x100 + i.val * 8)) 31 0 = lowBits 32 (roundDiv (linkOffset2 a b c d * 500) 1024)) ∧
  (∀ (t : Time) (i : RingPort) (m : RingMsg) (s : State),
    (Heard s i 4 0 m → max 1 (bf (bodyW m 0) 24 16) = s.nx → max 1 (bf (bodyW m 0) 40 32) = s.ny →
      Completes (.hello t i m) s fun u =>
        u.field (oPstat i) 15 0 = bf (bodyW m 0) 15 0 ∧ u.rstate = s.rstate ∧ u.errs = s.errs ∧ u.mem = s.mem) ∧
    (Heard s i 4 0 m → ¬ (max 1 (bf (bodyW m 0) 24 16) = s.nx ∧ max 1 (bf (bodyW m 0) 40 32) = s.ny) →
      Completes (.hello t i m) s fun u =>
        u.rstate = 0 ∧ u.field (oShr 0x10) 63 62 = 3 ∧ u.field (oShr 0x10) 58 58 = 1 ∧ SentError u 3 6 0 3 ∧ u.mem = s.mem) ∧
    (Heard s i 4 1 m → Completes (.leave t i m) s fun u => (u.rport i).lastLeave = some t ∧ u.mem = s.mem) ∧
    (Heard s i 4 2 m → Completes (.probe t i m) s fun u => u.rstate = s.rstate ∧ u.errs = s.errs ∧ u.mem = s.mem ∧
      SameRegs (· = oRcnt i 0x38) s u) ∧
    (s.pstate i = 4 → msgSound 4 2 m = true → m.scope ≠ 3 → m.src.toNat = s.node →
      Completes (.probe t i m) s fun u => u.mem = s.mem ∧
        (u.reg (oRcnt i 0x30)).toNat = min (2 ^ 64 - 1) ((s.reg (oRcnt i 0x30)).toNat + 1)) ∧
    (Heard s i 4 3 m → s.rstate = 1 → bf (bodyW m 0) 15 0 = s.node → Completes (.conflict t i m) s fun u =>
      u.rstate = 0 ∧ u.field (oShr 0x10) 63 62 = 3 ∧ u.field (oShr 0x10) 59 59 = 1 ∧ u.mem = s.mem) ∧
    (Heard s i 4 3 m → s.rstate ≠ 1 ∨ bf (bodyW m 0) 15 0 ≠ s.node → Completes (.conflict t i m) s fun u =>
      u.mem = s.mem ∧ SameRegs (· = oRcnt i 0x38) s u)) ∧
  (∀ (t : Time) (i : RingPort) (partly : Bool) (s : State), s.pstate i = 4 → (s.rport i).lastLeave = none → noEvents s →
    Completes (.ringLossOfSignal t i partly) s fun u =>
      u.pstate i = 5 ∧ u.field (oPstat i) 59 58 = 2 ∧ SentError u 1 6 i 1 ∧ u.mem = s.mem ∧
      (u.reg (oRcnt i 0x18)).toNat = min (2 ^ 64 - 1) ((s.reg (oRcnt i 0x18)).toNat + 1))

/-- Joining and leaving (R389, R405, R407 to R409, Tables 12.7, 12.8): a trained port moves on, a join opens the bypasses of the used
ports and ends 100 µs after its probe, a leave announces itself and ends with the bypasses closed. -/
def Obligations.RingMembership : Prop :=
  (∀ (t : Time) (i : RingPort) (s : State), s.portUsed i = true → noEvents s →
    (s.pstate i = 1 → Completes (.ringPortTrained t i) s fun u => u.pstate i = 2 ∧ u.field (oPstat i) 58 58 = 1 ∧ u.mem = s.mem) ∧
    (s.pstate i = 3 ∨ s.pstate i = 5 → Completes (.ringPortTrained t i) s fun u =>
      u.pstate i = 4 ∧ u.field (oPstat i) 58 58 = 1 ∧ u.mem = s.mem)) ∧
  (∀ (t : Time) (s : State), s.rstate = 0 → s.field (oShr 0x10) 58 58 = 0 → s.badNode = false →
    (s.nx = 1 → s.ny = 1 → Completes (.join t) s fun u => u.rstate = 2 ∧ SameRegs (· = oShr 0x10) s u ∧ u.mem = s.mem) ∧
    (¬ (s.nx = 1 ∧ s.ny = 1) → (∀ i, i < 4 → s.portUsed i = true → s.pstate i = 2) →
      Completes (.join t) s fun u => u.rstate = 1 ∧ ∀ i, i < 4 → s.portUsed i = true → u.pstate i = 3)) ∧
  (∀ (t : Time) (s : State), s.rstate = 1 →
    (∀ p : Time, s.ring.probeAt = some p → p + usT 100 ≤ t → Completes (.joinComplete t) s fun u => u.rstate = 2 ∧ u.mem = s.mem) ∧
    (s.ring.probeAt = none → s.ring.helloAt + usT 2 ≤ t → (∀ i, i < 4 → s.portUsed i = true → s.pstate i = 4) →
      Completes (.joinComplete t) s fun u => u.rstate = 1 ∧ u.ring.probeAt = some t ∧ u.mem = s.mem ∧ u.regs = s.regs)) ∧
  (∀ (t : Time) (s : State),
    (s.rstate = 2 → Completes (.leaveRequest t) s fun u => u.rstate = 3 ∧ u.ring.leaveAt = some t ∧ u.mem = s.mem) ∧
    (∀ l : Time, s.rstate = 3 → s.ring.leaveAt = some l → l + usT 1 ≤ t → Completes (.bypassClose t) s fun u =>
      u.rstate = 0 ∧ u.field (oShr 0x10) 63 62 = 3 ∧ u.ring.leaveAt = none ∧ u.mem = s.mem))

/-- The contributor `k` of a device that combines sends this message. -/
def Sys2Proof.Claims.FromContributor (s : State) (m : RingMsg) (k : Nat) : Prop :=
  s.combines = true ∧ s.contribOf m.src.toNat = some k ∧ (sget ContribSt.reset k s.ring.contribs).absent = false

/-- Source number of the ring port that a contributor's messages are counted under. -/
def Sys2Proof.Claims.srcOf (s : State) (m : RingMsg) : Nat := 32 + s.contribPort m.src.toNat

/-- A contributor's link to its combiner (R384, R394, R396 to R399, R402, R408): records and done times enter the FIFO of their ring port
in order, a loss marks a slot or the rest of the frame, a device that does not combine takes none of them; a silent contributor is
absent; a decision is kept for its slot unless it comes from another device, too late, or into a full buffer; a done time is sent when
it has advanced; a relayed command takes a block of its port, or is dropped when its time is less than 1 µs away. -/
def Obligations.RingContributions : Prop :=
  (∀ (t : Time) (i : RingPort) (m : RingMsg) (k : Nat) (s : State), FromContributor s m k →
    (Heard s i 2 0 m → Completes (.cand t i m) s fun u => u.mem = s.mem ∧
      (∀ d, s.doneOf (bodyW m 8) = some d → sget [] (srcOf s m) u.mast.fifos =
        sget [] (srcOf s m) s.mast.fifos ++ [.cand (m.body.take 8) s.frame.count, .rdone k d]) ∧
      (s.doneOf (bodyW m 8) = none → sget [] (srcOf s m) u.mast.fifos =
        sget [] (srcOf s m) s.mast.fifos ++ [.cand (m.body.take 8) (s.frameOf (bodyW m 8))])) ∧
    (Heard s i 2 1 m → Completes (.done t i m) s fun u => u.mem = s.mem ∧
      (∀ d, s.doneOf (bodyW m 0) = some d →
        sget [] (srcOf s m) u.mast.fifos = sget [] (srcOf s m) s.mast.fifos ++ [.rdone k d]) ∧
      (s.doneOf (bodyW m 0) = none → u.mast.fifos = s.mast.fifos)) ∧
    (Heard s i 2 2 m → Completes (.loss t i m) s fun u => u.mem = s.mem ∧
      (bf (bodyW m 0) 63 63 = 1 → u.mast.sysAll = true) ∧
      (bf (bodyW m 0) 63 63 = 0 → bf (bodyW m 0) 31 0 ∈ u.mast.sysSlots ∧ u.mast.sysAll = s.mast.sysAll))) ∧
  (∀ (t : Time) (i : RingPort) (m : RingMsg) (typ : Nat) (c : Instr) (s : State), Heard s i 2 typ m → s.combines = false →
    (typ = 0 ∧ c = .cand t i m ∨ typ = 1 ∧ c = .done t i m ∨ typ = 2 ∧ c = .loss t i m) →
    Completes c s fun u => u.mast = s.mast ∧ u.mem = s.mem ∧ SameRegs (fun o => o = oRcnt i 0x38 ∨ o = oRcnt i 0x20) s u) ∧
  (∀ (t : Time) (i : RingPort) (m : RingMsg) (s : State), Heard s i 1 0 m →
    ((s.at t).decFull i m = false → s.role = 1 → m.src.toNat = s.field (oMst 0x18) 47 32 → s.mast.next ≤ m.seq.toNat →
      Completes (.decision t i m) s fun u => sget [] m.seq.toNat u.mast.bcast = m.body.take 8 ∧ u.mem = s.mem) ∧
    ((s.at t).decFull i m = false → s.role ≠ 1 ∨ m.src.toNat ≠ s.field (oMst 0x18) 47 32 ∨ m.seq.toNat < s.mast.next →
      Completes (.decision t i m) s fun u => u.mast = s.mast ∧ u.mem = s.mem) ∧
    ((s.at t).decFull i m = true → Completes (.decision t i m) s fun u =>
      u.mast = s.mast ∧ u.ring = s.ring ∧ SameRegs (fun o => o = oRcnt i 0x38 ∨ o = oRcnt i 0x20) s u ∧ u.mem = s.mem)) ∧
  (∀ (t : Time) (s : State), s.role = 1 → s.castOn = true → (s.reg (oMst 0x30)).toNat &&& (2 ^ 64 - 1 - s.ring.reefTold) = 0 →
    s.ring.doneSent < s.ownDone → s.ring.candAt + 2 * hopT ≤ t →
    Completes (.doneSend t) s fun u => u.ring.doneSent = s.ownDone ∧ u.ring.candAt = (if s.ring.joined then t else s.ring.candAt) ∧
      u.mem = s.mem ∧ u.regs = s.regs) ∧
  (∀ (t : Time) (k : Fin 64) (s : State), s.combines = true → s.castOn = true → s.contribOn k = true →
    (sget ContribSt.reset k.val s.ring.contribs).absent = false → (sget ContribSt.reset k.val s.ring.contribs).heard + usT 1 ≤ t →
    Completes (.contributorAbsent t k) s fun u =>
      (sget ContribSt.reset k.val u.ring.contribs).absent = true ∧ u.mast.sysAll = true ∧ SentError u 1 4 0 4 ∧ u.mem = s.mem) ∧
  (∀ (t : Time) (i : RingPort) (m : RingMsg) (s : State) (p : PortId) (x : PortSt) (rank b eff : Nat), Heard s i 3 0 m →
    s.ports = [(p.val, x)] → x.link = Link.up → s.isHit p = true → x.cmds = [] → bit (bodyW m (2 + p.val / 64)).toNat (p.val % 64) = true →
    softClass (bf (bodyW m 0) 63 58) = some (rank, b) → bit (dFcMask (s.descB p)) b = true → eff = bf (bodyW m 1) 55 0 * unitT →
    (t + usT 1 ≤ eff → Completes (.fcrel t i m) s fun u => u.mem = s.mem ∧ ∃ c, (u.port p).cmds = [c] ∧
      c.code = bf (bodyW m 0) 63 58 ∧ c.arg = softArg (bf (bodyW m 0) 63 58) (bf (bodyW m 0) 57 36) ∧ c.teff = ((eff : Nat) : Int) ∧
      (t : Int) ≤ refTicks c.ref c.phase ∧ refTicks c.ref c.phase ≤ c.teff) ∧
    (eff < t + usT 1 → Completes (.fcrel t i m) s fun u => u.mem = s.mem ∧ (u.port p).cmds = [] ∧
      (u.reg (oPort p 0x150)).toNat = min (2 ^ 64 - 1) ((s.reg (oPort p 0x150)).toNat + 1)))

/-- The queue's running job has ended with a status and a result: its completion waits for the completion queue. -/
def Sys2Proof.Claims.JobEnded (s u : State) (q : Nat) (j : JobSt) (status : Nat) (result : Word) : Prop :=
  (u.queue q).busy = none ∧ (u.queue q).ended = (s.queue q).ended ++ [(j.idx, status, result)]

/-- Management and bulk messages of the ring (R403, R404, R455): a read or write of another device is served once and answered, a
read of a register of one world with a free value (log entry 90), a write only with MGMT_WR and outside SEC; one answered before is not
executed again; an ACK ends the job of its request, 32 sends without one end it with TIMEOUT; bulk data lands in shared host-visible
memory, any other target takes nothing, and the last answer ends its job. The SEQ of bulk messages and their answers are the model's (log
entry 57). -/
def Obligations.RingManagement : Prop :=
  (∀ (t : Time) (i : RingPort) (m : RingMsg) (s : State) (o : Nat), o = (bodyW m 0).toNat →
    (s.servedFor m.src.toNat m.seq.toNat = none → Heard s i 4 4 m →
      (Completes (.rd t i m) s fun u =>
        ∃ d, u.ring.served.head? = some (m.src.toNat, m.seq.toNat, if barEnd ≤ o then 2 else 0, d)) ∧
      (o = oDev 0x30 → Completes (.rd t i m) s fun u =>
        u.ring.served.head? = some (m.src.toNat, m.seq.toNat, 0, s.reg (oDev 0x30)) ∧ u.mem = s.mem ∧
        SameRegs (· = oRcnt i 0x38) s u) ∧
      (o < barEnd → (worldReg o).isSome = true → Completes (.rd t i m) s fun u =>
        u.ring.served.head? = some (m.src.toNat, m.seq.toNat, 0, s.freeVal) ∧ u.mem = s.mem ∧ SameRegs (· = oRcnt i 0x38) s u)) ∧
    (s.servedFor m.src.toNat m.seq.toNat = none → Heard s i 4 5 m →
      (s.field (oShr 0) 2 2 = 1 → ¬ (oSec 0 ≤ o ∧ o < oFmt 0) → Completes (.wr t i m) s fun u =>
        u.ring.served.head? = some (m.src.toNat, m.seq.toNat, if barEnd ≤ o then 2 else 0, 0)) ∧
      (s.field (oShr 0) 2 2 = 1 → plainReg o → s.pwr.main = true → Completes (.wr t i m) s fun u =>
        u.reg o = regWritten false o (s.reg o) (bodyW m 1) ∧ u.mem = s.mem ∧ SameRegs (fun x => x = oRcnt i 0x38 ∨ x = o) s u) ∧
      (s.field (oShr 0) 2 2 = 0 ∨ oSec 0 ≤ o ∧ o < oFmt 0 → Completes (.wr t i m) s fun u =>
        u.ring.served = s.ring.served ∧ SameRegs (· = oRcnt i 0x38) s u ∧ u.mem = s.mem)) ∧
    ((s.servedFor m.src.toNat m.seq.toNat).isSome = true →
      (Heard s i 4 4 m → Completes (.rd t i m) s fun u =>
        u.ring.served = s.ring.served ∧ SameRegs (· = oRcnt i 0x38) s u ∧ u.mem = s.mem) ∧
      (Heard s i 4 5 m → Completes (.wr t i m) s fun u =>
        u.ring.served = s.ring.served ∧ SameRegs (· = oRcnt i 0x38) s u ∧ u.mem = s.mem))) ∧
  (∀ (t : Time) (i : RingPort) (m : RingMsg) (s : State) (r : PendReq) (j : JobSt), (s.queue r.queue).busy = some j →
    (Heard s i 4 6 m → s.ring.pend.find? (fun r => r.seq == m.seq.toNat && r.msg.dst == m.src) = some r →
      Completes (.ack t i m) s fun u =>
        JobEnded s u r.queue j (if bf (bodyW m 0) 7 0 = 0 then 0 else if bf (bodyW m 0) 7 0 = 1 then 3 else 2)
          (if r.msg.typ.toNat = 4 then bodyW m 1 else BitVec.ofNat 64 (bf (bodyW m 0) 7 0)) ∧
        u.ring.pend = s.ring.pend.filter (fun x => x.queue != r.queue) ∧ u.mem = s.mem) ∧
    (∀ n : BitVec 32, s.ring.pend.find? (fun r => r.seq == n.toNat && decide (r.again ≤ t)) = some r →
      (r.sends < 32 → Completes (.mgmtRetransmit t n) s fun u =>
        u.ring.pend = s.ring.pend.map (fun x => if x.seq = r.seq then
          { r with sends := r.sends + 1, again := t + retryWait (r.sends + 1) } else x) ∧
        ((r.msg.typ = 5 → j.committed = true) → u.regs = s.regs) ∧ u.mem = s.mem) ∧
      (32 ≤ r.sends → Completes (.mgmtRetransmit t n) s fun u =>
        JobEnded s u r.queue j 4 0 ∧ u.ring.pend = s.ring.pend.filter (fun x => x.queue != r.queue) ∧ u.mem = s.mem))) ∧
  (∀ (t : Time) (i : RingPort) (m : RingMsg) (s : State) (a n : Nat) (ws : List Word), Heard s i 5 0 m → a = (bodyW m 0).toNat →
    ws = (m.body.drop 1).take (m.seq.toNat / 2 ^ 25) → n = 8 * ws.length →
    (s.bulkTarget a n = true → s.memDead a = false → s.memDead (a + n - 1) = false → Completes (.bwrite t i m) s fun u =>
      (∀ k, k < n → mrd (a + k) u.mem = (wordBytes ws).getD k 0) ∧ onlyAt s u a n) ∧
    (s.bulkTarget a n = false ∨ s.memDead a = true ∨ s.memDead (a + n - 1) = true → Completes (.bwrite t i m) s fun u =>
      u.mem = s.mem)) ∧
  (∀ (t : Time) (i : RingPort) (m : RingMsg) (s : State) (q : Nat) (j j' : JobSt) (bad : Bool) (n number : Nat), Heard s i 5 1 m →
    s.bulkQueue m.src.toNat = some q → (s.queue q).busy = some j → bad = (bf (bodyW m 0) 7 0 != 0) → number = m.seq.toNat % 2 ^ 25 →
    n = min (8 * bwriteWords) (j.w 4 - number * (8 * bwriteWords)) →
    j' = { j with acked := j.acked + (if bad then 0 else n), refused := j.refused || bad } →
    (j.w 4 ≤ (number + 1) * (8 * bwriteWords) → Completes (.bdone t i m) s fun u =>
      JobEnded s u q j (if j'.acked = j.w 4 ∧ j'.refused = false then 0 else 2) (BitVec.ofNat 64 j'.acked) ∧ u.mem = s.mem) ∧
    ((number + 1) * (8 * bwriteWords) < j.w 4 → Completes (.bdone t i m) s fun u =>
      (u.queue q).busy = some j' ∧ u.mem = s.mem))

/-! ### Queues and jobs (14_host_queues_modes.md) -/

/-- Doorbells, interrupts, enabling and aborts (R446, R447, R450, R451, R454, R457, R458): a valid write of DB moves HOSTIDX, an invalid
one takes the queue to ERROR, one to a disabled queue is counted; ARM arms, an interrupt disarms; a sound descriptor is enabled with its
indexes at zero; an abort is decided by the job's place. What is pending on a host-produced queue, and which indexes lie below CI, are
the model's reading (log entries 55 and 58). -/
def Obligations.QueuesDoorbellsAndAborts : Prop :=
  (∀ (t : Time) (q : QueueId) (v : Word) (s : State),
    (s.qState q = 0 → exec (.doorbellWrite t q v) s = .next ((s.at t).bump (oQue 0x200))) ∧
    (s.qState q ≠ 0 → s.bellOk q (bf v 31 0) = true → Completes (.doorbellWrite t q v) s fun u =>
      u.qHost q = bf v 31 0 ∧ u.qDev q = s.qDev q ∧ u.qState q = s.qState q ∧ SameRegs (· = oQidx q) s u ∧ u.mem = s.mem) ∧
    (s.qState q ≠ 0 → s.bellOk q (bf v 31 0) = false → Completes (.doorbellWrite t q v) s fun u =>
      u.qState q = 2 ∧ u.qHost q = s.qHost q ∧ SentError u 1 9 q 2 ∧ SameRegs (· = oQcfg q) s u ∧ u.mem = s.mem) ∧
    (exec (.doorbellArm t q) s = .next ((s.at t).setField (oQcfg q) 29 29 1)) ∧
    ((s.at t).irqDue q = true → Completes (.queueInterrupt t q) s fun u =>
      u.field (oQcfg q) 29 29 = 0 ∧ u.mem = s.mem ∧
      (s.field (oQcfg q) 50 50 = 0 → u.lastMsi = some (s.field (oQbind q) 63 53)) ∧
      (s.field (oQcfg q) 50 50 = 1 → bit (sget 0 (s.field (oQbind q) 63 53) u.irqs) irqQueue = true)) ∧
    (s.qState q = 0 → ((s.at t).regWrite false (oQcfg q) v).enableBad q = false → Completes (.queueEnable t q v) s fun u =>
      u.qState q = 1 ∧ u.field (oQcfg q) 63 63 = 1 ∧ u.qDev q = 0 ∧ u.qHost q = 0 ∧ (u.queue q).ci = 0 ∧ u.mem = s.mem) ∧
    (s.qState q = 0 → ((s.at t).regWrite false (oQcfg q) v).enableBad q = true → Completes (.queueEnable t q v) s fun u =>
      u.qState q = 0 ∧ u.field (oQcfg q) 63 63 = 0 ∧ u.mem = s.mem) ∧
    (s.qState q ≠ 0 → exec (.queueEnable t q v) s = .next (s.at t)) ∧
    (Completes (.queueDisable t q) s fun u => u.qState q = 0 ∧ u.field (oQcfg q) 63 63 = 0 ∧ u.mem = s.mem) ∧
    (s.field (oQue 0x110) 62 62 = 1 → exec (.abortRequest t v) s = .next ((s.at t).bump (oQue 0x208))) ∧
    (s.field (oQue 0x110) 62 62 = 0 → Completes (.abortRequest t v) s fun u =>
      u.field (oQue 0x110) 62 62 = 1 ∧ u.field (oQue 0x110) 46 32 = bf v 46 32 ∧ u.field (oQue 0x110) 31 0 = bf v 31 0 ∧
      SameRegs (· = oQue 0x110) s u ∧ u.mem = s.mem)) ∧
  (∀ (t : Time) (s : State) (q job : Nat) (j : JobSt), s.field (oQue 0x110) 62 62 = 1 → q = s.field (oQue 0x110) 46 32 →
    job = s.field (oQue 0x110) 31 0 → noEvents s → 6 ≤ s.qType q → (s.queue q).busy = some j → j.committed = false →
    j.idx = (s.queue q).ci → (s.queue q).ci < 2 ^ 32 →
    (0 < idxSub (s.queue q).ci job → idxSub (s.queue q).ci job < 2 ^ 31 → Completes (.abortDecide t) s fun u =>
      u.field (oQue 0x110) 63 60 = 9 ∧ u.queues = s.queues ∧ u.mem = s.mem) ∧
    (job = j.idx → idxSub (s.qHost q) (s.queue q).ci ≠ 0 → Completes (.abortDecide t) s fun u =>
      u.field (oQue 0x110) 63 60 = 8 ∧ JobEnded s u q j 1 0 ∧ (u.queue q).ci = ((s.queue q).ci + 1) % 2 ^ 32 ∧ u.mem = s.mem))

/-- Byte `k` of host memory from `a`. -/
def Sys2Proof.Claims.hostBytes (s : State) (a n : Nat) : List Byte := (List.range n).map fun k => mrd (a + k) s.mem

/-- The queue engine can write `n` bytes at `a`: host memory, or memory whose stacks answer, outside the check blocks. -/
def Sys2Proof.Claims.EngineWrites (s : State) (a n : Nat) : Prop :=
  isHostPa a = true ∨ s.memDead a = false ∧ s.isCheck a = false ∧ s.memDead (a + n - 1) = false ∧ s.isCheck (a + n - 1) = false

/-- The queue engine can read `n` bytes at `a`: host memory, or lines that are clean in memory and in every L2 that holds them. -/
def Sys2Proof.Claims.EngineReads (s : State) (a n : Nat) : Prop :=
  isHostPa a = true ∨ ∀ l, a / 64 ≤ l → l < (a + n + 63) / 64 →
    Clean s (l * 64) ∧ ∀ k, k < 32 → s.l2Find k l = none ∨ InL2 s k (l * 64)

/-- Work of the queue engine (R455, R456, Tables 14.4, 14.5): a job is taken from its queue; NOR jobs copy, erase and program the flash;
ring jobs send their message; the oldest ended job's completion is written to its completion queue. The message format of bulk data is
the model's (log entry 57). -/
def Obligations.JobsOfTheEngine : Prop :=
  (∀ (t : Time) (q : QueueId) (s : State) (i : Instr) (ws : List Word), s.qState q = 1 → 6 ≤ s.qType q → (s.queue q).busy = none →
    (s.queue q).aborted = [] → idxSub (s.qHost q) (s.queue q).ci ≠ 0 → EngineReads s (s.qAddr q (s.queue q).ci) 64 →
    ws = bytesWords (hostBytes s (s.qAddr q (s.queue q).ci) 64) → jobOk (s.qType q) ws = true →
    i ∈ [.norRead t q, .norErase t q, .norProgram t q, .ringRd t q, .ringWr t q, .fcrelJob t q, .bwriteJob t q] →
    Completes i s fun u =>
      (u.queue q).busy = some { idx := (s.queue q).ci, words := ws, committed := false, progress := 0, acked := 0, refused := false,
                                since := t } ∧ u.mem = s.mem ∧
      (isHostPa (s.qAddr q (s.queue q).ci) = true → u.regs = s.regs)) ∧
  (∀ (t : Time) (q : QueueId) (s : State) (j : JobSt), (s.queue q).busy = some j →
    (jobOp j.words = 0x01 → EngineWrites s (j.w 3) (j.w 2) → Completes (.norRead t q) s fun u =>
      JobEnded s u q j 0 (BitVec.ofNat 64 (j.w 2)) ∧ (∀ k, k < j.w 2 → mrd (j.w 3 + k) u.mem = s.flashB (j.w 1 + k)) ∧
      onlyAt s u (j.w 3) (j.w 2) ∧ u.flash = s.flash) ∧
    (jobOp j.words = 0x02 → Completes (.norErase t q) s fun u =>
      JobEnded s u q j 0 (BitVec.ofNat 64 (j.w 2)) ∧ u.mem = s.mem ∧
      ∀ a, u.flashB a = if j.w 1 ≤ a ∧ a < j.w 1 + j.w 2 then 0xFF else s.flashB a) ∧
    (jobOp j.words = 0x03 → EngineReads s (j.w 3) (j.w 2) → (∀ k, k < j.w 2 → s.flashB (j.w 1 + k) = 0xFF) →
      Completes (.norProgram t q) s fun u =>
        JobEnded s u q j 0 (BitVec.ofNat 64 (j.w 2)) ∧ u.mem = s.mem ∧ (∀ k, k < j.w 2 → u.flashB (j.w 1 + k) = mrd (j.w 3 + k) s.mem) ∧
        ∀ a, (a < j.w 1 ∨ j.w 1 + j.w 2 ≤ a) → u.flashB a = s.flashB a) ∧
    (jobOp j.words = 0x10 → j.progress = 0 → Completes (.ringRd t q) s fun u =>
      (u.queue q).busy = some { j with progress := 1, since := t } ∧ u.mem = s.mem ∧ u.regs = s.regs ∧
      ∃ r, u.ring.pend = s.ring.pend ++ [r] ∧ r.queue = q.val ∧ r.sends = 1 ∧ r.msg.cls = 4 ∧ r.msg.typ = 4 ∧
        r.msg.dst = BitVec.ofNat 16 (j.w 1) ∧ r.msg.body = [BitVec.ofNat 64 (j.w 2)]) ∧
    (jobOp j.words = 0x11 → j.progress = 0 → j.committed = false → s.departs (j.w 1) = true → Completes (.ringWr t q) s fun u =>
      (u.queue q).busy = some { j with progress := 1, since := t, committed := true } ∧ u.mem = s.mem ∧
      (u.queue q).ci = ((s.queue q).ci + 1) % 2 ^ 32 ∧
      ∃ r, u.ring.pend = s.ring.pend ++ [r] ∧ r.msg.cls = 4 ∧ r.msg.typ = 5 ∧ r.msg.dst = BitVec.ofNat 16 (j.w 1) ∧
        r.msg.body = [BitVec.ofNat 64 (j.w 2), j.words.getD 3 0]) ∧
    (jobOp j.words = 0x12 → EngineReads s (j.w 4) 64 → s.rstate = 2 → (j.w 3 = 0xFFFF ∨ s.departs (j.w 3) = true) → Completes (.fcrelJob t q) s fun u =>
      JobEnded s u q j 0 64 ∧ u.mem = s.mem) ∧
    (jobOp j.words = 0x20 → s.departs (j.w 1) = true → j.progress < j.w 4 →
      EngineReads s (j.w 3 + j.progress) (min (j.w 4 - j.progress) 616) → Completes (.bwriteJob t q) s fun u =>
      (u.queue q).busy = some { j with committed := true, progress := j.progress + min (j.w 4 - j.progress) 616, since := t } ∧
      u.mem = s.mem)) ∧
  (∀ (t : Time) (q : QueueId) (s : State) (idx status cq a : Nat) (result : Word) (rest : List (Nat × Nat × Word)),
    (s.queue q).busy = none → (s.queue q).ci = s.qHost q → (s.queue q).ended = (idx, status, result) :: rest → cq = s.qCq q →
    (s.qState cq ≠ 1 → Completes (.jobComplete t q) s fun u => (u.queue q).ended = rest ∧ u.regs = s.regs ∧ u.mem = s.mem) ∧
    (s.qState cq = 1 → s.qFull cq = true → Completes (.jobComplete t q) s fun u =>
      u.queues = s.queues ∧ u.regs = s.regs ∧ u.mem = s.mem) ∧
    (s.qState cq = 1 → s.qFull cq = false → a = s.qAddr cq (s.qDev cq) → isHostPa a = true ∨ Takes s a →
     Completes (.jobComplete t q) s fun u =>
      (u.queue q).ended = rest ∧ u.qDev cq = (s.qDev cq + 1) % 2 ^ 32 ∧ bf (mrdW a u.mem) 31 0 = idx % 2 ^ 32 ∧
      bf (mrdW a u.mem) 46 32 = q.val ∧ bf (mrdW a u.mem) 58 56 = status % 8 ∧ mrdW (a + 8) u.mem = result ∧ onlyAt s u a 64))

/-! ### Host-assisted functions (14_host_queues_modes.md) -/

/-- A reply of function `f` has been used up: its job is no longer outstanding, and no register but the index of its completion queue
and no byte of memory has changed. -/
def Sys2Proof.Claims.Replied (s u : State) (f : Nat) (h : HaJob) : Prop :=
  SameRegs (· = oQidx (s.field (oQue (f * 0x10)) 46 32)) s u ∧ u.mem = s.mem ∧
  (u.haFn f).out = (s.haFn f).out.filter fun x => x.job != h.job

/-- At time `t` context `j` of core `c`, with no loop under way, waits with the whole word at its pc for the job `h` of function `f`, and
the core takes the answer while another of its contexts stands at a recognition point. -/
def Sys2Proof.Claims.WaitsFor (t : Time) (s : State) (f c j : Nat) (h : HaJob) (x : SuspSt) : Prop :=
  unitCore h.unit = c ∧ j < 4 ∧ s.suspOf f h = some (j, x) ∧ (s.at t).takesAnswer f h = true ∧ x.ply = 0 ∧ x.next = none ∧
  x.writes = [] ∧ (s.core c).bankOn = false ∧ (s.core c).trap = none ∧ (s.core c).up = true ∧ (s.core c).run = true ∧
  (s.core c).cur ≠ j ∧ (s.ctx c j).flow.pend = [] ∧ (s.ctx c j).flow.branch = none ∧ (s.ctx c j).flow.rep = none ∧
  stLdep (s.ctx c j).spec.st = 0

/-- The word that waited has completed: its context is READY at the next word. -/
def Sys2Proof.Claims.WentOn (s u : State) (c j : Nat) : Prop :=
  (u.ctx c j).susp = none ∧ (u.ctx c j).state = 2 ∧ (u.ctx c j).flow.pc = ((s.ctx c j).flow.pc + 4) % 2 ^ 47 ∧
  (u.core c).cur = (s.core c).cur

/-- Replies of the host (R64, R235, R466, Table 14.9): a stale one is counted only; times, TCORR, watermarks, the values of a slot and a
candidate go where they belong; a word for a closed stitch is late or waits for the next frame; values for a slot already decided are
stale; an end of the evaluation frees the context; a store or a slow path that the host has done lets its word complete, and the reply
stays in its queue while the core takes no answer (log entry 61). -/
def Obligations.RepliesOfTheHost : Prop :=
  (∀ (t : Time) (reply : List Word) (s : State) (f : Nat) (i : Instr),
    (f, i) ∈ [(0, .hitDecodeReply t reply), (1, .orderingReply t reply), (2, .ruleEvalReply t reply), (3, .combineReply t reply),
      (4, .heapKeepReply t reply), (6, .linkCalReply t reply), (7, .slowPathReply t reply)] → s.haFind f reply = none →
    Completes i s fun u => (u.reg (oQue 0x210)).toNat = min (2 ^ 64 - 1) ((s.reg (oQue 0x210)).toNat + 1) ∧
      SameRegs (fun o => o = oQue 0x210 ∨ o = oQidx (s.field (oQue (f * 0x10)) 46 32)) s u ∧ u.mem = s.mem ∧ u.cores = s.cores ∧
      u.rows = s.rows ∧ u.ports = s.ports ∧ u.mast = s.mast ∧ u.ha = s.ha) ∧
  (∀ (t : Time) (reply : List Word) (s : State) (h : HaJob),
    (∀ (p : Nat) (w : Word) (x : Int), s.haFind 0 reply = some h → p = h.unit % 512 → bf (reply.getD 7 0) 2 0 = 1 →
      w = reply.getD 1 0 → x = ((h.base / 16 + replyTime w : Nat) : Int) → reply.length = 8 →
      ((s.port p).closed = true → x < s.stopFine → Completes (.hitDecodeReply t reply) s fun u =>
        u.ports = s.ports ∧ u.rows = s.rows ∧ u.mem = s.mem ∧
        (u.reg (oPort p 0x140)).toNat = min (2 ^ 64 - 1) ((s.reg (oPort p 0x140)).toNat + 1)) ∧
      ((s.port p).closed = true → s.stopFine ≤ x → Completes (.hitDecodeReply t reply) s fun u => Replied s u 0 h ∧
        u.port p = { s.port p with held := (s.port p).held ++ [(x, w)] } ∧ u.rows = s.rows) ∧
      ((s.port p).closed = false → bf w 63 56 = 0x12 → s.classify p x = .pass → Completes (.hitDecodeReply t reply) s fun u =>
        Replied s u 0 h ∧ (u.port p).portTime = some x ∧
        (u.row (p / 16)).inbox = insertDue (t + 3 * stitchT, p % 16, .time ((x - s.startFine) * 16).toNat) (s.row (p / 16)).inbox)) ∧
    (s.haFind 6 reply = some h → Completes (.linkCalReply t reply) s fun u =>
      u.field (oPort (h.unit % 512) 0x18) 23 0 = bf (reply.getD 1 0) 23 0 ∧ u.mem = s.mem ∧
      SameRegs (fun o => o = oPort (h.unit % 512) 0x18 ∨ o = oQidx (s.field (oQue 0x60) 46 32)) s u) ∧
    (s.haFind 1 reply = some h → bf (reply.headD 0) 55 52 = 1 → Completes (.orderingReply t reply) s fun u =>
      Replied s u 1 h ∧ (u.row (h.unit % 32)).haPw = bf (reply.getD 3 0) 27 0 ∧
      sget 0 (bf (reply.getD 1 0) 5 0) (u.row (h.unit % 32)).haFw = bf (reply.getD 2 0) 27 0) ∧
    (s.haFind 1 reply = some h → bf (reply.headD 0) 55 52 ≠ 1 → (s.row (h.unit % 32)).vstate ≠ 2 →
      bf (reply.getD 1 0) 63 56 = 0x10 → (∀ k, 2 ≤ k → k < 7 → reply.getD k 0 = uninit) → reply.length = 8 →
      Completes (.orderingReply t reply) s fun u => ((s.row (h.unit % 32)).line.length < 7 → u.mem = s.mem) ∧
        ∃ x, (u.row (h.unit % 32)).picked = (s.row (h.unit % 32)).picked ++ [x] ∧ x.word = reply.getD 1 0 ∧
          x.stream = bf (reply.getD 7 0) 4 0) ∧
    (s.haFind 3 reply = some h → h.op ≠ 1 →
      (s.mast.next ≤ bf (h.words.getD 1 0) 31 0 → Completes (.combineReply t reply) s fun u =>
        Replied s u 3 h ∧ sget [] (bf (h.words.getD 1 0) 31 0) u.mast.f3 = [reply.getD 1 0, reply.getD 2 0, reply.getD 3 0]) ∧
      (bf (h.words.getD 1 0) 31 0 < s.mast.next → Completes (.combineReply t reply) s fun u => u.mast = s.mast ∧ u.mem = s.mem ∧
        (u.reg (oQue 0x210)).toNat = min (2 ^ 64 - 1) ((s.reg (oQue 0x210)).toNat + 1))) ∧
    (s.haFind 3 reply = some h → h.op = 1 → Completes (.combineReply t reply) s fun u => Replied s u 3 h ∧ u.mast = s.mast) ∧
    (∀ x : Slice, s.haFind 2 reply = some h → s.evalSlice h = some x → (s.clu (cluOf (unitCore h.unit))).slices = [x] →
      (bf (reply.headD 0) 55 52 = 1 → x.staged.length < 64 → Completes (.ruleEvalReply t reply) s fun u => u.mem = s.mem ∧
        (u.clu (cluOf (unitCore h.unit))).slices =
          [{ x with staged := x.staged ++ [((List.range 7).map fun i => reply.getD (i + 1) 0) ++ [0]] }]) ∧
      (bf (reply.headD 0) 55 52 = 0 → Completes (.ruleEvalReply t reply) s fun u => u.mem = s.mem ∧
        (u.clu (cluOf (unitCore h.unit))).slices = [{ x with ended := true }] ∧
        (u.ctx (unitCore h.unit) (unitCtx h.unit)).prog = none ∧ (u.ctx (unitCore h.unit) (unitCtx h.unit)).state = 1 ∧
        (u.haFn 2).out = (s.haFn 2).out.filter fun x => x.job != h.job)) ∧
    ((s.at t).takesAnswer 4 h = false → s.haFind 4 reply = some h → exec (.heapKeepReply t reply) s = .next (s.at t)) ∧
    ((s.at t).takesAnswer 7 h = false → s.haFind 7 reply = some h → exec (.slowPathReply t reply) s = .next (s.at t)) ∧
    (∀ (c j : Nat) (x : SuspSt),
      (s.haFind 4 reply = some h → WaitsFor t s 4 c j h x → bf (reply.headD 0) 51 48 = 0 → Completes (.heapKeepReply t reply) s fun u =>
        Replied s u 4 h ∧ WentOn s u c j ∧ (u.core c).rf = (s.core c).rf) ∧
      (s.haFind 7 reply = some h → WaitsFor t s 7 c j h x → bf (reply.headD 0) 51 48 = 0 → bf (reply.headD 0) 55 52 = 0 →
        Completes (.slowPathReply t reply) s fun u =>
          Replied s u 7 h ∧ WentOn s u c j ∧ u.rf c x.rd = reply.getD 1 0 ∧ ∀ k, k ≠ x.rd → u.rf c k = s.rf c k)))

/-! ### The host's link, error records, supply, start-up -/

/-- Work for the host and its absence (R466, R467, R468, Table 14.9): three gathered blocks of a stitch, or what ten stitch cycles have
gathered, go to the queue of F0; an item without a reply at its deadline is given up, which closes a stitch (F0), stops a row (F1) and
changes nothing for F5 and F6. The CXL link and the host's accesses to device memory (R438, R441, R442, R512, R568): training shows rate
and width, with a record below full speed; while the link is up a read gives the word and a write changes it alone; a refused one changes
nothing and is recorded once for its region; without a link nothing arrives. -/
def Obligations.HostWorkLinkAndMemory : Prop :=
  ((∀ (t : Time) (p : PortId) (s : State) (q a n : Nat) (x : Elastic) (rest : List Elastic),
      s.haOn 0 (p / 16) = true → (s.port p).gathered = x :: rest → n = min 3 (s.port p).gathered.length →
      3 ≤ (s.port p).gathered.length ∨ (s.port p).gatherAt + 10 * stitchT ≤ t → q = s.field (oQue 0) 61 47 →
      (s.qState q = 1 → s.qFull q = false → a = s.qAddr q (s.qDev q) → isHostPa a = true ∨ Takes s a →
        Completes (.hitDecodeWork t p) s fun u =>
          (u.port p).gathered = (s.port p).gathered.drop 3 ∧ u.qDev q = (s.qDev q + 1) % 2 ^ 32 ∧ onlyAt s u a 64 ∧
          mrdW (a + 8) u.mem = BitVec.ofNat 64 x.arr ∧ mrdW (a + 16) u.mem = x.block ∧
          (∀ e, (s.port p).gathered[2]? = some e → mrdW (a + 40) u.mem = BitVec.ofNat 64 e.arr ∧ mrdW (a + 48) u.mem = e.block) ∧
          mrdW (a + 56) u.mem = BitVec.ofNat 64 n ∧ (u.haFn 0).out.length = (s.haFn 0).out.length + 1) ∧
      (s.qState q = 1 → s.qFull q = true → Completes (.hitDecodeWork t p) s fun u =>
        (u.port p).gathered = (s.port p).gathered.drop 3 ∧ (u.haFn 0).stalled.length = (s.haFn 0).stalled.length + 1 ∧
        (u.haFn 0).out = (s.haFn 0).out ∧ u.regs = s.regs ∧ u.mem = s.mem)) ∧
    (∀ (t : Time) (f : Fin 8) (job : BitVec 24) (h : HaJob) (s : State), (s.at t).haLate f job.toNat = some h →
      (f.val = 5 ∨ f.val = 6 → Completes (.haTimeout t f job) s fun u =>
        (u.haFn f).out = (s.haFn f).out.filter (fun x => !(x.job == h.job)) ∧ u.regs = s.regs ∧ u.mem = s.mem) ∧
      (∀ p, f.val = 0 → p = h.unit % 512 → s.castOn = true → (s.port p).closed = false → Completes (.haTimeout t f job) s fun u =>
        (u.port p).closed = true ∧ SentError u 1 0 p 1 ∧ u.mem = s.mem) ∧
      (∀ r, f.val = 1 → r = h.unit % 32 → (s.row r).vstate ≠ 2 → Completes (.haTimeout t f job) s fun u =>
        (u.row r).vstate = 2 ∧ SentError u 2 1 r 5 ∧ (s.histOn r = false → u.mem = s.mem)) ∧
      (f.val = 4 ∨ f.val = 7 → (s.at t).takesAnswer f h = false → exec (.haTimeout t f job) s = .next (s.at t)))) ∧
  ((∀ (t : Time) (gts width : Nat) (s : State), s.pwr.main = true → Completes (.cxlLinkTrained t gts width) s fun u =>
      u.cxl.up = true ∧ u.cxl.rate = gts ∧ u.cxl.width = width ∧ u.regs = s.regs ∧ u.mem = s.mem ∧
      (gts < 64 ∨ width < 16 → SentError u 1 9 0 1) ∧ (64 ≤ gts → 16 ≤ width → u.errs = s.errs)) ∧
    (∀ (t : Time) (s : State) (i : Instr), (i = .cxlLinkDown t ∨ i = .perstN t ∧ s.pwr.enable = true) →
      Completes i s fun u => u.cxl.up = false ∧ u.mem = s.mem ∧
        (s.field (oPwr 8) 3 3 = 0 → u.queues = s.queues ∧ u.regs = s.regs)) ∧
    (∀ (t : Time) (s : State), s.pwr.enable = false → exec (.perstN t) s = .next (s.at t)) ∧
    (∀ (t : Time) (a : BitVec 46) (v : Word) (s : State), s.cxl.up = true → a.toNat < s.stacks * stackSize →
      (s.hostSees a.toNat = true → s.memDead a.toNat = false →
        (Completes (.hostMemoryAccess t a false v) s fun u => u.rdata = mrdW (a.toNat / 8 * 8) s.mem ∧ u.mem = s.mem ∧
          (EngineReads s a.toNat 1 → u.cxl.poison = false)) ∧
        (Completes (.hostMemoryAccess t a true v) s fun u =>
          mrdW (a.toNat / 8 * 8) u.mem = v ∧ onlyAt s u (a.toNat / 8 * 8) 8)) ∧
      (s.hostSees a.toNat = false → ∀ write : Bool, Completes (.hostMemoryAccess t a write v) s fun u =>
        u.mem = s.mem ∧ u.regs = s.regs ∧
        (s.cxl.refused.contains (a.toNat / 0x2000000) = false → SentError u 1 5 (ctlOf a.toNat) 7) ∧
        (s.cxl.refused.contains (a.toNat / 0x2000000) = true → u.errs = s.errs))) ∧
    (∀ (t : Time) (a : BitVec 46) (v : Word) (write : Bool) (s : State), s.cxl.up = false →
      exec (.hostMemoryAccess t a write v) s = .next (s.at t)))

/-- Error records (R554, R555, R557, R578): the event that the writer takes next is written to its entry of ERR_LOG, WRITTEN and its
class's counter advance, and the ERROR source is raised; CLEAR_LOG zeroes ERR_LOG alone and CLEAR_FIRST ERR_FIRST alone; an injected
error is an event of its class. -/
def Obligations.ErrorRecords : Prop :=
  (∀ (t : Time) (s : State) (e : ErrEv) (n : Nat), s.errNext = some e → e.cls < 4 → n = s.field (oErr 0) 31 0 →
    Completes (.errorRecordWrite t) s fun u =>
      u.field (oErr 0) 31 0 = (n + 1) % 2 ^ 32 ∧ u.irqErr = s.irqErr + 1 ∧
      (s.activeQueues 4 = [] → u.errs = s.errs.filter (fun f => f.num != e.num) ∧ u.mem = s.mem) ∧
      (∀ i, i < 8 → u.reg (oErr (0x10000 + n % 1024 * 0x40) + i * 8) = (e.words n).getD i 0) ∧
      (u.reg (oErr (0x100 + e.cls * 8))).toNat = min (2 ^ 64 - 1) ((s.reg (oErr (0x100 + e.cls * 8))).toNat + 1) ∧
      (e.cls = 3 → s.firstFree = true → ∀ i, i < 8 → u.reg (oErr (0x1000 + i * 8)) = (e.words n).getD i 0) ∧
      (e.cls ≠ 3 → ∀ i, i < 8 → u.reg (oErr (0x1000 + i * 8)) = s.reg (oErr (0x1000 + i * 8)))) ∧
  (∀ (t : Time) (s : State), s.errs = [] → exec (.errorRecordWrite t) s = .next (s.at t)) ∧
  (∀ (t : Time) (s : State),
    (Completes (.clearLog t) s fun u => (∀ o, oErr 0x10000 ≤ o → o < oErr 0x20000 → u.reg o = 0) ∧ u.errs = s.errs ∧ u.mem = s.mem ∧
      SameRegs (fun o => oErr 0x10000 ≤ o ∧ o < oErr 0x20000) s u) ∧
    (Completes (.clearFirst t) s fun u => u.firstFree = true ∧ u.errs = s.errs ∧ u.mem = s.mem ∧
      SameRegs (fun o => oErr 0x1000 ≤ o ∧ o < oErr 0x1040) s u) ∧
    (∀ v : Word, Completes (.errInject t v) s fun u => SentError u (bf v 63 62) 13 0 1 ∧ u.errs.length = s.errs.length + 1 ∧
      u.regs = s.regs ∧ u.mem = s.mem))

/-- The device has left operation: its main switch is open, and RESET_CAUSE tells of a power-on of the device domain. -/
def Sys2Proof.Claims.SwitchedOff (u : State) : Prop :=
  u.pwr.main = false ∧ u.field (oDev 8) 15 8 = 1 ∧ u.ports = [] ∧ u.cores = [] ∧ u.frame = State.reset.frame

/-- Supply, pins and device reset (R549, R560 to R563, R568): the switch closes when the input is in range with ENABLE high, and start-up
then runs to step 6; it opens when one of them fails, or latches open on an overcurrent; a device reset needs its key; the AO domain keeps
its state for the hold-up time. -/
def Obligations.SupplyAndReset : Prop :=
  (∀ (t : Time) (s : State), s.pwr.main = false → s.pwr.ao = true → s.pwr.latched = false → s.pwr.shut = false →
    (s.pwr.enable = true → Completes (.undervoltageRelease t) s fun u => u.field (oDev 8) 61 58 = 6 ∧
      (headerValid (s.flashWs 0 512) = false → u.pwr.main = true ∧ u.field (oDev 8) 62 62 = 1)) ∧
    (s.pwr.inRange = true → Completes (.enableHigh t) s fun u => u.field (oDev 8) 61 58 = 6 ∧
      (headerValid (s.flashWs 0 512) = false → u.pwr.main = true ∧ u.field (oDev 8) 62 62 = 1))) ∧
  (∀ (t : Time) (s : State),
    (s.pwr.enable = false → s.pwr.ao = true → Completes (.undervoltageRelease t) s fun u =>
      u.pwr.inRange = true ∧ u.pwr.main = s.pwr.main ∧ u.regs = s.regs) ∧
    (s.pwr.ao = false → Completes (.enableHigh t) s fun u =>
      u.pwr.enable = true ∧ u.pwr.lowAt = none ∧ u.pwr.main = s.pwr.main ∧ u.regs = s.regs) ∧
    (s.pwr.main = true →
      (s.pwr.enable = true → Completes (.enableLow t) s fun u => SwitchedOff u ∧ u.pwr.enable = false ∧ u.pwr.lowAt = some t) ∧
      (Completes (.undervoltageTrip t) s fun u => SwitchedOff u ∧ u.pwr.inRange = false) ∧
      (Completes (.overvoltageTrip t) s fun u => SwitchedOff u ∧ u.pwr.inRange = false) ∧
      (Completes (.inputOvercurrent t) s fun u => SwitchedOff u ∧ u.pwr.latched = true ∧ SentError u 3 10 96 3) ∧
      (s.pwr.enable = true → s.pwr.shut = false → Completes (.resetN t) s fun u => u.field (oDev 8) 61 58 = 6) ∧
      (∀ v : Word, bf v 63 63 = 1 → bf v 15 0 = 0xA55A → s.pwr.shut = false → headerValid (s.flashWs 0 512) = false →
        Completes (.deviceReset t v) s fun u =>
          u.field (oDev 8) 61 58 = 6 ∧ u.field (oDev 8) 62 62 = 1 ∧ u.field (oDev 8) 15 8 = 2 ∧ u.ports = [] ∧ u.cores = [] ∧
          u.flash = s.flash ∧ u.mem = s.mem.filter fun e => decide (0x300000000000 ≤ e.1))) ∧
    (s.pwr.enable = false → exec (.resetN t) s = .next (s.at t)) ∧
    (∀ v : Word, (bf v 63 63 = 0 ∨ bf v 15 0 ≠ 0xA55A) → exec (.deviceReset t v) s = .next (s.at t)) ∧
    (s.pwr.ao = true → s.pwr.main = false → Completes (.aoPowerLoss t) s fun u =>
      u.pwr.ao = false ∧ u.pwr.lostAt = some t ∧ u.pwr.latched = false ∧ u.regs = s.regs) ∧
    (s.pwr.ao = false →
      (∀ t0, s.pwr.lostAt = some t0 → t ≤ t0 + usT 10000 → Completes (.aoStart t) s fun u => u.pwr.ao = true ∧ u.regs = s.regs) ∧
      (s.pwr.lostAt = none → s.fuses.busy = none → Completes (.aoStart t) s fun u =>
        u.pwr.ao = true ∧ (∀ o, u.reg o = regReset o) ∧ u.flash = s.flash ∧ u.fuses = s.fuses)))

/-- SPDM (R483, R488 to R490, Tables 15.13, 15.14): what each request of a connection is answered with, in the order of the negotiation;
only the connection changes. The order itself is the model's choice (log entry 65). -/
def Obligations.SpdmAnswers : Prop :=
  ∀ (x : Transport) (s : State), s.pwr.main = true → s.pwr.shut = false →
    (exec (.getVersion x) s = .next (s.setConn x { SpdmSt.reset with version := true, resp := some (.version 0x13) })) ∧
    ((s.conn x).version = true → exec (.getCapabilities x) s = .next (s.setConn x { s.conn x with
      caps := true, resp := some (.capabilities true true true true (transferOf x) 65536), large := none })) ∧
    ((s.conn x).caps = true → ∀ b : Bool, exec (.negotiateAlgorithms x b) s = .next (s.setConn x { s.conn x with
      algs := some b, resp := some (.algorithms b), large := none })) ∧
    (∀ code : BitVec 8, exec (.unsupportedSpdmRequest x code) s = .next (s.spdmSay x .errUnsupported)) ∧
    (∀ (b c : Bool) (i : BitVec 8) (n : BitVec 256), s.boot.locked = false →
      exec (.challenge x b n) s = .next (s.spdmSay x .errBusy) ∧ exec (.getMeasurements x i c n) s = .next (s.spdmSay x .errBusy)) ∧
    ((s.conn x).large = none → ∀ seq, exec (.chunkGet x seq) s = .next (s.spdmSay x .errUnexpected)) ∧
    (∀ (r : SpdmResp) (n : Nat), (s.conn x).large = some (r, n) →
      (∀ seq, seq ≠ n → exec (.chunkGet x seq) s = .next (s.spdmSay x .errInvalid)) ∧
      (Completes (.chunkGet x n) s fun u => ∃ last start size, (u.conn x).resp = some (.chunk n last start size) ∧
        start = n * (transferOf x - 16) ∧ size ≤ transferOf x - 16 ∧ (last = true ↔ respSize r ≤ start + size) ∧
        (u.conn x).large = if last then none else some (r, n + 1))) ∧
    (∀ alg : Bool, (s.conn x).algs = some alg →
      (exec (.getDigests x) s = .next (s.spdmSay x (.digests (Config.sha3 s.chain)))) ∧
      (∀ slot o l, Config.chainHasKey s.chain = true → slot ≠ 0 ∨ s.chain.length ≤ o →
        exec (.getCertificate x slot o l) s = .next (s.spdmSay x .errInvalid)) ∧
      (∀ o l, Config.chainHasKey s.chain = true → o < s.chain.length → 8 + l ≤ transferOf x →
        exec (.getCertificate x 0 o l) s = .next (s.spdmSay x (.certificate ((s.chain.drop o).take l) (s.chain.length - o -
          ((s.chain.drop o).take l).length)))) ∧
      (s.boot.locked = true → ∀ (b : Bool) (n : BitVec 256),
        (alg = false → exec (.challenge x b n) s = .next (s.spdmSay x .errUnexpected)) ∧
        (alg = true → Completes (.challenge x b n) s fun u => u.regs = s.regs ∧ u.mem = s.mem ∧
          ∃ sum nonce sig, (u.conn x).resp = some (.challengeAuth (Config.sha3 s.chain) sum nonce sig) ∧ sum.isSome = b) ∧
        (∀ i : BitVec 8, 1 ≤ i.toNat → i.toNat ≤ 24 → Completes (.getMeasurements x i false n) s fun u => u.regs = s.regs ∧ u.mem = s.mem ∧
          ∃ nonce, (u.conn x).resp = some (.measurements [s.digBlock (i.toNat - 1)] nonce none)) ∧
        (∀ i : BitVec 8, 0x18 < i.toNat → i.toNat < 0x41 →
          exec (.getMeasurements x i false n) s = .next (s.spdmSay x .errInvalid))))

/-! ### Power, clocks, temperature, fuses (15, 16, 17, 19) -/

/-- Steps 6 to 9 of start-up (R354, R470, R471, R475): the fill of every stack ends Memory_Active and, in a bare start, leads to step 7; warm
lasers let the ports leave OFF; START_LOCK locks the LCK fields and ends at step 9, or at step 8 in a bare start. Fuses (R553): a command
with its key starts one operation; its end blows a fuse and shows the result. -/
def Obligations.StartUpStepsAndFuses : Prop :=
  ((∀ (t : Time) (s : State), s.pwr.main = true → (∀ m, m < s.stacks → s.filled m = true) →
      (s.bootStep ≠ 6 → exec (.fillDone t) s = .next { s.at t with memActive := true }) ∧
      (s.bootStep = 6 → s.bare = true → Completes (.fillDone t) s fun u =>
        u.memActive = true ∧ u.bootStep = 7 ∧ u.mem = s.mem)) ∧
    (∀ (t : Time) (s : State),
      (s.bootStep ≠ 7 → exec (.laserWarmupDone t) s = .next (s.at t)) ∧
      (s.bootStep = 7 → s.bare = false → noEvents s → Completes (.laserWarmupDone t) s fun u => u.boot.warm = true ∧ u.mem = s.mem)) ∧
    (∀ (t : Time) (s : State), s.bootStep = 7 → s.boot.locked = false →
      (s.bare = true → Completes (.startLock t) s fun u => u.boot.locked = true ∧ u.bootStep = 8 ∧ u.mem = s.mem) ∧
      (s.bare = false → s.boot.warm = true → Completes (.startLock t) s fun u => u.boot.locked = true ∧ u.bootStep = 9))) ∧
  ((∀ (t : Time) (v : Word) (s : State), s.fuses.busy = none → bf v 49 48 ≤ 1 → bf v 15 0 = 0x4655 →
      (s.fuseData.any (· != 0) = true → Completes (.fuseProgram t v) s fun u =>
        u.fuses = { s.fuses with busy := some (1, bf v 49 48, s.fuseData) } ∧ u.field (oSec 0) 63 63 = 1 ∧ SameRegs (· = oSec 0) s u) ∧
      (Completes (.fuseRevoke t v) s fun u =>
        u.fuses = { s.fuses with busy := some (2, bf v 49 48, s.fuseData) } ∧ u.field (oSec 0) 63 63 = 1 ∧ SameRegs (· = oSec 0) s u)) ∧
    (∀ (t : Time) (v : Word) (s : State), s.fuses.busy.isSome = true →
      exec (.fuseProgram t v) s = .next (s.at t) ∧ exec (.fuseRevoke t v) s = .next (s.at t)) ∧
    (∀ (t : Time) (rb d : List Word) (k : Nat) (s : State), k ≤ 1 → d.length = 4 → rb.length = 4 →
      (s.fuses.busy = some (1, k, d) → s.fuses.used k = false → Completes (.fuseDone t rb) s fun u =>
        u.fuses.busy = none ∧ (if k = 0 then u.fuses.digest0 else u.fuses.digest1) = some rb ∧ u.field (oSec 0) 63 63 = 0 ∧
        u.field (oSec 0) 62 60 = (if rb = d then 1 else 4) ∧ (rb ≠ d → SentError u 1 12 0 1) ∧ u.mem = s.mem) ∧
      (s.fuses.busy = some (1, k, d) → s.fuses.used k = true → Completes (.fuseDone t rb) s fun u =>
        u.fuses = { s.fuses with busy := none } ∧ u.field (oSec 0) 62 60 = 2 ∧ u.mem = s.mem) ∧
      (s.fuses.busy = some (2, k, d) → Completes (.fuseDone t rb) s fun u =>
        (if k = 0 then u.fuses.revoked0 else u.fuses.revoked1) = true ∧ u.field (oSec 0) 62 60 = 1 ∧ u.mem = s.mem)))

/-- PLLs and crossings (R271, R494, R511, R513): a loss of lock stops a row and takes the cores of a cluster out, with a record; lock that
returns is noted; the fourth disagreeing pair of samples counts a HOLD; a stall is recorded once. Temperature (R508, R532, R573): readings
are shown by their sensors; at 105 °C the device throttles and at 115 °C it shuts down with RESET_CAUSE 3. -/
def Obligations.ClocksCrossingsAndTemperature : Prop :=
  ((∀ (t : Time) (s : State),
      (∀ r : RowId, s.domain (32 + r.val) ≠ 0 → (s.pll r).lost = false →
        Completes (.pllLockLoss t (.row r)) s fun u => (u.pll r).lost = true ∧ (u.row r).vstate = 2 ∧
          (∃ e ∈ u.errs, e.num = s.errNum ∧ e.cls = 2 ∧ e.src = 1 ∧ e.unit = r.val ∧ e.code = 7) ∧
          ((s.row r).vstate = 2 → u.regs = s.regs ∧ u.mem = s.mem)) ∧
      (∀ c : ClusterId, s.domain c ≠ 0 → (s.pll (32 + c)).lost = false →
        Completes (.pllLockLoss t (.cluster c)) s fun u => (u.pll (32 + c)).lost = true ∧
          (∃ e ∈ u.errs, e.num = s.errNum ∧ e.cls = 2 ∧ e.src = 2 ∧ e.unit = c.val ∧ e.code = 6) ∧
          ∀ i, i < 16 → (s.core (c.val * 16 + i)).up = true → (u.core (c.val * 16 + i)).out = true) ∧
      (∀ r : RowId, (s.pll r).lost = true → (s.pll r).trying = true → (s.pll r).locked = none →
        Completes (.pllLockGained t (.row r)) s fun u => (u.pll r).locked = some t ∧ u.regs = s.regs ∧ u.mem = s.mem) ∧
      (∀ e, exec (.pllLockGained t (.optical e)) s = .next (s.at t)) ∧
      (∀ n, exec (.crossingHold t (List.replicate n true)) s = .next ((s.at t).bumpN (oPwr 0x600) 0)) ∧
      (∀ n, exec (.crossingHold t (List.replicate n false)) s =
        .next ((s.at t).bumpN (oPwr 0x600) (if n < 4 then 0 else 1)))) ∧
    (∀ (t : Time) (cls : Fin 6) (d : DomainId) (s : State), s.farOff cls d = true →
      (s.pwr.stalls.contains (cls.val, d.val) = false → Completes (.crossingStallTimeout t cls d) s fun u =>
        (cls.val, d.val) ∈ u.pwr.stalls ∧ SentError u 1 10 d 2 ∧ u.regs = s.regs ∧ u.mem = s.mem) ∧
      (s.pwr.stalls.contains (cls.val, d.val) = true → exec (.crossingStallTimeout t cls d) s = .next (s.at t)))) ∧
  (∀ (t : Time) (readings : List (BitVec 12)) (j : Int) (s : State), s.pwr.ao = true → s.pwr.main = true → s.pwr.shut = false →
      readings.length = 60 → s.junction readings = some j →
      (j < 420 → Completes (.temperatureSample t readings) s fun u =>
        u.pwr.shut = false ∧ u.pwr.throttled = s.pwr.throttled ∧ u.mem = s.mem ∧
        ∀ k, k < 60 → s.sensorOk k = true →
          u.field (oTemp k) 63 63 = 1 ∧ u.field (oTemp k) 11 0 = (readings.getD k 0).toNat) ∧
      (420 ≤ j → j < 460 → s.pwr.throttled = false → Completes (.temperatureSample t readings) s fun u =>
        u.pwr.throttled = true ∧ SentError u 1 7 0 9 ∧ u.mem = s.mem) ∧
      (460 ≤ j → Completes (.temperatureSample t readings) s fun u =>
        u.pwr.shut = true ∧ u.field (oDev 8) 15 8 = 3 ∧ u.ports = [] ∧ u.cores = []))

/-- The time base and the spike inputs (R515, R517, R522, R528, R531): a short SYNC pulse is counted only, another gives the error of the
count, or the count itself when it is to be set; the source's loss and return move TSTATE; an edge of an enabled input in the frame goes to its row; calibration of the TDCs runs
outside frames. -/
def Obligations.TimeBaseAndSpikes : Prop :=
  (∀ (t : Time) (w : Nat) (s : State),
    (w < 5000 → exec (.syncEdge t w) s = .next ((s.at t).bump (oTmg 0x628))) ∧
    (5000 ≤ w → s.field (oTmg 0) 55 55 = 0 → Completes (.syncEdge t w) s fun u =>
      u.field (oTmg 0x40) 55 0 = lowBits 56 ((devUnits t : Int) - (s.field (oTmg 0x28) 39 16 : Int) - (s.field (oTmg 0x30) 55 0 : Int)) ∧
      u.field (oTmg 0x30) 55 0 = (s.field (oTmg 0x30) 55 0 + s.field (oTmg 0x38) 55 0) % 2 ^ 56 ∧
      SameRegs (fun o => o = oTmg 0x40 ∨ o = oTmg 0x30) s u ∧ u.mem = s.mem) ∧
    (5000 ≤ w → s.field (oTmg 0) 55 55 = 1 → Completes (.syncEdge t w) s fun u => u.field (oTmg 0) 55 55 = 0 ∧ u.mem = s.mem)) ∧
  (∀ (t : Time) (s : State),
    (s.tstate = 2 → Completes (.sourceLost t) s fun u => u.tstate = 3 ∧ SentError u 1 7 0 3 ∧ u.mem = s.mem ∧
      SameRegs (fun o => o = oTmg 8 ∨ o = oTmg 0x618) s u) ∧
    (s.tstate ≠ 2 → exec (.sourceLost t) s = .next (s.at t)) ∧
    (exec (.timeLocked t) s = .next (if s.tstate = 1 then (s.at t).setField (oTmg 8) 63 61 2 else s.at t)) ∧
    (exec (.sourceRestored t) s = .next (if s.tstate = 3 then (s.at t).setField (oTmg 8) 63 61 1 else s.at t))) ∧
  (∀ (t : Time) (i : SpikeId) (s : State),
    (s.spikeOn i = false → exec (.spikeEdge t i) s = .next (s.at t)) ∧
    (s.spikeOn i = true → s.time.tdc = none → (s.spike i).lastEdge = none → (s.spike i).closed = false → (s.spike i).cnt < 1000 →
      0 ≤ s.spikeRel i t → s.spikeRel i t < (s.keyL : Int) → Completes (.spikeEdge t i) s fun u =>
        (u.row (i.val / 2)).inbox = insertDue (t + 5 * stitchT, 16 + i.val % 2,
          .hit (mkTag 0x11 (i.val * 2 ^ 50 + (s.spikeRel i t).toNat)) (s.spikeRegion i)) (s.row (i.val / 2)).inbox ∧
        (u.spike i).lastEdge = some t ∧ u.mem = s.mem ∧ SameRegs (· = oSpk i 0) s u)) ∧
  (∀ (t : Time) (s : State), s.time.tdc = none →
    (s.castOn = false → Completes (.tdcCalStart t) s fun u =>
      u.time.tdc = some t ∧ u.field (oTmg 0x58) 58 56 = 1 ∧ u.mem = s.mem ∧ SameRegs (· = oTmg 0x58) s u) ∧
    (s.castOn = true → Completes (.tdcCalStart t) s fun u =>
      u.time.tdc = none ∧ u.time.tdcWait = true ∧ u.field (oTmg 0x58) 58 56 = 2 ∧ u.mem = s.mem)) ∧
  (∀ (t t0 : Time) (s : State) (l : List SpikeId), s.time.tdc = some t0 → t0 + usT 1050 ≤ t → Completes (.tdcCalDone t l) s fun u =>
    u.time.tdc = none ∧ u.field (oTmg 0x58) 58 56 = (if l = [] then 3 else 4) ∧ u.errs.length = s.errs.length + l.length ∧ u.mem = s.mem)

/-- Power domains (R498 to R505): a request for an optical engine to be HOT begins a transition, one for a row to leave HOT waits for the next
cast-on, those of clusters and fixed domains are ignored; the end of an engine's descent sets its state; a quiet cluster descends to the
floor of the gap at once and to that of the frame after its idle time, to OFF after its dirty lines are written back; an idle controller
enters WARM. Self-test of a cluster (R586 to R589): it starts on a cluster that is OFF, WARM or quiet, is refused while the cluster works,
or waits for it to drain; at its end the caches are empty, the domain returns to its state, and what was found is shown and recorded. -/
def Obligations.PowerDomainsAndSelfTest : Prop :=
  ((∀ (t : Time) (d : DomainId) (v : BitVec 2) (s : State), s.domAbsent d = false → domHas d v.toNat = true → s.moving d = none →
      sget [] d.val s.pwr.waitq = [] → s.domain d ≠ v.toNat →
      (64 ≤ d.val → d.val < 80 → v = 2 → Completes (.domainRequest t d v) s fun u =>
        u.moving d = some 2 ∧ u.domain d = s.domain d ∧ u.field (oDom d) 63 62 = 2 ∧ u.field (oDom d) 59 59 = 1 ∧
        SameRegs (· = oDom d) s u ∧ u.mem = s.mem) ∧
      (32 ≤ d.val → d.val < 64 → v.toNat < 2 → Completes (.domainRequest t d v) s fun u =>
        u.moving d = none ∧ u.domain d = s.domain d ∧ sget [] d.val u.pwr.waitq = [v.toNat] ∧ u.field (oDom d) 63 62 = v.toNat ∧
        SameRegs (· = oDom d) s u ∧ u.mem = s.mem)) ∧
    (∀ (t : Time) (d : DomainId) (v : BitVec 2) (s : State), d.val < 32 ∨ 92 ≤ d.val → exec (.domainRequest t d v) s = .next (s.at t)) ∧
    (∀ (t : Time) (d : DomainId) (v : Nat) (s : State), 64 ≤ d.val → d.val < 80 → v < 2 → s.moving d = some v →
      sget [] d.val s.pwr.waitq = [] → Completes (.domainTransitionDone t d) s fun u =>
        u.domain d = v ∧ u.moving d = none ∧ u.field (oDom d) 59 59 = 0 ∧ SameRegs (· = oDom d) s u ∧ u.mem = s.mem) ∧
    (∀ (t : Time) (c : ClusterId) (s : State) (w : Word) (floor : Nat), s.boot.locked = true → s.quiet c = true →
      w = s.effNow (oPwr (0x400 + c.val * 8)) → ((s.at t).inGap = false → (s.clu c).idleAt + bf w 15 0 * 1280000 ≤ t) →
      s.moving c = none → (s.clu c).bist = 0 → floor = (if (s.at t).inGap then bf w 63 62 else bf w 61 60) → s.domain c ≠ floor →
      Completes (.clusterIdle t c) s fun u =>
        u.moving c = some floor ∧ (floor = 0 → (u.clu c).writeback = true) ∧ u.field (oDom c) 63 62 = floor ∧
        SameRegs (· = oDom c) s u ∧ u.mem = s.mem) ∧
    (∀ (t : Time) (c : ClusterId) (s : State), (s.clu c).writeback = true → s.moving c = some 0 → sget [] c.val s.pwr.waitq = [] →
      Completes (.clusterWritebackDone t c) s fun u =>
        u.domain c = 0 ∧ u.moving c = none ∧ (u.clu c).l2 = [] ∧ (u.clu c).tlb = [] ∧ (u.clu c).writeback = false ∧
        (∀ i, i < 16 → (u.core (c.val * 16 + i)).up = false) ∧ u.mem = s.mem) ∧
    (∀ (t : Time) (m : CtlId) (s : State), s.field (oPwr 0) 63 63 = 1 → s.inService (80 + m.val) = true →
      sget 0 m.val s.pwr.memAt + usT (s.field (oPwr 0) 15 0) ≤ t → Completes (.hbmIdle t m) s fun u =>
        u.domain (80 + m.val) = 1 ∧ SameRegs (· = oDom (80 + m.val)) s u ∧ u.mem = s.mem)) ∧
  (∀ (t : Time) (c : ClusterId) (s : State),
      ((s.clu c).bist = 0 → s.moving c = none →
        (s.domain c < 2 ∨ s.quiet c = true → s.domain c ≤ 2 → ∀ i : Instr, i = .bistStart t c ∨ i = .bistDrain t c → Completes i s fun u =>
          (u.clu c).bist = 1 ∧ (u.clu c).bistBack = s.domain c ∧ u.field (oBist c) 61 59 = 1 ∧ u.mem = s.mem ∧
          (s.domain c = 0 → SameRegs (· = oBist c) s u)) ∧
        (2 ≤ s.domain c → s.quiet c = false →
          (exec (.bistStart t c) s = .next ((s.at t).setField (oBist c) 61 59 2)) ∧
          (Completes (.bistDrain t c) s fun u =>
            (u.clu c).bist = 5 ∧ (u.clu c).bistBack = 1 ∧ u.field (oBist c) 61 59 = 5 ∧ SameRegs (· = oBist c) s u ∧ u.mem = s.mem))) ∧
      (∀ f : BistFinding, (s.clu c).bist = 1 → (s.clu c).bistBack < 3 → Completes (.bistDone t c f) s fun u =>
        (u.clu c).bist = 0 ∧ (u.clu c).l2 = [] ∧ (u.clu c).tlb = [] ∧ u.domain c = (s.clu c).bistBack ∧ u.mem = s.mem ∧
        (f.cores = 0 → f.ways = 0 → f.tlb = false → u.field (oBist c) 61 59 = 3 ∧ u.errs = s.errs) ∧
        (f.cores ≠ 0 → u.field (oBist c) 61 59 = 4 ∧
          (∃ e ∈ u.errs, e.num = s.errNum ∧ e.cls = 2 ∧ e.src = 2 ∧ e.unit = c.val ∧ e.code = 8) ∧
          ∀ i, i < 16 → bit f.cores.toNat i = true → (u.core (c.val * 16 + i)).out = true)))
end

