-- ==== Sys2Proof/Laws/Sparse.lean ====
section
/-! SUPPORT. Laws of sparse tables: what a key reads as after a write, and that writes, removals and filters keep the canonical form. -/

namespace Sys2Proof.Machine

variable {α : Type}

@[simp] theorem sget_nil (d : α) (k : Nat) : sget d k [] = d := rfl

theorem sget_serase_self (d : α) (k : Nat) (l : Sparse α) : sget d k (serase k l) = d := by
  induction l with
  | nil => rfl
  | cons e l ih => obtain ⟨j, v⟩ := e; by_cases h : j = k <;> simp [serase, sget, h, ih]

theorem sget_serase_ne (d : α) {j k : Nat} (h : j ≠ k) (l : Sparse α) : sget d j (serase k l) = sget d j l := by
  induction l with
  | nil => rfl
  | cons e l ih =>
    obtain ⟨i, v⟩ := e
    by_cases hi : i = k
    · subst hi; simp [serase, sget, ih, Ne.symm h]
    · simp [serase, sget, hi, ih]

theorem sget_sinsert_self (d : α) (k : Nat) (v : α) (l : Sparse α) : sget d k (sinsert k v (serase k l)) = v := by
  induction l with
  | nil => simp [serase, sinsert, sget]
  | cons e l ih =>
    obtain ⟨j, w⟩ := e
    by_cases hj : j = k
    · simpa [serase, hj] using ih
    · by_cases hk : k < j <;> simp [serase, sinsert, sget, hj, hk, ih]

theorem sget_sinsert_ne (d : α) {j k : Nat} (h : j ≠ k) (v : α) (l : Sparse α) : sget d j (sinsert k v l) = sget d j l := by
  induction l with
  | nil => simp [sinsert, sget, Ne.symm h]
  | cons e l ih =>
    obtain ⟨i, w⟩ := e
    by_cases hk : k < i <;> simp [sinsert, sget, hk, Ne.symm h, ih]

/-- A written key reads as what was written. -/
@[simp] theorem sget_sset_self [DecidableEq α] (d : α) (k : Nat) (v : α) (l : Sparse α) : sget d k (sset d k v l) = v := by
  by_cases h : v = d
  · simp [sset, h, sget_serase_self]
  · simp [sset, h, sget_sinsert_self]

/-- Every other key reads as before, whatever an unlisted key reads as. -/
theorem sget_sset_ne [DecidableEq α] (d e : α) {j k : Nat} (h : j ≠ k) (v : α) (l : Sparse α) : sget e j (sset d k v l) = sget e j l := by
  by_cases hv : v = d
  · simp [sset, hv, sget_serase_ne e h]
  · simp [sset, hv, sget_sinsert_ne e h, sget_serase_ne e h]

theorem sget_sset [DecidableEq α] (d : α) (j k : Nat) (v : α) (l : Sparse α) : sget d j (sset d k v l) = if j = k then v else sget d j l := by
  by_cases h : j = k
  · subst h; simp
  · simp [h, sget_sset_ne d d h]

theorem serase_serase (k : Nat) (l : Sparse α) : serase k (serase k l) = serase k l := by
  induction l with
  | nil => rfl
  | cons e l ih => obtain ⟨j, v⟩ := e; by_cases h : j = k <;> simp [serase, h, ih]

theorem serase_sinsert (k : Nat) (v : α) (l : Sparse α) : serase k (sinsert k v l) = serase k l := by
  induction l with
  | nil => simp [sinsert, serase]
  | cons e l ih =>
    obtain ⟨j, w⟩ := e
    by_cases hk : k < j
    · simp [sinsert, hk, serase]
    · by_cases hj : j = k <;> simp [sinsert, hk, serase, hj, ih]

/-- Of two writes of one key the second stands. -/
@[simp] theorem sset_sset [DecidableEq α] (d : α) (k : Nat) (v w : α) (l : Sparse α) : sset d k v (sset d k w l) = sset d k v l := by
  have h : serase k (sset d k w l) = serase k l := by
    by_cases hw : w = d <;> simp [sset, hw, serase_serase, serase_sinsert]
  by_cases hv : v = d
  · rw [sset, if_pos hv, h, sset, if_pos hv]
  · rw [sset, if_neg hv, h, sset, if_neg hv]

/-! ### The canonical form -/

theorem keysAbove_trans {i j : Nat} (h : i < j) {l : Sparse α} (hl : keysAbove j l = true) : keysAbove i l = true := by
  induction l with
  | nil => rfl
  | cons e l ih =>
    obtain ⟨k, v⟩ := e
    simp only [keysAbove, Bool.and_eq_true, decide_eq_true_eq] at hl ⊢
    exact ⟨by omega, ih hl.2⟩

theorem keysAbove_serase {j k : Nat} {l : Sparse α} (h : keysAbove j l = true) : keysAbove j (serase k l) = true := by
  induction l with
  | nil => rfl
  | cons e l ih =>
    obtain ⟨i, v⟩ := e
    simp only [keysAbove, Bool.and_eq_true, decide_eq_true_eq] at h
    by_cases hi : i = k <;> simp [serase, hi, keysAbove, ih h.2]
    exact h.1

theorem keysAbove_sinsert {j k : Nat} {v : α} {l : Sparse α} (hj : j < k) (h : keysAbove j l = true) :
    keysAbove j (sinsert k v l) = true := by
  induction l with
  | nil => simp [sinsert, keysAbove, hj]
  | cons e l ih =>
    obtain ⟨i, w⟩ := e
    simp only [keysAbove, Bool.and_eq_true, decide_eq_true_eq] at h
    by_cases hk : k < i <;> simp [sinsert, hk, keysAbove, hj, h.1, h.2, ih h.2]

theorem swf_serase [DecidableEq α] {d : Nat → α} {k : Nat} {l : Sparse α} (h : swf d l = true) : swf d (serase k l) = true := by
  induction l with
  | nil => rfl
  | cons e l ih =>
    obtain ⟨i, v⟩ := e
    simp only [swf, Bool.and_eq_true] at h
    by_cases hi : i = k
    · simpa [serase, hi] using ih h.2
    · simp only [serase, hi, if_false, swf, Bool.and_eq_true]
      exact ⟨⟨h.1.1, keysAbove_serase h.1.2⟩, ih h.2⟩

theorem swf_sinsert [DecidableEq α] {d : Nat → α} {k : Nat} {v : α} {l : Sparse α} (hv : v ≠ d k) (hk : ∀ e ∈ l, e.1 ≠ k) (h : swf d l = true) :
    swf d (sinsert k v l) = true := by
  induction l with
  | nil => simp [sinsert, swf, keysAbove, hv]
  | cons e l ih =>
    obtain ⟨i, w⟩ := e
    simp only [swf, Bool.and_eq_true, decide_eq_true_eq] at h
    have hi : i ≠ k := hk (i, w) (by simp)
    by_cases hki : k < i
    · simp [sinsert, hki, swf, keysAbove, hv, h.1.1, h.1.2, h.2, keysAbove_trans hki h.1.2]
    · have hki' : i < k := by omega
      simp [sinsert, hki, swf, h.1.1, keysAbove_sinsert hki' h.1.2, ih (fun e he => hk e (by simp [he])) h.2]

theorem serase_no_key (k : Nat) (l : Sparse α) : ∀ e ∈ serase k l, e.1 ≠ k := by
  induction l with
  | nil => simp [serase]
  | cons e l ih =>
    obtain ⟨j, v⟩ := e
    by_cases h : j = k
    · simpa [serase, h] using ih
    · simpa [serase, h] using ih

/-- A write keeps the canonical form. -/
theorem swf_sset [DecidableEq α] {d : Nat → α} {k : Nat} {v : α} {l : Sparse α} (h : swf d l = true) : swf d (sset (d k) k v l) = true := by
  by_cases hv : v = d k
  · simpa [sset, hv] using swf_serase h
  · simpa [sset, hv] using swf_sinsert hv (serase_no_key k l) (swf_serase h)

theorem keysAbove_filter {j : Nat} {p : Nat × α → Bool} {l : Sparse α} (h : keysAbove j l = true) :
    keysAbove j (l.filter p) = true := by
  induction l with
  | nil => rfl
  | cons e l ih =>
    obtain ⟨i, v⟩ := e
    simp only [keysAbove, Bool.and_eq_true, decide_eq_true_eq] at h
    by_cases hp : p (i, v) = true
    · simp [hp, keysAbove, h.1, ih h.2]
    · simpa [List.filter_cons, hp] using ih h.2

/-- Dropping entries keeps the canonical form. -/
theorem swf_filter [DecidableEq α] {d : Nat → α} {p : Nat × α → Bool} {l : Sparse α} (h : swf d l = true) : swf d (l.filter p) = true := by
  induction l with
  | nil => rfl
  | cons e l ih =>
    obtain ⟨i, v⟩ := e
    simp only [swf, Bool.and_eq_true] at h
    by_cases hp : p (i, v) = true
    · simp only [List.filter_cons, hp, if_true, swf, Bool.and_eq_true]
      exact ⟨⟨h.1.1, keysAbove_filter h.1.2⟩, ih h.2⟩
    · simpa [List.filter_cons, hp] using ih h.2

/-- A key above every listed key reads as unlisted. -/
theorem sget_of_keysAbove {d : α} {j : Nat} {l : Sparse α} (h : keysAbove j l = true) : sget d j l = d := by
  induction l with
  | nil => rfl
  | cons e l ih =>
    obtain ⟨i, v⟩ := e
    simp only [keysAbove, Bool.and_eq_true, decide_eq_true_eq] at h
    have : i ≠ j := by omega
    simp [sget, this, ih h.2]

end Sys2Proof.Machine
end

