-- ==== Sys2Proof/Laws/State.lean ====
section
/-! SUPPORT. What each update of the state leaves: one lemma for each update and each field that it does not write, and what the
accessors of a table show after an entry has been written. -/

namespace Sys2Proof.Machine

/-! ### State.at -/

@[simp] theorem State.at_pending (s : State) (t : Time) : (s.at t).pending = s.pending := rfl
@[simp] theorem State.at_free (s : State) (t : Time) : (s.at t).free = s.free := rfl
@[simp] theorem State.at_small (s : State) (t : Time) : (s.at t).small = s.small := rfl
@[simp] theorem State.at_rdata (s : State) (t : Time) : (s.at t).rdata = s.rdata := rfl
@[simp] theorem State.at_regs (s : State) (t : Time) : (s.at t).regs = s.regs := rfl
@[simp] theorem State.at_eff (s : State) (t : Time) : (s.at t).eff = s.eff := rfl
@[simp] theorem State.at_raised (s : State) (t : Time) : (s.at t).raised = s.raised := rfl
@[simp] theorem State.at_errs (s : State) (t : Time) : (s.at t).errs = s.errs := rfl
@[simp] theorem State.at_errNum (s : State) (t : Time) : (s.at t).errNum = s.errNum := rfl
@[simp] theorem State.at_frame (s : State) (t : Time) : (s.at t).frame = s.frame := rfl
@[simp] theorem State.at_ports (s : State) (t : Time) : (s.at t).ports = s.ports := rfl
@[simp] theorem State.at_chans (s : State) (t : Time) : (s.at t).chans = s.chans := rfl
@[simp] theorem State.at_regionS (s : State) (t : Time) : (s.at t).regionS = s.regionS := rfl
@[simp] theorem State.at_regionA (s : State) (t : Time) : (s.at t).regionA = s.regionA := rfl
@[simp] theorem State.at_dmapS (s : State) (t : Time) : (s.at t).dmapS = s.dmapS := rfl
@[simp] theorem State.at_dmapA (s : State) (t : Time) : (s.at t).dmapA = s.dmapA := rfl
@[simp] theorem State.at_rows (s : State) (t : Time) : (s.at t).rows = s.rows := rfl
@[simp] theorem State.at_wms (s : State) (t : Time) : (s.at t).wms = s.wms := rfl
@[simp] theorem State.at_xbar (s : State) (t : Time) : (s.at t).xbar = s.xbar := rfl
@[simp] theorem State.at_cluIn (s : State) (t : Time) : (s.at t).cluIn = s.cluIn := rfl
@[simp] theorem State.at_wmIn (s : State) (t : Time) : (s.at t).wmIn = s.wmIn := rfl
@[simp] theorem State.at_spikes (s : State) (t : Time) : (s.at t).spikes = s.spikes := rfl
@[simp] theorem State.at_time (s : State) (t : Time) : (s.at t).time = s.time := rfl
@[simp] theorem State.at_reports (s : State) (t : Time) : (s.at t).reports = s.reports := rfl
@[simp] theorem State.at_queues (s : State) (t : Time) : (s.at t).queues = s.queues := rfl
@[simp] theorem State.at_ha (s : State) (t : Time) : (s.at t).ha = s.ha := rfl
@[simp] theorem State.at_lastMsi (s : State) (t : Time) : (s.at t).lastMsi = s.lastMsi := rfl
@[simp] theorem State.at_irqErr (s : State) (t : Time) : (s.at t).irqErr = s.irqErr := rfl
@[simp] theorem State.at_irqCast (s : State) (t : Time) : (s.at t).irqCast = s.irqCast := rfl
@[simp] theorem State.at_irqBind (s : State) (t : Time) : (s.at t).irqBind = s.irqBind := rfl
@[simp] theorem State.at_irqs (s : State) (t : Time) : (s.at t).irqs = s.irqs := rfl
@[simp] theorem State.at_outqs (s : State) (t : Time) : (s.at t).outqs = s.outqs := rfl
@[simp] theorem State.at_ring (s : State) (t : Time) : (s.at t).ring = s.ring := rfl
@[simp] theorem State.at_mast (s : State) (t : Time) : (s.at t).mast = s.mast := rfl
@[simp] theorem State.at_mastS (s : State) (t : Time) : (s.at t).mastS = s.mastS := rfl
@[simp] theorem State.at_mastA (s : State) (t : Time) : (s.at t).mastA = s.mastA := rfl
@[simp] theorem State.at_bad (s : State) (t : Time) : (s.at t).bad = s.bad := rfl
@[simp] theorem State.at_suspect (s : State) (t : Time) : (s.at t).suspect = s.suspect := rfl
@[simp] theorem State.at_decodes (s : State) (t : Time) : (s.at t).decodes = s.decodes := rfl
@[simp] theorem State.at_flips (s : State) (t : Time) : (s.at t).flips = s.flips := rfl
@[simp] theorem State.at_merges (s : State) (t : Time) : (s.at t).merges = s.merges := rfl
@[simp] theorem State.at_cores (s : State) (t : Time) : (s.at t).cores = s.cores := rfl
@[simp] theorem State.at_clus (s : State) (t : Time) : (s.at t).clus = s.clus := rfl
@[simp] theorem State.at_filter (s : State) (t : Time) : (s.at t).filter = s.filter := rfl
@[simp] theorem State.at_hostLines (s : State) (t : Time) : (s.at t).hostLines = s.hostLines := rfl
@[simp] theorem State.at_world (s : State) (t : Time) : (s.at t).world = s.world := rfl
@[simp] theorem State.at_ucode (s : State) (t : Time) : (s.at t).ucode = s.ucode := rfl
@[simp] theorem State.at_gc (s : State) (t : Time) : (s.at t).gc = s.gc := rfl
@[simp] theorem State.at_flash (s : State) (t : Time) : (s.at t).flash = s.flash := rfl
@[simp] theorem State.at_memActive (s : State) (t : Time) : (s.at t).memActive = s.memActive := rfl
@[simp] theorem State.at_pwr (s : State) (t : Time) : (s.at t).pwr = s.pwr := rfl
@[simp] theorem State.at_fuses (s : State) (t : Time) : (s.at t).fuses = s.fuses := rfl
@[simp] theorem State.at_boot (s : State) (t : Time) : (s.at t).boot = s.boot := rfl
@[simp] theorem State.at_spdm (s : State) (t : Time) : (s.at t).spdm = s.spdm := rfl
@[simp] theorem State.at_cxl (s : State) (t : Time) : (s.at t).cxl = s.cxl := rfl
@[simp] theorem State.at_mem (s : State) (t : Time) : (s.at t).mem = s.mem := rfl

/-! ### State.useFree -/

@[simp] theorem State.useFree_pending (s : State) : (s.useFree).pending = s.pending := rfl
@[simp] theorem State.useFree_now (s : State) : (s.useFree).now = s.now := rfl
@[simp] theorem State.useFree_small (s : State) : (s.useFree).small = s.small := rfl
@[simp] theorem State.useFree_rdata (s : State) : (s.useFree).rdata = s.rdata := rfl
@[simp] theorem State.useFree_regs (s : State) : (s.useFree).regs = s.regs := rfl
@[simp] theorem State.useFree_eff (s : State) : (s.useFree).eff = s.eff := rfl
@[simp] theorem State.useFree_raised (s : State) : (s.useFree).raised = s.raised := rfl
@[simp] theorem State.useFree_errs (s : State) : (s.useFree).errs = s.errs := rfl
@[simp] theorem State.useFree_errNum (s : State) : (s.useFree).errNum = s.errNum := rfl
@[simp] theorem State.useFree_frame (s : State) : (s.useFree).frame = s.frame := rfl
@[simp] theorem State.useFree_ports (s : State) : (s.useFree).ports = s.ports := rfl
@[simp] theorem State.useFree_chans (s : State) : (s.useFree).chans = s.chans := rfl
@[simp] theorem State.useFree_regionS (s : State) : (s.useFree).regionS = s.regionS := rfl
@[simp] theorem State.useFree_regionA (s : State) : (s.useFree).regionA = s.regionA := rfl
@[simp] theorem State.useFree_dmapS (s : State) : (s.useFree).dmapS = s.dmapS := rfl
@[simp] theorem State.useFree_dmapA (s : State) : (s.useFree).dmapA = s.dmapA := rfl
@[simp] theorem State.useFree_rows (s : State) : (s.useFree).rows = s.rows := rfl
@[simp] theorem State.useFree_wms (s : State) : (s.useFree).wms = s.wms := rfl
@[simp] theorem State.useFree_xbar (s : State) : (s.useFree).xbar = s.xbar := rfl
@[simp] theorem State.useFree_cluIn (s : State) : (s.useFree).cluIn = s.cluIn := rfl
@[simp] theorem State.useFree_wmIn (s : State) : (s.useFree).wmIn = s.wmIn := rfl
@[simp] theorem State.useFree_spikes (s : State) : (s.useFree).spikes = s.spikes := rfl
@[simp] theorem State.useFree_time (s : State) : (s.useFree).time = s.time := rfl
@[simp] theorem State.useFree_reports (s : State) : (s.useFree).reports = s.reports := rfl
@[simp] theorem State.useFree_queues (s : State) : (s.useFree).queues = s.queues := rfl
@[simp] theorem State.useFree_ha (s : State) : (s.useFree).ha = s.ha := rfl
@[simp] theorem State.useFree_lastMsi (s : State) : (s.useFree).lastMsi = s.lastMsi := rfl
@[simp] theorem State.useFree_irqErr (s : State) : (s.useFree).irqErr = s.irqErr := rfl
@[simp] theorem State.useFree_irqCast (s : State) : (s.useFree).irqCast = s.irqCast := rfl
@[simp] theorem State.useFree_irqBind (s : State) : (s.useFree).irqBind = s.irqBind := rfl
@[simp] theorem State.useFree_irqs (s : State) : (s.useFree).irqs = s.irqs := rfl
@[simp] theorem State.useFree_outqs (s : State) : (s.useFree).outqs = s.outqs := rfl
@[simp] theorem State.useFree_ring (s : State) : (s.useFree).ring = s.ring := rfl
@[simp] theorem State.useFree_mast (s : State) : (s.useFree).mast = s.mast := rfl
@[simp] theorem State.useFree_mastS (s : State) : (s.useFree).mastS = s.mastS := rfl
@[simp] theorem State.useFree_mastA (s : State) : (s.useFree).mastA = s.mastA := rfl
@[simp] theorem State.useFree_bad (s : State) : (s.useFree).bad = s.bad := rfl
@[simp] theorem State.useFree_suspect (s : State) : (s.useFree).suspect = s.suspect := rfl
@[simp] theorem State.useFree_decodes (s : State) : (s.useFree).decodes = s.decodes := rfl
@[simp] theorem State.useFree_flips (s : State) : (s.useFree).flips = s.flips := rfl
@[simp] theorem State.useFree_merges (s : State) : (s.useFree).merges = s.merges := rfl
@[simp] theorem State.useFree_cores (s : State) : (s.useFree).cores = s.cores := rfl
@[simp] theorem State.useFree_clus (s : State) : (s.useFree).clus = s.clus := rfl
@[simp] theorem State.useFree_filter (s : State) : (s.useFree).filter = s.filter := rfl
@[simp] theorem State.useFree_hostLines (s : State) : (s.useFree).hostLines = s.hostLines := rfl
@[simp] theorem State.useFree_world (s : State) : (s.useFree).world = s.world := rfl
@[simp] theorem State.useFree_ucode (s : State) : (s.useFree).ucode = s.ucode := rfl
@[simp] theorem State.useFree_gc (s : State) : (s.useFree).gc = s.gc := rfl
@[simp] theorem State.useFree_flash (s : State) : (s.useFree).flash = s.flash := rfl
@[simp] theorem State.useFree_memActive (s : State) : (s.useFree).memActive = s.memActive := rfl
@[simp] theorem State.useFree_pwr (s : State) : (s.useFree).pwr = s.pwr := rfl
@[simp] theorem State.useFree_fuses (s : State) : (s.useFree).fuses = s.fuses := rfl
@[simp] theorem State.useFree_boot (s : State) : (s.useFree).boot = s.boot := rfl
@[simp] theorem State.useFree_spdm (s : State) : (s.useFree).spdm = s.spdm := rfl
@[simp] theorem State.useFree_cxl (s : State) : (s.useFree).cxl = s.cxl := rfl
@[simp] theorem State.useFree_mem (s : State) : (s.useFree).mem = s.mem := rfl

/-! ### State.setPort -/

@[simp] theorem State.setPort_pending (s : State) (p : Nat) (x : PortSt) : (s.setPort p x).pending = s.pending := rfl
@[simp] theorem State.setPort_now (s : State) (p : Nat) (x : PortSt) : (s.setPort p x).now = s.now := rfl
@[simp] theorem State.setPort_free (s : State) (p : Nat) (x : PortSt) : (s.setPort p x).free = s.free := rfl
@[simp] theorem State.setPort_small (s : State) (p : Nat) (x : PortSt) : (s.setPort p x).small = s.small := rfl
@[simp] theorem State.setPort_rdata (s : State) (p : Nat) (x : PortSt) : (s.setPort p x).rdata = s.rdata := rfl
@[simp] theorem State.setPort_regs (s : State) (p : Nat) (x : PortSt) : (s.setPort p x).regs = s.regs := rfl
@[simp] theorem State.setPort_eff (s : State) (p : Nat) (x : PortSt) : (s.setPort p x).eff = s.eff := rfl
@[simp] theorem State.setPort_raised (s : State) (p : Nat) (x : PortSt) : (s.setPort p x).raised = s.raised := rfl
@[simp] theorem State.setPort_errs (s : State) (p : Nat) (x : PortSt) : (s.setPort p x).errs = s.errs := rfl
@[simp] theorem State.setPort_errNum (s : State) (p : Nat) (x : PortSt) : (s.setPort p x).errNum = s.errNum := rfl
@[simp] theorem State.setPort_frame (s : State) (p : Nat) (x : PortSt) : (s.setPort p x).frame = s.frame := rfl
@[simp] theorem State.setPort_chans (s : State) (p : Nat) (x : PortSt) : (s.setPort p x).chans = s.chans := rfl
@[simp] theorem State.setPort_regionS (s : State) (p : Nat) (x : PortSt) : (s.setPort p x).regionS = s.regionS := rfl
@[simp] theorem State.setPort_regionA (s : State) (p : Nat) (x : PortSt) : (s.setPort p x).regionA = s.regionA := rfl
@[simp] theorem State.setPort_dmapS (s : State) (p : Nat) (x : PortSt) : (s.setPort p x).dmapS = s.dmapS := rfl
@[simp] theorem State.setPort_dmapA (s : State) (p : Nat) (x : PortSt) : (s.setPort p x).dmapA = s.dmapA := rfl
@[simp] theorem State.setPort_rows (s : State) (p : Nat) (x : PortSt) : (s.setPort p x).rows = s.rows := rfl
@[simp] theorem State.setPort_wms (s : State) (p : Nat) (x : PortSt) : (s.setPort p x).wms = s.wms := rfl
@[simp] theorem State.setPort_xbar (s : State) (p : Nat) (x : PortSt) : (s.setPort p x).xbar = s.xbar := rfl
@[simp] theorem State.setPort_cluIn (s : State) (p : Nat) (x : PortSt) : (s.setPort p x).cluIn = s.cluIn := rfl
@[simp] theorem State.setPort_wmIn (s : State) (p : Nat) (x : PortSt) : (s.setPort p x).wmIn = s.wmIn := rfl
@[simp] theorem State.setPort_spikes (s : State) (p : Nat) (x : PortSt) : (s.setPort p x).spikes = s.spikes := rfl
@[simp] theorem State.setPort_time (s : State) (p : Nat) (x : PortSt) : (s.setPort p x).time = s.time := rfl
@[simp] theorem State.setPort_reports (s : State) (p : Nat) (x : PortSt) : (s.setPort p x).reports = s.reports := rfl
@[simp] theorem State.setPort_queues (s : State) (p : Nat) (x : PortSt) : (s.setPort p x).queues = s.queues := rfl
@[simp] theorem State.setPort_ha (s : State) (p : Nat) (x : PortSt) : (s.setPort p x).ha = s.ha := rfl
@[simp] theorem State.setPort_lastMsi (s : State) (p : Nat) (x : PortSt) : (s.setPort p x).lastMsi = s.lastMsi := rfl
@[simp] theorem State.setPort_irqErr (s : State) (p : Nat) (x : PortSt) : (s.setPort p x).irqErr = s.irqErr := rfl
@[simp] theorem State.setPort_irqCast (s : State) (p : Nat) (x : PortSt) : (s.setPort p x).irqCast = s.irqCast := rfl
@[simp] theorem State.setPort_irqBind (s : State) (p : Nat) (x : PortSt) : (s.setPort p x).irqBind = s.irqBind := rfl
@[simp] theorem State.setPort_irqs (s : State) (p : Nat) (x : PortSt) : (s.setPort p x).irqs = s.irqs := rfl
@[simp] theorem State.setPort_outqs (s : State) (p : Nat) (x : PortSt) : (s.setPort p x).outqs = s.outqs := rfl
@[simp] theorem State.setPort_ring (s : State) (p : Nat) (x : PortSt) : (s.setPort p x).ring = s.ring := rfl
@[simp] theorem State.setPort_mast (s : State) (p : Nat) (x : PortSt) : (s.setPort p x).mast = s.mast := rfl
@[simp] theorem State.setPort_mastS (s : State) (p : Nat) (x : PortSt) : (s.setPort p x).mastS = s.mastS := rfl
@[simp] theorem State.setPort_mastA (s : State) (p : Nat) (x : PortSt) : (s.setPort p x).mastA = s.mastA := rfl
@[simp] theorem State.setPort_bad (s : State) (p : Nat) (x : PortSt) : (s.setPort p x).bad = s.bad := rfl
@[simp] theorem State.setPort_suspect (s : State) (p : Nat) (x : PortSt) : (s.setPort p x).suspect = s.suspect := rfl
@[simp] theorem State.setPort_decodes (s : State) (p : Nat) (x : PortSt) : (s.setPort p x).decodes = s.decodes := rfl
@[simp] theorem State.setPort_flips (s : State) (p : Nat) (x : PortSt) : (s.setPort p x).flips = s.flips := rfl
@[simp] theorem State.setPort_merges (s : State) (p : Nat) (x : PortSt) : (s.setPort p x).merges = s.merges := rfl
@[simp] theorem State.setPort_cores (s : State) (p : Nat) (x : PortSt) : (s.setPort p x).cores = s.cores := rfl
@[simp] theorem State.setPort_clus (s : State) (p : Nat) (x : PortSt) : (s.setPort p x).clus = s.clus := rfl
@[simp] theorem State.setPort_filter (s : State) (p : Nat) (x : PortSt) : (s.setPort p x).filter = s.filter := rfl
@[simp] theorem State.setPort_hostLines (s : State) (p : Nat) (x : PortSt) : (s.setPort p x).hostLines = s.hostLines := rfl
@[simp] theorem State.setPort_world (s : State) (p : Nat) (x : PortSt) : (s.setPort p x).world = s.world := rfl
@[simp] theorem State.setPort_ucode (s : State) (p : Nat) (x : PortSt) : (s.setPort p x).ucode = s.ucode := rfl
@[simp] theorem State.setPort_gc (s : State) (p : Nat) (x : PortSt) : (s.setPort p x).gc = s.gc := rfl
@[simp] theorem State.setPort_flash (s : State) (p : Nat) (x : PortSt) : (s.setPort p x).flash = s.flash := rfl
@[simp] theorem State.setPort_memActive (s : State) (p : Nat) (x : PortSt) : (s.setPort p x).memActive = s.memActive := rfl
@[simp] theorem State.setPort_pwr (s : State) (p : Nat) (x : PortSt) : (s.setPort p x).pwr = s.pwr := rfl
@[simp] theorem State.setPort_fuses (s : State) (p : Nat) (x : PortSt) : (s.setPort p x).fuses = s.fuses := rfl
@[simp] theorem State.setPort_boot (s : State) (p : Nat) (x : PortSt) : (s.setPort p x).boot = s.boot := rfl
@[simp] theorem State.setPort_spdm (s : State) (p : Nat) (x : PortSt) : (s.setPort p x).spdm = s.spdm := rfl
@[simp] theorem State.setPort_cxl (s : State) (p : Nat) (x : PortSt) : (s.setPort p x).cxl = s.cxl := rfl
@[simp] theorem State.setPort_mem (s : State) (p : Nat) (x : PortSt) : (s.setPort p x).mem = s.mem := rfl

/-! ### State.setChan -/

@[simp] theorem State.setChan_pending (s : State) (c : Nat) (x : ChanSt) : (s.setChan c x).pending = s.pending := rfl
@[simp] theorem State.setChan_now (s : State) (c : Nat) (x : ChanSt) : (s.setChan c x).now = s.now := rfl
@[simp] theorem State.setChan_free (s : State) (c : Nat) (x : ChanSt) : (s.setChan c x).free = s.free := rfl
@[simp] theorem State.setChan_small (s : State) (c : Nat) (x : ChanSt) : (s.setChan c x).small = s.small := rfl
@[simp] theorem State.setChan_rdata (s : State) (c : Nat) (x : ChanSt) : (s.setChan c x).rdata = s.rdata := rfl
@[simp] theorem State.setChan_regs (s : State) (c : Nat) (x : ChanSt) : (s.setChan c x).regs = s.regs := rfl
@[simp] theorem State.setChan_eff (s : State) (c : Nat) (x : ChanSt) : (s.setChan c x).eff = s.eff := rfl
@[simp] theorem State.setChan_raised (s : State) (c : Nat) (x : ChanSt) : (s.setChan c x).raised = s.raised := rfl
@[simp] theorem State.setChan_errs (s : State) (c : Nat) (x : ChanSt) : (s.setChan c x).errs = s.errs := rfl
@[simp] theorem State.setChan_errNum (s : State) (c : Nat) (x : ChanSt) : (s.setChan c x).errNum = s.errNum := rfl
@[simp] theorem State.setChan_frame (s : State) (c : Nat) (x : ChanSt) : (s.setChan c x).frame = s.frame := rfl
@[simp] theorem State.setChan_ports (s : State) (c : Nat) (x : ChanSt) : (s.setChan c x).ports = s.ports := rfl
@[simp] theorem State.setChan_regionS (s : State) (c : Nat) (x : ChanSt) : (s.setChan c x).regionS = s.regionS := rfl
@[simp] theorem State.setChan_regionA (s : State) (c : Nat) (x : ChanSt) : (s.setChan c x).regionA = s.regionA := rfl
@[simp] theorem State.setChan_dmapS (s : State) (c : Nat) (x : ChanSt) : (s.setChan c x).dmapS = s.dmapS := rfl
@[simp] theorem State.setChan_dmapA (s : State) (c : Nat) (x : ChanSt) : (s.setChan c x).dmapA = s.dmapA := rfl
@[simp] theorem State.setChan_rows (s : State) (c : Nat) (x : ChanSt) : (s.setChan c x).rows = s.rows := rfl
@[simp] theorem State.setChan_wms (s : State) (c : Nat) (x : ChanSt) : (s.setChan c x).wms = s.wms := rfl
@[simp] theorem State.setChan_xbar (s : State) (c : Nat) (x : ChanSt) : (s.setChan c x).xbar = s.xbar := rfl
@[simp] theorem State.setChan_cluIn (s : State) (c : Nat) (x : ChanSt) : (s.setChan c x).cluIn = s.cluIn := rfl
@[simp] theorem State.setChan_wmIn (s : State) (c : Nat) (x : ChanSt) : (s.setChan c x).wmIn = s.wmIn := rfl
@[simp] theorem State.setChan_spikes (s : State) (c : Nat) (x : ChanSt) : (s.setChan c x).spikes = s.spikes := rfl
@[simp] theorem State.setChan_time (s : State) (c : Nat) (x : ChanSt) : (s.setChan c x).time = s.time := rfl
@[simp] theorem State.setChan_reports (s : State) (c : Nat) (x : ChanSt) : (s.setChan c x).reports = s.reports := rfl
@[simp] theorem State.setChan_queues (s : State) (c : Nat) (x : ChanSt) : (s.setChan c x).queues = s.queues := rfl
@[simp] theorem State.setChan_ha (s : State) (c : Nat) (x : ChanSt) : (s.setChan c x).ha = s.ha := rfl
@[simp] theorem State.setChan_lastMsi (s : State) (c : Nat) (x : ChanSt) : (s.setChan c x).lastMsi = s.lastMsi := rfl
@[simp] theorem State.setChan_irqErr (s : State) (c : Nat) (x : ChanSt) : (s.setChan c x).irqErr = s.irqErr := rfl
@[simp] theorem State.setChan_irqCast (s : State) (c : Nat) (x : ChanSt) : (s.setChan c x).irqCast = s.irqCast := rfl
@[simp] theorem State.setChan_irqBind (s : State) (c : Nat) (x : ChanSt) : (s.setChan c x).irqBind = s.irqBind := rfl
@[simp] theorem State.setChan_irqs (s : State) (c : Nat) (x : ChanSt) : (s.setChan c x).irqs = s.irqs := rfl
@[simp] theorem State.setChan_outqs (s : State) (c : Nat) (x : ChanSt) : (s.setChan c x).outqs = s.outqs := rfl
@[simp] theorem State.setChan_ring (s : State) (c : Nat) (x : ChanSt) : (s.setChan c x).ring = s.ring := rfl
@[simp] theorem State.setChan_mast (s : State) (c : Nat) (x : ChanSt) : (s.setChan c x).mast = s.mast := rfl
@[simp] theorem State.setChan_mastS (s : State) (c : Nat) (x : ChanSt) : (s.setChan c x).mastS = s.mastS := rfl
@[simp] theorem State.setChan_mastA (s : State) (c : Nat) (x : ChanSt) : (s.setChan c x).mastA = s.mastA := rfl
@[simp] theorem State.setChan_bad (s : State) (c : Nat) (x : ChanSt) : (s.setChan c x).bad = s.bad := rfl
@[simp] theorem State.setChan_suspect (s : State) (c : Nat) (x : ChanSt) : (s.setChan c x).suspect = s.suspect := rfl
@[simp] theorem State.setChan_decodes (s : State) (c : Nat) (x : ChanSt) : (s.setChan c x).decodes = s.decodes := rfl
@[simp] theorem State.setChan_flips (s : State) (c : Nat) (x : ChanSt) : (s.setChan c x).flips = s.flips := rfl
@[simp] theorem State.setChan_merges (s : State) (c : Nat) (x : ChanSt) : (s.setChan c x).merges = s.merges := rfl
@[simp] theorem State.setChan_cores (s : State) (c : Nat) (x : ChanSt) : (s.setChan c x).cores = s.cores := rfl
@[simp] theorem State.setChan_clus (s : State) (c : Nat) (x : ChanSt) : (s.setChan c x).clus = s.clus := rfl
@[simp] theorem State.setChan_filter (s : State) (c : Nat) (x : ChanSt) : (s.setChan c x).filter = s.filter := rfl
@[simp] theorem State.setChan_hostLines (s : State) (c : Nat) (x : ChanSt) : (s.setChan c x).hostLines = s.hostLines := rfl
@[simp] theorem State.setChan_world (s : State) (c : Nat) (x : ChanSt) : (s.setChan c x).world = s.world := rfl
@[simp] theorem State.setChan_ucode (s : State) (c : Nat) (x : ChanSt) : (s.setChan c x).ucode = s.ucode := rfl
@[simp] theorem State.setChan_gc (s : State) (c : Nat) (x : ChanSt) : (s.setChan c x).gc = s.gc := rfl
@[simp] theorem State.setChan_flash (s : State) (c : Nat) (x : ChanSt) : (s.setChan c x).flash = s.flash := rfl
@[simp] theorem State.setChan_memActive (s : State) (c : Nat) (x : ChanSt) : (s.setChan c x).memActive = s.memActive := rfl
@[simp] theorem State.setChan_pwr (s : State) (c : Nat) (x : ChanSt) : (s.setChan c x).pwr = s.pwr := rfl
@[simp] theorem State.setChan_fuses (s : State) (c : Nat) (x : ChanSt) : (s.setChan c x).fuses = s.fuses := rfl
@[simp] theorem State.setChan_boot (s : State) (c : Nat) (x : ChanSt) : (s.setChan c x).boot = s.boot := rfl
@[simp] theorem State.setChan_spdm (s : State) (c : Nat) (x : ChanSt) : (s.setChan c x).spdm = s.spdm := rfl
@[simp] theorem State.setChan_cxl (s : State) (c : Nat) (x : ChanSt) : (s.setChan c x).cxl = s.cxl := rfl
@[simp] theorem State.setChan_mem (s : State) (c : Nat) (x : ChanSt) : (s.setChan c x).mem = s.mem := rfl

/-! ### State.setRow -/

@[simp] theorem State.setRow_pending (s : State) (r : Nat) (x : RowSt) : (s.setRow r x).pending = s.pending := rfl
@[simp] theorem State.setRow_now (s : State) (r : Nat) (x : RowSt) : (s.setRow r x).now = s.now := rfl
@[simp] theorem State.setRow_free (s : State) (r : Nat) (x : RowSt) : (s.setRow r x).free = s.free := rfl
@[simp] theorem State.setRow_small (s : State) (r : Nat) (x : RowSt) : (s.setRow r x).small = s.small := rfl
@[simp] theorem State.setRow_rdata (s : State) (r : Nat) (x : RowSt) : (s.setRow r x).rdata = s.rdata := rfl
@[simp] theorem State.setRow_regs (s : State) (r : Nat) (x : RowSt) : (s.setRow r x).regs = s.regs := rfl
@[simp] theorem State.setRow_eff (s : State) (r : Nat) (x : RowSt) : (s.setRow r x).eff = s.eff := rfl
@[simp] theorem State.setRow_raised (s : State) (r : Nat) (x : RowSt) : (s.setRow r x).raised = s.raised := rfl
@[simp] theorem State.setRow_errs (s : State) (r : Nat) (x : RowSt) : (s.setRow r x).errs = s.errs := rfl
@[simp] theorem State.setRow_errNum (s : State) (r : Nat) (x : RowSt) : (s.setRow r x).errNum = s.errNum := rfl
@[simp] theorem State.setRow_frame (s : State) (r : Nat) (x : RowSt) : (s.setRow r x).frame = s.frame := rfl
@[simp] theorem State.setRow_ports (s : State) (r : Nat) (x : RowSt) : (s.setRow r x).ports = s.ports := rfl
@[simp] theorem State.setRow_chans (s : State) (r : Nat) (x : RowSt) : (s.setRow r x).chans = s.chans := rfl
@[simp] theorem State.setRow_regionS (s : State) (r : Nat) (x : RowSt) : (s.setRow r x).regionS = s.regionS := rfl
@[simp] theorem State.setRow_regionA (s : State) (r : Nat) (x : RowSt) : (s.setRow r x).regionA = s.regionA := rfl
@[simp] theorem State.setRow_dmapS (s : State) (r : Nat) (x : RowSt) : (s.setRow r x).dmapS = s.dmapS := rfl
@[simp] theorem State.setRow_dmapA (s : State) (r : Nat) (x : RowSt) : (s.setRow r x).dmapA = s.dmapA := rfl
@[simp] theorem State.setRow_wms (s : State) (r : Nat) (x : RowSt) : (s.setRow r x).wms = s.wms := rfl
@[simp] theorem State.setRow_xbar (s : State) (r : Nat) (x : RowSt) : (s.setRow r x).xbar = s.xbar := rfl
@[simp] theorem State.setRow_cluIn (s : State) (r : Nat) (x : RowSt) : (s.setRow r x).cluIn = s.cluIn := rfl
@[simp] theorem State.setRow_wmIn (s : State) (r : Nat) (x : RowSt) : (s.setRow r x).wmIn = s.wmIn := rfl
@[simp] theorem State.setRow_spikes (s : State) (r : Nat) (x : RowSt) : (s.setRow r x).spikes = s.spikes := rfl
@[simp] theorem State.setRow_time (s : State) (r : Nat) (x : RowSt) : (s.setRow r x).time = s.time := rfl
@[simp] theorem State.setRow_reports (s : State) (r : Nat) (x : RowSt) : (s.setRow r x).reports = s.reports := rfl
@[simp] theorem State.setRow_queues (s : State) (r : Nat) (x : RowSt) : (s.setRow r x).queues = s.queues := rfl
@[simp] theorem State.setRow_ha (s : State) (r : Nat) (x : RowSt) : (s.setRow r x).ha = s.ha := rfl
@[simp] theorem State.setRow_lastMsi (s : State) (r : Nat) (x : RowSt) : (s.setRow r x).lastMsi = s.lastMsi := rfl
@[simp] theorem State.setRow_irqErr (s : State) (r : Nat) (x : RowSt) : (s.setRow r x).irqErr = s.irqErr := rfl
@[simp] theorem State.setRow_irqCast (s : State) (r : Nat) (x : RowSt) : (s.setRow r x).irqCast = s.irqCast := rfl
@[simp] theorem State.setRow_irqBind (s : State) (r : Nat) (x : RowSt) : (s.setRow r x).irqBind = s.irqBind := rfl
@[simp] theorem State.setRow_irqs (s : State) (r : Nat) (x : RowSt) : (s.setRow r x).irqs = s.irqs := rfl
@[simp] theorem State.setRow_outqs (s : State) (r : Nat) (x : RowSt) : (s.setRow r x).outqs = s.outqs := rfl
@[simp] theorem State.setRow_ring (s : State) (r : Nat) (x : RowSt) : (s.setRow r x).ring = s.ring := rfl
@[simp] theorem State.setRow_mast (s : State) (r : Nat) (x : RowSt) : (s.setRow r x).mast = s.mast := rfl
@[simp] theorem State.setRow_mastS (s : State) (r : Nat) (x : RowSt) : (s.setRow r x).mastS = s.mastS := rfl
@[simp] theorem State.setRow_mastA (s : State) (r : Nat) (x : RowSt) : (s.setRow r x).mastA = s.mastA := rfl
@[simp] theorem State.setRow_bad (s : State) (r : Nat) (x : RowSt) : (s.setRow r x).bad = s.bad := rfl
@[simp] theorem State.setRow_suspect (s : State) (r : Nat) (x : RowSt) : (s.setRow r x).suspect = s.suspect := rfl
@[simp] theorem State.setRow_decodes (s : State) (r : Nat) (x : RowSt) : (s.setRow r x).decodes = s.decodes := rfl
@[simp] theorem State.setRow_flips (s : State) (r : Nat) (x : RowSt) : (s.setRow r x).flips = s.flips := rfl
@[simp] theorem State.setRow_merges (s : State) (r : Nat) (x : RowSt) : (s.setRow r x).merges = s.merges := rfl
@[simp] theorem State.setRow_cores (s : State) (r : Nat) (x : RowSt) : (s.setRow r x).cores = s.cores := rfl
@[simp] theorem State.setRow_clus (s : State) (r : Nat) (x : RowSt) : (s.setRow r x).clus = s.clus := rfl
@[simp] theorem State.setRow_filter (s : State) (r : Nat) (x : RowSt) : (s.setRow r x).filter = s.filter := rfl
@[simp] theorem State.setRow_hostLines (s : State) (r : Nat) (x : RowSt) : (s.setRow r x).hostLines = s.hostLines := rfl
@[simp] theorem State.setRow_world (s : State) (r : Nat) (x : RowSt) : (s.setRow r x).world = s.world := rfl
@[simp] theorem State.setRow_ucode (s : State) (r : Nat) (x : RowSt) : (s.setRow r x).ucode = s.ucode := rfl
@[simp] theorem State.setRow_gc (s : State) (r : Nat) (x : RowSt) : (s.setRow r x).gc = s.gc := rfl
@[simp] theorem State.setRow_flash (s : State) (r : Nat) (x : RowSt) : (s.setRow r x).flash = s.flash := rfl
@[simp] theorem State.setRow_memActive (s : State) (r : Nat) (x : RowSt) : (s.setRow r x).memActive = s.memActive := rfl
@[simp] theorem State.setRow_pwr (s : State) (r : Nat) (x : RowSt) : (s.setRow r x).pwr = s.pwr := rfl
@[simp] theorem State.setRow_fuses (s : State) (r : Nat) (x : RowSt) : (s.setRow r x).fuses = s.fuses := rfl
@[simp] theorem State.setRow_boot (s : State) (r : Nat) (x : RowSt) : (s.setRow r x).boot = s.boot := rfl
@[simp] theorem State.setRow_spdm (s : State) (r : Nat) (x : RowSt) : (s.setRow r x).spdm = s.spdm := rfl
@[simp] theorem State.setRow_cxl (s : State) (r : Nat) (x : RowSt) : (s.setRow r x).cxl = s.cxl := rfl
@[simp] theorem State.setRow_mem (s : State) (r : Nat) (x : RowSt) : (s.setRow r x).mem = s.mem := rfl

/-! ### State.setSpike -/

@[simp] theorem State.setSpike_pending (s : State) (i : Nat) (x : SpikeSt) : (s.setSpike i x).pending = s.pending := rfl
@[simp] theorem State.setSpike_now (s : State) (i : Nat) (x : SpikeSt) : (s.setSpike i x).now = s.now := rfl
@[simp] theorem State.setSpike_free (s : State) (i : Nat) (x : SpikeSt) : (s.setSpike i x).free = s.free := rfl
@[simp] theorem State.setSpike_small (s : State) (i : Nat) (x : SpikeSt) : (s.setSpike i x).small = s.small := rfl
@[simp] theorem State.setSpike_rdata (s : State) (i : Nat) (x : SpikeSt) : (s.setSpike i x).rdata = s.rdata := rfl
@[simp] theorem State.setSpike_regs (s : State) (i : Nat) (x : SpikeSt) : (s.setSpike i x).regs = s.regs := rfl
@[simp] theorem State.setSpike_eff (s : State) (i : Nat) (x : SpikeSt) : (s.setSpike i x).eff = s.eff := rfl
@[simp] theorem State.setSpike_raised (s : State) (i : Nat) (x : SpikeSt) : (s.setSpike i x).raised = s.raised := rfl
@[simp] theorem State.setSpike_errs (s : State) (i : Nat) (x : SpikeSt) : (s.setSpike i x).errs = s.errs := rfl
@[simp] theorem State.setSpike_errNum (s : State) (i : Nat) (x : SpikeSt) : (s.setSpike i x).errNum = s.errNum := rfl
@[simp] theorem State.setSpike_frame (s : State) (i : Nat) (x : SpikeSt) : (s.setSpike i x).frame = s.frame := rfl
@[simp] theorem State.setSpike_ports (s : State) (i : Nat) (x : SpikeSt) : (s.setSpike i x).ports = s.ports := rfl
@[simp] theorem State.setSpike_chans (s : State) (i : Nat) (x : SpikeSt) : (s.setSpike i x).chans = s.chans := rfl
@[simp] theorem State.setSpike_regionS (s : State) (i : Nat) (x : SpikeSt) : (s.setSpike i x).regionS = s.regionS := rfl
@[simp] theorem State.setSpike_regionA (s : State) (i : Nat) (x : SpikeSt) : (s.setSpike i x).regionA = s.regionA := rfl
@[simp] theorem State.setSpike_dmapS (s : State) (i : Nat) (x : SpikeSt) : (s.setSpike i x).dmapS = s.dmapS := rfl
@[simp] theorem State.setSpike_dmapA (s : State) (i : Nat) (x : SpikeSt) : (s.setSpike i x).dmapA = s.dmapA := rfl
@[simp] theorem State.setSpike_rows (s : State) (i : Nat) (x : SpikeSt) : (s.setSpike i x).rows = s.rows := rfl
@[simp] theorem State.setSpike_wms (s : State) (i : Nat) (x : SpikeSt) : (s.setSpike i x).wms = s.wms := rfl
@[simp] theorem State.setSpike_xbar (s : State) (i : Nat) (x : SpikeSt) : (s.setSpike i x).xbar = s.xbar := rfl
@[simp] theorem State.setSpike_cluIn (s : State) (i : Nat) (x : SpikeSt) : (s.setSpike i x).cluIn = s.cluIn := rfl
@[simp] theorem State.setSpike_wmIn (s : State) (i : Nat) (x : SpikeSt) : (s.setSpike i x).wmIn = s.wmIn := rfl
@[simp] theorem State.setSpike_time (s : State) (i : Nat) (x : SpikeSt) : (s.setSpike i x).time = s.time := rfl
@[simp] theorem State.setSpike_reports (s : State) (i : Nat) (x : SpikeSt) : (s.setSpike i x).reports = s.reports := rfl
@[simp] theorem State.setSpike_queues (s : State) (i : Nat) (x : SpikeSt) : (s.setSpike i x).queues = s.queues := rfl
@[simp] theorem State.setSpike_ha (s : State) (i : Nat) (x : SpikeSt) : (s.setSpike i x).ha = s.ha := rfl
@[simp] theorem State.setSpike_lastMsi (s : State) (i : Nat) (x : SpikeSt) : (s.setSpike i x).lastMsi = s.lastMsi := rfl
@[simp] theorem State.setSpike_irqErr (s : State) (i : Nat) (x : SpikeSt) : (s.setSpike i x).irqErr = s.irqErr := rfl
@[simp] theorem State.setSpike_irqCast (s : State) (i : Nat) (x : SpikeSt) : (s.setSpike i x).irqCast = s.irqCast := rfl
@[simp] theorem State.setSpike_irqBind (s : State) (i : Nat) (x : SpikeSt) : (s.setSpike i x).irqBind = s.irqBind := rfl
@[simp] theorem State.setSpike_irqs (s : State) (i : Nat) (x : SpikeSt) : (s.setSpike i x).irqs = s.irqs := rfl
@[simp] theorem State.setSpike_outqs (s : State) (i : Nat) (x : SpikeSt) : (s.setSpike i x).outqs = s.outqs := rfl
@[simp] theorem State.setSpike_ring (s : State) (i : Nat) (x : SpikeSt) : (s.setSpike i x).ring = s.ring := rfl
@[simp] theorem State.setSpike_mast (s : State) (i : Nat) (x : SpikeSt) : (s.setSpike i x).mast = s.mast := rfl
@[simp] theorem State.setSpike_mastS (s : State) (i : Nat) (x : SpikeSt) : (s.setSpike i x).mastS = s.mastS := rfl
@[simp] theorem State.setSpike_mastA (s : State) (i : Nat) (x : SpikeSt) : (s.setSpike i x).mastA = s.mastA := rfl
@[simp] theorem State.setSpike_bad (s : State) (i : Nat) (x : SpikeSt) : (s.setSpike i x).bad = s.bad := rfl
@[simp] theorem State.setSpike_suspect (s : State) (i : Nat) (x : SpikeSt) : (s.setSpike i x).suspect = s.suspect := rfl
@[simp] theorem State.setSpike_decodes (s : State) (i : Nat) (x : SpikeSt) : (s.setSpike i x).decodes = s.decodes := rfl
@[simp] theorem State.setSpike_flips (s : State) (i : Nat) (x : SpikeSt) : (s.setSpike i x).flips = s.flips := rfl
@[simp] theorem State.setSpike_merges (s : State) (i : Nat) (x : SpikeSt) : (s.setSpike i x).merges = s.merges := rfl
@[simp] theorem State.setSpike_cores (s : State) (i : Nat) (x : SpikeSt) : (s.setSpike i x).cores = s.cores := rfl
@[simp] theorem State.setSpike_clus (s : State) (i : Nat) (x : SpikeSt) : (s.setSpike i x).clus = s.clus := rfl
@[simp] theorem State.setSpike_filter (s : State) (i : Nat) (x : SpikeSt) : (s.setSpike i x).filter = s.filter := rfl
@[simp] theorem State.setSpike_hostLines (s : State) (i : Nat) (x : SpikeSt) : (s.setSpike i x).hostLines = s.hostLines := rfl
@[simp] theorem State.setSpike_world (s : State) (i : Nat) (x : SpikeSt) : (s.setSpike i x).world = s.world := rfl
@[simp] theorem State.setSpike_ucode (s : State) (i : Nat) (x : SpikeSt) : (s.setSpike i x).ucode = s.ucode := rfl
@[simp] theorem State.setSpike_gc (s : State) (i : Nat) (x : SpikeSt) : (s.setSpike i x).gc = s.gc := rfl
@[simp] theorem State.setSpike_flash (s : State) (i : Nat) (x : SpikeSt) : (s.setSpike i x).flash = s.flash := rfl
@[simp] theorem State.setSpike_memActive (s : State) (i : Nat) (x : SpikeSt) : (s.setSpike i x).memActive = s.memActive := rfl
@[simp] theorem State.setSpike_pwr (s : State) (i : Nat) (x : SpikeSt) : (s.setSpike i x).pwr = s.pwr := rfl
@[simp] theorem State.setSpike_fuses (s : State) (i : Nat) (x : SpikeSt) : (s.setSpike i x).fuses = s.fuses := rfl
@[simp] theorem State.setSpike_boot (s : State) (i : Nat) (x : SpikeSt) : (s.setSpike i x).boot = s.boot := rfl
@[simp] theorem State.setSpike_spdm (s : State) (i : Nat) (x : SpikeSt) : (s.setSpike i x).spdm = s.spdm := rfl
@[simp] theorem State.setSpike_cxl (s : State) (i : Nat) (x : SpikeSt) : (s.setSpike i x).cxl = s.cxl := rfl
@[simp] theorem State.setSpike_mem (s : State) (i : Nat) (x : SpikeSt) : (s.setSpike i x).mem = s.mem := rfl

/-! ### State.setQueue -/

@[simp] theorem State.setQueue_pending (s : State) (q : Nat) (x : QSt) : (s.setQueue q x).pending = s.pending := rfl
@[simp] theorem State.setQueue_now (s : State) (q : Nat) (x : QSt) : (s.setQueue q x).now = s.now := rfl
@[simp] theorem State.setQueue_free (s : State) (q : Nat) (x : QSt) : (s.setQueue q x).free = s.free := rfl
@[simp] theorem State.setQueue_small (s : State) (q : Nat) (x : QSt) : (s.setQueue q x).small = s.small := rfl
@[simp] theorem State.setQueue_rdata (s : State) (q : Nat) (x : QSt) : (s.setQueue q x).rdata = s.rdata := rfl
@[simp] theorem State.setQueue_regs (s : State) (q : Nat) (x : QSt) : (s.setQueue q x).regs = s.regs := rfl
@[simp] theorem State.setQueue_eff (s : State) (q : Nat) (x : QSt) : (s.setQueue q x).eff = s.eff := rfl
@[simp] theorem State.setQueue_raised (s : State) (q : Nat) (x : QSt) : (s.setQueue q x).raised = s.raised := rfl
@[simp] theorem State.setQueue_errs (s : State) (q : Nat) (x : QSt) : (s.setQueue q x).errs = s.errs := rfl
@[simp] theorem State.setQueue_errNum (s : State) (q : Nat) (x : QSt) : (s.setQueue q x).errNum = s.errNum := rfl
@[simp] theorem State.setQueue_frame (s : State) (q : Nat) (x : QSt) : (s.setQueue q x).frame = s.frame := rfl
@[simp] theorem State.setQueue_ports (s : State) (q : Nat) (x : QSt) : (s.setQueue q x).ports = s.ports := rfl
@[simp] theorem State.setQueue_chans (s : State) (q : Nat) (x : QSt) : (s.setQueue q x).chans = s.chans := rfl
@[simp] theorem State.setQueue_regionS (s : State) (q : Nat) (x : QSt) : (s.setQueue q x).regionS = s.regionS := rfl
@[simp] theorem State.setQueue_regionA (s : State) (q : Nat) (x : QSt) : (s.setQueue q x).regionA = s.regionA := rfl
@[simp] theorem State.setQueue_dmapS (s : State) (q : Nat) (x : QSt) : (s.setQueue q x).dmapS = s.dmapS := rfl
@[simp] theorem State.setQueue_dmapA (s : State) (q : Nat) (x : QSt) : (s.setQueue q x).dmapA = s.dmapA := rfl
@[simp] theorem State.setQueue_rows (s : State) (q : Nat) (x : QSt) : (s.setQueue q x).rows = s.rows := rfl
@[simp] theorem State.setQueue_wms (s : State) (q : Nat) (x : QSt) : (s.setQueue q x).wms = s.wms := rfl
@[simp] theorem State.setQueue_xbar (s : State) (q : Nat) (x : QSt) : (s.setQueue q x).xbar = s.xbar := rfl
@[simp] theorem State.setQueue_cluIn (s : State) (q : Nat) (x : QSt) : (s.setQueue q x).cluIn = s.cluIn := rfl
@[simp] theorem State.setQueue_wmIn (s : State) (q : Nat) (x : QSt) : (s.setQueue q x).wmIn = s.wmIn := rfl
@[simp] theorem State.setQueue_spikes (s : State) (q : Nat) (x : QSt) : (s.setQueue q x).spikes = s.spikes := rfl
@[simp] theorem State.setQueue_time (s : State) (q : Nat) (x : QSt) : (s.setQueue q x).time = s.time := rfl
@[simp] theorem State.setQueue_reports (s : State) (q : Nat) (x : QSt) : (s.setQueue q x).reports = s.reports := rfl
@[simp] theorem State.setQueue_ha (s : State) (q : Nat) (x : QSt) : (s.setQueue q x).ha = s.ha := rfl
@[simp] theorem State.setQueue_lastMsi (s : State) (q : Nat) (x : QSt) : (s.setQueue q x).lastMsi = s.lastMsi := rfl
@[simp] theorem State.setQueue_irqErr (s : State) (q : Nat) (x : QSt) : (s.setQueue q x).irqErr = s.irqErr := rfl
@[simp] theorem State.setQueue_irqCast (s : State) (q : Nat) (x : QSt) : (s.setQueue q x).irqCast = s.irqCast := rfl
@[simp] theorem State.setQueue_irqBind (s : State) (q : Nat) (x : QSt) : (s.setQueue q x).irqBind = s.irqBind := rfl
@[simp] theorem State.setQueue_irqs (s : State) (q : Nat) (x : QSt) : (s.setQueue q x).irqs = s.irqs := rfl
@[simp] theorem State.setQueue_outqs (s : State) (q : Nat) (x : QSt) : (s.setQueue q x).outqs = s.outqs := rfl
@[simp] theorem State.setQueue_ring (s : State) (q : Nat) (x : QSt) : (s.setQueue q x).ring = s.ring := rfl
@[simp] theorem State.setQueue_mast (s : State) (q : Nat) (x : QSt) : (s.setQueue q x).mast = s.mast := rfl
@[simp] theorem State.setQueue_mastS (s : State) (q : Nat) (x : QSt) : (s.setQueue q x).mastS = s.mastS := rfl
@[simp] theorem State.setQueue_mastA (s : State) (q : Nat) (x : QSt) : (s.setQueue q x).mastA = s.mastA := rfl
@[simp] theorem State.setQueue_bad (s : State) (q : Nat) (x : QSt) : (s.setQueue q x).bad = s.bad := rfl
@[simp] theorem State.setQueue_suspect (s : State) (q : Nat) (x : QSt) : (s.setQueue q x).suspect = s.suspect := rfl
@[simp] theorem State.setQueue_decodes (s : State) (q : Nat) (x : QSt) : (s.setQueue q x).decodes = s.decodes := rfl
@[simp] theorem State.setQueue_flips (s : State) (q : Nat) (x : QSt) : (s.setQueue q x).flips = s.flips := rfl
@[simp] theorem State.setQueue_merges (s : State) (q : Nat) (x : QSt) : (s.setQueue q x).merges = s.merges := rfl
@[simp] theorem State.setQueue_cores (s : State) (q : Nat) (x : QSt) : (s.setQueue q x).cores = s.cores := rfl
@[simp] theorem State.setQueue_clus (s : State) (q : Nat) (x : QSt) : (s.setQueue q x).clus = s.clus := rfl
@[simp] theorem State.setQueue_filter (s : State) (q : Nat) (x : QSt) : (s.setQueue q x).filter = s.filter := rfl
@[simp] theorem State.setQueue_hostLines (s : State) (q : Nat) (x : QSt) : (s.setQueue q x).hostLines = s.hostLines := rfl
@[simp] theorem State.setQueue_world (s : State) (q : Nat) (x : QSt) : (s.setQueue q x).world = s.world := rfl
@[simp] theorem State.setQueue_ucode (s : State) (q : Nat) (x : QSt) : (s.setQueue q x).ucode = s.ucode := rfl
@[simp] theorem State.setQueue_gc (s : State) (q : Nat) (x : QSt) : (s.setQueue q x).gc = s.gc := rfl
@[simp] theorem State.setQueue_flash (s : State) (q : Nat) (x : QSt) : (s.setQueue q x).flash = s.flash := rfl
@[simp] theorem State.setQueue_memActive (s : State) (q : Nat) (x : QSt) : (s.setQueue q x).memActive = s.memActive := rfl
@[simp] theorem State.setQueue_pwr (s : State) (q : Nat) (x : QSt) : (s.setQueue q x).pwr = s.pwr := rfl
@[simp] theorem State.setQueue_fuses (s : State) (q : Nat) (x : QSt) : (s.setQueue q x).fuses = s.fuses := rfl
@[simp] theorem State.setQueue_boot (s : State) (q : Nat) (x : QSt) : (s.setQueue q x).boot = s.boot := rfl
@[simp] theorem State.setQueue_spdm (s : State) (q : Nat) (x : QSt) : (s.setQueue q x).spdm = s.spdm := rfl
@[simp] theorem State.setQueue_cxl (s : State) (q : Nat) (x : QSt) : (s.setQueue q x).cxl = s.cxl := rfl
@[simp] theorem State.setQueue_mem (s : State) (q : Nat) (x : QSt) : (s.setQueue q x).mem = s.mem := rfl

/-! ### State.setHa -/

@[simp] theorem State.setHa_pending (s : State) (f : Nat) (x : HaSt) : (s.setHa f x).pending = s.pending := rfl
@[simp] theorem State.setHa_now (s : State) (f : Nat) (x : HaSt) : (s.setHa f x).now = s.now := rfl
@[simp] theorem State.setHa_free (s : State) (f : Nat) (x : HaSt) : (s.setHa f x).free = s.free := rfl
@[simp] theorem State.setHa_small (s : State) (f : Nat) (x : HaSt) : (s.setHa f x).small = s.small := rfl
@[simp] theorem State.setHa_rdata (s : State) (f : Nat) (x : HaSt) : (s.setHa f x).rdata = s.rdata := rfl
@[simp] theorem State.setHa_regs (s : State) (f : Nat) (x : HaSt) : (s.setHa f x).regs = s.regs := rfl
@[simp] theorem State.setHa_eff (s : State) (f : Nat) (x : HaSt) : (s.setHa f x).eff = s.eff := rfl
@[simp] theorem State.setHa_raised (s : State) (f : Nat) (x : HaSt) : (s.setHa f x).raised = s.raised := rfl
@[simp] theorem State.setHa_errs (s : State) (f : Nat) (x : HaSt) : (s.setHa f x).errs = s.errs := rfl
@[simp] theorem State.setHa_errNum (s : State) (f : Nat) (x : HaSt) : (s.setHa f x).errNum = s.errNum := rfl
@[simp] theorem State.setHa_frame (s : State) (f : Nat) (x : HaSt) : (s.setHa f x).frame = s.frame := rfl
@[simp] theorem State.setHa_ports (s : State) (f : Nat) (x : HaSt) : (s.setHa f x).ports = s.ports := rfl
@[simp] theorem State.setHa_chans (s : State) (f : Nat) (x : HaSt) : (s.setHa f x).chans = s.chans := rfl
@[simp] theorem State.setHa_regionS (s : State) (f : Nat) (x : HaSt) : (s.setHa f x).regionS = s.regionS := rfl
@[simp] theorem State.setHa_regionA (s : State) (f : Nat) (x : HaSt) : (s.setHa f x).regionA = s.regionA := rfl
@[simp] theorem State.setHa_dmapS (s : State) (f : Nat) (x : HaSt) : (s.setHa f x).dmapS = s.dmapS := rfl
@[simp] theorem State.setHa_dmapA (s : State) (f : Nat) (x : HaSt) : (s.setHa f x).dmapA = s.dmapA := rfl
@[simp] theorem State.setHa_rows (s : State) (f : Nat) (x : HaSt) : (s.setHa f x).rows = s.rows := rfl
@[simp] theorem State.setHa_wms (s : State) (f : Nat) (x : HaSt) : (s.setHa f x).wms = s.wms := rfl
@[simp] theorem State.setHa_xbar (s : State) (f : Nat) (x : HaSt) : (s.setHa f x).xbar = s.xbar := rfl
@[simp] theorem State.setHa_cluIn (s : State) (f : Nat) (x : HaSt) : (s.setHa f x).cluIn = s.cluIn := rfl
@[simp] theorem State.setHa_wmIn (s : State) (f : Nat) (x : HaSt) : (s.setHa f x).wmIn = s.wmIn := rfl
@[simp] theorem State.setHa_spikes (s : State) (f : Nat) (x : HaSt) : (s.setHa f x).spikes = s.spikes := rfl
@[simp] theorem State.setHa_time (s : State) (f : Nat) (x : HaSt) : (s.setHa f x).time = s.time := rfl
@[simp] theorem State.setHa_reports (s : State) (f : Nat) (x : HaSt) : (s.setHa f x).reports = s.reports := rfl
@[simp] theorem State.setHa_queues (s : State) (f : Nat) (x : HaSt) : (s.setHa f x).queues = s.queues := rfl
@[simp] theorem State.setHa_lastMsi (s : State) (f : Nat) (x : HaSt) : (s.setHa f x).lastMsi = s.lastMsi := rfl
@[simp] theorem State.setHa_irqErr (s : State) (f : Nat) (x : HaSt) : (s.setHa f x).irqErr = s.irqErr := rfl
@[simp] theorem State.setHa_irqCast (s : State) (f : Nat) (x : HaSt) : (s.setHa f x).irqCast = s.irqCast := rfl
@[simp] theorem State.setHa_irqBind (s : State) (f : Nat) (x : HaSt) : (s.setHa f x).irqBind = s.irqBind := rfl
@[simp] theorem State.setHa_irqs (s : State) (f : Nat) (x : HaSt) : (s.setHa f x).irqs = s.irqs := rfl
@[simp] theorem State.setHa_outqs (s : State) (f : Nat) (x : HaSt) : (s.setHa f x).outqs = s.outqs := rfl
@[simp] theorem State.setHa_ring (s : State) (f : Nat) (x : HaSt) : (s.setHa f x).ring = s.ring := rfl
@[simp] theorem State.setHa_mast (s : State) (f : Nat) (x : HaSt) : (s.setHa f x).mast = s.mast := rfl
@[simp] theorem State.setHa_mastS (s : State) (f : Nat) (x : HaSt) : (s.setHa f x).mastS = s.mastS := rfl
@[simp] theorem State.setHa_mastA (s : State) (f : Nat) (x : HaSt) : (s.setHa f x).mastA = s.mastA := rfl
@[simp] theorem State.setHa_bad (s : State) (f : Nat) (x : HaSt) : (s.setHa f x).bad = s.bad := rfl
@[simp] theorem State.setHa_suspect (s : State) (f : Nat) (x : HaSt) : (s.setHa f x).suspect = s.suspect := rfl
@[simp] theorem State.setHa_decodes (s : State) (f : Nat) (x : HaSt) : (s.setHa f x).decodes = s.decodes := rfl
@[simp] theorem State.setHa_flips (s : State) (f : Nat) (x : HaSt) : (s.setHa f x).flips = s.flips := rfl
@[simp] theorem State.setHa_merges (s : State) (f : Nat) (x : HaSt) : (s.setHa f x).merges = s.merges := rfl
@[simp] theorem State.setHa_cores (s : State) (f : Nat) (x : HaSt) : (s.setHa f x).cores = s.cores := rfl
@[simp] theorem State.setHa_clus (s : State) (f : Nat) (x : HaSt) : (s.setHa f x).clus = s.clus := rfl
@[simp] theorem State.setHa_filter (s : State) (f : Nat) (x : HaSt) : (s.setHa f x).filter = s.filter := rfl
@[simp] theorem State.setHa_hostLines (s : State) (f : Nat) (x : HaSt) : (s.setHa f x).hostLines = s.hostLines := rfl
@[simp] theorem State.setHa_world (s : State) (f : Nat) (x : HaSt) : (s.setHa f x).world = s.world := rfl
@[simp] theorem State.setHa_ucode (s : State) (f : Nat) (x : HaSt) : (s.setHa f x).ucode = s.ucode := rfl
@[simp] theorem State.setHa_gc (s : State) (f : Nat) (x : HaSt) : (s.setHa f x).gc = s.gc := rfl
@[simp] theorem State.setHa_flash (s : State) (f : Nat) (x : HaSt) : (s.setHa f x).flash = s.flash := rfl
@[simp] theorem State.setHa_memActive (s : State) (f : Nat) (x : HaSt) : (s.setHa f x).memActive = s.memActive := rfl
@[simp] theorem State.setHa_pwr (s : State) (f : Nat) (x : HaSt) : (s.setHa f x).pwr = s.pwr := rfl
@[simp] theorem State.setHa_fuses (s : State) (f : Nat) (x : HaSt) : (s.setHa f x).fuses = s.fuses := rfl
@[simp] theorem State.setHa_boot (s : State) (f : Nat) (x : HaSt) : (s.setHa f x).boot = s.boot := rfl
@[simp] theorem State.setHa_spdm (s : State) (f : Nat) (x : HaSt) : (s.setHa f x).spdm = s.spdm := rfl
@[simp] theorem State.setHa_cxl (s : State) (f : Nat) (x : HaSt) : (s.setHa f x).cxl = s.cxl := rfl
@[simp] theorem State.setHa_mem (s : State) (f : Nat) (x : HaSt) : (s.setHa f x).mem = s.mem := rfl

/-! ### State.setReg -/

@[simp] theorem State.setReg_pending (s : State) (o : Nat) (v : Word) : (s.setReg o v).pending = s.pending := rfl
@[simp] theorem State.setReg_now (s : State) (o : Nat) (v : Word) : (s.setReg o v).now = s.now := rfl
@[simp] theorem State.setReg_free (s : State) (o : Nat) (v : Word) : (s.setReg o v).free = s.free := rfl
@[simp] theorem State.setReg_small (s : State) (o : Nat) (v : Word) : (s.setReg o v).small = s.small := rfl
@[simp] theorem State.setReg_rdata (s : State) (o : Nat) (v : Word) : (s.setReg o v).rdata = s.rdata := rfl
@[simp] theorem State.setReg_eff (s : State) (o : Nat) (v : Word) : (s.setReg o v).eff = s.eff := rfl
@[simp] theorem State.setReg_raised (s : State) (o : Nat) (v : Word) : (s.setReg o v).raised = s.raised := rfl
@[simp] theorem State.setReg_errs (s : State) (o : Nat) (v : Word) : (s.setReg o v).errs = s.errs := rfl
@[simp] theorem State.setReg_errNum (s : State) (o : Nat) (v : Word) : (s.setReg o v).errNum = s.errNum := rfl
@[simp] theorem State.setReg_frame (s : State) (o : Nat) (v : Word) : (s.setReg o v).frame = s.frame := rfl
@[simp] theorem State.setReg_ports (s : State) (o : Nat) (v : Word) : (s.setReg o v).ports = s.ports := rfl
@[simp] theorem State.setReg_chans (s : State) (o : Nat) (v : Word) : (s.setReg o v).chans = s.chans := rfl
@[simp] theorem State.setReg_regionS (s : State) (o : Nat) (v : Word) : (s.setReg o v).regionS = s.regionS := rfl
@[simp] theorem State.setReg_regionA (s : State) (o : Nat) (v : Word) : (s.setReg o v).regionA = s.regionA := rfl
@[simp] theorem State.setReg_dmapS (s : State) (o : Nat) (v : Word) : (s.setReg o v).dmapS = s.dmapS := rfl
@[simp] theorem State.setReg_dmapA (s : State) (o : Nat) (v : Word) : (s.setReg o v).dmapA = s.dmapA := rfl
@[simp] theorem State.setReg_rows (s : State) (o : Nat) (v : Word) : (s.setReg o v).rows = s.rows := rfl
@[simp] theorem State.setReg_wms (s : State) (o : Nat) (v : Word) : (s.setReg o v).wms = s.wms := rfl
@[simp] theorem State.setReg_xbar (s : State) (o : Nat) (v : Word) : (s.setReg o v).xbar = s.xbar := rfl
@[simp] theorem State.setReg_cluIn (s : State) (o : Nat) (v : Word) : (s.setReg o v).cluIn = s.cluIn := rfl
@[simp] theorem State.setReg_wmIn (s : State) (o : Nat) (v : Word) : (s.setReg o v).wmIn = s.wmIn := rfl
@[simp] theorem State.setReg_spikes (s : State) (o : Nat) (v : Word) : (s.setReg o v).spikes = s.spikes := rfl
@[simp] theorem State.setReg_time (s : State) (o : Nat) (v : Word) : (s.setReg o v).time = s.time := rfl
@[simp] theorem State.setReg_reports (s : State) (o : Nat) (v : Word) : (s.setReg o v).reports = s.reports := rfl
@[simp] theorem State.setReg_queues (s : State) (o : Nat) (v : Word) : (s.setReg o v).queues = s.queues := rfl
@[simp] theorem State.setReg_ha (s : State) (o : Nat) (v : Word) : (s.setReg o v).ha = s.ha := rfl
@[simp] theorem State.setReg_lastMsi (s : State) (o : Nat) (v : Word) : (s.setReg o v).lastMsi = s.lastMsi := rfl
@[simp] theorem State.setReg_irqErr (s : State) (o : Nat) (v : Word) : (s.setReg o v).irqErr = s.irqErr := rfl
@[simp] theorem State.setReg_irqCast (s : State) (o : Nat) (v : Word) : (s.setReg o v).irqCast = s.irqCast := rfl
@[simp] theorem State.setReg_irqBind (s : State) (o : Nat) (v : Word) : (s.setReg o v).irqBind = s.irqBind := rfl
@[simp] theorem State.setReg_irqs (s : State) (o : Nat) (v : Word) : (s.setReg o v).irqs = s.irqs := rfl
@[simp] theorem State.setReg_outqs (s : State) (o : Nat) (v : Word) : (s.setReg o v).outqs = s.outqs := rfl
@[simp] theorem State.setReg_ring (s : State) (o : Nat) (v : Word) : (s.setReg o v).ring = s.ring := rfl
@[simp] theorem State.setReg_mast (s : State) (o : Nat) (v : Word) : (s.setReg o v).mast = s.mast := rfl
@[simp] theorem State.setReg_mastS (s : State) (o : Nat) (v : Word) : (s.setReg o v).mastS = s.mastS := rfl
@[simp] theorem State.setReg_mastA (s : State) (o : Nat) (v : Word) : (s.setReg o v).mastA = s.mastA := rfl
@[simp] theorem State.setReg_bad (s : State) (o : Nat) (v : Word) : (s.setReg o v).bad = s.bad := rfl
@[simp] theorem State.setReg_suspect (s : State) (o : Nat) (v : Word) : (s.setReg o v).suspect = s.suspect := rfl
@[simp] theorem State.setReg_decodes (s : State) (o : Nat) (v : Word) : (s.setReg o v).decodes = s.decodes := rfl
@[simp] theorem State.setReg_flips (s : State) (o : Nat) (v : Word) : (s.setReg o v).flips = s.flips := rfl
@[simp] theorem State.setReg_merges (s : State) (o : Nat) (v : Word) : (s.setReg o v).merges = s.merges := rfl
@[simp] theorem State.setReg_cores (s : State) (o : Nat) (v : Word) : (s.setReg o v).cores = s.cores := rfl
@[simp] theorem State.setReg_clus (s : State) (o : Nat) (v : Word) : (s.setReg o v).clus = s.clus := rfl
@[simp] theorem State.setReg_filter (s : State) (o : Nat) (v : Word) : (s.setReg o v).filter = s.filter := rfl
@[simp] theorem State.setReg_hostLines (s : State) (o : Nat) (v : Word) : (s.setReg o v).hostLines = s.hostLines := rfl
@[simp] theorem State.setReg_world (s : State) (o : Nat) (v : Word) : (s.setReg o v).world = s.world := rfl
@[simp] theorem State.setReg_ucode (s : State) (o : Nat) (v : Word) : (s.setReg o v).ucode = s.ucode := rfl
@[simp] theorem State.setReg_gc (s : State) (o : Nat) (v : Word) : (s.setReg o v).gc = s.gc := rfl
@[simp] theorem State.setReg_flash (s : State) (o : Nat) (v : Word) : (s.setReg o v).flash = s.flash := rfl
@[simp] theorem State.setReg_memActive (s : State) (o : Nat) (v : Word) : (s.setReg o v).memActive = s.memActive := rfl
@[simp] theorem State.setReg_pwr (s : State) (o : Nat) (v : Word) : (s.setReg o v).pwr = s.pwr := rfl
@[simp] theorem State.setReg_fuses (s : State) (o : Nat) (v : Word) : (s.setReg o v).fuses = s.fuses := rfl
@[simp] theorem State.setReg_boot (s : State) (o : Nat) (v : Word) : (s.setReg o v).boot = s.boot := rfl
@[simp] theorem State.setReg_spdm (s : State) (o : Nat) (v : Word) : (s.setReg o v).spdm = s.spdm := rfl
@[simp] theorem State.setReg_cxl (s : State) (o : Nat) (v : Word) : (s.setReg o v).cxl = s.cxl := rfl
@[simp] theorem State.setReg_mem (s : State) (o : Nat) (v : Word) : (s.setReg o v).mem = s.mem := rfl

/-! ### State.setField -/

@[simp] theorem State.setField_pending (s : State) (o hi lo v : Nat) : (s.setField o hi lo v).pending = s.pending := rfl
@[simp] theorem State.setField_now (s : State) (o hi lo v : Nat) : (s.setField o hi lo v).now = s.now := rfl
@[simp] theorem State.setField_free (s : State) (o hi lo v : Nat) : (s.setField o hi lo v).free = s.free := rfl
@[simp] theorem State.setField_small (s : State) (o hi lo v : Nat) : (s.setField o hi lo v).small = s.small := rfl
@[simp] theorem State.setField_rdata (s : State) (o hi lo v : Nat) : (s.setField o hi lo v).rdata = s.rdata := rfl
@[simp] theorem State.setField_eff (s : State) (o hi lo v : Nat) : (s.setField o hi lo v).eff = s.eff := rfl
@[simp] theorem State.setField_raised (s : State) (o hi lo v : Nat) : (s.setField o hi lo v).raised = s.raised := rfl
@[simp] theorem State.setField_errs (s : State) (o hi lo v : Nat) : (s.setField o hi lo v).errs = s.errs := rfl
@[simp] theorem State.setField_errNum (s : State) (o hi lo v : Nat) : (s.setField o hi lo v).errNum = s.errNum := rfl
@[simp] theorem State.setField_frame (s : State) (o hi lo v : Nat) : (s.setField o hi lo v).frame = s.frame := rfl
@[simp] theorem State.setField_ports (s : State) (o hi lo v : Nat) : (s.setField o hi lo v).ports = s.ports := rfl
@[simp] theorem State.setField_chans (s : State) (o hi lo v : Nat) : (s.setField o hi lo v).chans = s.chans := rfl
@[simp] theorem State.setField_regionS (s : State) (o hi lo v : Nat) : (s.setField o hi lo v).regionS = s.regionS := rfl
@[simp] theorem State.setField_regionA (s : State) (o hi lo v : Nat) : (s.setField o hi lo v).regionA = s.regionA := rfl
@[simp] theorem State.setField_dmapS (s : State) (o hi lo v : Nat) : (s.setField o hi lo v).dmapS = s.dmapS := rfl
@[simp] theorem State.setField_dmapA (s : State) (o hi lo v : Nat) : (s.setField o hi lo v).dmapA = s.dmapA := rfl
@[simp] theorem State.setField_rows (s : State) (o hi lo v : Nat) : (s.setField o hi lo v).rows = s.rows := rfl
@[simp] theorem State.setField_wms (s : State) (o hi lo v : Nat) : (s.setField o hi lo v).wms = s.wms := rfl
@[simp] theorem State.setField_xbar (s : State) (o hi lo v : Nat) : (s.setField o hi lo v).xbar = s.xbar := rfl
@[simp] theorem State.setField_cluIn (s : State) (o hi lo v : Nat) : (s.setField o hi lo v).cluIn = s.cluIn := rfl
@[simp] theorem State.setField_wmIn (s : State) (o hi lo v : Nat) : (s.setField o hi lo v).wmIn = s.wmIn := rfl
@[simp] theorem State.setField_spikes (s : State) (o hi lo v : Nat) : (s.setField o hi lo v).spikes = s.spikes := rfl
@[simp] theorem State.setField_time (s : State) (o hi lo v : Nat) : (s.setField o hi lo v).time = s.time := rfl
@[simp] theorem State.setField_reports (s : State) (o hi lo v : Nat) : (s.setField o hi lo v).reports = s.reports := rfl
@[simp] theorem State.setField_queues (s : State) (o hi lo v : Nat) : (s.setField o hi lo v).queues = s.queues := rfl
@[simp] theorem State.setField_ha (s : State) (o hi lo v : Nat) : (s.setField o hi lo v).ha = s.ha := rfl
@[simp] theorem State.setField_lastMsi (s : State) (o hi lo v : Nat) : (s.setField o hi lo v).lastMsi = s.lastMsi := rfl
@[simp] theorem State.setField_irqErr (s : State) (o hi lo v : Nat) : (s.setField o hi lo v).irqErr = s.irqErr := rfl
@[simp] theorem State.setField_irqCast (s : State) (o hi lo v : Nat) : (s.setField o hi lo v).irqCast = s.irqCast := rfl
@[simp] theorem State.setField_irqBind (s : State) (o hi lo v : Nat) : (s.setField o hi lo v).irqBind = s.irqBind := rfl
@[simp] theorem State.setField_irqs (s : State) (o hi lo v : Nat) : (s.setField o hi lo v).irqs = s.irqs := rfl
@[simp] theorem State.setField_outqs (s : State) (o hi lo v : Nat) : (s.setField o hi lo v).outqs = s.outqs := rfl
@[simp] theorem State.setField_ring (s : State) (o hi lo v : Nat) : (s.setField o hi lo v).ring = s.ring := rfl
@[simp] theorem State.setField_mast (s : State) (o hi lo v : Nat) : (s.setField o hi lo v).mast = s.mast := rfl
@[simp] theorem State.setField_mastS (s : State) (o hi lo v : Nat) : (s.setField o hi lo v).mastS = s.mastS := rfl
@[simp] theorem State.setField_mastA (s : State) (o hi lo v : Nat) : (s.setField o hi lo v).mastA = s.mastA := rfl
@[simp] theorem State.setField_bad (s : State) (o hi lo v : Nat) : (s.setField o hi lo v).bad = s.bad := rfl
@[simp] theorem State.setField_suspect (s : State) (o hi lo v : Nat) : (s.setField o hi lo v).suspect = s.suspect := rfl
@[simp] theorem State.setField_decodes (s : State) (o hi lo v : Nat) : (s.setField o hi lo v).decodes = s.decodes := rfl
@[simp] theorem State.setField_flips (s : State) (o hi lo v : Nat) : (s.setField o hi lo v).flips = s.flips := rfl
@[simp] theorem State.setField_merges (s : State) (o hi lo v : Nat) : (s.setField o hi lo v).merges = s.merges := rfl
@[simp] theorem State.setField_cores (s : State) (o hi lo v : Nat) : (s.setField o hi lo v).cores = s.cores := rfl
@[simp] theorem State.setField_clus (s : State) (o hi lo v : Nat) : (s.setField o hi lo v).clus = s.clus := rfl
@[simp] theorem State.setField_filter (s : State) (o hi lo v : Nat) : (s.setField o hi lo v).filter = s.filter := rfl
@[simp] theorem State.setField_hostLines (s : State) (o hi lo v : Nat) : (s.setField o hi lo v).hostLines = s.hostLines := rfl
@[simp] theorem State.setField_world (s : State) (o hi lo v : Nat) : (s.setField o hi lo v).world = s.world := rfl
@[simp] theorem State.setField_ucode (s : State) (o hi lo v : Nat) : (s.setField o hi lo v).ucode = s.ucode := rfl
@[simp] theorem State.setField_gc (s : State) (o hi lo v : Nat) : (s.setField o hi lo v).gc = s.gc := rfl
@[simp] theorem State.setField_flash (s : State) (o hi lo v : Nat) : (s.setField o hi lo v).flash = s.flash := rfl
@[simp] theorem State.setField_memActive (s : State) (o hi lo v : Nat) : (s.setField o hi lo v).memActive = s.memActive := rfl
@[simp] theorem State.setField_pwr (s : State) (o hi lo v : Nat) : (s.setField o hi lo v).pwr = s.pwr := rfl
@[simp] theorem State.setField_fuses (s : State) (o hi lo v : Nat) : (s.setField o hi lo v).fuses = s.fuses := rfl
@[simp] theorem State.setField_boot (s : State) (o hi lo v : Nat) : (s.setField o hi lo v).boot = s.boot := rfl
@[simp] theorem State.setField_spdm (s : State) (o hi lo v : Nat) : (s.setField o hi lo v).spdm = s.spdm := rfl
@[simp] theorem State.setField_cxl (s : State) (o hi lo v : Nat) : (s.setField o hi lo v).cxl = s.cxl := rfl
@[simp] theorem State.setField_mem (s : State) (o hi lo v : Nat) : (s.setField o hi lo v).mem = s.mem := rfl

/-! ### State.bumpN -/

@[simp] theorem State.bumpN_pending (s : State) (o n : Nat) : (s.bumpN o n).pending = s.pending := rfl
@[simp] theorem State.bumpN_now (s : State) (o n : Nat) : (s.bumpN o n).now = s.now := rfl
@[simp] theorem State.bumpN_free (s : State) (o n : Nat) : (s.bumpN o n).free = s.free := rfl
@[simp] theorem State.bumpN_small (s : State) (o n : Nat) : (s.bumpN o n).small = s.small := rfl
@[simp] theorem State.bumpN_rdata (s : State) (o n : Nat) : (s.bumpN o n).rdata = s.rdata := rfl
@[simp] theorem State.bumpN_eff (s : State) (o n : Nat) : (s.bumpN o n).eff = s.eff := rfl
@[simp] theorem State.bumpN_raised (s : State) (o n : Nat) : (s.bumpN o n).raised = s.raised := rfl
@[simp] theorem State.bumpN_errs (s : State) (o n : Nat) : (s.bumpN o n).errs = s.errs := rfl
@[simp] theorem State.bumpN_errNum (s : State) (o n : Nat) : (s.bumpN o n).errNum = s.errNum := rfl
@[simp] theorem State.bumpN_frame (s : State) (o n : Nat) : (s.bumpN o n).frame = s.frame := rfl
@[simp] theorem State.bumpN_ports (s : State) (o n : Nat) : (s.bumpN o n).ports = s.ports := rfl
@[simp] theorem State.bumpN_chans (s : State) (o n : Nat) : (s.bumpN o n).chans = s.chans := rfl
@[simp] theorem State.bumpN_regionS (s : State) (o n : Nat) : (s.bumpN o n).regionS = s.regionS := rfl
@[simp] theorem State.bumpN_regionA (s : State) (o n : Nat) : (s.bumpN o n).regionA = s.regionA := rfl
@[simp] theorem State.bumpN_dmapS (s : State) (o n : Nat) : (s.bumpN o n).dmapS = s.dmapS := rfl
@[simp] theorem State.bumpN_dmapA (s : State) (o n : Nat) : (s.bumpN o n).dmapA = s.dmapA := rfl
@[simp] theorem State.bumpN_rows (s : State) (o n : Nat) : (s.bumpN o n).rows = s.rows := rfl
@[simp] theorem State.bumpN_wms (s : State) (o n : Nat) : (s.bumpN o n).wms = s.wms := rfl
@[simp] theorem State.bumpN_xbar (s : State) (o n : Nat) : (s.bumpN o n).xbar = s.xbar := rfl
@[simp] theorem State.bumpN_cluIn (s : State) (o n : Nat) : (s.bumpN o n).cluIn = s.cluIn := rfl
@[simp] theorem State.bumpN_wmIn (s : State) (o n : Nat) : (s.bumpN o n).wmIn = s.wmIn := rfl
@[simp] theorem State.bumpN_spikes (s : State) (o n : Nat) : (s.bumpN o n).spikes = s.spikes := rfl
@[simp] theorem State.bumpN_time (s : State) (o n : Nat) : (s.bumpN o n).time = s.time := rfl
@[simp] theorem State.bumpN_reports (s : State) (o n : Nat) : (s.bumpN o n).reports = s.reports := rfl
@[simp] theorem State.bumpN_queues (s : State) (o n : Nat) : (s.bumpN o n).queues = s.queues := rfl
@[simp] theorem State.bumpN_ha (s : State) (o n : Nat) : (s.bumpN o n).ha = s.ha := rfl
@[simp] theorem State.bumpN_lastMsi (s : State) (o n : Nat) : (s.bumpN o n).lastMsi = s.lastMsi := rfl
@[simp] theorem State.bumpN_irqErr (s : State) (o n : Nat) : (s.bumpN o n).irqErr = s.irqErr := rfl
@[simp] theorem State.bumpN_irqCast (s : State) (o n : Nat) : (s.bumpN o n).irqCast = s.irqCast := rfl
@[simp] theorem State.bumpN_irqBind (s : State) (o n : Nat) : (s.bumpN o n).irqBind = s.irqBind := rfl
@[simp] theorem State.bumpN_irqs (s : State) (o n : Nat) : (s.bumpN o n).irqs = s.irqs := rfl
@[simp] theorem State.bumpN_outqs (s : State) (o n : Nat) : (s.bumpN o n).outqs = s.outqs := rfl
@[simp] theorem State.bumpN_ring (s : State) (o n : Nat) : (s.bumpN o n).ring = s.ring := rfl
@[simp] theorem State.bumpN_mast (s : State) (o n : Nat) : (s.bumpN o n).mast = s.mast := rfl
@[simp] theorem State.bumpN_mastS (s : State) (o n : Nat) : (s.bumpN o n).mastS = s.mastS := rfl
@[simp] theorem State.bumpN_mastA (s : State) (o n : Nat) : (s.bumpN o n).mastA = s.mastA := rfl
@[simp] theorem State.bumpN_bad (s : State) (o n : Nat) : (s.bumpN o n).bad = s.bad := rfl
@[simp] theorem State.bumpN_suspect (s : State) (o n : Nat) : (s.bumpN o n).suspect = s.suspect := rfl
@[simp] theorem State.bumpN_decodes (s : State) (o n : Nat) : (s.bumpN o n).decodes = s.decodes := rfl
@[simp] theorem State.bumpN_flips (s : State) (o n : Nat) : (s.bumpN o n).flips = s.flips := rfl
@[simp] theorem State.bumpN_merges (s : State) (o n : Nat) : (s.bumpN o n).merges = s.merges := rfl
@[simp] theorem State.bumpN_cores (s : State) (o n : Nat) : (s.bumpN o n).cores = s.cores := rfl
@[simp] theorem State.bumpN_clus (s : State) (o n : Nat) : (s.bumpN o n).clus = s.clus := rfl
@[simp] theorem State.bumpN_filter (s : State) (o n : Nat) : (s.bumpN o n).filter = s.filter := rfl
@[simp] theorem State.bumpN_hostLines (s : State) (o n : Nat) : (s.bumpN o n).hostLines = s.hostLines := rfl
@[simp] theorem State.bumpN_world (s : State) (o n : Nat) : (s.bumpN o n).world = s.world := rfl
@[simp] theorem State.bumpN_ucode (s : State) (o n : Nat) : (s.bumpN o n).ucode = s.ucode := rfl
@[simp] theorem State.bumpN_gc (s : State) (o n : Nat) : (s.bumpN o n).gc = s.gc := rfl
@[simp] theorem State.bumpN_flash (s : State) (o n : Nat) : (s.bumpN o n).flash = s.flash := rfl
@[simp] theorem State.bumpN_memActive (s : State) (o n : Nat) : (s.bumpN o n).memActive = s.memActive := rfl
@[simp] theorem State.bumpN_pwr (s : State) (o n : Nat) : (s.bumpN o n).pwr = s.pwr := rfl
@[simp] theorem State.bumpN_fuses (s : State) (o n : Nat) : (s.bumpN o n).fuses = s.fuses := rfl
@[simp] theorem State.bumpN_boot (s : State) (o n : Nat) : (s.bumpN o n).boot = s.boot := rfl
@[simp] theorem State.bumpN_spdm (s : State) (o n : Nat) : (s.bumpN o n).spdm = s.spdm := rfl
@[simp] theorem State.bumpN_cxl (s : State) (o n : Nat) : (s.bumpN o n).cxl = s.cxl := rfl
@[simp] theorem State.bumpN_mem (s : State) (o n : Nat) : (s.bumpN o n).mem = s.mem := rfl

/-! ### State.bump -/

@[simp] theorem State.bump_pending (s : State) (o : Nat) : (s.bump o).pending = s.pending := rfl
@[simp] theorem State.bump_now (s : State) (o : Nat) : (s.bump o).now = s.now := rfl
@[simp] theorem State.bump_free (s : State) (o : Nat) : (s.bump o).free = s.free := rfl
@[simp] theorem State.bump_small (s : State) (o : Nat) : (s.bump o).small = s.small := rfl
@[simp] theorem State.bump_rdata (s : State) (o : Nat) : (s.bump o).rdata = s.rdata := rfl
@[simp] theorem State.bump_eff (s : State) (o : Nat) : (s.bump o).eff = s.eff := rfl
@[simp] theorem State.bump_raised (s : State) (o : Nat) : (s.bump o).raised = s.raised := rfl
@[simp] theorem State.bump_errs (s : State) (o : Nat) : (s.bump o).errs = s.errs := rfl
@[simp] theorem State.bump_errNum (s : State) (o : Nat) : (s.bump o).errNum = s.errNum := rfl
@[simp] theorem State.bump_frame (s : State) (o : Nat) : (s.bump o).frame = s.frame := rfl
@[simp] theorem State.bump_ports (s : State) (o : Nat) : (s.bump o).ports = s.ports := rfl
@[simp] theorem State.bump_chans (s : State) (o : Nat) : (s.bump o).chans = s.chans := rfl
@[simp] theorem State.bump_regionS (s : State) (o : Nat) : (s.bump o).regionS = s.regionS := rfl
@[simp] theorem State.bump_regionA (s : State) (o : Nat) : (s.bump o).regionA = s.regionA := rfl
@[simp] theorem State.bump_dmapS (s : State) (o : Nat) : (s.bump o).dmapS = s.dmapS := rfl
@[simp] theorem State.bump_dmapA (s : State) (o : Nat) : (s.bump o).dmapA = s.dmapA := rfl
@[simp] theorem State.bump_rows (s : State) (o : Nat) : (s.bump o).rows = s.rows := rfl
@[simp] theorem State.bump_wms (s : State) (o : Nat) : (s.bump o).wms = s.wms := rfl
@[simp] theorem State.bump_xbar (s : State) (o : Nat) : (s.bump o).xbar = s.xbar := rfl
@[simp] theorem State.bump_cluIn (s : State) (o : Nat) : (s.bump o).cluIn = s.cluIn := rfl
@[simp] theorem State.bump_wmIn (s : State) (o : Nat) : (s.bump o).wmIn = s.wmIn := rfl
@[simp] theorem State.bump_spikes (s : State) (o : Nat) : (s.bump o).spikes = s.spikes := rfl
@[simp] theorem State.bump_time (s : State) (o : Nat) : (s.bump o).time = s.time := rfl
@[simp] theorem State.bump_reports (s : State) (o : Nat) : (s.bump o).reports = s.reports := rfl
@[simp] theorem State.bump_queues (s : State) (o : Nat) : (s.bump o).queues = s.queues := rfl
@[simp] theorem State.bump_ha (s : State) (o : Nat) : (s.bump o).ha = s.ha := rfl
@[simp] theorem State.bump_lastMsi (s : State) (o : Nat) : (s.bump o).lastMsi = s.lastMsi := rfl
@[simp] theorem State.bump_irqErr (s : State) (o : Nat) : (s.bump o).irqErr = s.irqErr := rfl
@[simp] theorem State.bump_irqCast (s : State) (o : Nat) : (s.bump o).irqCast = s.irqCast := rfl
@[simp] theorem State.bump_irqBind (s : State) (o : Nat) : (s.bump o).irqBind = s.irqBind := rfl
@[simp] theorem State.bump_irqs (s : State) (o : Nat) : (s.bump o).irqs = s.irqs := rfl
@[simp] theorem State.bump_outqs (s : State) (o : Nat) : (s.bump o).outqs = s.outqs := rfl
@[simp] theorem State.bump_ring (s : State) (o : Nat) : (s.bump o).ring = s.ring := rfl
@[simp] theorem State.bump_mast (s : State) (o : Nat) : (s.bump o).mast = s.mast := rfl
@[simp] theorem State.bump_mastS (s : State) (o : Nat) : (s.bump o).mastS = s.mastS := rfl
@[simp] theorem State.bump_mastA (s : State) (o : Nat) : (s.bump o).mastA = s.mastA := rfl
@[simp] theorem State.bump_bad (s : State) (o : Nat) : (s.bump o).bad = s.bad := rfl
@[simp] theorem State.bump_suspect (s : State) (o : Nat) : (s.bump o).suspect = s.suspect := rfl
@[simp] theorem State.bump_decodes (s : State) (o : Nat) : (s.bump o).decodes = s.decodes := rfl
@[simp] theorem State.bump_flips (s : State) (o : Nat) : (s.bump o).flips = s.flips := rfl
@[simp] theorem State.bump_merges (s : State) (o : Nat) : (s.bump o).merges = s.merges := rfl
@[simp] theorem State.bump_cores (s : State) (o : Nat) : (s.bump o).cores = s.cores := rfl
@[simp] theorem State.bump_clus (s : State) (o : Nat) : (s.bump o).clus = s.clus := rfl
@[simp] theorem State.bump_filter (s : State) (o : Nat) : (s.bump o).filter = s.filter := rfl
@[simp] theorem State.bump_hostLines (s : State) (o : Nat) : (s.bump o).hostLines = s.hostLines := rfl
@[simp] theorem State.bump_world (s : State) (o : Nat) : (s.bump o).world = s.world := rfl
@[simp] theorem State.bump_ucode (s : State) (o : Nat) : (s.bump o).ucode = s.ucode := rfl
@[simp] theorem State.bump_gc (s : State) (o : Nat) : (s.bump o).gc = s.gc := rfl
@[simp] theorem State.bump_flash (s : State) (o : Nat) : (s.bump o).flash = s.flash := rfl
@[simp] theorem State.bump_memActive (s : State) (o : Nat) : (s.bump o).memActive = s.memActive := rfl
@[simp] theorem State.bump_pwr (s : State) (o : Nat) : (s.bump o).pwr = s.pwr := rfl
@[simp] theorem State.bump_fuses (s : State) (o : Nat) : (s.bump o).fuses = s.fuses := rfl
@[simp] theorem State.bump_boot (s : State) (o : Nat) : (s.bump o).boot = s.boot := rfl
@[simp] theorem State.bump_spdm (s : State) (o : Nat) : (s.bump o).spdm = s.spdm := rfl
@[simp] theorem State.bump_cxl (s : State) (o : Nat) : (s.bump o).cxl = s.cxl := rfl
@[simp] theorem State.bump_mem (s : State) (o : Nat) : (s.bump o).mem = s.mem := rfl

/-! ### State.raiseBit -/

@[simp] theorem State.raiseBit_pending (s : State) (o b : Nat) : (s.raiseBit o b).pending = s.pending := rfl
@[simp] theorem State.raiseBit_now (s : State) (o b : Nat) : (s.raiseBit o b).now = s.now := rfl
@[simp] theorem State.raiseBit_free (s : State) (o b : Nat) : (s.raiseBit o b).free = s.free := rfl
@[simp] theorem State.raiseBit_small (s : State) (o b : Nat) : (s.raiseBit o b).small = s.small := rfl
@[simp] theorem State.raiseBit_rdata (s : State) (o b : Nat) : (s.raiseBit o b).rdata = s.rdata := rfl
@[simp] theorem State.raiseBit_eff (s : State) (o b : Nat) : (s.raiseBit o b).eff = s.eff := rfl
@[simp] theorem State.raiseBit_errs (s : State) (o b : Nat) : (s.raiseBit o b).errs = s.errs := rfl
@[simp] theorem State.raiseBit_errNum (s : State) (o b : Nat) : (s.raiseBit o b).errNum = s.errNum := rfl
@[simp] theorem State.raiseBit_frame (s : State) (o b : Nat) : (s.raiseBit o b).frame = s.frame := rfl
@[simp] theorem State.raiseBit_ports (s : State) (o b : Nat) : (s.raiseBit o b).ports = s.ports := rfl
@[simp] theorem State.raiseBit_chans (s : State) (o b : Nat) : (s.raiseBit o b).chans = s.chans := rfl
@[simp] theorem State.raiseBit_regionS (s : State) (o b : Nat) : (s.raiseBit o b).regionS = s.regionS := rfl
@[simp] theorem State.raiseBit_regionA (s : State) (o b : Nat) : (s.raiseBit o b).regionA = s.regionA := rfl
@[simp] theorem State.raiseBit_dmapS (s : State) (o b : Nat) : (s.raiseBit o b).dmapS = s.dmapS := rfl
@[simp] theorem State.raiseBit_dmapA (s : State) (o b : Nat) : (s.raiseBit o b).dmapA = s.dmapA := rfl
@[simp] theorem State.raiseBit_rows (s : State) (o b : Nat) : (s.raiseBit o b).rows = s.rows := rfl
@[simp] theorem State.raiseBit_wms (s : State) (o b : Nat) : (s.raiseBit o b).wms = s.wms := rfl
@[simp] theorem State.raiseBit_xbar (s : State) (o b : Nat) : (s.raiseBit o b).xbar = s.xbar := rfl
@[simp] theorem State.raiseBit_cluIn (s : State) (o b : Nat) : (s.raiseBit o b).cluIn = s.cluIn := rfl
@[simp] theorem State.raiseBit_wmIn (s : State) (o b : Nat) : (s.raiseBit o b).wmIn = s.wmIn := rfl
@[simp] theorem State.raiseBit_spikes (s : State) (o b : Nat) : (s.raiseBit o b).spikes = s.spikes := rfl
@[simp] theorem State.raiseBit_time (s : State) (o b : Nat) : (s.raiseBit o b).time = s.time := rfl
@[simp] theorem State.raiseBit_reports (s : State) (o b : Nat) : (s.raiseBit o b).reports = s.reports := rfl
@[simp] theorem State.raiseBit_queues (s : State) (o b : Nat) : (s.raiseBit o b).queues = s.queues := rfl
@[simp] theorem State.raiseBit_ha (s : State) (o b : Nat) : (s.raiseBit o b).ha = s.ha := rfl
@[simp] theorem State.raiseBit_lastMsi (s : State) (o b : Nat) : (s.raiseBit o b).lastMsi = s.lastMsi := rfl
@[simp] theorem State.raiseBit_irqErr (s : State) (o b : Nat) : (s.raiseBit o b).irqErr = s.irqErr := rfl
@[simp] theorem State.raiseBit_irqCast (s : State) (o b : Nat) : (s.raiseBit o b).irqCast = s.irqCast := rfl
@[simp] theorem State.raiseBit_irqBind (s : State) (o b : Nat) : (s.raiseBit o b).irqBind = s.irqBind := rfl
@[simp] theorem State.raiseBit_irqs (s : State) (o b : Nat) : (s.raiseBit o b).irqs = s.irqs := rfl
@[simp] theorem State.raiseBit_outqs (s : State) (o b : Nat) : (s.raiseBit o b).outqs = s.outqs := rfl
@[simp] theorem State.raiseBit_ring (s : State) (o b : Nat) : (s.raiseBit o b).ring = s.ring := rfl
@[simp] theorem State.raiseBit_mast (s : State) (o b : Nat) : (s.raiseBit o b).mast = s.mast := rfl
@[simp] theorem State.raiseBit_mastS (s : State) (o b : Nat) : (s.raiseBit o b).mastS = s.mastS := rfl
@[simp] theorem State.raiseBit_mastA (s : State) (o b : Nat) : (s.raiseBit o b).mastA = s.mastA := rfl
@[simp] theorem State.raiseBit_bad (s : State) (o b : Nat) : (s.raiseBit o b).bad = s.bad := rfl
@[simp] theorem State.raiseBit_suspect (s : State) (o b : Nat) : (s.raiseBit o b).suspect = s.suspect := rfl
@[simp] theorem State.raiseBit_decodes (s : State) (o b : Nat) : (s.raiseBit o b).decodes = s.decodes := rfl
@[simp] theorem State.raiseBit_flips (s : State) (o b : Nat) : (s.raiseBit o b).flips = s.flips := rfl
@[simp] theorem State.raiseBit_merges (s : State) (o b : Nat) : (s.raiseBit o b).merges = s.merges := rfl
@[simp] theorem State.raiseBit_cores (s : State) (o b : Nat) : (s.raiseBit o b).cores = s.cores := rfl
@[simp] theorem State.raiseBit_clus (s : State) (o b : Nat) : (s.raiseBit o b).clus = s.clus := rfl
@[simp] theorem State.raiseBit_filter (s : State) (o b : Nat) : (s.raiseBit o b).filter = s.filter := rfl
@[simp] theorem State.raiseBit_hostLines (s : State) (o b : Nat) : (s.raiseBit o b).hostLines = s.hostLines := rfl
@[simp] theorem State.raiseBit_world (s : State) (o b : Nat) : (s.raiseBit o b).world = s.world := rfl
@[simp] theorem State.raiseBit_ucode (s : State) (o b : Nat) : (s.raiseBit o b).ucode = s.ucode := rfl
@[simp] theorem State.raiseBit_gc (s : State) (o b : Nat) : (s.raiseBit o b).gc = s.gc := rfl
@[simp] theorem State.raiseBit_flash (s : State) (o b : Nat) : (s.raiseBit o b).flash = s.flash := rfl
@[simp] theorem State.raiseBit_memActive (s : State) (o b : Nat) : (s.raiseBit o b).memActive = s.memActive := rfl
@[simp] theorem State.raiseBit_pwr (s : State) (o b : Nat) : (s.raiseBit o b).pwr = s.pwr := rfl
@[simp] theorem State.raiseBit_fuses (s : State) (o b : Nat) : (s.raiseBit o b).fuses = s.fuses := rfl
@[simp] theorem State.raiseBit_boot (s : State) (o b : Nat) : (s.raiseBit o b).boot = s.boot := rfl
@[simp] theorem State.raiseBit_spdm (s : State) (o b : Nat) : (s.raiseBit o b).spdm = s.spdm := rfl
@[simp] theorem State.raiseBit_cxl (s : State) (o b : Nat) : (s.raiseBit o b).cxl = s.cxl := rfl
@[simp] theorem State.raiseBit_mem (s : State) (o b : Nat) : (s.raiseBit o b).mem = s.mem := rfl

/-! ### State.errWith -/

@[simp] theorem State.errWith_pending (s : State) (a b c d e f g h i : Nat) (k : Option Nat) : (s.errWith a b c d e f g h i k).pending = s.pending := rfl
@[simp] theorem State.errWith_now (s : State) (a b c d e f g h i : Nat) (k : Option Nat) : (s.errWith a b c d e f g h i k).now = s.now := rfl
@[simp] theorem State.errWith_free (s : State) (a b c d e f g h i : Nat) (k : Option Nat) : (s.errWith a b c d e f g h i k).free = s.free := rfl
@[simp] theorem State.errWith_small (s : State) (a b c d e f g h i : Nat) (k : Option Nat) : (s.errWith a b c d e f g h i k).small = s.small := rfl
@[simp] theorem State.errWith_rdata (s : State) (a b c d e f g h i : Nat) (k : Option Nat) : (s.errWith a b c d e f g h i k).rdata = s.rdata := rfl
@[simp] theorem State.errWith_regs (s : State) (a b c d e f g h i : Nat) (k : Option Nat) : (s.errWith a b c d e f g h i k).regs = s.regs := rfl
@[simp] theorem State.errWith_eff (s : State) (a b c d e f g h i : Nat) (k : Option Nat) : (s.errWith a b c d e f g h i k).eff = s.eff := rfl
@[simp] theorem State.errWith_raised (s : State) (a b c d e f g h i : Nat) (k : Option Nat) : (s.errWith a b c d e f g h i k).raised = s.raised := rfl
@[simp] theorem State.errWith_frame (s : State) (a b c d e f g h i : Nat) (k : Option Nat) : (s.errWith a b c d e f g h i k).frame = s.frame := rfl
@[simp] theorem State.errWith_ports (s : State) (a b c d e f g h i : Nat) (k : Option Nat) : (s.errWith a b c d e f g h i k).ports = s.ports := rfl
@[simp] theorem State.errWith_chans (s : State) (a b c d e f g h i : Nat) (k : Option Nat) : (s.errWith a b c d e f g h i k).chans = s.chans := rfl
@[simp] theorem State.errWith_regionS (s : State) (a b c d e f g h i : Nat) (k : Option Nat) : (s.errWith a b c d e f g h i k).regionS = s.regionS := rfl
@[simp] theorem State.errWith_regionA (s : State) (a b c d e f g h i : Nat) (k : Option Nat) : (s.errWith a b c d e f g h i k).regionA = s.regionA := rfl
@[simp] theorem State.errWith_dmapS (s : State) (a b c d e f g h i : Nat) (k : Option Nat) : (s.errWith a b c d e f g h i k).dmapS = s.dmapS := rfl
@[simp] theorem State.errWith_dmapA (s : State) (a b c d e f g h i : Nat) (k : Option Nat) : (s.errWith a b c d e f g h i k).dmapA = s.dmapA := rfl
@[simp] theorem State.errWith_rows (s : State) (a b c d e f g h i : Nat) (k : Option Nat) : (s.errWith a b c d e f g h i k).rows = s.rows := rfl
@[simp] theorem State.errWith_wms (s : State) (a b c d e f g h i : Nat) (k : Option Nat) : (s.errWith a b c d e f g h i k).wms = s.wms := rfl
@[simp] theorem State.errWith_xbar (s : State) (a b c d e f g h i : Nat) (k : Option Nat) : (s.errWith a b c d e f g h i k).xbar = s.xbar := rfl
@[simp] theorem State.errWith_cluIn (s : State) (a b c d e f g h i : Nat) (k : Option Nat) : (s.errWith a b c d e f g h i k).cluIn = s.cluIn := rfl
@[simp] theorem State.errWith_wmIn (s : State) (a b c d e f g h i : Nat) (k : Option Nat) : (s.errWith a b c d e f g h i k).wmIn = s.wmIn := rfl
@[simp] theorem State.errWith_spikes (s : State) (a b c d e f g h i : Nat) (k : Option Nat) : (s.errWith a b c d e f g h i k).spikes = s.spikes := rfl
@[simp] theorem State.errWith_time (s : State) (a b c d e f g h i : Nat) (k : Option Nat) : (s.errWith a b c d e f g h i k).time = s.time := rfl
@[simp] theorem State.errWith_reports (s : State) (a b c d e f g h i : Nat) (k : Option Nat) : (s.errWith a b c d e f g h i k).reports = s.reports := rfl
@[simp] theorem State.errWith_queues (s : State) (a b c d e f g h i : Nat) (k : Option Nat) : (s.errWith a b c d e f g h i k).queues = s.queues := rfl
@[simp] theorem State.errWith_ha (s : State) (a b c d e f g h i : Nat) (k : Option Nat) : (s.errWith a b c d e f g h i k).ha = s.ha := rfl
@[simp] theorem State.errWith_lastMsi (s : State) (a b c d e f g h i : Nat) (k : Option Nat) : (s.errWith a b c d e f g h i k).lastMsi = s.lastMsi := rfl
@[simp] theorem State.errWith_irqErr (s : State) (a b c d e f g h i : Nat) (k : Option Nat) : (s.errWith a b c d e f g h i k).irqErr = s.irqErr := rfl
@[simp] theorem State.errWith_irqCast (s : State) (a b c d e f g h i : Nat) (k : Option Nat) : (s.errWith a b c d e f g h i k).irqCast = s.irqCast := rfl
@[simp] theorem State.errWith_irqBind (s : State) (a b c d e f g h i : Nat) (k : Option Nat) : (s.errWith a b c d e f g h i k).irqBind = s.irqBind := rfl
@[simp] theorem State.errWith_irqs (s : State) (a b c d e f g h i : Nat) (k : Option Nat) : (s.errWith a b c d e f g h i k).irqs = s.irqs := rfl
@[simp] theorem State.errWith_outqs (s : State) (a b c d e f g h i : Nat) (k : Option Nat) : (s.errWith a b c d e f g h i k).outqs = s.outqs := rfl
@[simp] theorem State.errWith_ring (s : State) (a b c d e f g h i : Nat) (k : Option Nat) : (s.errWith a b c d e f g h i k).ring = s.ring := rfl
@[simp] theorem State.errWith_mast (s : State) (a b c d e f g h i : Nat) (k : Option Nat) : (s.errWith a b c d e f g h i k).mast = s.mast := rfl
@[simp] theorem State.errWith_mastS (s : State) (a b c d e f g h i : Nat) (k : Option Nat) : (s.errWith a b c d e f g h i k).mastS = s.mastS := rfl
@[simp] theorem State.errWith_mastA (s : State) (a b c d e f g h i : Nat) (k : Option Nat) : (s.errWith a b c d e f g h i k).mastA = s.mastA := rfl
@[simp] theorem State.errWith_bad (s : State) (a b c d e f g h i : Nat) (k : Option Nat) : (s.errWith a b c d e f g h i k).bad = s.bad := rfl
@[simp] theorem State.errWith_suspect (s : State) (a b c d e f g h i : Nat) (k : Option Nat) : (s.errWith a b c d e f g h i k).suspect = s.suspect := rfl
@[simp] theorem State.errWith_decodes (s : State) (a b c d e f g h i : Nat) (k : Option Nat) : (s.errWith a b c d e f g h i k).decodes = s.decodes := rfl
@[simp] theorem State.errWith_flips (s : State) (a b c d e f g h i : Nat) (k : Option Nat) : (s.errWith a b c d e f g h i k).flips = s.flips := rfl
@[simp] theorem State.errWith_merges (s : State) (a b c d e f g h i : Nat) (k : Option Nat) : (s.errWith a b c d e f g h i k).merges = s.merges := rfl
@[simp] theorem State.errWith_cores (s : State) (a b c d e f g h i : Nat) (k : Option Nat) : (s.errWith a b c d e f g h i k).cores = s.cores := rfl
@[simp] theorem State.errWith_clus (s : State) (a b c d e f g h i : Nat) (k : Option Nat) : (s.errWith a b c d e f g h i k).clus = s.clus := rfl
@[simp] theorem State.errWith_filter (s : State) (a b c d e f g h i : Nat) (k : Option Nat) : (s.errWith a b c d e f g h i k).filter = s.filter := rfl
@[simp] theorem State.errWith_hostLines (s : State) (a b c d e f g h i : Nat) (k : Option Nat) : (s.errWith a b c d e f g h i k).hostLines = s.hostLines := rfl
@[simp] theorem State.errWith_world (s : State) (a b c d e f g h i : Nat) (k : Option Nat) : (s.errWith a b c d e f g h i k).world = s.world := rfl
@[simp] theorem State.errWith_ucode (s : State) (a b c d e f g h i : Nat) (k : Option Nat) : (s.errWith a b c d e f g h i k).ucode = s.ucode := rfl
@[simp] theorem State.errWith_gc (s : State) (a b c d e f g h i : Nat) (k : Option Nat) : (s.errWith a b c d e f g h i k).gc = s.gc := rfl
@[simp] theorem State.errWith_flash (s : State) (a b c d e f g h i : Nat) (k : Option Nat) : (s.errWith a b c d e f g h i k).flash = s.flash := rfl
@[simp] theorem State.errWith_memActive (s : State) (a b c d e f g h i : Nat) (k : Option Nat) : (s.errWith a b c d e f g h i k).memActive = s.memActive := rfl
@[simp] theorem State.errWith_pwr (s : State) (a b c d e f g h i : Nat) (k : Option Nat) : (s.errWith a b c d e f g h i k).pwr = s.pwr := rfl
@[simp] theorem State.errWith_fuses (s : State) (a b c d e f g h i : Nat) (k : Option Nat) : (s.errWith a b c d e f g h i k).fuses = s.fuses := rfl
@[simp] theorem State.errWith_boot (s : State) (a b c d e f g h i : Nat) (k : Option Nat) : (s.errWith a b c d e f g h i k).boot = s.boot := rfl
@[simp] theorem State.errWith_spdm (s : State) (a b c d e f g h i : Nat) (k : Option Nat) : (s.errWith a b c d e f g h i k).spdm = s.spdm := rfl
@[simp] theorem State.errWith_cxl (s : State) (a b c d e f g h i : Nat) (k : Option Nat) : (s.errWith a b c d e f g h i k).cxl = s.cxl := rfl
@[simp] theorem State.errWith_mem (s : State) (a b c d e f g h i : Nat) (k : Option Nat) : (s.errWith a b c d e f g h i k).mem = s.mem := rfl

/-! ### State.err -/

@[simp] theorem State.err_pending (s : State) (a b c d e : Nat) : (s.err a b c d e).pending = s.pending := rfl
@[simp] theorem State.err_now (s : State) (a b c d e : Nat) : (s.err a b c d e).now = s.now := rfl
@[simp] theorem State.err_free (s : State) (a b c d e : Nat) : (s.err a b c d e).free = s.free := rfl
@[simp] theorem State.err_small (s : State) (a b c d e : Nat) : (s.err a b c d e).small = s.small := rfl
@[simp] theorem State.err_rdata (s : State) (a b c d e : Nat) : (s.err a b c d e).rdata = s.rdata := rfl
@[simp] theorem State.err_regs (s : State) (a b c d e : Nat) : (s.err a b c d e).regs = s.regs := rfl
@[simp] theorem State.err_eff (s : State) (a b c d e : Nat) : (s.err a b c d e).eff = s.eff := rfl
@[simp] theorem State.err_raised (s : State) (a b c d e : Nat) : (s.err a b c d e).raised = s.raised := rfl
@[simp] theorem State.err_frame (s : State) (a b c d e : Nat) : (s.err a b c d e).frame = s.frame := rfl
@[simp] theorem State.err_ports (s : State) (a b c d e : Nat) : (s.err a b c d e).ports = s.ports := rfl
@[simp] theorem State.err_chans (s : State) (a b c d e : Nat) : (s.err a b c d e).chans = s.chans := rfl
@[simp] theorem State.err_regionS (s : State) (a b c d e : Nat) : (s.err a b c d e).regionS = s.regionS := rfl
@[simp] theorem State.err_regionA (s : State) (a b c d e : Nat) : (s.err a b c d e).regionA = s.regionA := rfl
@[simp] theorem State.err_dmapS (s : State) (a b c d e : Nat) : (s.err a b c d e).dmapS = s.dmapS := rfl
@[simp] theorem State.err_dmapA (s : State) (a b c d e : Nat) : (s.err a b c d e).dmapA = s.dmapA := rfl
@[simp] theorem State.err_rows (s : State) (a b c d e : Nat) : (s.err a b c d e).rows = s.rows := rfl
@[simp] theorem State.err_wms (s : State) (a b c d e : Nat) : (s.err a b c d e).wms = s.wms := rfl
@[simp] theorem State.err_xbar (s : State) (a b c d e : Nat) : (s.err a b c d e).xbar = s.xbar := rfl
@[simp] theorem State.err_cluIn (s : State) (a b c d e : Nat) : (s.err a b c d e).cluIn = s.cluIn := rfl
@[simp] theorem State.err_wmIn (s : State) (a b c d e : Nat) : (s.err a b c d e).wmIn = s.wmIn := rfl
@[simp] theorem State.err_spikes (s : State) (a b c d e : Nat) : (s.err a b c d e).spikes = s.spikes := rfl
@[simp] theorem State.err_time (s : State) (a b c d e : Nat) : (s.err a b c d e).time = s.time := rfl
@[simp] theorem State.err_reports (s : State) (a b c d e : Nat) : (s.err a b c d e).reports = s.reports := rfl
@[simp] theorem State.err_queues (s : State) (a b c d e : Nat) : (s.err a b c d e).queues = s.queues := rfl
@[simp] theorem State.err_ha (s : State) (a b c d e : Nat) : (s.err a b c d e).ha = s.ha := rfl
@[simp] theorem State.err_lastMsi (s : State) (a b c d e : Nat) : (s.err a b c d e).lastMsi = s.lastMsi := rfl
@[simp] theorem State.err_irqErr (s : State) (a b c d e : Nat) : (s.err a b c d e).irqErr = s.irqErr := rfl
@[simp] theorem State.err_irqCast (s : State) (a b c d e : Nat) : (s.err a b c d e).irqCast = s.irqCast := rfl
@[simp] theorem State.err_irqBind (s : State) (a b c d e : Nat) : (s.err a b c d e).irqBind = s.irqBind := rfl
@[simp] theorem State.err_irqs (s : State) (a b c d e : Nat) : (s.err a b c d e).irqs = s.irqs := rfl
@[simp] theorem State.err_outqs (s : State) (a b c d e : Nat) : (s.err a b c d e).outqs = s.outqs := rfl
@[simp] theorem State.err_ring (s : State) (a b c d e : Nat) : (s.err a b c d e).ring = s.ring := rfl
@[simp] theorem State.err_mast (s : State) (a b c d e : Nat) : (s.err a b c d e).mast = s.mast := rfl
@[simp] theorem State.err_mastS (s : State) (a b c d e : Nat) : (s.err a b c d e).mastS = s.mastS := rfl
@[simp] theorem State.err_mastA (s : State) (a b c d e : Nat) : (s.err a b c d e).mastA = s.mastA := rfl
@[simp] theorem State.err_bad (s : State) (a b c d e : Nat) : (s.err a b c d e).bad = s.bad := rfl
@[simp] theorem State.err_suspect (s : State) (a b c d e : Nat) : (s.err a b c d e).suspect = s.suspect := rfl
@[simp] theorem State.err_decodes (s : State) (a b c d e : Nat) : (s.err a b c d e).decodes = s.decodes := rfl
@[simp] theorem State.err_flips (s : State) (a b c d e : Nat) : (s.err a b c d e).flips = s.flips := rfl
@[simp] theorem State.err_merges (s : State) (a b c d e : Nat) : (s.err a b c d e).merges = s.merges := rfl
@[simp] theorem State.err_cores (s : State) (a b c d e : Nat) : (s.err a b c d e).cores = s.cores := rfl
@[simp] theorem State.err_clus (s : State) (a b c d e : Nat) : (s.err a b c d e).clus = s.clus := rfl
@[simp] theorem State.err_filter (s : State) (a b c d e : Nat) : (s.err a b c d e).filter = s.filter := rfl
@[simp] theorem State.err_hostLines (s : State) (a b c d e : Nat) : (s.err a b c d e).hostLines = s.hostLines := rfl
@[simp] theorem State.err_world (s : State) (a b c d e : Nat) : (s.err a b c d e).world = s.world := rfl
@[simp] theorem State.err_ucode (s : State) (a b c d e : Nat) : (s.err a b c d e).ucode = s.ucode := rfl
@[simp] theorem State.err_gc (s : State) (a b c d e : Nat) : (s.err a b c d e).gc = s.gc := rfl
@[simp] theorem State.err_flash (s : State) (a b c d e : Nat) : (s.err a b c d e).flash = s.flash := rfl
@[simp] theorem State.err_memActive (s : State) (a b c d e : Nat) : (s.err a b c d e).memActive = s.memActive := rfl
@[simp] theorem State.err_pwr (s : State) (a b c d e : Nat) : (s.err a b c d e).pwr = s.pwr := rfl
@[simp] theorem State.err_fuses (s : State) (a b c d e : Nat) : (s.err a b c d e).fuses = s.fuses := rfl
@[simp] theorem State.err_boot (s : State) (a b c d e : Nat) : (s.err a b c d e).boot = s.boot := rfl
@[simp] theorem State.err_spdm (s : State) (a b c d e : Nat) : (s.err a b c d e).spdm = s.spdm := rfl
@[simp] theorem State.err_cxl (s : State) (a b c d e : Nat) : (s.err a b c d e).cxl = s.cxl := rfl
@[simp] theorem State.err_mem (s : State) (a b c d e : Nat) : (s.err a b c d e).mem = s.mem := rfl

/-! ### State.setPwr -/

@[simp] theorem State.setPwr_pending (s : State) (x : PwrSt) : (s.setPwr x).pending = s.pending := rfl
@[simp] theorem State.setPwr_now (s : State) (x : PwrSt) : (s.setPwr x).now = s.now := rfl
@[simp] theorem State.setPwr_free (s : State) (x : PwrSt) : (s.setPwr x).free = s.free := rfl
@[simp] theorem State.setPwr_small (s : State) (x : PwrSt) : (s.setPwr x).small = s.small := rfl
@[simp] theorem State.setPwr_rdata (s : State) (x : PwrSt) : (s.setPwr x).rdata = s.rdata := rfl
@[simp] theorem State.setPwr_regs (s : State) (x : PwrSt) : (s.setPwr x).regs = s.regs := rfl
@[simp] theorem State.setPwr_eff (s : State) (x : PwrSt) : (s.setPwr x).eff = s.eff := rfl
@[simp] theorem State.setPwr_raised (s : State) (x : PwrSt) : (s.setPwr x).raised = s.raised := rfl
@[simp] theorem State.setPwr_errs (s : State) (x : PwrSt) : (s.setPwr x).errs = s.errs := rfl
@[simp] theorem State.setPwr_errNum (s : State) (x : PwrSt) : (s.setPwr x).errNum = s.errNum := rfl
@[simp] theorem State.setPwr_frame (s : State) (x : PwrSt) : (s.setPwr x).frame = s.frame := rfl
@[simp] theorem State.setPwr_ports (s : State) (x : PwrSt) : (s.setPwr x).ports = s.ports := rfl
@[simp] theorem State.setPwr_chans (s : State) (x : PwrSt) : (s.setPwr x).chans = s.chans := rfl
@[simp] theorem State.setPwr_regionS (s : State) (x : PwrSt) : (s.setPwr x).regionS = s.regionS := rfl
@[simp] theorem State.setPwr_regionA (s : State) (x : PwrSt) : (s.setPwr x).regionA = s.regionA := rfl
@[simp] theorem State.setPwr_dmapS (s : State) (x : PwrSt) : (s.setPwr x).dmapS = s.dmapS := rfl
@[simp] theorem State.setPwr_dmapA (s : State) (x : PwrSt) : (s.setPwr x).dmapA = s.dmapA := rfl
@[simp] theorem State.setPwr_rows (s : State) (x : PwrSt) : (s.setPwr x).rows = s.rows := rfl
@[simp] theorem State.setPwr_wms (s : State) (x : PwrSt) : (s.setPwr x).wms = s.wms := rfl
@[simp] theorem State.setPwr_xbar (s : State) (x : PwrSt) : (s.setPwr x).xbar = s.xbar := rfl
@[simp] theorem State.setPwr_cluIn (s : State) (x : PwrSt) : (s.setPwr x).cluIn = s.cluIn := rfl
@[simp] theorem State.setPwr_wmIn (s : State) (x : PwrSt) : (s.setPwr x).wmIn = s.wmIn := rfl
@[simp] theorem State.setPwr_spikes (s : State) (x : PwrSt) : (s.setPwr x).spikes = s.spikes := rfl
@[simp] theorem State.setPwr_time (s : State) (x : PwrSt) : (s.setPwr x).time = s.time := rfl
@[simp] theorem State.setPwr_reports (s : State) (x : PwrSt) : (s.setPwr x).reports = s.reports := rfl
@[simp] theorem State.setPwr_queues (s : State) (x : PwrSt) : (s.setPwr x).queues = s.queues := rfl
@[simp] theorem State.setPwr_ha (s : State) (x : PwrSt) : (s.setPwr x).ha = s.ha := rfl
@[simp] theorem State.setPwr_lastMsi (s : State) (x : PwrSt) : (s.setPwr x).lastMsi = s.lastMsi := rfl
@[simp] theorem State.setPwr_irqErr (s : State) (x : PwrSt) : (s.setPwr x).irqErr = s.irqErr := rfl
@[simp] theorem State.setPwr_irqCast (s : State) (x : PwrSt) : (s.setPwr x).irqCast = s.irqCast := rfl
@[simp] theorem State.setPwr_irqBind (s : State) (x : PwrSt) : (s.setPwr x).irqBind = s.irqBind := rfl
@[simp] theorem State.setPwr_irqs (s : State) (x : PwrSt) : (s.setPwr x).irqs = s.irqs := rfl
@[simp] theorem State.setPwr_outqs (s : State) (x : PwrSt) : (s.setPwr x).outqs = s.outqs := rfl
@[simp] theorem State.setPwr_ring (s : State) (x : PwrSt) : (s.setPwr x).ring = s.ring := rfl
@[simp] theorem State.setPwr_mast (s : State) (x : PwrSt) : (s.setPwr x).mast = s.mast := rfl
@[simp] theorem State.setPwr_mastS (s : State) (x : PwrSt) : (s.setPwr x).mastS = s.mastS := rfl
@[simp] theorem State.setPwr_mastA (s : State) (x : PwrSt) : (s.setPwr x).mastA = s.mastA := rfl
@[simp] theorem State.setPwr_bad (s : State) (x : PwrSt) : (s.setPwr x).bad = s.bad := rfl
@[simp] theorem State.setPwr_suspect (s : State) (x : PwrSt) : (s.setPwr x).suspect = s.suspect := rfl
@[simp] theorem State.setPwr_decodes (s : State) (x : PwrSt) : (s.setPwr x).decodes = s.decodes := rfl
@[simp] theorem State.setPwr_flips (s : State) (x : PwrSt) : (s.setPwr x).flips = s.flips := rfl
@[simp] theorem State.setPwr_merges (s : State) (x : PwrSt) : (s.setPwr x).merges = s.merges := rfl
@[simp] theorem State.setPwr_cores (s : State) (x : PwrSt) : (s.setPwr x).cores = s.cores := rfl
@[simp] theorem State.setPwr_clus (s : State) (x : PwrSt) : (s.setPwr x).clus = s.clus := rfl
@[simp] theorem State.setPwr_filter (s : State) (x : PwrSt) : (s.setPwr x).filter = s.filter := rfl
@[simp] theorem State.setPwr_hostLines (s : State) (x : PwrSt) : (s.setPwr x).hostLines = s.hostLines := rfl
@[simp] theorem State.setPwr_world (s : State) (x : PwrSt) : (s.setPwr x).world = s.world := rfl
@[simp] theorem State.setPwr_ucode (s : State) (x : PwrSt) : (s.setPwr x).ucode = s.ucode := rfl
@[simp] theorem State.setPwr_gc (s : State) (x : PwrSt) : (s.setPwr x).gc = s.gc := rfl
@[simp] theorem State.setPwr_flash (s : State) (x : PwrSt) : (s.setPwr x).flash = s.flash := rfl
@[simp] theorem State.setPwr_memActive (s : State) (x : PwrSt) : (s.setPwr x).memActive = s.memActive := rfl
@[simp] theorem State.setPwr_fuses (s : State) (x : PwrSt) : (s.setPwr x).fuses = s.fuses := rfl
@[simp] theorem State.setPwr_boot (s : State) (x : PwrSt) : (s.setPwr x).boot = s.boot := rfl
@[simp] theorem State.setPwr_spdm (s : State) (x : PwrSt) : (s.setPwr x).spdm = s.spdm := rfl
@[simp] theorem State.setPwr_cxl (s : State) (x : PwrSt) : (s.setPwr x).cxl = s.cxl := rfl
@[simp] theorem State.setPwr_mem (s : State) (x : PwrSt) : (s.setPwr x).mem = s.mem := rfl

/-! ### State.setCore -/

@[simp] theorem State.setCore_pending (s : State) (c : Nat) (x : CoreSt) : (s.setCore c x).pending = s.pending := rfl
@[simp] theorem State.setCore_now (s : State) (c : Nat) (x : CoreSt) : (s.setCore c x).now = s.now := rfl
@[simp] theorem State.setCore_free (s : State) (c : Nat) (x : CoreSt) : (s.setCore c x).free = s.free := rfl
@[simp] theorem State.setCore_small (s : State) (c : Nat) (x : CoreSt) : (s.setCore c x).small = s.small := rfl
@[simp] theorem State.setCore_rdata (s : State) (c : Nat) (x : CoreSt) : (s.setCore c x).rdata = s.rdata := rfl
@[simp] theorem State.setCore_regs (s : State) (c : Nat) (x : CoreSt) : (s.setCore c x).regs = s.regs := rfl
@[simp] theorem State.setCore_eff (s : State) (c : Nat) (x : CoreSt) : (s.setCore c x).eff = s.eff := rfl
@[simp] theorem State.setCore_raised (s : State) (c : Nat) (x : CoreSt) : (s.setCore c x).raised = s.raised := rfl
@[simp] theorem State.setCore_errs (s : State) (c : Nat) (x : CoreSt) : (s.setCore c x).errs = s.errs := rfl
@[simp] theorem State.setCore_errNum (s : State) (c : Nat) (x : CoreSt) : (s.setCore c x).errNum = s.errNum := rfl
@[simp] theorem State.setCore_frame (s : State) (c : Nat) (x : CoreSt) : (s.setCore c x).frame = s.frame := rfl
@[simp] theorem State.setCore_ports (s : State) (c : Nat) (x : CoreSt) : (s.setCore c x).ports = s.ports := rfl
@[simp] theorem State.setCore_chans (s : State) (c : Nat) (x : CoreSt) : (s.setCore c x).chans = s.chans := rfl
@[simp] theorem State.setCore_regionS (s : State) (c : Nat) (x : CoreSt) : (s.setCore c x).regionS = s.regionS := rfl
@[simp] theorem State.setCore_regionA (s : State) (c : Nat) (x : CoreSt) : (s.setCore c x).regionA = s.regionA := rfl
@[simp] theorem State.setCore_dmapS (s : State) (c : Nat) (x : CoreSt) : (s.setCore c x).dmapS = s.dmapS := rfl
@[simp] theorem State.setCore_dmapA (s : State) (c : Nat) (x : CoreSt) : (s.setCore c x).dmapA = s.dmapA := rfl
@[simp] theorem State.setCore_rows (s : State) (c : Nat) (x : CoreSt) : (s.setCore c x).rows = s.rows := rfl
@[simp] theorem State.setCore_wms (s : State) (c : Nat) (x : CoreSt) : (s.setCore c x).wms = s.wms := rfl
@[simp] theorem State.setCore_xbar (s : State) (c : Nat) (x : CoreSt) : (s.setCore c x).xbar = s.xbar := rfl
@[simp] theorem State.setCore_cluIn (s : State) (c : Nat) (x : CoreSt) : (s.setCore c x).cluIn = s.cluIn := rfl
@[simp] theorem State.setCore_wmIn (s : State) (c : Nat) (x : CoreSt) : (s.setCore c x).wmIn = s.wmIn := rfl
@[simp] theorem State.setCore_spikes (s : State) (c : Nat) (x : CoreSt) : (s.setCore c x).spikes = s.spikes := rfl
@[simp] theorem State.setCore_time (s : State) (c : Nat) (x : CoreSt) : (s.setCore c x).time = s.time := rfl
@[simp] theorem State.setCore_reports (s : State) (c : Nat) (x : CoreSt) : (s.setCore c x).reports = s.reports := rfl
@[simp] theorem State.setCore_queues (s : State) (c : Nat) (x : CoreSt) : (s.setCore c x).queues = s.queues := rfl
@[simp] theorem State.setCore_ha (s : State) (c : Nat) (x : CoreSt) : (s.setCore c x).ha = s.ha := rfl
@[simp] theorem State.setCore_lastMsi (s : State) (c : Nat) (x : CoreSt) : (s.setCore c x).lastMsi = s.lastMsi := rfl
@[simp] theorem State.setCore_irqErr (s : State) (c : Nat) (x : CoreSt) : (s.setCore c x).irqErr = s.irqErr := rfl
@[simp] theorem State.setCore_irqCast (s : State) (c : Nat) (x : CoreSt) : (s.setCore c x).irqCast = s.irqCast := rfl
@[simp] theorem State.setCore_irqBind (s : State) (c : Nat) (x : CoreSt) : (s.setCore c x).irqBind = s.irqBind := rfl
@[simp] theorem State.setCore_irqs (s : State) (c : Nat) (x : CoreSt) : (s.setCore c x).irqs = s.irqs := rfl
@[simp] theorem State.setCore_outqs (s : State) (c : Nat) (x : CoreSt) : (s.setCore c x).outqs = s.outqs := rfl
@[simp] theorem State.setCore_ring (s : State) (c : Nat) (x : CoreSt) : (s.setCore c x).ring = s.ring := rfl
@[simp] theorem State.setCore_mast (s : State) (c : Nat) (x : CoreSt) : (s.setCore c x).mast = s.mast := rfl
@[simp] theorem State.setCore_mastS (s : State) (c : Nat) (x : CoreSt) : (s.setCore c x).mastS = s.mastS := rfl
@[simp] theorem State.setCore_mastA (s : State) (c : Nat) (x : CoreSt) : (s.setCore c x).mastA = s.mastA := rfl
@[simp] theorem State.setCore_bad (s : State) (c : Nat) (x : CoreSt) : (s.setCore c x).bad = s.bad := rfl
@[simp] theorem State.setCore_suspect (s : State) (c : Nat) (x : CoreSt) : (s.setCore c x).suspect = s.suspect := rfl
@[simp] theorem State.setCore_decodes (s : State) (c : Nat) (x : CoreSt) : (s.setCore c x).decodes = s.decodes := rfl
@[simp] theorem State.setCore_flips (s : State) (c : Nat) (x : CoreSt) : (s.setCore c x).flips = s.flips := rfl
@[simp] theorem State.setCore_merges (s : State) (c : Nat) (x : CoreSt) : (s.setCore c x).merges = s.merges := rfl
@[simp] theorem State.setCore_clus (s : State) (c : Nat) (x : CoreSt) : (s.setCore c x).clus = s.clus := rfl
@[simp] theorem State.setCore_filter (s : State) (c : Nat) (x : CoreSt) : (s.setCore c x).filter = s.filter := rfl
@[simp] theorem State.setCore_hostLines (s : State) (c : Nat) (x : CoreSt) : (s.setCore c x).hostLines = s.hostLines := rfl
@[simp] theorem State.setCore_world (s : State) (c : Nat) (x : CoreSt) : (s.setCore c x).world = s.world := rfl
@[simp] theorem State.setCore_ucode (s : State) (c : Nat) (x : CoreSt) : (s.setCore c x).ucode = s.ucode := rfl
@[simp] theorem State.setCore_gc (s : State) (c : Nat) (x : CoreSt) : (s.setCore c x).gc = s.gc := rfl
@[simp] theorem State.setCore_flash (s : State) (c : Nat) (x : CoreSt) : (s.setCore c x).flash = s.flash := rfl
@[simp] theorem State.setCore_memActive (s : State) (c : Nat) (x : CoreSt) : (s.setCore c x).memActive = s.memActive := rfl
@[simp] theorem State.setCore_pwr (s : State) (c : Nat) (x : CoreSt) : (s.setCore c x).pwr = s.pwr := rfl
@[simp] theorem State.setCore_fuses (s : State) (c : Nat) (x : CoreSt) : (s.setCore c x).fuses = s.fuses := rfl
@[simp] theorem State.setCore_boot (s : State) (c : Nat) (x : CoreSt) : (s.setCore c x).boot = s.boot := rfl
@[simp] theorem State.setCore_spdm (s : State) (c : Nat) (x : CoreSt) : (s.setCore c x).spdm = s.spdm := rfl
@[simp] theorem State.setCore_cxl (s : State) (c : Nat) (x : CoreSt) : (s.setCore c x).cxl = s.cxl := rfl
@[simp] theorem State.setCore_mem (s : State) (c : Nat) (x : CoreSt) : (s.setCore c x).mem = s.mem := rfl

/-! ### State.setCtx -/

@[simp] theorem State.setCtx_pending (s : State) (c j : Nat) (y : CtxSt) : (s.setCtx c j y).pending = s.pending := rfl
@[simp] theorem State.setCtx_now (s : State) (c j : Nat) (y : CtxSt) : (s.setCtx c j y).now = s.now := rfl
@[simp] theorem State.setCtx_free (s : State) (c j : Nat) (y : CtxSt) : (s.setCtx c j y).free = s.free := rfl
@[simp] theorem State.setCtx_small (s : State) (c j : Nat) (y : CtxSt) : (s.setCtx c j y).small = s.small := rfl
@[simp] theorem State.setCtx_rdata (s : State) (c j : Nat) (y : CtxSt) : (s.setCtx c j y).rdata = s.rdata := rfl
@[simp] theorem State.setCtx_regs (s : State) (c j : Nat) (y : CtxSt) : (s.setCtx c j y).regs = s.regs := rfl
@[simp] theorem State.setCtx_eff (s : State) (c j : Nat) (y : CtxSt) : (s.setCtx c j y).eff = s.eff := rfl
@[simp] theorem State.setCtx_raised (s : State) (c j : Nat) (y : CtxSt) : (s.setCtx c j y).raised = s.raised := rfl
@[simp] theorem State.setCtx_errs (s : State) (c j : Nat) (y : CtxSt) : (s.setCtx c j y).errs = s.errs := rfl
@[simp] theorem State.setCtx_errNum (s : State) (c j : Nat) (y : CtxSt) : (s.setCtx c j y).errNum = s.errNum := rfl
@[simp] theorem State.setCtx_frame (s : State) (c j : Nat) (y : CtxSt) : (s.setCtx c j y).frame = s.frame := rfl
@[simp] theorem State.setCtx_ports (s : State) (c j : Nat) (y : CtxSt) : (s.setCtx c j y).ports = s.ports := rfl
@[simp] theorem State.setCtx_chans (s : State) (c j : Nat) (y : CtxSt) : (s.setCtx c j y).chans = s.chans := rfl
@[simp] theorem State.setCtx_regionS (s : State) (c j : Nat) (y : CtxSt) : (s.setCtx c j y).regionS = s.regionS := rfl
@[simp] theorem State.setCtx_regionA (s : State) (c j : Nat) (y : CtxSt) : (s.setCtx c j y).regionA = s.regionA := rfl
@[simp] theorem State.setCtx_dmapS (s : State) (c j : Nat) (y : CtxSt) : (s.setCtx c j y).dmapS = s.dmapS := rfl
@[simp] theorem State.setCtx_dmapA (s : State) (c j : Nat) (y : CtxSt) : (s.setCtx c j y).dmapA = s.dmapA := rfl
@[simp] theorem State.setCtx_rows (s : State) (c j : Nat) (y : CtxSt) : (s.setCtx c j y).rows = s.rows := rfl
@[simp] theorem State.setCtx_wms (s : State) (c j : Nat) (y : CtxSt) : (s.setCtx c j y).wms = s.wms := rfl
@[simp] theorem State.setCtx_xbar (s : State) (c j : Nat) (y : CtxSt) : (s.setCtx c j y).xbar = s.xbar := rfl
@[simp] theorem State.setCtx_cluIn (s : State) (c j : Nat) (y : CtxSt) : (s.setCtx c j y).cluIn = s.cluIn := rfl
@[simp] theorem State.setCtx_wmIn (s : State) (c j : Nat) (y : CtxSt) : (s.setCtx c j y).wmIn = s.wmIn := rfl
@[simp] theorem State.setCtx_spikes (s : State) (c j : Nat) (y : CtxSt) : (s.setCtx c j y).spikes = s.spikes := rfl
@[simp] theorem State.setCtx_time (s : State) (c j : Nat) (y : CtxSt) : (s.setCtx c j y).time = s.time := rfl
@[simp] theorem State.setCtx_reports (s : State) (c j : Nat) (y : CtxSt) : (s.setCtx c j y).reports = s.reports := rfl
@[simp] theorem State.setCtx_queues (s : State) (c j : Nat) (y : CtxSt) : (s.setCtx c j y).queues = s.queues := rfl
@[simp] theorem State.setCtx_ha (s : State) (c j : Nat) (y : CtxSt) : (s.setCtx c j y).ha = s.ha := rfl
@[simp] theorem State.setCtx_lastMsi (s : State) (c j : Nat) (y : CtxSt) : (s.setCtx c j y).lastMsi = s.lastMsi := rfl
@[simp] theorem State.setCtx_irqErr (s : State) (c j : Nat) (y : CtxSt) : (s.setCtx c j y).irqErr = s.irqErr := rfl
@[simp] theorem State.setCtx_irqCast (s : State) (c j : Nat) (y : CtxSt) : (s.setCtx c j y).irqCast = s.irqCast := rfl
@[simp] theorem State.setCtx_irqBind (s : State) (c j : Nat) (y : CtxSt) : (s.setCtx c j y).irqBind = s.irqBind := rfl
@[simp] theorem State.setCtx_irqs (s : State) (c j : Nat) (y : CtxSt) : (s.setCtx c j y).irqs = s.irqs := rfl
@[simp] theorem State.setCtx_outqs (s : State) (c j : Nat) (y : CtxSt) : (s.setCtx c j y).outqs = s.outqs := rfl
@[simp] theorem State.setCtx_ring (s : State) (c j : Nat) (y : CtxSt) : (s.setCtx c j y).ring = s.ring := rfl
@[simp] theorem State.setCtx_mast (s : State) (c j : Nat) (y : CtxSt) : (s.setCtx c j y).mast = s.mast := rfl
@[simp] theorem State.setCtx_mastS (s : State) (c j : Nat) (y : CtxSt) : (s.setCtx c j y).mastS = s.mastS := rfl
@[simp] theorem State.setCtx_mastA (s : State) (c j : Nat) (y : CtxSt) : (s.setCtx c j y).mastA = s.mastA := rfl
@[simp] theorem State.setCtx_bad (s : State) (c j : Nat) (y : CtxSt) : (s.setCtx c j y).bad = s.bad := rfl
@[simp] theorem State.setCtx_suspect (s : State) (c j : Nat) (y : CtxSt) : (s.setCtx c j y).suspect = s.suspect := rfl
@[simp] theorem State.setCtx_decodes (s : State) (c j : Nat) (y : CtxSt) : (s.setCtx c j y).decodes = s.decodes := rfl
@[simp] theorem State.setCtx_flips (s : State) (c j : Nat) (y : CtxSt) : (s.setCtx c j y).flips = s.flips := rfl
@[simp] theorem State.setCtx_merges (s : State) (c j : Nat) (y : CtxSt) : (s.setCtx c j y).merges = s.merges := rfl
@[simp] theorem State.setCtx_clus (s : State) (c j : Nat) (y : CtxSt) : (s.setCtx c j y).clus = s.clus := rfl
@[simp] theorem State.setCtx_filter (s : State) (c j : Nat) (y : CtxSt) : (s.setCtx c j y).filter = s.filter := rfl
@[simp] theorem State.setCtx_hostLines (s : State) (c j : Nat) (y : CtxSt) : (s.setCtx c j y).hostLines = s.hostLines := rfl
@[simp] theorem State.setCtx_world (s : State) (c j : Nat) (y : CtxSt) : (s.setCtx c j y).world = s.world := rfl
@[simp] theorem State.setCtx_ucode (s : State) (c j : Nat) (y : CtxSt) : (s.setCtx c j y).ucode = s.ucode := rfl
@[simp] theorem State.setCtx_gc (s : State) (c j : Nat) (y : CtxSt) : (s.setCtx c j y).gc = s.gc := rfl
@[simp] theorem State.setCtx_flash (s : State) (c j : Nat) (y : CtxSt) : (s.setCtx c j y).flash = s.flash := rfl
@[simp] theorem State.setCtx_memActive (s : State) (c j : Nat) (y : CtxSt) : (s.setCtx c j y).memActive = s.memActive := rfl
@[simp] theorem State.setCtx_pwr (s : State) (c j : Nat) (y : CtxSt) : (s.setCtx c j y).pwr = s.pwr := rfl
@[simp] theorem State.setCtx_fuses (s : State) (c j : Nat) (y : CtxSt) : (s.setCtx c j y).fuses = s.fuses := rfl
@[simp] theorem State.setCtx_boot (s : State) (c j : Nat) (y : CtxSt) : (s.setCtx c j y).boot = s.boot := rfl
@[simp] theorem State.setCtx_spdm (s : State) (c j : Nat) (y : CtxSt) : (s.setCtx c j y).spdm = s.spdm := rfl
@[simp] theorem State.setCtx_cxl (s : State) (c j : Nat) (y : CtxSt) : (s.setCtx c j y).cxl = s.cxl := rfl
@[simp] theorem State.setCtx_mem (s : State) (c j : Nat) (y : CtxSt) : (s.setCtx c j y).mem = s.mem := rfl

/-! ### State.setClu -/

@[simp] theorem State.setClu_pending (s : State) (k : Nat) (x : CluSt) : (s.setClu k x).pending = s.pending := rfl
@[simp] theorem State.setClu_now (s : State) (k : Nat) (x : CluSt) : (s.setClu k x).now = s.now := rfl
@[simp] theorem State.setClu_free (s : State) (k : Nat) (x : CluSt) : (s.setClu k x).free = s.free := rfl
@[simp] theorem State.setClu_small (s : State) (k : Nat) (x : CluSt) : (s.setClu k x).small = s.small := rfl
@[simp] theorem State.setClu_rdata (s : State) (k : Nat) (x : CluSt) : (s.setClu k x).rdata = s.rdata := rfl
@[simp] theorem State.setClu_regs (s : State) (k : Nat) (x : CluSt) : (s.setClu k x).regs = s.regs := rfl
@[simp] theorem State.setClu_eff (s : State) (k : Nat) (x : CluSt) : (s.setClu k x).eff = s.eff := rfl
@[simp] theorem State.setClu_raised (s : State) (k : Nat) (x : CluSt) : (s.setClu k x).raised = s.raised := rfl
@[simp] theorem State.setClu_errs (s : State) (k : Nat) (x : CluSt) : (s.setClu k x).errs = s.errs := rfl
@[simp] theorem State.setClu_errNum (s : State) (k : Nat) (x : CluSt) : (s.setClu k x).errNum = s.errNum := rfl
@[simp] theorem State.setClu_frame (s : State) (k : Nat) (x : CluSt) : (s.setClu k x).frame = s.frame := rfl
@[simp] theorem State.setClu_ports (s : State) (k : Nat) (x : CluSt) : (s.setClu k x).ports = s.ports := rfl
@[simp] theorem State.setClu_chans (s : State) (k : Nat) (x : CluSt) : (s.setClu k x).chans = s.chans := rfl
@[simp] theorem State.setClu_regionS (s : State) (k : Nat) (x : CluSt) : (s.setClu k x).regionS = s.regionS := rfl
@[simp] theorem State.setClu_regionA (s : State) (k : Nat) (x : CluSt) : (s.setClu k x).regionA = s.regionA := rfl
@[simp] theorem State.setClu_dmapS (s : State) (k : Nat) (x : CluSt) : (s.setClu k x).dmapS = s.dmapS := rfl
@[simp] theorem State.setClu_dmapA (s : State) (k : Nat) (x : CluSt) : (s.setClu k x).dmapA = s.dmapA := rfl
@[simp] theorem State.setClu_rows (s : State) (k : Nat) (x : CluSt) : (s.setClu k x).rows = s.rows := rfl
@[simp] theorem State.setClu_wms (s : State) (k : Nat) (x : CluSt) : (s.setClu k x).wms = s.wms := rfl
@[simp] theorem State.setClu_xbar (s : State) (k : Nat) (x : CluSt) : (s.setClu k x).xbar = s.xbar := rfl
@[simp] theorem State.setClu_cluIn (s : State) (k : Nat) (x : CluSt) : (s.setClu k x).cluIn = s.cluIn := rfl
@[simp] theorem State.setClu_wmIn (s : State) (k : Nat) (x : CluSt) : (s.setClu k x).wmIn = s.wmIn := rfl
@[simp] theorem State.setClu_spikes (s : State) (k : Nat) (x : CluSt) : (s.setClu k x).spikes = s.spikes := rfl
@[simp] theorem State.setClu_time (s : State) (k : Nat) (x : CluSt) : (s.setClu k x).time = s.time := rfl
@[simp] theorem State.setClu_reports (s : State) (k : Nat) (x : CluSt) : (s.setClu k x).reports = s.reports := rfl
@[simp] theorem State.setClu_queues (s : State) (k : Nat) (x : CluSt) : (s.setClu k x).queues = s.queues := rfl
@[simp] theorem State.setClu_ha (s : State) (k : Nat) (x : CluSt) : (s.setClu k x).ha = s.ha := rfl
@[simp] theorem State.setClu_lastMsi (s : State) (k : Nat) (x : CluSt) : (s.setClu k x).lastMsi = s.lastMsi := rfl
@[simp] theorem State.setClu_irqErr (s : State) (k : Nat) (x : CluSt) : (s.setClu k x).irqErr = s.irqErr := rfl
@[simp] theorem State.setClu_irqCast (s : State) (k : Nat) (x : CluSt) : (s.setClu k x).irqCast = s.irqCast := rfl
@[simp] theorem State.setClu_irqBind (s : State) (k : Nat) (x : CluSt) : (s.setClu k x).irqBind = s.irqBind := rfl
@[simp] theorem State.setClu_irqs (s : State) (k : Nat) (x : CluSt) : (s.setClu k x).irqs = s.irqs := rfl
@[simp] theorem State.setClu_outqs (s : State) (k : Nat) (x : CluSt) : (s.setClu k x).outqs = s.outqs := rfl
@[simp] theorem State.setClu_ring (s : State) (k : Nat) (x : CluSt) : (s.setClu k x).ring = s.ring := rfl
@[simp] theorem State.setClu_mast (s : State) (k : Nat) (x : CluSt) : (s.setClu k x).mast = s.mast := rfl
@[simp] theorem State.setClu_mastS (s : State) (k : Nat) (x : CluSt) : (s.setClu k x).mastS = s.mastS := rfl
@[simp] theorem State.setClu_mastA (s : State) (k : Nat) (x : CluSt) : (s.setClu k x).mastA = s.mastA := rfl
@[simp] theorem State.setClu_bad (s : State) (k : Nat) (x : CluSt) : (s.setClu k x).bad = s.bad := rfl
@[simp] theorem State.setClu_suspect (s : State) (k : Nat) (x : CluSt) : (s.setClu k x).suspect = s.suspect := rfl
@[simp] theorem State.setClu_decodes (s : State) (k : Nat) (x : CluSt) : (s.setClu k x).decodes = s.decodes := rfl
@[simp] theorem State.setClu_flips (s : State) (k : Nat) (x : CluSt) : (s.setClu k x).flips = s.flips := rfl
@[simp] theorem State.setClu_merges (s : State) (k : Nat) (x : CluSt) : (s.setClu k x).merges = s.merges := rfl
@[simp] theorem State.setClu_cores (s : State) (k : Nat) (x : CluSt) : (s.setClu k x).cores = s.cores := rfl
@[simp] theorem State.setClu_filter (s : State) (k : Nat) (x : CluSt) : (s.setClu k x).filter = s.filter := rfl
@[simp] theorem State.setClu_hostLines (s : State) (k : Nat) (x : CluSt) : (s.setClu k x).hostLines = s.hostLines := rfl
@[simp] theorem State.setClu_world (s : State) (k : Nat) (x : CluSt) : (s.setClu k x).world = s.world := rfl
@[simp] theorem State.setClu_ucode (s : State) (k : Nat) (x : CluSt) : (s.setClu k x).ucode = s.ucode := rfl
@[simp] theorem State.setClu_gc (s : State) (k : Nat) (x : CluSt) : (s.setClu k x).gc = s.gc := rfl
@[simp] theorem State.setClu_flash (s : State) (k : Nat) (x : CluSt) : (s.setClu k x).flash = s.flash := rfl
@[simp] theorem State.setClu_memActive (s : State) (k : Nat) (x : CluSt) : (s.setClu k x).memActive = s.memActive := rfl
@[simp] theorem State.setClu_pwr (s : State) (k : Nat) (x : CluSt) : (s.setClu k x).pwr = s.pwr := rfl
@[simp] theorem State.setClu_fuses (s : State) (k : Nat) (x : CluSt) : (s.setClu k x).fuses = s.fuses := rfl
@[simp] theorem State.setClu_boot (s : State) (k : Nat) (x : CluSt) : (s.setClu k x).boot = s.boot := rfl
@[simp] theorem State.setClu_spdm (s : State) (k : Nat) (x : CluSt) : (s.setClu k x).spdm = s.spdm := rfl
@[simp] theorem State.setClu_cxl (s : State) (k : Nat) (x : CluSt) : (s.setClu k x).cxl = s.cxl := rfl
@[simp] theorem State.setClu_mem (s : State) (k : Nat) (x : CluSt) : (s.setClu k x).mem = s.mem := rfl

/-! ### State.setRport -/

@[simp] theorem State.setRport_pending (s : State) (i : Nat) (x : RingPortSt) : (s.setRport i x).pending = s.pending := rfl
@[simp] theorem State.setRport_now (s : State) (i : Nat) (x : RingPortSt) : (s.setRport i x).now = s.now := rfl
@[simp] theorem State.setRport_free (s : State) (i : Nat) (x : RingPortSt) : (s.setRport i x).free = s.free := rfl
@[simp] theorem State.setRport_small (s : State) (i : Nat) (x : RingPortSt) : (s.setRport i x).small = s.small := rfl
@[simp] theorem State.setRport_rdata (s : State) (i : Nat) (x : RingPortSt) : (s.setRport i x).rdata = s.rdata := rfl
@[simp] theorem State.setRport_regs (s : State) (i : Nat) (x : RingPortSt) : (s.setRport i x).regs = s.regs := rfl
@[simp] theorem State.setRport_eff (s : State) (i : Nat) (x : RingPortSt) : (s.setRport i x).eff = s.eff := rfl
@[simp] theorem State.setRport_raised (s : State) (i : Nat) (x : RingPortSt) : (s.setRport i x).raised = s.raised := rfl
@[simp] theorem State.setRport_errs (s : State) (i : Nat) (x : RingPortSt) : (s.setRport i x).errs = s.errs := rfl
@[simp] theorem State.setRport_errNum (s : State) (i : Nat) (x : RingPortSt) : (s.setRport i x).errNum = s.errNum := rfl
@[simp] theorem State.setRport_frame (s : State) (i : Nat) (x : RingPortSt) : (s.setRport i x).frame = s.frame := rfl
@[simp] theorem State.setRport_ports (s : State) (i : Nat) (x : RingPortSt) : (s.setRport i x).ports = s.ports := rfl
@[simp] theorem State.setRport_chans (s : State) (i : Nat) (x : RingPortSt) : (s.setRport i x).chans = s.chans := rfl
@[simp] theorem State.setRport_regionS (s : State) (i : Nat) (x : RingPortSt) : (s.setRport i x).regionS = s.regionS := rfl
@[simp] theorem State.setRport_regionA (s : State) (i : Nat) (x : RingPortSt) : (s.setRport i x).regionA = s.regionA := rfl
@[simp] theorem State.setRport_dmapS (s : State) (i : Nat) (x : RingPortSt) : (s.setRport i x).dmapS = s.dmapS := rfl
@[simp] theorem State.setRport_dmapA (s : State) (i : Nat) (x : RingPortSt) : (s.setRport i x).dmapA = s.dmapA := rfl
@[simp] theorem State.setRport_rows (s : State) (i : Nat) (x : RingPortSt) : (s.setRport i x).rows = s.rows := rfl
@[simp] theorem State.setRport_wms (s : State) (i : Nat) (x : RingPortSt) : (s.setRport i x).wms = s.wms := rfl
@[simp] theorem State.setRport_xbar (s : State) (i : Nat) (x : RingPortSt) : (s.setRport i x).xbar = s.xbar := rfl
@[simp] theorem State.setRport_cluIn (s : State) (i : Nat) (x : RingPortSt) : (s.setRport i x).cluIn = s.cluIn := rfl
@[simp] theorem State.setRport_wmIn (s : State) (i : Nat) (x : RingPortSt) : (s.setRport i x).wmIn = s.wmIn := rfl
@[simp] theorem State.setRport_spikes (s : State) (i : Nat) (x : RingPortSt) : (s.setRport i x).spikes = s.spikes := rfl
@[simp] theorem State.setRport_time (s : State) (i : Nat) (x : RingPortSt) : (s.setRport i x).time = s.time := rfl
@[simp] theorem State.setRport_reports (s : State) (i : Nat) (x : RingPortSt) : (s.setRport i x).reports = s.reports := rfl
@[simp] theorem State.setRport_queues (s : State) (i : Nat) (x : RingPortSt) : (s.setRport i x).queues = s.queues := rfl
@[simp] theorem State.setRport_ha (s : State) (i : Nat) (x : RingPortSt) : (s.setRport i x).ha = s.ha := rfl
@[simp] theorem State.setRport_lastMsi (s : State) (i : Nat) (x : RingPortSt) : (s.setRport i x).lastMsi = s.lastMsi := rfl
@[simp] theorem State.setRport_irqErr (s : State) (i : Nat) (x : RingPortSt) : (s.setRport i x).irqErr = s.irqErr := rfl
@[simp] theorem State.setRport_irqCast (s : State) (i : Nat) (x : RingPortSt) : (s.setRport i x).irqCast = s.irqCast := rfl
@[simp] theorem State.setRport_irqBind (s : State) (i : Nat) (x : RingPortSt) : (s.setRport i x).irqBind = s.irqBind := rfl
@[simp] theorem State.setRport_irqs (s : State) (i : Nat) (x : RingPortSt) : (s.setRport i x).irqs = s.irqs := rfl
@[simp] theorem State.setRport_outqs (s : State) (i : Nat) (x : RingPortSt) : (s.setRport i x).outqs = s.outqs := rfl
@[simp] theorem State.setRport_mast (s : State) (i : Nat) (x : RingPortSt) : (s.setRport i x).mast = s.mast := rfl
@[simp] theorem State.setRport_mastS (s : State) (i : Nat) (x : RingPortSt) : (s.setRport i x).mastS = s.mastS := rfl
@[simp] theorem State.setRport_mastA (s : State) (i : Nat) (x : RingPortSt) : (s.setRport i x).mastA = s.mastA := rfl
@[simp] theorem State.setRport_bad (s : State) (i : Nat) (x : RingPortSt) : (s.setRport i x).bad = s.bad := rfl
@[simp] theorem State.setRport_suspect (s : State) (i : Nat) (x : RingPortSt) : (s.setRport i x).suspect = s.suspect := rfl
@[simp] theorem State.setRport_decodes (s : State) (i : Nat) (x : RingPortSt) : (s.setRport i x).decodes = s.decodes := rfl
@[simp] theorem State.setRport_flips (s : State) (i : Nat) (x : RingPortSt) : (s.setRport i x).flips = s.flips := rfl
@[simp] theorem State.setRport_merges (s : State) (i : Nat) (x : RingPortSt) : (s.setRport i x).merges = s.merges := rfl
@[simp] theorem State.setRport_cores (s : State) (i : Nat) (x : RingPortSt) : (s.setRport i x).cores = s.cores := rfl
@[simp] theorem State.setRport_clus (s : State) (i : Nat) (x : RingPortSt) : (s.setRport i x).clus = s.clus := rfl
@[simp] theorem State.setRport_filter (s : State) (i : Nat) (x : RingPortSt) : (s.setRport i x).filter = s.filter := rfl
@[simp] theorem State.setRport_hostLines (s : State) (i : Nat) (x : RingPortSt) : (s.setRport i x).hostLines = s.hostLines := rfl
@[simp] theorem State.setRport_world (s : State) (i : Nat) (x : RingPortSt) : (s.setRport i x).world = s.world := rfl
@[simp] theorem State.setRport_ucode (s : State) (i : Nat) (x : RingPortSt) : (s.setRport i x).ucode = s.ucode := rfl
@[simp] theorem State.setRport_gc (s : State) (i : Nat) (x : RingPortSt) : (s.setRport i x).gc = s.gc := rfl
@[simp] theorem State.setRport_flash (s : State) (i : Nat) (x : RingPortSt) : (s.setRport i x).flash = s.flash := rfl
@[simp] theorem State.setRport_memActive (s : State) (i : Nat) (x : RingPortSt) : (s.setRport i x).memActive = s.memActive := rfl
@[simp] theorem State.setRport_pwr (s : State) (i : Nat) (x : RingPortSt) : (s.setRport i x).pwr = s.pwr := rfl
@[simp] theorem State.setRport_fuses (s : State) (i : Nat) (x : RingPortSt) : (s.setRport i x).fuses = s.fuses := rfl
@[simp] theorem State.setRport_boot (s : State) (i : Nat) (x : RingPortSt) : (s.setRport i x).boot = s.boot := rfl
@[simp] theorem State.setRport_spdm (s : State) (i : Nat) (x : RingPortSt) : (s.setRport i x).spdm = s.spdm := rfl
@[simp] theorem State.setRport_cxl (s : State) (i : Nat) (x : RingPortSt) : (s.setRport i x).cxl = s.cxl := rfl
@[simp] theorem State.setRport_mem (s : State) (i : Nat) (x : RingPortSt) : (s.setRport i x).mem = s.mem := rfl

/-! ### State.setConn -/

@[simp] theorem State.setConn_pending (s : State) (x : Transport) (y : SpdmSt) : (s.setConn x y).pending = s.pending := rfl
@[simp] theorem State.setConn_now (s : State) (x : Transport) (y : SpdmSt) : (s.setConn x y).now = s.now := rfl
@[simp] theorem State.setConn_free (s : State) (x : Transport) (y : SpdmSt) : (s.setConn x y).free = s.free := rfl
@[simp] theorem State.setConn_small (s : State) (x : Transport) (y : SpdmSt) : (s.setConn x y).small = s.small := rfl
@[simp] theorem State.setConn_rdata (s : State) (x : Transport) (y : SpdmSt) : (s.setConn x y).rdata = s.rdata := rfl
@[simp] theorem State.setConn_regs (s : State) (x : Transport) (y : SpdmSt) : (s.setConn x y).regs = s.regs := rfl
@[simp] theorem State.setConn_eff (s : State) (x : Transport) (y : SpdmSt) : (s.setConn x y).eff = s.eff := rfl
@[simp] theorem State.setConn_raised (s : State) (x : Transport) (y : SpdmSt) : (s.setConn x y).raised = s.raised := rfl
@[simp] theorem State.setConn_errs (s : State) (x : Transport) (y : SpdmSt) : (s.setConn x y).errs = s.errs := rfl
@[simp] theorem State.setConn_errNum (s : State) (x : Transport) (y : SpdmSt) : (s.setConn x y).errNum = s.errNum := rfl
@[simp] theorem State.setConn_frame (s : State) (x : Transport) (y : SpdmSt) : (s.setConn x y).frame = s.frame := rfl
@[simp] theorem State.setConn_ports (s : State) (x : Transport) (y : SpdmSt) : (s.setConn x y).ports = s.ports := rfl
@[simp] theorem State.setConn_chans (s : State) (x : Transport) (y : SpdmSt) : (s.setConn x y).chans = s.chans := rfl
@[simp] theorem State.setConn_regionS (s : State) (x : Transport) (y : SpdmSt) : (s.setConn x y).regionS = s.regionS := rfl
@[simp] theorem State.setConn_regionA (s : State) (x : Transport) (y : SpdmSt) : (s.setConn x y).regionA = s.regionA := rfl
@[simp] theorem State.setConn_dmapS (s : State) (x : Transport) (y : SpdmSt) : (s.setConn x y).dmapS = s.dmapS := rfl
@[simp] theorem State.setConn_dmapA (s : State) (x : Transport) (y : SpdmSt) : (s.setConn x y).dmapA = s.dmapA := rfl
@[simp] theorem State.setConn_rows (s : State) (x : Transport) (y : SpdmSt) : (s.setConn x y).rows = s.rows := rfl
@[simp] theorem State.setConn_wms (s : State) (x : Transport) (y : SpdmSt) : (s.setConn x y).wms = s.wms := rfl
@[simp] theorem State.setConn_xbar (s : State) (x : Transport) (y : SpdmSt) : (s.setConn x y).xbar = s.xbar := rfl
@[simp] theorem State.setConn_cluIn (s : State) (x : Transport) (y : SpdmSt) : (s.setConn x y).cluIn = s.cluIn := rfl
@[simp] theorem State.setConn_wmIn (s : State) (x : Transport) (y : SpdmSt) : (s.setConn x y).wmIn = s.wmIn := rfl
@[simp] theorem State.setConn_spikes (s : State) (x : Transport) (y : SpdmSt) : (s.setConn x y).spikes = s.spikes := rfl
@[simp] theorem State.setConn_time (s : State) (x : Transport) (y : SpdmSt) : (s.setConn x y).time = s.time := rfl
@[simp] theorem State.setConn_reports (s : State) (x : Transport) (y : SpdmSt) : (s.setConn x y).reports = s.reports := rfl
@[simp] theorem State.setConn_queues (s : State) (x : Transport) (y : SpdmSt) : (s.setConn x y).queues = s.queues := rfl
@[simp] theorem State.setConn_ha (s : State) (x : Transport) (y : SpdmSt) : (s.setConn x y).ha = s.ha := rfl
@[simp] theorem State.setConn_lastMsi (s : State) (x : Transport) (y : SpdmSt) : (s.setConn x y).lastMsi = s.lastMsi := rfl
@[simp] theorem State.setConn_irqErr (s : State) (x : Transport) (y : SpdmSt) : (s.setConn x y).irqErr = s.irqErr := rfl
@[simp] theorem State.setConn_irqCast (s : State) (x : Transport) (y : SpdmSt) : (s.setConn x y).irqCast = s.irqCast := rfl
@[simp] theorem State.setConn_irqBind (s : State) (x : Transport) (y : SpdmSt) : (s.setConn x y).irqBind = s.irqBind := rfl
@[simp] theorem State.setConn_irqs (s : State) (x : Transport) (y : SpdmSt) : (s.setConn x y).irqs = s.irqs := rfl
@[simp] theorem State.setConn_outqs (s : State) (x : Transport) (y : SpdmSt) : (s.setConn x y).outqs = s.outqs := rfl
@[simp] theorem State.setConn_ring (s : State) (x : Transport) (y : SpdmSt) : (s.setConn x y).ring = s.ring := rfl
@[simp] theorem State.setConn_mast (s : State) (x : Transport) (y : SpdmSt) : (s.setConn x y).mast = s.mast := rfl
@[simp] theorem State.setConn_mastS (s : State) (x : Transport) (y : SpdmSt) : (s.setConn x y).mastS = s.mastS := rfl
@[simp] theorem State.setConn_mastA (s : State) (x : Transport) (y : SpdmSt) : (s.setConn x y).mastA = s.mastA := rfl
@[simp] theorem State.setConn_bad (s : State) (x : Transport) (y : SpdmSt) : (s.setConn x y).bad = s.bad := rfl
@[simp] theorem State.setConn_suspect (s : State) (x : Transport) (y : SpdmSt) : (s.setConn x y).suspect = s.suspect := rfl
@[simp] theorem State.setConn_decodes (s : State) (x : Transport) (y : SpdmSt) : (s.setConn x y).decodes = s.decodes := rfl
@[simp] theorem State.setConn_flips (s : State) (x : Transport) (y : SpdmSt) : (s.setConn x y).flips = s.flips := rfl
@[simp] theorem State.setConn_merges (s : State) (x : Transport) (y : SpdmSt) : (s.setConn x y).merges = s.merges := rfl
@[simp] theorem State.setConn_cores (s : State) (x : Transport) (y : SpdmSt) : (s.setConn x y).cores = s.cores := rfl
@[simp] theorem State.setConn_clus (s : State) (x : Transport) (y : SpdmSt) : (s.setConn x y).clus = s.clus := rfl
@[simp] theorem State.setConn_filter (s : State) (x : Transport) (y : SpdmSt) : (s.setConn x y).filter = s.filter := rfl
@[simp] theorem State.setConn_hostLines (s : State) (x : Transport) (y : SpdmSt) : (s.setConn x y).hostLines = s.hostLines := rfl
@[simp] theorem State.setConn_world (s : State) (x : Transport) (y : SpdmSt) : (s.setConn x y).world = s.world := rfl
@[simp] theorem State.setConn_ucode (s : State) (x : Transport) (y : SpdmSt) : (s.setConn x y).ucode = s.ucode := rfl
@[simp] theorem State.setConn_gc (s : State) (x : Transport) (y : SpdmSt) : (s.setConn x y).gc = s.gc := rfl
@[simp] theorem State.setConn_flash (s : State) (x : Transport) (y : SpdmSt) : (s.setConn x y).flash = s.flash := rfl
@[simp] theorem State.setConn_memActive (s : State) (x : Transport) (y : SpdmSt) : (s.setConn x y).memActive = s.memActive := rfl
@[simp] theorem State.setConn_pwr (s : State) (x : Transport) (y : SpdmSt) : (s.setConn x y).pwr = s.pwr := rfl
@[simp] theorem State.setConn_fuses (s : State) (x : Transport) (y : SpdmSt) : (s.setConn x y).fuses = s.fuses := rfl
@[simp] theorem State.setConn_boot (s : State) (x : Transport) (y : SpdmSt) : (s.setConn x y).boot = s.boot := rfl
@[simp] theorem State.setConn_cxl (s : State) (x : Transport) (y : SpdmSt) : (s.setConn x y).cxl = s.cxl := rfl
@[simp] theorem State.setConn_mem (s : State) (x : Transport) (y : SpdmSt) : (s.setConn x y).mem = s.mem := rfl

/-! ### Accessors of what has been written -/

@[simp] theorem State.at_now (s : State) (t : Time) : (s.at t).now = t := rfl
@[simp] theorem State.useFree_free (s : State) : s.useFree.free = s.free + 1 := rfl
@[simp] theorem State.setPwr_pwr (s : State) (x : PwrSt) : (s.setPwr x).pwr = x := rfl
@[simp] theorem State.errWith_errNum (s : State) (a b c d e f g h i : Nat) (k : Option Nat) :
    (s.errWith a b c d e f g h i k).errNum = s.errNum + 1 := rfl

@[simp] theorem State.port_setPort (s : State) (p j : Nat) (x : PortSt) : (s.setPort p x).port j = if j = p then x else s.port j :=
  sget_sset _ _ _ _ _
@[simp] theorem State.chan_setChan (s : State) (c j : Nat) (x : ChanSt) : (s.setChan c x).chan j = if j = c then x else s.chan j :=
  sget_sset _ _ _ _ _
@[simp] theorem State.row_setRow (s : State) (r j : Nat) (x : RowSt) : (s.setRow r x).row j = if j = r then x else s.row j :=
  sget_sset _ _ _ _ _
@[simp] theorem State.spike_setSpike (s : State) (i j : Nat) (x : SpikeSt) : (s.setSpike i x).spike j = if j = i then x else s.spike j :=
  sget_sset _ _ _ _ _
@[simp] theorem State.queue_setQueue (s : State) (q j : Nat) (x : QSt) : (s.setQueue q x).queue j = if j = q then x else s.queue j :=
  sget_sset _ _ _ _ _
@[simp] theorem State.haFn_setHa (s : State) (f j : Nat) (x : HaSt) : (s.setHa f x).haFn j = if j = f then x else s.haFn j :=
  sget_sset _ _ _ _ _
@[simp] theorem State.core_setCore (s : State) (c j : Nat) (x : CoreSt) : (s.setCore c x).core j = if j = c then x else s.core j :=
  sget_sset _ _ _ _ _
@[simp] theorem State.clu_setClu (s : State) (k j : Nat) (x : CluSt) : (s.setClu k x).clu j = if j = k then x else s.clu j :=
  sget_sset _ _ _ _ _
@[simp] theorem State.rport_setRport (s : State) (i j : Nat) (x : RingPortSt) : (s.setRport i x).rport j = if j = i then x else s.rport j :=
  sget_sset _ _ _ _ _

@[simp] theorem State.effReg_at_other (s : State) (t : Time) (z : Nat) : (s.at t).effReg z = s.effReg z := rfl
@[simp] theorem State.port_at_other (s : State) (t : Time) (z : Nat) : (s.at t).port z = s.port z := rfl
@[simp] theorem State.row_at_other (s : State) (t : Time) (z : Nat) : (s.at t).row z = s.row z := rfl
@[simp] theorem State.queue_at_other (s : State) (t : Time) (z : Nat) : (s.at t).queue z = s.queue z := rfl
@[simp] theorem State.haFn_at_other (s : State) (t : Time) (z : Nat) : (s.at t).haFn z = s.haFn z := rfl
@[simp] theorem State.core_at_other (s : State) (t : Time) (z : Nat) : (s.at t).core z = s.core z := rfl
@[simp] theorem State.clu_at_other (s : State) (t : Time) (z : Nat) : (s.at t).clu z = s.clu z := rfl
@[simp] theorem State.rport_at_other (s : State) (t : Time) (z : Nat) : (s.at t).rport z = s.rport z := rfl
@[simp] theorem State.reg_useFree_other (s : State) (z : Nat) : (s.useFree).reg z = s.reg z := rfl
@[simp] theorem State.field_useFree_other (s : State) (z z1 z2 : Nat) : (s.useFree).field z z1 z2 = s.field z z1 z2 := rfl
@[simp] theorem State.effReg_useFree_other (s : State) (z : Nat) : (s.useFree).effReg z = s.effReg z := rfl
@[simp] theorem State.port_useFree_other (s : State) (z : Nat) : (s.useFree).port z = s.port z := rfl
@[simp] theorem State.row_useFree_other (s : State) (z : Nat) : (s.useFree).row z = s.row z := rfl
@[simp] theorem State.queue_useFree_other (s : State) (z : Nat) : (s.useFree).queue z = s.queue z := rfl
@[simp] theorem State.haFn_useFree_other (s : State) (z : Nat) : (s.useFree).haFn z = s.haFn z := rfl
@[simp] theorem State.core_useFree_other (s : State) (z : Nat) : (s.useFree).core z = s.core z := rfl
@[simp] theorem State.clu_useFree_other (s : State) (z : Nat) : (s.useFree).clu z = s.clu z := rfl
@[simp] theorem State.rport_useFree_other (s : State) (z : Nat) : (s.useFree).rport z = s.rport z := rfl
@[simp] theorem State.reg_setPort_other (s : State) (p : Nat) (x : PortSt) (z : Nat) : (s.setPort p x).reg z = s.reg z := rfl
@[simp] theorem State.field_setPort_other (s : State) (p : Nat) (x : PortSt) (z z1 z2 : Nat) : (s.setPort p x).field z z1 z2 = s.field z z1 z2 := rfl
@[simp] theorem State.effReg_setPort_other (s : State) (p : Nat) (x : PortSt) (z : Nat) : (s.setPort p x).effReg z = s.effReg z := rfl
@[simp] theorem State.row_setPort_other (s : State) (p : Nat) (x : PortSt) (z : Nat) : (s.setPort p x).row z = s.row z := rfl
@[simp] theorem State.queue_setPort_other (s : State) (p : Nat) (x : PortSt) (z : Nat) : (s.setPort p x).queue z = s.queue z := rfl
@[simp] theorem State.haFn_setPort_other (s : State) (p : Nat) (x : PortSt) (z : Nat) : (s.setPort p x).haFn z = s.haFn z := rfl
@[simp] theorem State.core_setPort_other (s : State) (p : Nat) (x : PortSt) (z : Nat) : (s.setPort p x).core z = s.core z := rfl
@[simp] theorem State.clu_setPort_other (s : State) (p : Nat) (x : PortSt) (z : Nat) : (s.setPort p x).clu z = s.clu z := rfl
@[simp] theorem State.rport_setPort_other (s : State) (p : Nat) (x : PortSt) (z : Nat) : (s.setPort p x).rport z = s.rport z := rfl
@[simp] theorem State.reg_setChan_other (s : State) (c : Nat) (x : ChanSt) (z : Nat) : (s.setChan c x).reg z = s.reg z := rfl
@[simp] theorem State.field_setChan_other (s : State) (c : Nat) (x : ChanSt) (z z1 z2 : Nat) : (s.setChan c x).field z z1 z2 = s.field z z1 z2 := rfl
@[simp] theorem State.effReg_setChan_other (s : State) (c : Nat) (x : ChanSt) (z : Nat) : (s.setChan c x).effReg z = s.effReg z := rfl
@[simp] theorem State.port_setChan_other (s : State) (c : Nat) (x : ChanSt) (z : Nat) : (s.setChan c x).port z = s.port z := rfl
@[simp] theorem State.row_setChan_other (s : State) (c : Nat) (x : ChanSt) (z : Nat) : (s.setChan c x).row z = s.row z := rfl
@[simp] theorem State.queue_setChan_other (s : State) (c : Nat) (x : ChanSt) (z : Nat) : (s.setChan c x).queue z = s.queue z := rfl
@[simp] theorem State.haFn_setChan_other (s : State) (c : Nat) (x : ChanSt) (z : Nat) : (s.setChan c x).haFn z = s.haFn z := rfl
@[simp] theorem State.core_setChan_other (s : State) (c : Nat) (x : ChanSt) (z : Nat) : (s.setChan c x).core z = s.core z := rfl
@[simp] theorem State.clu_setChan_other (s : State) (c : Nat) (x : ChanSt) (z : Nat) : (s.setChan c x).clu z = s.clu z := rfl
@[simp] theorem State.rport_setChan_other (s : State) (c : Nat) (x : ChanSt) (z : Nat) : (s.setChan c x).rport z = s.rport z := rfl
@[simp] theorem State.reg_setRow_other (s : State) (r : Nat) (x : RowSt) (z : Nat) : (s.setRow r x).reg z = s.reg z := rfl
@[simp] theorem State.field_setRow_other (s : State) (r : Nat) (x : RowSt) (z z1 z2 : Nat) : (s.setRow r x).field z z1 z2 = s.field z z1 z2 := rfl
@[simp] theorem State.effReg_setRow_other (s : State) (r : Nat) (x : RowSt) (z : Nat) : (s.setRow r x).effReg z = s.effReg z := rfl
@[simp] theorem State.port_setRow_other (s : State) (r : Nat) (x : RowSt) (z : Nat) : (s.setRow r x).port z = s.port z := rfl
@[simp] theorem State.queue_setRow_other (s : State) (r : Nat) (x : RowSt) (z : Nat) : (s.setRow r x).queue z = s.queue z := rfl
@[simp] theorem State.haFn_setRow_other (s : State) (r : Nat) (x : RowSt) (z : Nat) : (s.setRow r x).haFn z = s.haFn z := rfl
@[simp] theorem State.core_setRow_other (s : State) (r : Nat) (x : RowSt) (z : Nat) : (s.setRow r x).core z = s.core z := rfl
@[simp] theorem State.clu_setRow_other (s : State) (r : Nat) (x : RowSt) (z : Nat) : (s.setRow r x).clu z = s.clu z := rfl
@[simp] theorem State.rport_setRow_other (s : State) (r : Nat) (x : RowSt) (z : Nat) : (s.setRow r x).rport z = s.rport z := rfl
@[simp] theorem State.reg_setSpike_other (s : State) (i : Nat) (x : SpikeSt) (z : Nat) : (s.setSpike i x).reg z = s.reg z := rfl
@[simp] theorem State.field_setSpike_other (s : State) (i : Nat) (x : SpikeSt) (z z1 z2 : Nat) : (s.setSpike i x).field z z1 z2 = s.field z z1 z2 := rfl
@[simp] theorem State.effReg_setSpike_other (s : State) (i : Nat) (x : SpikeSt) (z : Nat) : (s.setSpike i x).effReg z = s.effReg z := rfl
@[simp] theorem State.port_setSpike_other (s : State) (i : Nat) (x : SpikeSt) (z : Nat) : (s.setSpike i x).port z = s.port z := rfl
@[simp] theorem State.row_setSpike_other (s : State) (i : Nat) (x : SpikeSt) (z : Nat) : (s.setSpike i x).row z = s.row z := rfl
@[simp] theorem State.queue_setSpike_other (s : State) (i : Nat) (x : SpikeSt) (z : Nat) : (s.setSpike i x).queue z = s.queue z := rfl
@[simp] theorem State.haFn_setSpike_other (s : State) (i : Nat) (x : SpikeSt) (z : Nat) : (s.setSpike i x).haFn z = s.haFn z := rfl
@[simp] theorem State.core_setSpike_other (s : State) (i : Nat) (x : SpikeSt) (z : Nat) : (s.setSpike i x).core z = s.core z := rfl
@[simp] theorem State.clu_setSpike_other (s : State) (i : Nat) (x : SpikeSt) (z : Nat) : (s.setSpike i x).clu z = s.clu z := rfl
@[simp] theorem State.rport_setSpike_other (s : State) (i : Nat) (x : SpikeSt) (z : Nat) : (s.setSpike i x).rport z = s.rport z := rfl
@[simp] theorem State.reg_setQueue_other (s : State) (q : Nat) (x : QSt) (z : Nat) : (s.setQueue q x).reg z = s.reg z := rfl
@[simp] theorem State.field_setQueue_other (s : State) (q : Nat) (x : QSt) (z z1 z2 : Nat) : (s.setQueue q x).field z z1 z2 = s.field z z1 z2 := rfl
@[simp] theorem State.effReg_setQueue_other (s : State) (q : Nat) (x : QSt) (z : Nat) : (s.setQueue q x).effReg z = s.effReg z := rfl
@[simp] theorem State.port_setQueue_other (s : State) (q : Nat) (x : QSt) (z : Nat) : (s.setQueue q x).port z = s.port z := rfl
@[simp] theorem State.row_setQueue_other (s : State) (q : Nat) (x : QSt) (z : Nat) : (s.setQueue q x).row z = s.row z := rfl
@[simp] theorem State.haFn_setQueue_other (s : State) (q : Nat) (x : QSt) (z : Nat) : (s.setQueue q x).haFn z = s.haFn z := rfl
@[simp] theorem State.core_setQueue_other (s : State) (q : Nat) (x : QSt) (z : Nat) : (s.setQueue q x).core z = s.core z := rfl
@[simp] theorem State.clu_setQueue_other (s : State) (q : Nat) (x : QSt) (z : Nat) : (s.setQueue q x).clu z = s.clu z := rfl
@[simp] theorem State.rport_setQueue_other (s : State) (q : Nat) (x : QSt) (z : Nat) : (s.setQueue q x).rport z = s.rport z := rfl
@[simp] theorem State.reg_setHa_other (s : State) (f : Nat) (x : HaSt) (z : Nat) : (s.setHa f x).reg z = s.reg z := rfl
@[simp] theorem State.field_setHa_other (s : State) (f : Nat) (x : HaSt) (z z1 z2 : Nat) : (s.setHa f x).field z z1 z2 = s.field z z1 z2 := rfl
@[simp] theorem State.effReg_setHa_other (s : State) (f : Nat) (x : HaSt) (z : Nat) : (s.setHa f x).effReg z = s.effReg z := rfl
@[simp] theorem State.port_setHa_other (s : State) (f : Nat) (x : HaSt) (z : Nat) : (s.setHa f x).port z = s.port z := rfl
@[simp] theorem State.row_setHa_other (s : State) (f : Nat) (x : HaSt) (z : Nat) : (s.setHa f x).row z = s.row z := rfl
@[simp] theorem State.queue_setHa_other (s : State) (f : Nat) (x : HaSt) (z : Nat) : (s.setHa f x).queue z = s.queue z := rfl
@[simp] theorem State.core_setHa_other (s : State) (f : Nat) (x : HaSt) (z : Nat) : (s.setHa f x).core z = s.core z := rfl
@[simp] theorem State.clu_setHa_other (s : State) (f : Nat) (x : HaSt) (z : Nat) : (s.setHa f x).clu z = s.clu z := rfl
@[simp] theorem State.rport_setHa_other (s : State) (f : Nat) (x : HaSt) (z : Nat) : (s.setHa f x).rport z = s.rport z := rfl
@[simp] theorem State.effReg_setReg_other (s : State) (o : Nat) (v : Word) (z : Nat) : (s.setReg o v).effReg z = s.effReg z := rfl
@[simp] theorem State.port_setReg_other (s : State) (o : Nat) (v : Word) (z : Nat) : (s.setReg o v).port z = s.port z := rfl
@[simp] theorem State.row_setReg_other (s : State) (o : Nat) (v : Word) (z : Nat) : (s.setReg o v).row z = s.row z := rfl
@[simp] theorem State.queue_setReg_other (s : State) (o : Nat) (v : Word) (z : Nat) : (s.setReg o v).queue z = s.queue z := rfl
@[simp] theorem State.haFn_setReg_other (s : State) (o : Nat) (v : Word) (z : Nat) : (s.setReg o v).haFn z = s.haFn z := rfl
@[simp] theorem State.core_setReg_other (s : State) (o : Nat) (v : Word) (z : Nat) : (s.setReg o v).core z = s.core z := rfl
@[simp] theorem State.clu_setReg_other (s : State) (o : Nat) (v : Word) (z : Nat) : (s.setReg o v).clu z = s.clu z := rfl
@[simp] theorem State.rport_setReg_other (s : State) (o : Nat) (v : Word) (z : Nat) : (s.setReg o v).rport z = s.rport z := rfl
@[simp] theorem State.effReg_setField_other (s : State) (o hi lo v : Nat) (z : Nat) : (s.setField o hi lo v).effReg z = s.effReg z := rfl
@[simp] theorem State.port_setField_other (s : State) (o hi lo v : Nat) (z : Nat) : (s.setField o hi lo v).port z = s.port z := rfl
@[simp] theorem State.row_setField_other (s : State) (o hi lo v : Nat) (z : Nat) : (s.setField o hi lo v).row z = s.row z := rfl
@[simp] theorem State.queue_setField_other (s : State) (o hi lo v : Nat) (z : Nat) : (s.setField o hi lo v).queue z = s.queue z := rfl
@[simp] theorem State.haFn_setField_other (s : State) (o hi lo v : Nat) (z : Nat) : (s.setField o hi lo v).haFn z = s.haFn z := rfl
@[simp] theorem State.core_setField_other (s : State) (o hi lo v : Nat) (z : Nat) : (s.setField o hi lo v).core z = s.core z := rfl
@[simp] theorem State.clu_setField_other (s : State) (o hi lo v : Nat) (z : Nat) : (s.setField o hi lo v).clu z = s.clu z := rfl
@[simp] theorem State.rport_setField_other (s : State) (o hi lo v : Nat) (z : Nat) : (s.setField o hi lo v).rport z = s.rport z := rfl
@[simp] theorem State.effReg_bumpN_other (s : State) (o n : Nat) (z : Nat) : (s.bumpN o n).effReg z = s.effReg z := rfl
@[simp] theorem State.port_bumpN_other (s : State) (o n : Nat) (z : Nat) : (s.bumpN o n).port z = s.port z := rfl
@[simp] theorem State.row_bumpN_other (s : State) (o n : Nat) (z : Nat) : (s.bumpN o n).row z = s.row z := rfl
@[simp] theorem State.queue_bumpN_other (s : State) (o n : Nat) (z : Nat) : (s.bumpN o n).queue z = s.queue z := rfl
@[simp] theorem State.haFn_bumpN_other (s : State) (o n : Nat) (z : Nat) : (s.bumpN o n).haFn z = s.haFn z := rfl
@[simp] theorem State.core_bumpN_other (s : State) (o n : Nat) (z : Nat) : (s.bumpN o n).core z = s.core z := rfl
@[simp] theorem State.clu_bumpN_other (s : State) (o n : Nat) (z : Nat) : (s.bumpN o n).clu z = s.clu z := rfl
@[simp] theorem State.rport_bumpN_other (s : State) (o n : Nat) (z : Nat) : (s.bumpN o n).rport z = s.rport z := rfl
@[simp] theorem State.effReg_bump_other (s : State) (o : Nat) (z : Nat) : (s.bump o).effReg z = s.effReg z := rfl
@[simp] theorem State.port_bump_other (s : State) (o : Nat) (z : Nat) : (s.bump o).port z = s.port z := rfl
@[simp] theorem State.row_bump_other (s : State) (o : Nat) (z : Nat) : (s.bump o).row z = s.row z := rfl
@[simp] theorem State.queue_bump_other (s : State) (o : Nat) (z : Nat) : (s.bump o).queue z = s.queue z := rfl
@[simp] theorem State.haFn_bump_other (s : State) (o : Nat) (z : Nat) : (s.bump o).haFn z = s.haFn z := rfl
@[simp] theorem State.core_bump_other (s : State) (o : Nat) (z : Nat) : (s.bump o).core z = s.core z := rfl
@[simp] theorem State.clu_bump_other (s : State) (o : Nat) (z : Nat) : (s.bump o).clu z = s.clu z := rfl
@[simp] theorem State.rport_bump_other (s : State) (o : Nat) (z : Nat) : (s.bump o).rport z = s.rport z := rfl
@[simp] theorem State.effReg_raiseBit_other (s : State) (o b : Nat) (z : Nat) : (s.raiseBit o b).effReg z = s.effReg z := rfl
@[simp] theorem State.port_raiseBit_other (s : State) (o b : Nat) (z : Nat) : (s.raiseBit o b).port z = s.port z := rfl
@[simp] theorem State.row_raiseBit_other (s : State) (o b : Nat) (z : Nat) : (s.raiseBit o b).row z = s.row z := rfl
@[simp] theorem State.queue_raiseBit_other (s : State) (o b : Nat) (z : Nat) : (s.raiseBit o b).queue z = s.queue z := rfl
@[simp] theorem State.haFn_raiseBit_other (s : State) (o b : Nat) (z : Nat) : (s.raiseBit o b).haFn z = s.haFn z := rfl
@[simp] theorem State.core_raiseBit_other (s : State) (o b : Nat) (z : Nat) : (s.raiseBit o b).core z = s.core z := rfl
@[simp] theorem State.clu_raiseBit_other (s : State) (o b : Nat) (z : Nat) : (s.raiseBit o b).clu z = s.clu z := rfl
@[simp] theorem State.rport_raiseBit_other (s : State) (o b : Nat) (z : Nat) : (s.raiseBit o b).rport z = s.rport z := rfl
@[simp] theorem State.reg_errWith_other (s : State) (a b c d e f g h i : Nat) (k : Option Nat) (z : Nat) : (s.errWith a b c d e f g h i k).reg z = s.reg z := rfl
@[simp] theorem State.field_errWith_other (s : State) (a b c d e f g h i : Nat) (k : Option Nat) (z z1 z2 : Nat) : (s.errWith a b c d e f g h i k).field z z1 z2 = s.field z z1 z2 := rfl
@[simp] theorem State.effReg_errWith_other (s : State) (a b c d e f g h i : Nat) (k : Option Nat) (z : Nat) : (s.errWith a b c d e f g h i k).effReg z = s.effReg z := rfl
@[simp] theorem State.port_errWith_other (s : State) (a b c d e f g h i : Nat) (k : Option Nat) (z : Nat) : (s.errWith a b c d e f g h i k).port z = s.port z := rfl
@[simp] theorem State.row_errWith_other (s : State) (a b c d e f g h i : Nat) (k : Option Nat) (z : Nat) : (s.errWith a b c d e f g h i k).row z = s.row z := rfl
@[simp] theorem State.queue_errWith_other (s : State) (a b c d e f g h i : Nat) (k : Option Nat) (z : Nat) : (s.errWith a b c d e f g h i k).queue z = s.queue z := rfl
@[simp] theorem State.haFn_errWith_other (s : State) (a b c d e f g h i : Nat) (k : Option Nat) (z : Nat) : (s.errWith a b c d e f g h i k).haFn z = s.haFn z := rfl
@[simp] theorem State.core_errWith_other (s : State) (a b c d e f g h i : Nat) (k : Option Nat) (z : Nat) : (s.errWith a b c d e f g h i k).core z = s.core z := rfl
@[simp] theorem State.clu_errWith_other (s : State) (a b c d e f g h i : Nat) (k : Option Nat) (z : Nat) : (s.errWith a b c d e f g h i k).clu z = s.clu z := rfl
@[simp] theorem State.rport_errWith_other (s : State) (a b c d e f g h i : Nat) (k : Option Nat) (z : Nat) : (s.errWith a b c d e f g h i k).rport z = s.rport z := rfl
@[simp] theorem State.reg_err_other (s : State) (a b c d e : Nat) (z : Nat) : (s.err a b c d e).reg z = s.reg z := rfl
@[simp] theorem State.field_err_other (s : State) (a b c d e : Nat) (z z1 z2 : Nat) : (s.err a b c d e).field z z1 z2 = s.field z z1 z2 := rfl
@[simp] theorem State.effReg_err_other (s : State) (a b c d e : Nat) (z : Nat) : (s.err a b c d e).effReg z = s.effReg z := rfl
@[simp] theorem State.port_err_other (s : State) (a b c d e : Nat) (z : Nat) : (s.err a b c d e).port z = s.port z := rfl
@[simp] theorem State.row_err_other (s : State) (a b c d e : Nat) (z : Nat) : (s.err a b c d e).row z = s.row z := rfl
@[simp] theorem State.queue_err_other (s : State) (a b c d e : Nat) (z : Nat) : (s.err a b c d e).queue z = s.queue z := rfl
@[simp] theorem State.haFn_err_other (s : State) (a b c d e : Nat) (z : Nat) : (s.err a b c d e).haFn z = s.haFn z := rfl
@[simp] theorem State.core_err_other (s : State) (a b c d e : Nat) (z : Nat) : (s.err a b c d e).core z = s.core z := rfl
@[simp] theorem State.clu_err_other (s : State) (a b c d e : Nat) (z : Nat) : (s.err a b c d e).clu z = s.clu z := rfl
@[simp] theorem State.rport_err_other (s : State) (a b c d e : Nat) (z : Nat) : (s.err a b c d e).rport z = s.rport z := rfl
@[simp] theorem State.reg_setPwr_other (s : State) (x : PwrSt) (z : Nat) : (s.setPwr x).reg z = s.reg z := rfl
@[simp] theorem State.field_setPwr_other (s : State) (x : PwrSt) (z z1 z2 : Nat) : (s.setPwr x).field z z1 z2 = s.field z z1 z2 := rfl
@[simp] theorem State.effReg_setPwr_other (s : State) (x : PwrSt) (z : Nat) : (s.setPwr x).effReg z = s.effReg z := rfl
@[simp] theorem State.port_setPwr_other (s : State) (x : PwrSt) (z : Nat) : (s.setPwr x).port z = s.port z := rfl
@[simp] theorem State.row_setPwr_other (s : State) (x : PwrSt) (z : Nat) : (s.setPwr x).row z = s.row z := rfl
@[simp] theorem State.queue_setPwr_other (s : State) (x : PwrSt) (z : Nat) : (s.setPwr x).queue z = s.queue z := rfl
@[simp] theorem State.haFn_setPwr_other (s : State) (x : PwrSt) (z : Nat) : (s.setPwr x).haFn z = s.haFn z := rfl
@[simp] theorem State.core_setPwr_other (s : State) (x : PwrSt) (z : Nat) : (s.setPwr x).core z = s.core z := rfl
@[simp] theorem State.clu_setPwr_other (s : State) (x : PwrSt) (z : Nat) : (s.setPwr x).clu z = s.clu z := rfl
@[simp] theorem State.rport_setPwr_other (s : State) (x : PwrSt) (z : Nat) : (s.setPwr x).rport z = s.rport z := rfl
@[simp] theorem State.reg_setCore_other (s : State) (c : Nat) (x : CoreSt) (z : Nat) : (s.setCore c x).reg z = s.reg z := rfl
@[simp] theorem State.field_setCore_other (s : State) (c : Nat) (x : CoreSt) (z z1 z2 : Nat) : (s.setCore c x).field z z1 z2 = s.field z z1 z2 := rfl
@[simp] theorem State.effReg_setCore_other (s : State) (c : Nat) (x : CoreSt) (z : Nat) : (s.setCore c x).effReg z = s.effReg z := rfl
@[simp] theorem State.port_setCore_other (s : State) (c : Nat) (x : CoreSt) (z : Nat) : (s.setCore c x).port z = s.port z := rfl
@[simp] theorem State.row_setCore_other (s : State) (c : Nat) (x : CoreSt) (z : Nat) : (s.setCore c x).row z = s.row z := rfl
@[simp] theorem State.queue_setCore_other (s : State) (c : Nat) (x : CoreSt) (z : Nat) : (s.setCore c x).queue z = s.queue z := rfl
@[simp] theorem State.haFn_setCore_other (s : State) (c : Nat) (x : CoreSt) (z : Nat) : (s.setCore c x).haFn z = s.haFn z := rfl
@[simp] theorem State.clu_setCore_other (s : State) (c : Nat) (x : CoreSt) (z : Nat) : (s.setCore c x).clu z = s.clu z := rfl
@[simp] theorem State.rport_setCore_other (s : State) (c : Nat) (x : CoreSt) (z : Nat) : (s.setCore c x).rport z = s.rport z := rfl
@[simp] theorem State.reg_setCtx_other (s : State) (c j : Nat) (y : CtxSt) (z : Nat) : (s.setCtx c j y).reg z = s.reg z := rfl
@[simp] theorem State.field_setCtx_other (s : State) (c j : Nat) (y : CtxSt) (z z1 z2 : Nat) : (s.setCtx c j y).field z z1 z2 = s.field z z1 z2 := rfl
@[simp] theorem State.effReg_setCtx_other (s : State) (c j : Nat) (y : CtxSt) (z : Nat) : (s.setCtx c j y).effReg z = s.effReg z := rfl
@[simp] theorem State.port_setCtx_other (s : State) (c j : Nat) (y : CtxSt) (z : Nat) : (s.setCtx c j y).port z = s.port z := rfl
@[simp] theorem State.row_setCtx_other (s : State) (c j : Nat) (y : CtxSt) (z : Nat) : (s.setCtx c j y).row z = s.row z := rfl
@[simp] theorem State.queue_setCtx_other (s : State) (c j : Nat) (y : CtxSt) (z : Nat) : (s.setCtx c j y).queue z = s.queue z := rfl
@[simp] theorem State.haFn_setCtx_other (s : State) (c j : Nat) (y : CtxSt) (z : Nat) : (s.setCtx c j y).haFn z = s.haFn z := rfl
@[simp] theorem State.clu_setCtx_other (s : State) (c j : Nat) (y : CtxSt) (z : Nat) : (s.setCtx c j y).clu z = s.clu z := rfl
@[simp] theorem State.rport_setCtx_other (s : State) (c j : Nat) (y : CtxSt) (z : Nat) : (s.setCtx c j y).rport z = s.rport z := rfl
@[simp] theorem State.reg_setClu_other (s : State) (k : Nat) (x : CluSt) (z : Nat) : (s.setClu k x).reg z = s.reg z := rfl
@[simp] theorem State.field_setClu_other (s : State) (k : Nat) (x : CluSt) (z z1 z2 : Nat) : (s.setClu k x).field z z1 z2 = s.field z z1 z2 := rfl
@[simp] theorem State.effReg_setClu_other (s : State) (k : Nat) (x : CluSt) (z : Nat) : (s.setClu k x).effReg z = s.effReg z := rfl
@[simp] theorem State.port_setClu_other (s : State) (k : Nat) (x : CluSt) (z : Nat) : (s.setClu k x).port z = s.port z := rfl
@[simp] theorem State.row_setClu_other (s : State) (k : Nat) (x : CluSt) (z : Nat) : (s.setClu k x).row z = s.row z := rfl
@[simp] theorem State.queue_setClu_other (s : State) (k : Nat) (x : CluSt) (z : Nat) : (s.setClu k x).queue z = s.queue z := rfl
@[simp] theorem State.haFn_setClu_other (s : State) (k : Nat) (x : CluSt) (z : Nat) : (s.setClu k x).haFn z = s.haFn z := rfl
@[simp] theorem State.core_setClu_other (s : State) (k : Nat) (x : CluSt) (z : Nat) : (s.setClu k x).core z = s.core z := rfl
@[simp] theorem State.rport_setClu_other (s : State) (k : Nat) (x : CluSt) (z : Nat) : (s.setClu k x).rport z = s.rport z := rfl
@[simp] theorem State.reg_setRport_other (s : State) (i : Nat) (x : RingPortSt) (z : Nat) : (s.setRport i x).reg z = s.reg z := rfl
@[simp] theorem State.field_setRport_other (s : State) (i : Nat) (x : RingPortSt) (z z1 z2 : Nat) : (s.setRport i x).field z z1 z2 = s.field z z1 z2 := rfl
@[simp] theorem State.effReg_setRport_other (s : State) (i : Nat) (x : RingPortSt) (z : Nat) : (s.setRport i x).effReg z = s.effReg z := rfl
@[simp] theorem State.port_setRport_other (s : State) (i : Nat) (x : RingPortSt) (z : Nat) : (s.setRport i x).port z = s.port z := rfl
@[simp] theorem State.row_setRport_other (s : State) (i : Nat) (x : RingPortSt) (z : Nat) : (s.setRport i x).row z = s.row z := rfl
@[simp] theorem State.queue_setRport_other (s : State) (i : Nat) (x : RingPortSt) (z : Nat) : (s.setRport i x).queue z = s.queue z := rfl
@[simp] theorem State.haFn_setRport_other (s : State) (i : Nat) (x : RingPortSt) (z : Nat) : (s.setRport i x).haFn z = s.haFn z := rfl
@[simp] theorem State.core_setRport_other (s : State) (i : Nat) (x : RingPortSt) (z : Nat) : (s.setRport i x).core z = s.core z := rfl
@[simp] theorem State.clu_setRport_other (s : State) (i : Nat) (x : RingPortSt) (z : Nat) : (s.setRport i x).clu z = s.clu z := rfl
@[simp] theorem State.reg_setConn_other (s : State) (x : Transport) (y : SpdmSt) (z : Nat) : (s.setConn x y).reg z = s.reg z := rfl
@[simp] theorem State.field_setConn_other (s : State) (x : Transport) (y : SpdmSt) (z z1 z2 : Nat) : (s.setConn x y).field z z1 z2 = s.field z z1 z2 := rfl
@[simp] theorem State.effReg_setConn_other (s : State) (x : Transport) (y : SpdmSt) (z : Nat) : (s.setConn x y).effReg z = s.effReg z := rfl
@[simp] theorem State.port_setConn_other (s : State) (x : Transport) (y : SpdmSt) (z : Nat) : (s.setConn x y).port z = s.port z := rfl
@[simp] theorem State.row_setConn_other (s : State) (x : Transport) (y : SpdmSt) (z : Nat) : (s.setConn x y).row z = s.row z := rfl
@[simp] theorem State.queue_setConn_other (s : State) (x : Transport) (y : SpdmSt) (z : Nat) : (s.setConn x y).queue z = s.queue z := rfl
@[simp] theorem State.haFn_setConn_other (s : State) (x : Transport) (y : SpdmSt) (z : Nat) : (s.setConn x y).haFn z = s.haFn z := rfl
@[simp] theorem State.core_setConn_other (s : State) (x : Transport) (y : SpdmSt) (z : Nat) : (s.setConn x y).core z = s.core z := rfl
@[simp] theorem State.clu_setConn_other (s : State) (x : Transport) (y : SpdmSt) (z : Nat) : (s.setConn x y).clu z = s.clu z := rfl
@[simp] theorem State.rport_setConn_other (s : State) (x : Transport) (y : SpdmSt) (z : Nat) : (s.setConn x y).rport z = s.rport z := rfl

@[simp] theorem State.reg_setReg (s : State) (o j : Nat) (v : Word) : (s.setReg o v).reg j = if j = o then v else s.reg j := by
  by_cases h : j = o
  · subst h; simp [State.reg, State.setReg]
  · simp [State.reg, State.setReg, h, sget_sset_ne]

@[simp] theorem State.reg_bumpN (s : State) (o j n : Nat) : (s.bumpN o n).reg j =
    if j = o then BitVec.ofNat 64 (min (2 ^ 64 - 1) ((s.reg o).toNat + n)) else s.reg j := by simp [State.bumpN]

@[simp] theorem State.reg_setField (s : State) (o hi lo v j : Nat) :
    (s.setField o hi lo v).reg j = if j = o then setBf (s.reg o) hi lo v else s.reg j := by simp [State.setField]

theorem CoreSt.ctx_setCtx (x : CoreSt) (i j : Nat) (y : CtxSt) : (x.setCtx i y).ctx j = if j = i then y else x.ctx j :=
  sget_sset _ _ _ _ _

theorem State.ctx_setCtx (s : State) (c i d j : Nat) (y : CtxSt) :
    (s.setCtx c i y).ctx d j = if d = c ∧ j = i then y else s.ctx d j := by
  by_cases h : d = c
  · subst h; simp [State.setCtx, State.ctx, CoreSt.ctx_setCtx]
  · simp [State.setCtx, State.ctx, h]

/-- Reading a table of the state at the same time or with other units written: accessors see only their own table. -/
@[simp] theorem State.reg_at (s : State) (t : Time) (o : Nat) : (s.at t).reg o = s.reg o := rfl
@[simp] theorem State.field_at (s : State) (t : Time) (o hi lo : Nat) : (s.at t).field o hi lo = s.field o hi lo := rfl

theorem keyOfX_injective {x y : Transport} (h : keyOfX x = keyOfX y) : x = y := by cases x <;> cases y <;> simp_all [keyOfX]

@[simp] theorem State.conn_setConn (s : State) (x y : Transport) (c : SpdmSt) :
    (s.setConn x c).conn y = if y = x then c else s.conn y := by
  simp only [State.conn, State.setConn, sget_sset]
  by_cases h : y = x
  · simp [h]
  · have : keyOfX y ≠ keyOfX x := fun e => h (keyOfX_injective e)
    simp [h, this]

@[simp] theorem State.setConn_setConn (s : State) (x : Transport) (c d : SpdmSt) : (s.setConn x c).setConn x d = s.setConn x d := by
  simp [State.setConn]

end Sys2Proof.Machine
end

