-- ==== Sys2Proof/Laws/Memory.lean ====
section
/-! SUPPORT. Memory: a read after a write, what a write leaves, and that every operation keeps the canonical form. -/

namespace Sys2Proof.Machine

/-! ### Bytes -/

@[simp] theorem mrd_mwr (a b : Nat) (v : Byte) (m : List Host.Cell) : mrd b (mwr a v m) = if b = a then v else mrd b m := by
  by_cases h : b = a
  · subst h; simp [mrd, mwr]
  · simp [mrd, mwr, h, sget_sset_ne]

theorem mwr_wf {a : Nat} {b : Byte} {m : List Host.Cell} (h : Memory.wf m = true) : Memory.wf (mwr a b m) = true := swf_sset h

theorem mwrBs_wf {a : Nat} {bs : List Byte} {m : List Host.Cell} (h : Memory.wf m = true) : Memory.wf (mwrBs a bs m) = true := by
  induction bs generalizing a m with
  | nil => exact h
  | cons b bs ih => exact ih (mwr_wf h)

theorem foldl_mwr_wf {l : List Nat} {f : Nat → Nat} {g : Nat → Byte} {m : List Host.Cell} (h : Memory.wf m = true) :
    Memory.wf (l.foldl (fun m i => mwr (f i) (g i) m) m) = true := by
  induction l generalizing m with
  | nil => exact h
  | cons i l ih => exact ih (mwr_wf h)

theorem mwrW_wf {a : Nat} {w : Word} {m : List Host.Cell} (h : Memory.wf m = true) : Memory.wf (mwrW a w m) = true :=
  foldl_mwr_wf h

theorem mwrWs_wf {a : Nat} {ws : List Word} {m : List Host.Cell} (h : Memory.wf m = true) : Memory.wf (mwrWs a ws m) = true := by
  induction ws generalizing a m with
  | nil => exact h
  | cons w ws ih => exact ih (mwrW_wf h)

/-- Bytes of a list land one after the other; every other byte reads as before. -/
theorem mrd_mwrBs (a b : Nat) (bs : List Byte) (m : List Host.Cell) :
    mrd b (mwrBs a bs m) = if a ≤ b ∧ b < a + bs.length then bs.getD (b - a) 0 else mrd b m := by
  induction bs generalizing a m with
  | nil => rw [if_neg (by simp)]; rfl
  | cons v bs ih =>
    rw [mwrBs, ih, mrd_mwr]
    by_cases h : a + 1 ≤ b ∧ b < a + 1 + bs.length
    · rw [if_pos h, if_pos (by simp; omega)]
      obtain ⟨k, rfl⟩ : ∃ k, b = a + 1 + k := ⟨b - (a + 1), by omega⟩
      have h1 : a + 1 + k - (a + 1) = k := by omega
      have h2 : a + 1 + k - a = k + 1 := by omega
      rw [h1, h2, List.getD_cons_succ]
    · rw [if_neg h]
      by_cases hb : b = a
      · subst hb; simp
      · rw [if_neg hb, if_neg (by simp; omega)]

/-! ### Words -/

/-- A word is written as its eight bytes. -/
theorem mwrW_eq (a : Nat) (w : Word) (m : List Host.Cell) :
    mwrW a w m = mwrBs a ((List.range 8).map fun i => wordByte w i) m := by
  simp [mwrW, List.range_succ, mwrBs, Nat.add_assoc]

theorem mrd_mwrW (a b : Nat) (w : Word) (m : List Host.Cell) :
    mrd b (mwrW a w m) = if a ≤ b ∧ b < a + 8 then wordByte w (b - a) else mrd b m := by
  rw [mwrW_eq, mrd_mwrBs]
  by_cases h : a ≤ b ∧ b < a + 8
  · rw [if_pos (by simpa using h), if_pos h]
    have hk : b - a < 8 := by omega
    simp [List.getD_eq_getElem?_getD, hk]
  · rw [if_neg (by simpa using h), if_neg h]

theorem mwrWs_eq (a : Nat) (ws : List Word) (m : List Host.Cell) : mwrWs a ws m = mwrBs a (wordBytes ws) m := by
  induction ws generalizing a m with
  | nil => rfl
  | cons w ws ih =>
    rw [mwrWs, ih, mwrW_eq]
    simp [wordBytes, List.range_succ, mwrBs, Nat.add_assoc]

theorem wordBytes_length (ws : List Word) : (wordBytes ws).length = 8 * ws.length := by
  induction ws with
  | nil => rfl
  | cons w ws ih => simp [wordBytes] at ih ⊢; omega

/-- Words outside the bytes written read as before. -/
theorem mrd_mwrWs_outside {a b : Nat} {ws : List Word} (h : b < a ∨ a + 8 * ws.length ≤ b) (m : List Host.Cell) :
    mrd b (mwrWs a ws m) = mrd b m := by
  rw [mwrWs_eq, mrd_mwrBs, if_neg (by rw [wordBytes_length]; omega)]

theorem mrdW_congr {a : Nat} {m n : List Host.Cell} (h : ∀ i, i < 8 → mrd (a + i) m = mrd (a + i) n) : mrdW a m = mrdW a n := by
  have h0 : mrd a m = mrd a n := h 0 (by omega)
  simp [mrdW, List.range_succ, h0, h 1, h 2, h 3, h 4, h 5, h 6, h 7]

/-- The eight bytes of a word, put together again. -/
theorem wordByte_join (w : Word) :
    BitVec.ofNat 64 ((List.range 8).foldr (fun i n => n * 256 + (wordByte w i).toNat) 0) = w := by
  apply BitVec.eq_of_toNat_eq
  have h : w.toNat < 2 ^ 64 := w.isLt
  simp [List.range_succ, wordByte, Nat.shiftRight_eq_div_pow]
  omega

/-- A word reads as it was written. -/
@[simp] theorem mrdW_mwrW_self (a : Nat) (w : Word) (m : List Host.Cell) : mrdW a (mwrW a w m) = w := by
  have : mrdW a (mwrW a w m) = BitVec.ofNat 64 ((List.range 8).foldr (fun i n => n * 256 + (wordByte w i).toNat) 0) := by
    simp [mrdW, List.range_succ, mrd_mwrW]
  rw [this, wordByte_join]

/-- A word that shares no byte with one written reads as before. -/
theorem mrdW_mwrW_disjoint {a b : Nat} (h : b + 8 ≤ a ∨ a + 8 ≤ b) (w : Word) (m : List Host.Cell) :
    mrdW b (mwrW a w m) = mrdW b m :=
  mrdW_congr fun i hi => by rw [mrd_mwrW, if_neg (by omega)]

/-- Word `k` of consecutive words written. -/
theorem mrdW_mwrWs (a k : Nat) (ws : List Word) (m : List Host.Cell) (h : k < ws.length) :
    mrdW (a + 8 * k) (mwrWs a ws m) = ws.getD k 0 := by
  induction ws generalizing a k m with
  | nil => simp at h
  | cons w ws ih =>
    cases k with
    | zero =>
      rw [mwrWs]
      have : mrdW (a + 8 * 0) (mwrWs (a + 8) ws (mwrW a w m)) = mrdW a (mwrW a w m) :=
        mrdW_congr fun i hi => mrd_mwrWs_outside (by omega) _
      rw [this, mrdW_mwrW_self]; rfl
    | succ k =>
      rw [mwrWs, show a + 8 * (k + 1) = a + 8 + 8 * k by omega, ih _ _ _ (by simpa using h)]; rfl

theorem mrdW_mwrWs_disjoint {a b : Nat} {ws : List Word} (h : b + 8 ≤ a ∨ a + 8 * ws.length ≤ b) (m : List Host.Cell) :
    mrdW b (mwrWs a ws m) = mrdW b m :=
  mrdW_congr fun i hi => mrd_mwrWs_outside (by omega) m

/-! ### Operations of the state over memory -/

/-- A controller that takes an access may wake; memory is as it was. -/
@[simp] theorem State.touchMem_mem (s : State) (a : Nat) : (s.touchMem a).mem = s.mem := by
  unfold State.touchMem
  split
  · rfl
  · dsimp only
    split
    · exact State.setField_mem ..
    · rfl

/-- Memory right after reset is in its canonical form. -/
theorem State.reset_wf : Memory.wf State.reset.mem = true := rfl

end Sys2Proof.Machine
end

