-- ==== Sys2Proof/Laws/Fields.lean ====
section
/-! SUPPORT. Bit fields: a field reads as it was written, and fields that share no bit do not disturb each other. -/

namespace Sys2Proof.Machine

theorem bf_lt (w : Word) (hi lo : Nat) : bf w hi lo < 2 ^ (hi + 1 - lo) := Nat.mod_lt _ (Nat.two_pow_pos _)

theorem bf_testBit (w : Word) (hi lo k : Nat) : (bf w hi lo).testBit k = (decide (k < hi + 1 - lo) && w.toNat.testBit (lo + k)) := by
  simp [bf, Nat.testBit_mod_two_pow, Nat.testBit_shiftRight]

/-- A word split at a field. -/
theorem word_split (w : Word) {hi lo : Nat} (h : lo ≤ hi) :
    w.toNat = 2 ^ lo * (2 ^ (hi + 1 - lo) * (w.toNat / 2 ^ (hi + 1)) + bf w hi lo) + w.toNat % 2 ^ lo := by
  have e : (2 : Nat) ^ (hi + 1) = 2 ^ lo * 2 ^ (hi + 1 - lo) := by rw [← Nat.pow_add]; congr 1; omega
  rw [bf, Nat.shiftRight_eq_div_pow, e, ← Nat.div_div_eq_div_mul, Nat.div_add_mod, Nat.div_add_mod]

/-- A written word, split at the field. -/
theorem setBf_toNat (w : Word) {hi lo : Nat} (v : Nat) (h : lo ≤ hi) (h64 : hi < 64) :
    (setBf w hi lo v).toNat =
      2 ^ lo * (2 ^ (hi + 1 - lo) * (w.toNat / 2 ^ (hi + 1)) + v % 2 ^ (hi + 1 - lo)) + w.toNat % 2 ^ lo := by
  have hs := word_split w h
  have hf := bf_lt w hi lo
  have hv : v % 2 ^ (hi + 1 - lo) < 2 ^ (hi + 1 - lo) := Nat.mod_lt _ (Nat.two_pow_pos _)
  have hr : w.toNat % 2 ^ lo < 2 ^ lo := Nat.mod_lt _ (Nat.two_pow_pos _)
  have e : (2 : Nat) ^ (hi + 1) = 2 ^ lo * 2 ^ (hi + 1 - lo) := by rw [← Nat.pow_add]; congr 1; omega
  have hw : w.toNat < 2 ^ 64 := w.isLt
  have hq : w.toNat / 2 ^ (hi + 1) < 2 ^ (63 - hi) := by
    rw [Nat.div_lt_iff_lt_mul (Nat.two_pow_pos _), ← Nat.pow_add]
    rwa [show 63 - hi + (hi + 1) = 64 by omega]
  have e64 : (2 : Nat) ^ 64 = 2 ^ lo * (2 ^ (hi + 1 - lo) * 2 ^ (63 - hi)) := by
    rw [← Nat.mul_assoc, ← e, ← Nat.pow_add]; congr 1; omega
  generalize w.toNat / 2 ^ (hi + 1) = q at *
  generalize hve : v % 2 ^ (hi + 1 - lo) = v' at *
  generalize hfe : bf w hi lo = f at *
  generalize w.toNat % 2 ^ lo = r at *
  rw [setBf, BitVec.toNat_ofNat, hfe, Nat.shiftLeft_eq, Nat.shiftLeft_eq, hs, hve]
  generalize (2 : Nat) ^ lo = L at *
  generalize (2 : Nat) ^ (hi + 1 - lo) = N at *
  generalize (2 : Nat) ^ (63 - hi) = M at *
  have h1 : L * (N * q + f) + r - f * L + v' * L = L * (N * q + v') + r := by
    rw [Nat.mul_add, Nat.mul_add, Nat.mul_comm f L, Nat.mul_comm v' L]; omega
  rw [h1]
  refine Nat.mod_eq_of_lt ?_
  rw [e64]
  have h2 : N * q + v' + 1 ≤ N * M := by
    calc N * q + v' + 1 ≤ N * q + N := by omega
      _ = N * (q + 1) := by rw [Nat.mul_add, Nat.mul_one]
      _ ≤ N * M := Nat.mul_le_mul_left _ hq
  calc L * (N * q + v') + r < L * (N * q + v') + L := by omega
    _ = L * (N * q + v' + 1) := by rw [Nat.mul_add L (N * q + v') 1, Nat.mul_one]
    _ ≤ L * (N * M) := Nat.mul_le_mul_left _ h2

/-- The bits of a written word. -/
theorem setBf_testBit (w : Word) {hi lo : Nat} (v i : Nat) (h : lo ≤ hi) (h64 : hi < 64) :
    (setBf w hi lo v).toNat.testBit i = if lo ≤ i ∧ i ≤ hi then v.testBit (i - lo) else w.toNat.testBit i := by
  have hv : v % 2 ^ (hi + 1 - lo) < 2 ^ (hi + 1 - lo) := Nat.mod_lt _ (Nat.two_pow_pos _)
  have hr : w.toNat % 2 ^ lo < 2 ^ lo := Nat.mod_lt _ (Nat.two_pow_pos _)
  rw [setBf_toNat w v h h64, Nat.testBit_two_pow_mul_add _ hr]
  by_cases h1 : i < lo
  · simp [h1, Nat.testBit_mod_two_pow, show ¬ lo ≤ i by omega]
  · rw [if_neg h1, Nat.testBit_two_pow_mul_add _ hv]
    by_cases h2 : i ≤ hi
    · simp [show i - lo < hi + 1 - lo by omega, show lo ≤ i by omega, h2, Nat.testBit_mod_two_pow]
    · rw [if_neg (by omega), if_neg (by omega), ← Nat.shiftRight_eq_div_pow, Nat.testBit_shiftRight]
      congr 1; omega

/-- A field reads as it was written. -/
theorem bf_setBf_self (w : Word) {hi lo : Nat} (v : Nat) (h : lo ≤ hi) (h64 : hi < 64) :
    bf (setBf w hi lo v) hi lo = v % 2 ^ (hi + 1 - lo) := by
  apply Nat.eq_of_testBit_eq
  intro k
  rw [bf_testBit, setBf_testBit w v _ h h64, Nat.testBit_mod_two_pow]
  by_cases hk : k < hi + 1 - lo
  · simp [hk, show lo + k ≤ hi by omega]
  · simp [hk]

/-- A field that shares no bit with the written one reads as before. -/
theorem bf_setBf_disjoint (w : Word) {hi lo a b : Nat} (v : Nat) (h : lo ≤ hi) (h64 : hi < 64) (hd : a < lo ∨ hi < b) :
    bf (setBf w hi lo v) a b = bf w a b := by
  apply Nat.eq_of_testBit_eq
  intro k
  rw [bf_testBit, bf_testBit, setBf_testBit w v _ h h64]
  by_cases hk : k < a + 1 - b
  · rw [if_neg (by omega)]
  · simp [hk]

/-- The field of a register as written. -/
theorem State.field_setField_self (s : State) (o : Nat) {hi lo : Nat} (v : Nat) (h : lo ≤ hi) (h64 : hi < 64) :
    (s.setField o hi lo v).field o hi lo = v % 2 ^ (hi + 1 - lo) := by
  simp [State.field, bf_setBf_self _ _ h h64]

/-- Another field of the same register. -/
theorem State.field_setField_disjoint (s : State) (o : Nat) {hi lo a b : Nat} (v : Nat) (h : lo ≤ hi) (h64 : hi < 64)
    (hd : a < lo ∨ hi < b) : (s.setField o hi lo v).field o a b = s.field o a b := by
  simp [State.field, bf_setBf_disjoint _ _ h h64 hd]

/-- A field of another register. -/
theorem State.field_setField_ne (s : State) {o j : Nat} (hi lo v a b : Nat) (h : j ≠ o) :
    (s.setField o hi lo v).field j a b = s.field j a b := by
  simp [State.field, h]

theorem State.field_setReg (s : State) (o j hi lo : Nat) (v : Word) :
    (s.setReg o v).field j hi lo = if j = o then bf v hi lo else s.field j hi lo := by
  simp only [State.field, State.reg_setReg]; split <;> rfl

theorem State.field_bumpN_ne (s : State) {o j : Nat} (n a b : Nat) (h : j ≠ o) : (s.bumpN o n).field j a b = s.field j a b := by
  simp [State.field, h]

theorem State.field_bump_ne (s : State) {o j : Nat} (a b : Nat) (h : j ≠ o) : (s.bump o).field j a b = s.field j a b :=
  s.field_bumpN_ne 1 a b h

end Sys2Proof.Machine
end

