-- ==== Sys2Proof/Laws/Lines.lean ====
section
/-! SUPPORT. What the operations over lines do to memory: the controllers, the caches and the snoops leave every byte as it is; a write
of words changes the bytes it names and no other. -/

namespace Sys2Proof.Machine

/-- What every step of a fold keeps, the fold keeps. -/
theorem foldl_keeps {α β : Type} {f : State → α → State} (p : State → β) (h : ∀ s a, p (f s a) = p s) (l : List α) (s : State) :
    p (l.foldl f s) = p s := by
  induction l generalizing s with
  | nil => rfl
  | cons a l ih => rw [List.foldl_cons, ih, h]

/-! ### Records -/

@[simp] theorem State.logErr_mem (s : State) (m k p c : Nat) : (s.logErr m k p c).mem = s.mem := by
  unfold State.logErr; split
  · split <;> rfl
  · rfl
@[simp] theorem State.logShow_mem (s : State) (m i : Nat) : (s.logShow m i).mem = s.mem := by
  unfold State.logShow
  extract_lets n
  rw [State.setField_mem, State.setField_mem]
@[simp] theorem State.logMerge_mem (s : State) (m i k : Nat) : (s.logMerge m i k).mem = s.mem := by
  unfold State.logMerge
  extract_lets s1 s2
  rw [State.logShow_mem, State.setField_mem]
  exact (State.setField_mem s1 ..).trans (State.setField_mem s ..)
@[simp] theorem State.logCreate_mem (s : State) (m i k p w a u : Nat) : (s.logCreate m i k p w a u).mem = s.mem := by
  unfold State.logCreate
  extract_lets s1 s2
  rw [State.logShow_mem, State.setReg_mem, State.useFree_mem, State.setReg_mem, State.setReg_mem, State.raiseBit_mem, State.setReg_mem]
@[simp] theorem State.memLog_mem (s : State) (m k p w a u c : Nat) : (s.memLog m k p w a u c).mem = s.mem := by
  unfold State.memLog
  split
  · rfl
  · split
    · exact State.logMerge_mem ..
    · split
      · rw [State.logErr_mem, State.setField_mem]
      · rw [State.logErr_mem, State.logCreate_mem]

/-! ### Codes and merge buffers -/

@[simp] theorem State.corrected_mem (s : State) (m p k a u : Nat) : (s.corrected m p k a u).mem = s.mem := by
  unfold State.corrected; split <;> simp
@[simp] theorem State.wrongWords_mem (s : State) (l : Nat) : (s.wrongWords l).1.mem = s.mem := by
  unfold State.wrongWords; dsimp only; repeat' split
  all_goals rfl
@[simp] theorem State.decodeAsk_mem (s : State) (m p k : Nat) : (s.decodeAsk m p k).mem = s.mem := by
  unfold State.decodeAsk; dsimp only; split <;> rfl
@[simp] theorem State.decodeEnd_mem (s : State) (m p : Nat) (f : Bool) (a u : Nat) : (s.decodeEnd m p f a u).mem = s.mem := by
  unfold State.decodeEnd; dsimp only; split <;> simp
@[simp] theorem State.awaitPage_mem (s : State) (p : Nat) : (s.awaitPage p).mem = s.mem := by
  unfold State.awaitPage; split <;> simp [State.useFree]
@[simp] theorem State.scan_mem (s : State) (p a u : Nat) : (s.scan p a u).mem = s.mem := by
  unfold State.scan; dsimp only; repeat' split
  all_goals simp [State.useFree]
@[simp] theorem State.flipHook_mem (s : State) (m p : Nat) : (s.flipHook m p).mem = s.mem := by
  unfold State.flipHook; dsimp only; split <;> simp
@[simp] theorem State.checkFold_mem (s : State) (p a u : Nat) : (s.checkFold p a u).mem = s.mem := by
  unfold State.checkFold; dsimp only; split <;> simp
/-- A line write of a controller judges the old words and marks the new ones; the words themselves are its caller's. -/
@[simp] theorem State.lineWrite_mem (s : State) (p k a u : Nat) : (s.lineWrite p k a u).mem = s.mem := by
  unfold State.lineWrite; dsimp only; repeat' split
  all_goals simp
@[simp] theorem State.mergeDone_mem (s : State) (m l : Nat) : (s.mergeDone m l).mem = s.mem := by
  unfold State.mergeDone; dsimp only; repeat' split
  all_goals simp
@[simp] theorem State.mergeFull_mem (s : State) (m l : Nat) : (s.mergeFull m l).mem = s.mem := by
  unfold State.mergeFull; split <;> simp
@[simp] theorem State.mergePut_mem (s : State) (m l k : Nat) : (s.mergePut m l k).mem = s.mem := by
  unfold State.mergePut; dsimp only; repeat' split
  all_goals simp
@[simp] theorem State.ctlRead_mem (s : State) (p a u : Nat) : (s.ctlRead p a u).mem = s.mem := by
  unfold State.ctlRead; dsimp only; split <;> simp
@[simp] theorem State.busErrLog_mem (s : State) (p a u : Nat) : (s.busErrLog p a u).mem = s.mem := by
  unfold State.busErrLog; dsimp only; repeat' split
  all_goals simp

/-! ### Caches and snoops -/

@[simp] theorem State.l1Drop_mem (s : State) (k l : Nat) (o : Option Nat) : (s.l1Drop k l o).mem = s.mem :=
  foldl_keeps State.mem (fun _ _ => State.setCore_mem ..) _ _
@[simp] theorem State.acceptLine_mem (s : State) (x : L2Line) : (s.acceptLine x).mem = s.mem := by
  unfold State.acceptLine; dsimp only; repeat' split
  all_goals simp
@[simp] theorem State.l2Drop_mem (s : State) (k l : Nat) (b : Bool) : (s.l2Drop k l b).mem = s.mem := by
  unfold State.l2Drop; split
  · rfl
  · dsimp only; split <;> simp [State.l2Set]
@[simp] theorem State.cacheErr_mem (s : State) (k l : Nat) : (s.cacheErr k l).mem = s.mem := by
  rw [State.cacheErr, State.err_mem, State.bump_mem]
theorem State.cacheErrs_mem (s : State) (k l : Nat) (bs : List Nat) : (bs.foldl (fun s _ => s.cacheErr k l) s).mem = s.mem :=
  foldl_keeps State.mem (fun s _ => s.cacheErr_mem k l) _ _
@[simp] theorem State.l2Check_mem (s : State) (k l : Nat) : (s.l2Check k l).mem = s.mem := by
  unfold State.l2Check
  split
  · rfl
  · split
    · rfl
    · split
      · rfl
      · dsimp only
        repeat' split
        all_goals simp [State.l2Set, State.cacheErrs_mem]
@[simp] theorem State.snoopLine_mem (s : State) (h l : Nat) (b : Bool) : (s.snoopLine h l b).mem = s.mem := by
  unfold State.snoopLine; split
  · rfl
  · dsimp only; repeat' split
    all_goals simp [State.l2Set]
@[simp] theorem State.snoopOthers_mem (s : State) (k l : Nat) (b : Bool) : (s.snoopOthers k l b).mem = s.mem := by
  have h : (List.foldl (fun s h => if h = k then s else s.snoopLine h l b) s (List.range 32)).mem = s.mem :=
    foldl_keeps State.mem (fun s h => by split <;> simp) _ _
  unfold State.snoopOthers; dsimp only; repeat' split
  all_goals exact h
@[simp] theorem State.devLine_mem (s : State) (a u p : Nat) : (s.devLine a u p).mem = s.mem := by
  unfold State.devLine
  rw [State.ctlRead_mem]
  exact foldl_keeps State.mem (fun s h => by simp) _ _
/-- A read by a unit of the device leaves memory as it is. -/
@[simp] theorem State.devGet_mem (s : State) (a u p : Nat) : (s.devGet a u p).1.mem = s.mem := by
  unfold State.devGet; dsimp only; repeat' split
  all_goals simp

/-! ### Writes of words -/

/-- What a write of words of one line does to memory: nothing where no stack answers, else the words are written. -/
theorem State.putLine_cases (s : State) (src u a : Nat) (ws : List Word) :
    (s.putLine src u a ws).mem = s.mem ∨ (s.putLine src u a ws).mem = mwrWs a ws s.mem := by
  unfold State.putLine; dsimp only; repeat' split
  · exact .inl (by simp)
  all_goals exact .inr (by simp)

/-- A write of words keeps the canonical form, and every byte outside them. -/
theorem State.putBy_frame (src u : Nat) (fuel : Nat) (s : State) (a : Nat) (ws : List Word) :
    (Memory.wf s.mem = true → Memory.wf (s.putBy src u fuel a ws).mem = true) ∧
    ∀ b, b < a ∨ a + 8 * ws.length ≤ b → mrd b (s.putBy src u fuel a ws).mem = mrd b s.mem := by
  induction fuel generalizing s a ws with
  | zero => exact ⟨id, fun _ _ => rfl⟩
  | succ n ih =>
    cases ws with
    | nil => exact ⟨id, fun _ _ => rfl⟩
    | cons w ws =>
      obtain ⟨h1, h2⟩ := ih (s.putLine src u a ((w :: ws).take (8 - a / 8 % 8))) (a + 8 * ((w :: ws).take (8 - a / 8 % 8)).length)
        ((w :: ws).drop (8 - a / 8 % 8))
      have e : State.putBy s src u (n + 1) a (w :: ws) = State.putBy (s.putLine src u a ((w :: ws).take (8 - a / 8 % 8))) src u n
        (a + 8 * ((w :: ws).take (8 - a / 8 % 8)).length) ((w :: ws).drop (8 - a / 8 % 8)) := rfl
      have hl : ((w :: ws).take (8 - a / 8 % 8)).length + ((w :: ws).drop (8 - a / 8 % 8)).length = (w :: ws).length := by
        rw [← List.length_append, List.take_append_drop]
      refine ⟨fun h => ?_, fun b hb => ?_⟩
      · rw [e]
        refine h1 ?_
        rcases s.putLine_cases src u a ((w :: ws).take (8 - a / 8 % 8)) with k | k <;> rw [k]
        · exact h
        · exact mwrWs_wf h
      · rw [e, h2 b (by omega)]
        rcases s.putLine_cases src u a ((w :: ws).take (8 - a / 8 % 8)) with k | k <;> rw [k]
        exact mrd_mwrWs_outside (by omega) _

theorem State.memPutBy_wf {s : State} {src u a : Nat} {ws : List Word} (h : Memory.wf s.mem = true) :
    Memory.wf (s.memPutBy src u a ws).mem = true := (State.putBy_frame src u ws.length s a ws).1 h

/-- Bytes outside the words written read as before. -/
theorem State.memPutBy_outside {s : State} {src u a b : Nat} {ws : List Word} (h : b < a ∨ a + 8 * ws.length ≤ b) :
    mrd b (s.memPutBy src u a ws).mem = mrd b s.mem := (State.putBy_frame src u ws.length s a ws).2 b h

/-- A write of words keeps the canonical form. -/
theorem State.memPut_wf {s : State} {a : Nat} {ws : List Word} (h : Memory.wf s.mem = true) :
    Memory.wf (s.memPut a ws).mem = true := State.memPutBy_wf h

theorem State.memPut_outside {s : State} {a b : Nat} {ws : List Word} (h : b < a ∨ a + 8 * ws.length ≤ b) :
    mrd b (s.memPut a ws).mem = mrd b s.mem := State.memPutBy_outside h

end Sys2Proof.Machine
end

