-- ==== Sys2Proof/Laws/Issue.lean ====
section
/-! SUPPORT. The issue and the completion of a word of a core that stands alone: what fetch, the checks before it and its completion in
sequence do, said once for every instruction. -/

namespace Sys2Proof.Machine

/-- An access through an entry that the core's own TLB holds, with the permission: the address, and the state as it was. -/
theorem State.translate_hit {s : State} {c w : Nat} {sup : Bool} {acc : Access} {va : Nat} {e : TlbEnt}
    (h : (if acc = .fetch then (s.core c).itlb else (s.core c).dtlb).find? (fun a => a.hits w va) = some e)
    (ha : e.allows acc sup = true) : s.translate c w sup acc va = (s, .inr ((e.pa + (va - e.va)) % 2 ^ 46)) := by
  have hl : s.lookup c w acc va false = (s, .inr e) := by
    unfold State.lookup
    cases acc <;> simp_all
  simp [State.translate, hl, ha]

@[simp] theorem State.core_setMe (s : State) (c : Nat) (y : CtxSt) :
    (s.setMe c y).core c = (s.core c).setCtx (s.core c).cur y := by simp [State.setMe]

@[simp] theorem CoreSt.me_setCtx_cur (x : CoreSt) (y : CtxSt) : (x.setCtx x.cur y).me = y := by
  have : (x.setCtx x.cur y).cur = x.cur := rfl
  simp [CoreSt.me, this, CoreSt.ctx_setCtx]

/-! ### The running context written -/

@[simp] theorem CoreSt.setCtx_bankOn (x : CoreSt) (j : Nat) (y : CtxSt) : (x.setCtx j y).bankOn = x.bankOn := rfl
@[simp] theorem CoreSt.setCtx_trap (x : CoreSt) (j : Nat) (y : CtxSt) : (x.setCtx j y).trap = x.trap := rfl
@[simp] theorem CoreSt.setCtx_cur (x : CoreSt) (j : Nat) (y : CtxSt) : (x.setCtx j y).cur = x.cur := rfl
@[simp] theorem CoreSt.setCtx_run (x : CoreSt) (j : Nat) (y : CtxSt) : (x.setCtx j y).run = x.run := rfl
@[simp] theorem CoreSt.setCtx_up (x : CoreSt) (j : Nat) (y : CtxSt) : (x.setCtx j y).up = x.up := rfl
@[simp] theorem CoreSt.setCtx_rf (x : CoreSt) (j : Nat) (y : CtxSt) : (x.setCtx j y).rf = x.rf := rfl
@[simp] theorem CoreSt.setCtx_itlb (x : CoreSt) (j : Nat) (y : CtxSt) : (x.setCtx j y).itlb = x.itlb := rfl
@[simp] theorem CoreSt.setCtx_dtlb (x : CoreSt) (j : Nat) (y : CtxSt) : (x.setCtx j y).dtlb = x.dtlb := rfl
@[simp] theorem CoreSt.setCtx_tick (x : CoreSt) (j : Nat) (y : CtxSt) : (x.setCtx j y).tick = x.tick := rfl

theorem CoreSt.flow_ctx {x : CoreSt} (hb : x.bankOn = false) (ht : x.trap = none) : x.flow = x.me.flow := by simp [CoreSt.flow, hb, ht]
theorem CoreSt.st_ctx {x : CoreSt} (hb : x.bankOn = false) (ht : x.trap = none) : x.st = x.me.spec.st := by simp [CoreSt.st, hb, ht]
theorem CoreSt.spec_ctx {x : CoreSt} (hb : x.bankOn = false) : x.spec = x.me.spec := by simp [CoreSt.spec, hb]

/-! ### Fetch -/

/-- No multiplier result waits: none becomes visible. -/
theorem State.multDue_nil {s : State} {c : Nat} (h : (s.core c).me.mult = []) : s.multDue c = s := by
  simp [State.multDue, h]

/-- The micro-resume records that stay when a word issues. -/
theorem State.core_pruneMicro {s : State} {c : Nat} (hb : (s.core c).bankOn = false) (ht : (s.core c).trap = none) :
    ∃ l, s.pruneMicro c = s.setMe c { (s.core c).me with micro := l } := by
  refine ⟨(s.core c).me.micro.filter fun m => m.level != (s.core c).me.level || m.pc == (s.core c).me.flow.pc, ?_⟩
  unfold State.pruneMicro
  dsimp only
  rw [if_neg (by simp [hb, ht])]

/-- A line that L1I holds, with no parity error: its words are fetched, and nothing changes. -/
theorem State.fetchLine_hit {s : State} {c pa : Nat} (hu : (s.core c).upset = []) (hl : l1Has (pa / 64) (s.core c).l1i = true) :
    s.fetchLine c pa = (s, none) := by
  simp [State.fetchLine, State.l1Check, hu, hl]

@[simp] theorem CoreSt.setCtx_upset (x : CoreSt) (j : Nat) (y : CtxSt) : (x.setCtx j y).upset = x.upset := rfl
@[simp] theorem CoreSt.setCtx_l1i (x : CoreSt) (j : Nat) (y : CtxSt) : (x.setCtx j y).l1i = x.l1i := rfl

/-- The fetch of a word that the core's instruction TLB translates and whose line L1I holds: nothing changes but the micro-resume
records. -/
theorem State.fetch_hit {s : State} {c : Nat} {e : TlbEnt} (hb : (s.core c).bankOn = false) (ht : (s.core c).trap = none)
    (h : (s.core c).itlb.find? (fun a => a.hits (s.world_ c) (s.flow c).pc) = some e) (ha : e.allows .fetch (s.sup c) = true)
    (hu : (s.core c).upset = []) (hl : l1Has ((e.pa + ((s.flow c).pc - e.va)) % 2 ^ 46 / 64) (s.core c).l1i = true) :
    s.fetch c = (s.pruneMicro c, none) := by
  obtain ⟨l, hp⟩ := State.core_pruneMicro hb ht
  have hc : (s.pruneMicro c).core c = (s.core c).setCtx (s.core c).cur { (s.core c).me with micro := l } := by
    rw [hp, State.core_setMe]
  have hflow : (s.pruneMicro c).flow c = s.flow c := by
    rw [State.flow, State.flow, hc, CoreSt.flow_ctx (by simpa using hb) (by simpa using ht), CoreSt.flow_ctx hb ht,
      CoreSt.me_setCtx_cur]
  have hst : (s.pruneMicro c).st c = s.st c := by
    rw [State.st, State.st, hc, CoreSt.st_ctx (by simpa using hb) (by simpa using ht), CoreSt.st_ctx hb ht, CoreSt.me_setCtx_cur]
  have hw : (s.pruneMicro c).world_ c = s.world_ c := by rw [State.world_, State.world_, hst]
  have hs : (s.pruneMicro c).sup c = s.sup c := by rw [State.sup, State.sup, hst]
  have hi : ((s.pruneMicro c).core c).itlb = (s.core c).itlb := by rw [hc]; rfl
  have hf := State.fetchLine_hit (s := s.pruneMicro c) (c := c) (by rw [hc]; exact hu) (by rw [hc]; exact hl)
  unfold State.fetch
  extract_lets s1
  have h1 : s1 = s.pruneMicro c := rfl
  simp only [h1, hflow, hw, hs]
  rw [State.translate_hit (e := e) (by simpa [hi] using h) ha]
  simp only [hf]

/-! ### Issue and completion -/

/-- A word outside every slot, repetition and loop is nowhere misplaced. -/
theorem State.misplacedWord_none {s : State} {c : Nat} (k : Kind) (hb : (s.flow c).branch = none) (hr : (s.flow c).rep = none)
    (hl : stLdep (s.st c) = 0) : s.misplacedWord c k = false := by
  simp [State.misplacedWord, hb, hr, State.isLast, hl]

/-- No loaded register is awaited: the word issues at once. -/
theorem State.await_nil {s : State} {c : Nat} (uses : List Reg5) (h : (s.flow c).ready = []) : s.await c uses = s := by
  have : (s.core c).flow.ready = [] := h
  simp [State.await, this]

/-- The next word is judged at a .S branch and at a REP only. -/
theorem State.badNext_plain {s : State} {c : Nat} {k : Kind} (hs : k.slot = false) (hr : k.rep = false) : s.badNext c k = false := by
  simp [State.badNext, hs, hr]

/-- The issue of a word that stands alone is its body at the fetched state, then its completion or its fault. -/
theorem State.issue_alone {s : State} {c : Nat} (k : Kind) (n : Nat) (body : State → Res) (hrun : s.runs c = true)
    (h0 : (s.flow c).run = none) (hf : s.fetch c = (s.pruneMicro c, none)) (hw : ((s.pruneMicro c).flow c).ready = [])
    (hm : ((s.pruneMicro c).core c).me.mult = []) (hb : ((s.pruneMicro c).flow c).branch = none)
    (hr : ((s.pruneMicro c).flow c).rep = none) (hl : stLdep ((s.pruneMicro c).st c) = 0) (hn : (s.pruneMicro c).badNext c k = false) :
    s.issue c k n body = act c n (body (s.pruneMicro c)) := by
  unfold State.issue
  rw [hf]
  simp [hrun, h0, State.await_nil _ hw, State.multDue_nil hm, State.misplacedWord_none k hb hr hl, hr, hn]

/-- No load waits: showing loads clears nothing but the empty lists. -/
theorem State.showLoads_nil {s : State} {c : Nat} (h : (s.flow c).pend = []) (ha : (s.flow c).aLoads = []) :
    s.showLoads c = s.setFlow c { s.flow c with pend := [], aLoads := [] } := by
  simp [State.showLoads, h, ha]

/-- At loop depth 0 no word ends a loop. -/
theorem SpecSt.loopEnd_zero (p : SpecSt) (st : Word) (n pc : Nat) (h : stLdep st = 0) : p.loopEnd st n pc = (p, st, none) := by
  cases n <;> simp [SpecSt.loopEnd, h]

end Sys2Proof.Machine
end

