-- ==== Sys2Proof/Laws/Shared.lean ====
section
/-! SUPPORT. What the operations that many commands share can do: event records, messages of the ring, replies, jobs of the queue engine,
requests for a power domain. -/

namespace Sys2Proof.Machine

/-! ### Records for queues -/

theorem State.qBroadcast_none {s : State} {ty : Nat} (h : s.activeQueues ty = []) (ws : List Word) : s.qBroadcast ty ws = s := by
  simp [State.qBroadcast, h]

/-- With no ACTIVE queue of type EVENT an event record goes nowhere. -/
theorem State.event_none {s : State} (h : s.activeQueues 5 = []) (code unit : Nat) (ws : List Word) : s.event code unit ws = s :=
  State.qBroadcast_none h _

/-- An entry goes to memory or is dropped; the canonical form stays. -/
theorem State.qPut_wf {s : State} (q : Nat) (ws : List Word) (h : Memory.wf s.mem = true) : Memory.wf (s.qPut q ws).mem = true := by
  simpa [State.qPut] using State.memPut_wf h

theorem State.qPutOrDrop_wf {s : State} (q : Nat) (ws : List Word) (h : Memory.wf s.mem = true) :
    Memory.wf (s.qPutOrDrop q ws).mem = true := by
  unfold State.qPutOrDrop
  split
  · exact h
  · split
    · simpa [State.qDrop] using h
    · exact State.qPut_wf q ws h

theorem State.qBroadcast_wf {s : State} (ty : Nat) (ws : List Word) (h : Memory.wf s.mem = true) :
    Memory.wf (s.qBroadcast ty ws).mem = true := by
  unfold State.qBroadcast
  generalize s.activeQueues ty = l
  induction l generalizing s with
  | nil => exact h
  | cons q l ih => exact ih (State.qPutOrDrop_wf q ws h)

theorem State.event_wf {s : State} (code unit : Nat) (ws : List Word) (h : Memory.wf s.mem = true) :
    Memory.wf (s.event code unit ws).mem = true := State.qBroadcast_wf _ _ h

/-! ### Repetition over units -/

/-- What every step of a repetition keeps, the repetition keeps. -/
theorem forN_keeps {P : State → Prop} {f : State → Nat → State} (n : Nat) (h : ∀ s i, P s → P (f s i)) {s : State} (hs : P s) :
    P (forN n f s) := by
  unfold forN
  generalize List.range n = l
  induction l generalizing s with
  | nil => exact hs
  | cons i l ih => exact ih (h s i hs)

/-! ### Messages of the ring -/

/-- Sending changes nothing but the outputs of the ring ports. -/
theorem State.sendOn_ports (s : State) (i : Nat) (m : RingMsg) :
    ∃ l, s.sendOn i m = { s with ring := { s.ring with ports := l } } := by
  unfold State.sendOn
  dsimp only
  split
  · exact ⟨s.ring.ports, rfl⟩
  · split
    · exact ⟨_, rfl⟩
    · split <;> exact ⟨_, rfl⟩

theorem State.sendAll_ports (s : State) (dirs : List Nat) (m : RingMsg) :
    ∃ l, dirs.foldl (fun s o => if 0 < s.limit m o then s.sendOn o m else s) s = { s with ring := { s.ring with ports := l } } := by
  induction dirs generalizing s with
  | nil => exact ⟨s.ring.ports, rfl⟩
  | cons o dirs ih =>
    rw [List.foldl_cons]
    by_cases h : 0 < s.limit m o
    · obtain ⟨l, e⟩ := s.sendOn_ports o m
      obtain ⟨k, e'⟩ := ih (s.sendOn o m)
      rw [if_pos h, e', e]
      exact ⟨k, rfl⟩
    · rw [if_neg h]; exact ih s

/-- A message that the device originates enters outputs of its ring ports, and nothing else changes (R390, R391). -/
theorem State.originate_ports (s : State) (m : RingMsg) : ∃ l, s.originate m = { s with ring := { s.ring with ports := l } } := by
  unfold State.originate
  split
  · exact ⟨s.ring.ports, rfl⟩
  · split
    · cases s.route m.dst.toNat with
      | none => exact ⟨s.ring.ports, rfl⟩
      | some o => exact s.sendOn_ports o m
    · exact s.sendAll_ports _ m

@[simp] theorem State.originate_mem (s : State) (m : RingMsg) : (s.originate m).mem = s.mem := by
  obtain ⟨l, e⟩ := s.originate_ports m; rw [e]
@[simp] theorem State.originate_regs (s : State) (m : RingMsg) : (s.originate m).regs = s.regs := by
  obtain ⟨l, e⟩ := s.originate_ports m; rw [e]
@[simp] theorem State.originate_errs (s : State) (m : RingMsg) : (s.originate m).errs = s.errs := by
  obtain ⟨l, e⟩ := s.originate_ports m; rw [e]
@[simp] theorem State.originate_queues (s : State) (m : RingMsg) : (s.originate m).queues = s.queues := by
  obtain ⟨l, e⟩ := s.originate_ports m; rw [e]

/-! ### Replies of host-assisted functions -/

/-- Taking a reply from its completion queue changes the queue's index and its record of completed entries only. -/
theorem State.cqTake_cases (s : State) (f : Nat) :
    s.cqTake f = s ∨ ∃ x v, s.cqTake f =
      (s.setQueue (s.field (oQue (f * 0x10)) 46 32) x).setField (oQidx (s.field (oQue (f * 0x10)) 46 32)) 63 32 v := by
  unfold State.cqTake
  dsimp only
  split
  · exact .inr ⟨_, _, rfl⟩
  · exact .inl rfl

@[simp] theorem State.cqTake_mem (s : State) (f : Nat) : (s.cqTake f).mem = s.mem := by
  rcases s.cqTake_cases f with e | ⟨x, v, e⟩ <;> simp [e]

@[simp] theorem State.cqTake_ha (s : State) (f : Nat) : (s.cqTake f).ha = s.ha := by
  rcases s.cqTake_cases f with e | ⟨x, v, e⟩ <;> simp [e]

/-- No other register than the index of the completion queue changes. -/
theorem State.cqTake_reg {s : State} {f o : Nat} (h : o ≠ oQidx (s.field (oQue (f * 0x10)) 46 32)) :
    (s.cqTake f).reg o = s.reg o := by
  rcases s.cqTake_cases f with e | ⟨x, v, e⟩ <;> rw [e]
  simp [h]

/-! ### Jobs of the queue engine -/

@[simp] theorem State.queue_setField (s : State) (o hi lo v q : Nat) : (s.setField o hi lo v).queue q = s.queue q := rfl

/-- A running job that ends: the queue runs none, and its result waits behind those of the jobs that ended before it. -/
theorem State.jobEnd_queue {s : State} {q : Nat} {j : JobSt} (h : (s.queue q).busy = some j) (status : Nat) (result : Word) :
    ((s.jobEnd q status result).queue q).busy = none ∧
    ((s.jobEnd q status result).queue q).ended = (s.queue q).ended ++ [(j.idx, status, result)] ∧
    (s.jobEnd q status result).mem = s.mem ∧ (s.jobEnd q status result).flash = s.flash := by
  have hd : ∀ (t : State) (k : Nat), (t.dropPend q).queue k = t.queue k := fun _ _ => rfl
  have hm : ∀ t : State, (t.dropPend q).mem = t.mem := fun _ => rfl
  have hf : ∀ t : State, (t.dropPend q).flash = t.flash := fun _ => rfl
  unfold State.jobEnd
  rw [h]
  dsimp only
  split <;> simp [State.ciUp, State.jobEnded, hd, hm, hf]

/-! ### Requests for a domain -/

/-- A transition to HOT begins: the domain shows it, and nothing else changes (R498). A cluster's cores first count the cycles that have
passed. -/
theorem State.domBegin_hot (s : State) {d : Nat} (h : 32 ≤ d) :
    s.domBegin d 2 = (s.setPwr { s.pwr with going := sset none d (some 2) s.pwr.going }).setField (oDom d) 59 59 1 := by
  simp [State.domBegin, Nat.not_lt.mpr h]

end Sys2Proof.Machine
end

