-- ==== Sys2Proof/Tests/Slice0.lean ====
section
/-! SUPPORT. Small checks: ill-formed commands are refused by `Instr.wf`; for every statement, states and operands that meet the
hypotheses of its clauses, with what one step does there. -/

namespace Sys2Proof.Tests

open Sys2Proof Sys2Proof.Machine Sys2Proof.Claims

set_option Elab.async false

/-- The command answers a next state of which `f` holds. -/
def gives (i : Instr) (s : State) (f : State → Bool) : Bool :=
  match exec i s with
  | .next u => f u
  | _ => false

/-- The command answers this next state. -/
def givesS (i : Instr) (s t : State) : Bool := gives i s fun u => decide (u = t)

/-! ### Ill-formed commands -/

def msg (len : Nat) (body : List Word) : RingMsg :=
  { cls := 4, len := BitVec.ofNat 5 len, scope := 3, radX := 0, radY := 0, typ := 0, dst := 0, src := 0, seq := 0, crc := 0, body := body }

theorem wf_misaligned : Instr.wf (.misalignedRegisterAccess 0 8 8 true 0) = false ∧ Instr.wf (.misalignedRegisterAccess 0 8 0 true 0) = false ∧
    Instr.wf (.misalignedRegisterAccess 0 8 9 true 0) = false ∧ Instr.wf (.misalignedRegisterAccess 0 (2 ^ 26 - 3) 4 true 0) = false ∧
    Instr.wf (.misalignedRegisterAccess 0 4 8 true 0) = true := by decide +kernel

theorem wf_checks :
    Instr.wf (.drainComplete 0 { lanes := [(1, 2), (1, 2)], voters := [], stitches := [], masthead := false }) = false ∧
    Instr.wf (.drainComplete 0 { lanes := [], voters := [3, 3], stitches := [], masthead := false }) = false ∧
    Instr.wf (.frameOverrun 0 { lanes := [], voters := [], stitches := [4, 4], masthead := false }) = false ∧
    Instr.wf (.frameOverrun 0 { lanes := [(1, 1), (1, 2)], voters := [3], stitches := [4], masthead := false }) = true := by
  decide +kernel

theorem wf_messages : ∀ f ∈ [Instr.tsync 0 0, .decision 0 0, .cand 0 0, .done 0 0, .loss 0 0, .fcrel 0 0, .hello 0 0, .leave 0 0,
    .probe 0 0, .conflict 0 0, .rd 0 0, .wr 0 0, .ack 0 0, .bwrite 0 0, .bdone 0 0],
    Instr.wf (f (msg 1 [1])) = false ∧ Instr.wf (f (msg 2 [1, 2])) = false ∧ Instr.wf (f (msg 1 [1, 2])) = true := by decide +kernel

theorem wf_replies : ∀ f ∈ [Instr.hitDecodeReply 0, .orderingReply 0, .ruleEvalReply 0, .combineReply 0, .heapKeepReply 0,
    .linkCalReply 0, .slowPathReply 0], Instr.wf (f [1, 2, 3]) = false ∧ Instr.wf (f (List.replicate 8 1)) = true := by decide +kernel

theorem wf_memory : Instr.wf (.memoryWrite 0 0 0 0 (List.replicate 8 1)) = false ∧ Instr.wf (.memoryWrite 0 0 0 1 [1]) = false ∧
    Instr.wf (.memoryWrite 0 0 0 1 (List.replicate 8 1)) = true ∧ Instr.wf (.pageWalk 0 .load 0x800000000000 false) = false ∧
    Instr.wf (.pageWalk 0 .load 0x7FFFFFFFFFFF false) = true := by decide +kernel

theorem wf_ring : Instr.wf (.fecCodeword 0 0 ⟨545, 0⟩) = false ∧ Instr.wf (.fecCodeword 0 0 ⟨20, 21⟩) = false ∧
    Instr.wf (.fecCodeword 0 0 ⟨20, 20⟩) = true ∧ Instr.wf (.ringIdle 0 0 ⟨0, 1⟩ 1) = false ∧ Instr.wf (.ringIdle 0 0 ⟨0, 6⟩ 1) = false ∧
    Instr.wf (.ringIdle 0 0 ⟨0, 2⟩ 641) = false ∧ Instr.wf (.ringIdle 0 0 ⟨0, 5⟩ 640) = true := by
  decide +kernel

theorem wf_rest : Instr.wf (.cxlLinkTrained 0 0 1) = false ∧ Instr.wf (.cxlLinkTrained 0 64 0) = false ∧
    Instr.wf (.cxlLinkTrained 0 64 17) = false ∧ Instr.wf (.getCertificate .doe 16 0 0) = false ∧
    Instr.wf (.getCertificate .doe 0 (2 ^ 32) 0) = false ∧ Instr.wf (.getCertificate .doe 0 0 (2 ^ 32)) = false ∧
    Instr.wf (.fuseDone 0 [1]) = false ∧ Instr.wf (.temperatureSample 0 [1]) = false ∧ Instr.wf (.tdcCalDone 0 [1, 1]) = false ∧
    Instr.wf (.tdcCalDone 0 [1, 2]) = true := by decide +kernel

/-! ### States -/

/-- Bring domain `d` to HOT. -/
def hot (s : State) (d : Nat) : State := s.setField (oPwr (0x100 + d * 8)) 61 60 2

/-- The device in operation: switch closed, start-up done, controllers HOT. -/
def dev : State :=
  let s := { State.reset with
    pwr := { PwrSt.reset with ao := true, inRange := true, enable := true, main := true }
    boot := { BootSt.reset with warm := true, locked := true }, memActive := true }
  ((hot (hot (hot (hot s 80) 81) 82) 83).setField (oDev 8) 63 63 1).setField (oDev 8) 61 58 9

/-- `dev` in a frame that began at time 0. -/
def frm : State := { dev with frame := { phase := .running, count := 1, start := 0, stop := 0, next := none, clear := 0 } }

/-- `InL2` as a check. -/
def inL2b (s : State) (k pa : Nat) : Bool :=
  match s.l2Find k (pa / 64) with
  | none => false
  | some w => match s.l2At k (pa / 64) w with
    | none => false
    | some x => x.one == 0 && x.two == 0 && x.lost == 0 && x.behind.isNone

theorem inL2_of {s : State} {k pa : Nat} (h : inL2b s k pa = true) : InL2 s k pa := by
  unfold inL2b at h
  split at h
  · cases h
  · split at h
    · cases h
    · simp at h; exact ⟨_, _, ‹_›, ‹_›, h.1.1.1, h.1.1.2, h.1.2, h.2⟩

/-- The L2 of cluster `k` holds line `line`, good. -/
def inL2 (k line : Nat) (s : State) : State :=
  s.l2Set k line 0 (some { line := line, dirty := false, mark := false, behind := none, one := 0, two := 0, lost := 0 })

/-! ### The block as a whole -/

/-- One step answers a next state of which `f` holds. -/
def stepGives (s : State) (f : State → Bool) : Bool :=
  match step s with
  | .next u => f u
  | _ => false

theorem witness_StepExecutesTheFrontCommand : stepGives { dev with pending := [.deviceReset 5 0, .clearFirst 6] }
    (fun u => decide (u = { dev.at 5 with pending := [.clearFirst 6] })) = true := by decide +kernel

theorem witness_EmptyQueueIdles : dev.pending = [] ∧ stepGives dev (fun u => decide (u = dev)) = true := by decide +kernel

theorem witness_CommandsKeepTheQueue : gives (.clearLog 5) { dev with pending := [.clearFirst 6] } (fun u => u.pending = [.clearFirst 6]) = true := by
  decide +kernel

/-- A write of device memory by the host, waiting at the front of the queue. -/
def oneWrite : State :=
  { dev with
    pending := [.hostMemoryAccess 5 0x1000 true 7], cxl := { CxlSt.reset with up := true }
    world := { WorldSt.reset with regions := [(0, 16)] } }

theorem witness_StepKeepsMemoryCanonical : Memory.wf oneWrite.mem = true ∧
    stepGives oneWrite (fun u => mrdW 0x1000 u.mem == 7 && decide (Memory.wf u.mem = true)) = true := by decide +kernel

theorem witness_StepKeepsRegistersCanonical : swf regReset oneWrite.regs = true ∧ swf regReset oneWrite.eff = true ∧
    stepGives { oneWrite with pending := [.registerWrite 5 .host 0x10030 9] }
      (fun u => u.reg (oDev 0x30) == 9 && swf regReset u.regs && swf regReset u.eff) = true := by decide +kernel

theorem witness_ResetState : State.reset.domain 91 = 0 ∧ State.reset.domain 92 = 2 ∧ State.reset.domain 95 = 2 ∧
    mrdW 0x2FFFFFFFFFF8 State.reset.mem = uninit := by decide +kernel

/-! ### Registers -/

theorem witness_RegisterWritesFollowAccessCodes :
    (∀ o ∈ [oDev 0x30, oTmg 0x28, 0x300010, 0x2007FF8], o % 8 = 0) ∧ dev.pwr.main = true ∧ dev.boot.locked = true ∧
    gives (.registerWrite 3 .host 0x10030 5) dev (fun u => decide (u = (dev.at 3).setReg 0x10030 5)) = true ∧
    (fieldsOf (oMst 0)).map (·.acc) = [.rw, .rw, .rw, .rw] ∧ regWritten false (oMst 0) 0 0xC000000000000000 = 0 ∧
    regWritten false (oMst 0) 0 0x8000000000000001 = 0x8000000000000000 ∧
    (fieldsOf (oQue 0x110)).map (·.acc) = [.rw1c] ∧ regWritten false (oQue 0x110) 0xC000000000000005 0x8000000000000000 = 0x4000000000000005 := by
  decide +kernel

theorem witness_plainReg_dev : plainReg (oDev 0x30) := by unfold plainReg; decide +kernel
theorem witness_plainReg_tmg : plainReg (oTmg 0x28) := by unfold plainReg; decide +kernel
theorem witness_plainReg_row : plainReg 0x300010 := by unfold plainReg; decide +kernel
theorem witness_plainReg_msix : plainReg 0x2007FF8 := by unfold plainReg; decide +kernel

theorem witness_MisalignedAccessHasNoEffect :
    gives (.misalignedRegisterAccess 3 0x10034 4 true 5) dev (fun u => u.regs = dev.regs ∧ u.errs.length = 1 ∧ u.rdata = dev.rdata) = true ∧
    gives (.misalignedRegisterAccess 3 0x10034 8 false 5) dev (fun u => u.regs = dev.regs ∧ u.rdata = BitVec.allOnes 64) = true ∧
    gives (.registerWrite 3 .ring 0x10031 5) dev (fun u => u.regs = dev.regs ∧ u.errs.map (·.src) = [11]) = true := by decide +kernel

/-! ### Frames -/

/-- Self-checks that find nothing. -/
def clean : DrainChecks := { lanes := [], voters := [], stitches := [], masthead := false }

/-- A slice that waits. -/
def slice0 : Slice :=
  { key := { region := 5, idx := 0 }, st := .waiting, ended := false, prov := false, unravels := 0, holder := none, ckpt := none,
    staged := [], late := false, rebuild := false, begun := 0, lost := false, mark := 0, markChunk := 0, taken := [] }

/-- `frm` after its end, every slot decided. -/
def drn : State := { frm with frame := { frm.frame with phase := .draining }, mast := { MastSt.reset with next := frm.slotCount } }

def ended : State := drn.at (usT 8000)

theorem witness_FrameEndsInDrainAndReset :
    (frm.frame.phase = .running ∧ frm.endT ≤ usT 8000 ∧
      gives (.frameEnd (usT 8000)) frm (fun u => u.frame.phase = .draining ∧ u.irqBind = 1) = true) ∧
    (ended.frameEnd.roDrainAll.frame.phase = .draining ∧ ended.frameEnd.roDrainAll.drained = true ∧ drn.time.step = none ∧
      gives (.drainComplete (usT 8000) clean) drn (fun u => u.frame.phase = .resetting) = true) ∧
    (let s := drn.setClu 3 { CluSt.reset with slices := [slice0] }
     (s.at (usT 8000)).frameEnd.roDrainAll.frame.phase = .draining ∧ (s.at (usT 8000)).frameEnd.roDrainAll.drained = false ∧
      s.endT + s.drainD ≤ usT 8000 ∧ s.time.step = none ∧
      gives (.frameOverrun (usT 8000) clean) s (fun u => u.frame.phase = .resetting ∧ (u.clu 3).slices = [] ∧
        u.errs.map (fun e => (e.cls, e.src, e.code)) = [(1, 8, 1)]) = true) := by
  decide +kernel

/-- MARK mode between frames, the first mark time not yet known. -/
def mark : State := dev.setField (oTmg 0x18) 63 63 1

theorem witness_castOn :
    let s := { dev with frame := { dev.frame with next := some 10 } }
    s.frame.next = some 10 ∧ s.castOn = false ∧ 10 * unitT ≤ 2000 ∧ s.frame.clear * unitT ≤ 2000 := by decide +kernel

theorem witness_frameMark : MarkAccepted mark 0x70 ∧ mark.field (oTmg 0) 56 56 = 0 ∧ devUnits 15000 = 0x78 ∧
    gives (.frameMark 15000 5000) mark (fun u => u.frame.next = some 0x70 ∧ u.field (oTmg 0x48) 55 0 = 0x70) = true ∧
    gives (.frameMark 15000 4999) mark (fun u => decide (u = (mark.at 15000).bump (oTmg 0x628))) = true := by
  unfold MarkAccepted; decide +kernel

theorem witness_fmsoft :
    let s := mark.setField (oTmg 0) 56 56 1
    s.field (oTmg 0) 56 56 = 1 ∧ MarkAccepted s 9 ∧ gives (.fmsoftWrite 7 9) s (fun u => u.frame.next = some 9) = true := by
  unfold MarkAccepted; decide +kernel

/-! ### Front-end ports -/

/-- A state with port 5 as given. -/
def withPort (s : State) (x : PortSt) : State := s.setPort 5 x

/-- A port in a link state. -/
def inLink (l : Link) : PortSt := { PortSt.reset with link := l }

/-- Descriptor 0 makes hit ports, as of the last cast-on and now. -/
def hitDesc (s : State) : State :=
  let a : Word := setBf (setBf (setBf (setBf 0 63 62 1) 45 43 1) 23 19 28) 18 15 0
  { s.setReg (oFmt 0) a with eff := [(oFmt 0, a)] }

/-- Descriptor 0 makes readout ports. -/
def roDesc (s : State) : State := { s.setReg (oFmt 0) (setBf 0 63 62 2) with eff := [(oFmt 0, setBf 0 63 62 2)] }

/-- The port's link state after a command. -/
def linkOf (i : Instr) (s : State) : Option Link :=
  match exec i s with
  | .next u => some (u.port 5).link
  | _ => none

theorem witness_links :
    linkOf (.blockLockGained 9 5) (withPort dev (inLink .acquire)) = some .train ∧
    linkOf (.blockLockLost 9 5) (withPort dev (inLink .train)) = some .acquire ∧
    linkOf (.prtRetrain 9 5) (withPort dev (inLink .ready)) = some .acquire ∧
    linkOf (.status 9 5 false true false 0) (withPort dev (inLink .sync)) = some .acquire ∧
    linkOf (.trainTimeout (usT 1000) 5) (withPort dev (inLink .train)) = some .acquire ∧
    linkOf (.trainTimeout (usT 1000 - 1) 5) (withPort dev (inLink .train)) = some .train ∧
    linkOf (.syncTimeout (usT 64 + unitT + 1) 5) (withPort dev { inLink .sync with syncs := 4, syncEff := some 1 }) = some .acquire ∧
    linkOf (.uplinkTrain (16 * stitchT) 5 7 8 true) (withPort (hitDesc dev) { inLink .train with trainAck := 15, ackAt := some 0 }) = some .sync := by
  decide +kernel

theorem witness_switches :
    linkOf (.prtEnable 9 5 false) (withPort dev (inLink .up)) = some .off ∧
    linkOf (.prtForceDead 9 5 true) (withPort dev (inLink .sync)) = some .dead ∧
    linkOf (.prtForceDead 9 5 false) (withPort dev (inLink .sync)) = some .sync ∧
    (let s := hot (hot (hitDesc dev) 64) 32
     (s.port 5).link = .off ∧ ((s.at 9).setField (oPort 5 0) 0 0 1).mayLeaveOff 5 = true ∧
      linkOf (.prtEnable 9 5 true) s = some .acquire ∧
      linkOf (.prtEnable 9 5 true) (s.setField (oPort 5 0) 1 1 1) = some .dead) := by
  decide +kernel

theorem witness_lossOfLock :
    let s := withPort (hitDesc frm) { inLink .up with closed := false }
    (s.port 5).link = .up ∧ s.isReadout 5 = false ∧ s.castOn = true ∧ (s.port 5).closed = false ∧ (s.port 5).cmds = [] ∧
    s.activeQueues 5 = [] ∧ (s.reg (oPort 5 0x158)).toNat < 2 ^ 64 - 1 ∧
    gives (.blockLockLost 9 5) s (fun u => (u.port 5).closed = true ∧ u.field (oMst 0x30) 0 0 = 1 ∧ u.field (oPort 5 8) 7 7 = 1 ∧
      (u.reg (oPort 5 0x158)).toNat = 1 ∧ u.errs.map (fun e => (e.cls, e.src, e.unit, e.code)) = [(1, 0, 5, 1)]) = true := by
  decide +kernel

theorem witness_uplinkBlocks :
    (let s := withPort (hitDesc dev) { inLink .ready with trainRx := 3 }
     (s.port 5).hears = true ∧ s.isReadout 5 = false ∧
      gives (.uplinkIdle 9 5) s (fun u => (u.reg (oPort 5 0x100)).toNat = 1 ∧ (u.port 5).trainRx = 0) = true ∧
      gives (.scReply 9 5 0x123) s (fun u => u.field (oPort 5 0x50) 55 8 = 0x123 ∧ u.field (oPort 5 0x50) 63 63 = 1) = true ∧
      gives (.credit 9 5 7) s (fun u => decide (u = ((s.at 9).setPort 5 (inLink .ready)).bump (oPort 5 0x120))) = true) ∧
    (let s := withPort (roDesc dev) { inLink .up with credits := 65530 }
     (s.port 5).hears = true ∧ s.isReadout 5 = true ∧ gives (.credit 9 5 7) s (fun u => (u.port 5).credits = 65535) = true ∧
      gives (.tick 9 5 7) s (fun u => decide (u = (s.at 9).bump (oPort 5 0x120))) = true ∧
      gives (.scReply 9 5 7) s (fun u => decide (u = (s.at 9).bump (oPort 5 0x120))) = true) := by
  decide +kernel

theorem witness_invalidBlocks :
    let s := withPort (hitDesc dev) (inLink .ready)
    (s.port 5).hears = true ∧ crc8 1 ≠ bf 1 7 0 ∧
    gives (.invalidUplinkBlock 9 5 3 0) s (fun u => (u.reg (oPort 5 0x118)).toNat = 1) = true ∧
    gives (.invalidUplinkBlock 9 5 2 1) s (fun u => (u.reg (oPort 5 0x110)).toNat = 1) = true ∧
    (dCheck ((s.setReg (oFmt 0) 0).descA 5) = 0) ∧
    (crc8 0 = bf 0 7 0 ∧ uplinkKnown (s.isReadout 5) 0 = false) ∧
    gives (.invalidUplinkBlock 9 5 2 0) s (fun u => (u.reg (oPort 5 0x120)).toNat = 1) = true := by
  decide +kernel

/-- A TICK of time `raw` that arrived at `arr`. -/
def tickAt (raw arr : Nat) : Elastic := { data := false, block := setBf (setBf 0 63 56 0x2D) 55 28 raw, arr := arr, hit2 := false }

theorem witness_buffer :
    (let s := withPort (hitDesc frm) { inLink .up with closed := false }
     (s.port 5).link = .up ∧ s.isHit 5 = true ∧ (s.port 5).closed = false ∧ dCheck (s.descA 5) = 0 ∧ (s.port 5).buf.length < 3125 ∧
      gives (.hitBlock 4000 5 9) s (fun u => (u.port 5).buf = [{ data := true, block := 9, arr := 2, hit2 := false }]) = true) ∧
    (let s := withPort (hitDesc frm) { inLink .up with closed := false, buf := [tickAt 1 1] }
     (s.port 5).buf = [] ++ [tickAt 1 1] ∧ (tickAt 1 1).data = false ∧
      gives (.tick 4000 5 2) s (fun u => (u.port 5).buf = [tickAt 2 2]) = true) ∧
    (let s := withPort (hitDesc frm) (inLink .ready)
     (s.port 5).link = .ready ∧ s.isHit 5 = true ∧ dCheck (s.descA 5) = 0 ∧ s.frame.count ≠ 0 ∧
      s.entryTime 5 { data := true, block := 9, arr := fineUnits 4000, hit2 := false } < s.stopFine ∧
      gives (.hitBlock 4000 5 9) s (fun u => (u.reg (oPort 5 0x140)).toNat = 1) = true) := by
  decide +kernel

/-- Port 5 UP with an open stitch, a full elastic buffer and no TICK at its end. -/
def full : State :=
  withPort (hitDesc frm) { inLink .up with
    closed := false, buf := List.replicate 3125 { data := true, block := 9, arr := 2, hit2 := false } }

theorem witness_fullBuffer : (full.port 5).buf.length = 3125 ∧ full.isReadout 5 = false ∧
    gives (.hitBlock 4000 5 9) full (fun u => (u.port 5).buf.length = 3125 ∧ (u.reg (oPort 5 0x148)).toNat = 1) = true ∧
    gives (.tick 4000 5 2) full (fun u => (u.port 5).buf.length = 3125 ∧ (u.reg (oPort 5 0x148)).toNat = 1) = true := by decide +kernel

theorem witness_judge :
    (let s := withPort (hitDesc dev) (inLink .ready)
     s.isHit 5 = true ∧ dCheck (s.descA 5) = 0 ∧ s.judge 5 (dataEntry 4000 9) = .gap ∧
      gives (.hitBlock 4000 5 9) s (fun u => (u.port 5).buf = [] ∧ (u.reg (oPort 5 0x138)).toNat = 1) = true) ∧
    (let s := withPort (hitDesc { dev with frame := { dev.frame with next := some 0 } }) (inLink .ready)
     s.judge 5 (dataEntry 4000 0x7000000000) = .store ∧ (s.port 5).buf.length < 3125 ∧
      gives (.hitBlock 4000 5 0x7000000000) s (fun u => (u.port 5).buf = [dataEntry 4000 0x7000000000]) = true) := by decide +kernel

/-- Port 5 UP with an open stitch and a TICK of time 100 at the head of its buffer, `pt` being its port time. -/
def pipe (pt : Option Int) : State :=
  withPort (hitDesc frm) { inLink .up with closed := false, buf := [tickAt 100 100], portTime := pt }

theorem witness_PresentsTick : PresentsTick 9000000 5 (pipe none) (tickAt 100 100) [] := by
  unfold PresentsTick; decide +kernel

theorem witness_pipeline :
    (pipe none).classify 5 ((pipe none).entryTime 5 (tickAt 100 100)) = .pass ∧
    gives (.stitchPipeline 9000000 5 false) (pipe none) (fun u => (u.port 5).portTime = some 100 ∧ (u.port 5).buf = [] ∧
      (u.row 0).inbox = [(9000000 + 5 * stitchT, 5, .time 1600)] ∧ u.regs = (pipe none).regs) = true ∧
    (pipe (some 101)).classify 5 ((pipe (some 101)).entryTime 5 (tickAt 100 100)) = .order ∧
    gives (.stitchPipeline 9000000 5 false) (pipe (some 101)) (fun u => (u.port 5).portTime = some 101 ∧ (u.port 5).buf = [] ∧
      (u.reg (oPort 5 0x130)).toNat = 1) = true ∧
    (let s := withPort { pipe none with frame := { frm.frame with start := 1000000 } } { (pipe none).port 5 with portTime := none }
     s.classify 5 (s.entryTime 5 (tickAt 100 100)) = .gap ∧
      gives (.stitchPipeline 9000000 5 false) s (fun u => (u.port 5).buf = [] ∧ (u.reg (oPort 5 0x138)).toNat = 1) = true) ∧
    (let s := { pipe none with frame := { frm.frame with start := 0 }, regs := (pipe none).regs }
     let s := withPort s { s.port 5 with buf := [tickAt 64000 64000] }
     s.classify 5 (s.entryTime 5 (tickAt 64000 64000)) = .close ∧ s.lenL = 64000 ∧
      gives (.stitchPipeline 900000000 5 false) s (fun u => (u.port 5).closed = true ∧ (u.port 5).buf = [tickAt 64000 64000] ∧
        (u.row 0).inbox = [(900000000 + 5 * stitchT, 5, .close)]) = true) := by
  decide +kernel

theorem witness_stitchFail :
    let s := withPort (hitDesc dev) (inLink .up)
    (s.port 5).link ≠ .off ∧ s.activeQueues 5 = [] ∧
    gives (.stitchPipeline 9 5 true) s (fun u => (u.port 5).link = .dead ∧ (u.port 5).failed = true ∧
      u.errs.any (fun e => e.num == 0 && e.cls == 2 && e.src == 0 && e.unit == 5 && e.code == 8)) = true := by
  decide +kernel

theorem witness_SyncAndCalibration :
    (let s := withPort (hitDesc dev) (inLink .sync)
     (s.port 5).link = .sync ∧ (s.port 5).syncs = 0 ∧
      gives (.syncCommand 9 5) s (fun u => (u.port 5).syncs = 1 ∧ (u.port 5).syncEff = some (2 ^ 32)) = true) ∧
    (let s := withPort (hitDesc dev) { inLink .ready with calRun := true, calRound := 1, calSent := 3, calNext := 250000000 }
     (s.port 5).calRun = true ∧ (s.port 5).calSent < 16 ∧
      gives (.echoCommand 9 5) s (fun u => (u.port 5).calSent = 4 ∧ (u.port 5).echoes = [(19, 250000000)]) = true) ∧
    (let s := withPort (hitDesc dev) { inLink .ready with calRun := true, calRound := 1, calSent := 1, echoes := [(16, 1000)] }
     (s.port 5).hears = true ∧ s.isReadout 5 = false ∧ (s.port 5).calRun = true ∧ (s.port 5).echoes = [((16 : BitVec 8).toNat, 1000)] ∧
      (s.port 5).rtts = [] ∧ (5000 : Int) ≤ 1000 + (usT 64 : Int) ∧
      gives (.echo 5000 5 16 2) s (fun u => (u.port 5).echoes = [] ∧ (u.port 5).rtts = [39 * 128 - 1000 - 256]) = true ∧
      (s.port 5).calRound < 4 ∧ (16, 1000) ∈ (s.port 5).echoes ∧ (1000 : Int) + (usT 64 : Int) < (usT 65 : Int) ∧
      gives (.echoTimeout (usT 65) 5) s (fun u => (u.port 5).calRound = 2 ∧ (u.port 5).calSent = 0 ∧ (u.port 5).echoes = []) = true) ∧
    (let s := withPort (hitDesc frm) (inLink .up)
     s.isReadout 5 = false ∧ (s.port 5).calRun = false ∧ (s.port 5).link = .up ∧ s.castOn = true ∧
      gives (.calStart 9 5) s (fun u => (u.port 5).calReq = true ∧ u.field (oPort 5 0x28) 58 56 = 2) = true) ∧
    (let s := withPort (hitDesc dev) (inLink .up)
     s.castOn = false ∧ gives (.calStart 9 5) s (fun u => (u.port 5).calRun = true ∧ (u.port 5).calRound = 1) = true) := by
  decide +kernel

/-- A hit port that takes fast commands of every class; FCTIME 3 µs on. -/
def fcPort : State :=
  let s := hitDesc dev
  let s := { s.setReg (oFmt 8) (setBf 0 26 19 255) with eff := s.eff ++ [(oFmt 8, setBf 0 26 19 255)] }
  withPort (s.setField (oPort 5 0x38) 55 0 3072000) (inLink .up)

theorem witness_DownlinkCommands :
    (let s := fcPort
     (s.port 5).cmds = [] ∧ (s.port 5).link = .up ∧ softClass (bf 0x2800000000000000 63 58) = some (3, 3) ∧
      bit (dFcMask (s.descB 5)) 3 = true ∧ 9 + usT 1 ≤ s.field (oPort 5 0x38) 55 0 * unitT ∧
      gives (.fcsend 9 5 0x2800000000000000) s (fun u => (u.port 5).cmds.map (fun c => (c.code, c.teff, c.soft)) = [(0x0A, 384000000, true)]) = true ∧
      softClass (bf 0x2800000000000000 63 58) ≠ none ∧ s.field (oPort 5 0x38) 55 0 * unitT < 384000000 + usT 1 ∧
      gives (.fcsend 384000000 5 0x2800000000000000) s (fun u => (u.reg (oPort 5 0x150)).toNat = 1) = true ∧
      gives (.fcsend 9 5 0) s (fun u => decide (u = s.at 9)) = true ∧ softClass (bf 0 63 58) = none ∧
      gives (.fcsend 9 5 0x2C000FF000000000) s (fun u => (u.port 5).cmds.map (fun c => (c.code, c.arg)) = [(0x0B, 0)]) = true ∧
      s.isHit 5 = true ∧ gives (.slowControlSend 9 5 0x100) s (fun u => (u.port 5).sent = [(true, withCrc8 0x100)]) = true ∧
      gives (.slowControlSend 9 5 0x100) (withPort s (inLink .ready)) (fun u => (u.port 5).scOut = some (withCrc8 0x100)) = true) ∧
    (let c : FastCmd := { rank := 3, ref := 1, teff := 400000, code := 10, arg := 1, fine := 2, phase := 0, soft := true }
     let s := withPort (hitDesc dev) { inLink .up with cmds := [c] }
     (s.port 5).cmds = [c] ∧ refTicks c.ref c.phase ≤ (327680 : Int) ∧
      gives (.fastCommandDeparture 327680 5) s (fun u => (u.port 5).cmds = [] ∧ (u.port 5).sent.map (·.1) = [false]) = true) := by
  decide +kernel

/-- Queue `q` of type `ty`, ACTIVE, its 16 entries at host address 0x300000000000 + 4096 `page`. -/
def queueOn (s : State) (q ty page : Nat) : State :=
  (((((s.setField (oQcfg q) 63 63 1).setField (oQcfg q) 62 60 ty).setField (oQcfg q) 59 55 4).setField (oQcfg q) 31 30 1).setField
    (oQbase q) 45 12 (0x300000000 + page))

theorem witness_readoutRecordSend :
    let s := withPort (roDesc dev) { inLink .up with credits := 2 }
    let s := (queueOn s 7 1 1).setReg (oQbind 7) (setBf (setBf 0 52 52 1) 51 43 5)
    let s := s.setField (oQidx 7) 63 32 1
    (s.port 5).link = .up ∧ s.isReadout 5 = true ∧ 0 < (s.port 5).credits ∧ (s.port 5).sending = none ∧ s.qState 7 = 1 ∧ s.qType 7 = 1 ∧
    bf (s.reg (oQbind 7)) 52 52 = 1 ∧ bf (s.reg (oQbind 7)) 51 43 = 5 ∧ s.qHost 7 ≠ s.qDev 7 ∧
    gives (.readoutRecordSend 9 5 7) s (fun u => (u.port 5).credits = 1 ∧ u.qHost 7 = 1 ∧ u.qDev 7 = 1 ∧ (u.port 5).sent.length = 10) = true := by
  decide +kernel

/-! ### Rows -/

/-- A state with row 2 as given. -/
def withRow (s : State) (x : RowSt) : State := s.setRow 2 x

/-- A hit word of time `k` (in 15.625 ps). -/
def hitW (k : Nat) : Word := setBf (setBf 0 63 56 0x10) 27 0 k

/-- A hit held in a row. -/
def held (k : Nat) : RowHit := { key := wordKey (hitW k), stream := 1, seq := 0, word := hitW k, region := 5, behind := false, cyc := 0 }

/-- A live stream at time `ts`. -/
def liveAt (ts : Nat) : StreamSt := { StreamSt.reset with ts := ts, live := true }

theorem witness_rowHitArrival :
    let s := fun (rt : Nat) (x : RowIn) => withRow frm { RowSt.reset with rt := rt, inbox := [(5, 1, x)], streams := [(1, liveAt 3)] }
    (quietRow (s 0 .close) 2 ∧ ((s 0 (.hit (hitW 7) 5)).row 2).inbox = [(5, 1, .hit (hitW 7) 5)] ∧ ((s 0 .close).row 2).vstate ≠ 2 ∧
      ((s 0 .close).row 2).flushed = false ∧ ((s 0 .close).row 2).held < 32768 ∧ (0 : Nat) ≤ wordKey (hitW 7) ∧
      gives (.rowHitArrival 9 2) (s 0 (.hit (hitW 7) 5)) (fun u => ((u.row 2).store.map (·.key)) = [112] ∧ (u.row 2).inbox = []) = true) ∧
    (wordKey (hitW 7) < 200 ∧ ((s 200 .close).row 2).line.length < 7 ∧
      gives (.rowHitArrival 9 2) (s 200 (.hit (hitW 7) 5)) (fun u => (u.row 2).store = [] ∧ (u.row 2).picked.length = 1 ∧
        (u.reg (oRow 2 0x108)).toNat = 1) = true) ∧
    (((s 0 (.time 40)).row 2).stream 1).live = true ∧
    gives (.rowHitArrival 9 2) (s 0 (.time 40)) (fun u => ((u.row 2).stream 1).ts = 40) = true ∧
    gives (.rowHitArrival 9 2) (s 0 .close) (fun u => ((u.row 2).stream 1).live = false ∧ ((u.row 2).stream 1).ts = frm.keyL) = true := by
  unfold quietRow; decide +kernel

theorem witness_rowMergeSelect :
    let s := withRow frm { RowSt.reset with rt := 200, store := [held 7, held 8, held 20], streams := [(1, liveAt 200)] }
    let e := withRow frm { RowSt.reset with rt := 200, streams := [(1, liveAt 200)] }
    quietRow s 2 ∧ quietRow e 2 ∧ (s.row 2).copies.length ≤ 14 ∧ (s.row 2).line.length ≤ 5 ∧ (s.row 2).lanesOff = 0 ∧ (s.row 2).vstate ≠ 2 ∧
    gives (.rowMergeSelect 9 2 0 false) s (fun u => (u.row 2).store = [held 20] ∧ (u.row 2).picked.map (·.key) = [112, 128] ∧
      (u.row 2).line.length = 2) = true ∧
    (e.row 2).vstate = 0 ∧ (e.row 2).store = [] ∧ (e.row 2).line = [] ∧
    gives (.rowMergeSelect 9 2 1 false) e (fun u => (u.row 2).vstate = 1 ∧ (u.row 2).lanesOff = 1 ∧
      u.errs.map (fun e => (e.cls, e.src, e.unit, e.code)) = [(0, 1, 2, 4)]) = true ∧
    gives (.rowMergeSelect 9 2 3 false) e (fun u => (u.row 2).vstate = 2 ∧ u.field (oMst 0x30) 2 2 = 1 ∧
      (u.errs.getLast?.map fun e => (e.cls, e.src, e.unit, e.code)) = some (2, 1, 2, 5)) = true ∧
    gives (.rowMergeSelect 9 2 0 true) s (fun u => (u.row 2).vstate = 2 ∧ (u.row 2).store = [] ∧ u.field (oMst 0x30) 2 2 = 1) = true := by
  unfold quietRow; decide +kernel

/-- Region 5 is enabled and runs in cluster 3. -/
def mapped (s : State) : State := { s with dmapA := [(10, setBf (setBf 0 63 63 1) 52 48 3)] }

theorem witness_DispatchPath :
    (let s := mapped (withRow frm { RowSt.reset with picked := [held 7] })
     (s.row 2).copies = [] ∧ (s.row 2).flushing = false ∧ s.targets (held 7).region = [5] ∧
      (sget [] (s.clusterOf 5) (s.row 2).voq).length < 256 ∧
      gives (.copyStage 9 2) s (fun u => (u.row 2).picked = [] ∧ (u.row 2).copies = [] ∧
        sget [] 3 (u.row 2).voq = [copyOf 2 (held 7) 5]) = true) ∧
    (let d := copyOf 2 (held 7) 5
     let s := { withRow frm { RowSt.reset with voq := [(3, [d])] } with xbar := [(3, 2)] }
     sget 0 3 s.xbar = 2 ∧ sget [] 3 (s.row 2).voq = [d] ∧ (∀ q : RowId, q ≠ 2 → sget [] 3 (s.row q).voq = []) ∧
      gives (.crossbarGrant 9 3) s (fun u => sget [] 3 u.cluIn = [{ d with due := 9 + 6 * rowT }] ∧ sget [] 3 (u.row 2).voq = [] ∧
        sget 0 3 u.xbar = 3) = true) ∧
    (let s := withRow frm { RowSt.reset with rt := 160, classes := [2], streams := [(1, liveAt 200)] }
     quietRow s 2 ∧ (s.row 2).classes ≠ [] ∧
      gives (.watermarkMessage 9 2 3) s (fun u => (sget [] 3 u.wmIn).map (fun m => (m.row, m.cls, m.due)) = [(2, 0, 9 + 8 * rowT)] ∧
        (sget [] 3 u.wmIn).all (fun m => decide (m.pw ≤ 10 ∧ m.fw ≤ 12))) = true) := by
  unfold quietRow; decide +kernel

/-- The history of row 2: a line ring of 2^16 lines at 0x10000, an index of 2^10 words at 0x8000. -/
def history (s : State) : State :=
  (((s.setField (oRow 2 0x40) 12 8 16).setField (oRow 2 0x40) 3 0 10).setField (oRow 2 0x30) 45 0 0x10000).setField (oRow 2 0x38) 45 0 0x8000

theorem witness_RowStreamsEnd :
    (let s := withRow frm { RowSt.reset with rt := frm.keyL }
     quietRow s 2 ∧ s.castOn = true ∧ (s.row 2).flushed = false ∧ (s.row 2).flushing = false ∧ (s.at 9).rowPassed 2 = true ∧
      (s.row 2).store = [] ∧ (s.row 2).picked = [] ∧ (s.row 2).copies = [] ∧ (s.row 2).line = [] ∧
      gives (.rowFlush 9 2) s (fun u => (u.row 2).flushed = true ∧ sget [] 31 (u.row 2).voq = [eofWord 2]) = true) ∧
    (let s := withRow frm { RowSt.reset with rt := frm.keyL, voq := [(4, List.replicate 256 (eofWord 2))] }
     quietRow s 2 ∧ s.castOn = true ∧ (s.at 9).rowPassed 2 = true ∧ (sget [] 4 (s.row 2).voq).length = 256 ∧
      gives (.rowFlush 9 2) s (fun u => (u.row 2).flushed = true ∧ (sget [] 4 (u.row 2).voq).length = 256 ∧ (u.row 2).eof = [4] ∧
        sget [] 5 (u.row 2).voq = [eofWord 2]) = true) ∧
    (let s := withRow frm { RowSt.reset with vstate := 2 }
     quietRow s 2 ∧ gives (.rowFlush 9 2) s (fun u => (u.row 2).flushed = true) = true) ∧
    (let s := (withRow frm { RowSt.reset with streams := [(1, liveAt 200)] }).setField (oRow 2 0) 63 56 3
     let s := s.setPort 33 { PortSt.reset with link := .up, closed := false }
     s.field (oRow 2 0) 63 56 = 3 ∧ ((s.row 2).stream 1).live = true ∧ ((s.row 2).stream 1).ts < s.keyL ∧ s.castOn = true ∧
      max ((s.row 2).stream 1).changed (s.row 2).stallAt + usT 3 ≤ usT 3 ∧ (s.port 33).closed = false ∧
      gives (.streamStall (usT 3) 2 1) s (fun u => (u.port 33).closed = true ∧ (u.port 33).link = .up ∧ u.field (oMst 0x30) 2 2 = 1 ∧
        (u.errs.getLast?.map fun e => (e.cls, e.src, e.unit, e.code)) = some (1, 1, 2, 3)) = true) := by
  unfold quietRow; decide +kernel

theorem witness_historyLine :
    let l := [held 1, held 2, held 3, held 4, held 5, held 6, held 7]
    let s := history (withRow frm { RowSt.reset with line := l, bucket := 1 })
    s.field (oRow 2 0x30) 45 0 + (s.field (oRow 2 0x48) 31 0 % 2 ^ s.histLog 2) * 64 = 0x10000 ∧ (s.row 2).line.length = 7 ∧ (s.row 2).lineFull (9 * rowT / rowT) = true ∧ s.isCheck 0x10000 = false ∧
    s.histOn 2 = true ∧ ((s.row 2).line.map (·.key)).foldl max 0 / 2 ^ 17 < (s.row 2).bucket ∧ s.memDead 0x10000 = false ∧
    gives (.historyLineWrite (9 * rowT) 2) s (fun u => mrdW 0x10038 u.mem = hitW 7 ∧ bf (mrdW 0x10000 u.mem) 63 48 = 1 ∧
      bf (mrdW 0x10000 u.mem) 47 45 = 7 ∧ (u.row 2).line = [] ∧ u.field (oRow 2 0x48) 31 0 = 1) = true := by
  decide +kernel

theorem witness_TableWindows :
    gives (.regmapDataAccess 9 true 0x80050003) dev (fun u => sget 0 0 u.regionS = 0x80050003 ∧ u.tabPending 0 = true) = true ∧
    gives (.regmapDataAccess 9 false 0) { dev with regionS := [(0, 3)] } (fun u => u.rdata = 3) = true ∧
    gives (.chcntData1Read 9) (dev.setChan 0 { ChanSt.reset with supp := 4 }) (fun u => u.rdata = 4) = true ∧
    (bf 0x8000000000000000 63 63 = 1 ∧
      gives (.automaskClear 9 0x8000000000000000) (dev.setChan 0 { ChanSt.reset with auto := true, cnt := 3 }) (fun u => u.chan 0 = .reset) = true) ∧
    (let s := { dev with raised := [(2 ^ 38 + 63, 10)] }
     (s.at 9).justRaised (2 ^ 32) 63 = true ∧ gives (.automaskClear 9 0x8000000000000000) s (fun u => decide (u = s.at 9)) = true) ∧
    gives (.dmapDataAccess 9 2 false true 0xF800000000000005) dev (fun u => bf (sget 0 0 u.dmapS) 62 59 = 0 ∧
      bf (sget 0 0 u.dmapS) 63 63 = 1 ∧ u.tabPending 1 = true) = true ∧
    gives (.dmapDataAccess 9 2 true true 0xFFFF000000000005) dev (fun u => sget 0 1 u.dmapS = 5) = true ∧
    gives (.dmapDataAccess 9 2 true false 0) { dev with dmapS := [(1, 5)] } (fun u => u.rdata = 5) = true := by
  decide +kernel

/-! ### Slices -/

/-- Program-table words of region 5: CODE object at 0x2000, slices of 2 slots, no context beyond them. -/
def progWs : List Word := [mkTag tCode 0x2000, 0, setBf 0 39 32 2, 0]

/-- A copy of a hit of region 5 that reaches cluster 3 at `due`. -/
def copy5 (k due : Nat) : DispWord :=
  { word := setBf (setBf 0 63 56 0x10) 27 0 k, target := 5, origin := 5, row := 2, stream := 1, halo := false, behind := false, eof := false,
    last := true, due := due }

/-- A frame with the program of region 5 in use at cluster 3. -/
def prog5 (s : State) : State := (hot s 3).setClu 3 { s.clu 3 with progs := [(5, progWs)] }

/-- A slice of region 5 in cluster 3. -/
def withSlice (s : State) (x : Slice) : State := s.setClu 3 { s.clu 3 with slices := [x] }

theorem witness_dispatchWordArrival :
    (let s := { prog5 frm with cluIn := [(3, [copy5 7 4])] }
     sget [] 3 s.cluIn = [copy5 7 4] ∧ (copy5 7 4).due ≤ 9 ∧ progInUse s 3 5 ∧ s.slice 3 (s.keyOf 3 5 (copy5 7 4)) = none ∧
      (s.clu 3).gone.all (fun e => e.1 != s.keyOf 3 5 (copy5 7 4)) = true ∧ (s.clu 3).slices.length < 8192 ∧
      gives (.dispatchWordArrival 9 3) s (fun u => (u.clu 3).slices.map (fun x => (x.key.region.val, x.key.idx)) = [(5, 0)] ∧
        u.cluIn = []) = true) ∧
    (let d := { copy5 0 4 with eof := true }
     let s := { prog5 frm with cluIn := [(3, [d])] }
     sget [] 3 s.cluIn = [d] ∧ d.due ≤ 9 ∧ d.eof = true ∧
      gives (.dispatchWordArrival 9 3) s (fun u => (u.clu 3).eofs = [2] ∧ (u.clu 3).slices = []) = true) := by
  unfold progInUse; decide +kernel

/-- Row 2 serves region 5, in class 0. -/
def served (s : State) : State := (hot s 34).setRow 2 { RowSt.reset with served := [(5, 0)] }

theorem witness_watermarkReceive :
    let m : WmMsg := { row := 2, pw := 70000, cls := 0, fw := 60000, due := 4 }
    let s := { withSlice (prog5 (served frm)) { slice0 with st := .provRun } with wmIn := [(3, [m])] }
    sget [] 3 s.wmIn = [m] ∧ m.due ≤ 9 ∧ m.cls < 64 ∧ (s.clu 3).slices = [{ slice0 with st := .provRun }] ∧
    gives (.watermarkReceive 9 3) s (fun u => sget 0 2 (u.clu 3).pw = 70000 ∧ sget 0 128 (u.clu 3).fw = 60000 ∧
      u.firm 3 slice0.key = true ∧ (u.clu 3).slices.map (·.st) = [.firmRun]) = true := by
  decide +kernel

/-- Cluster 3 with its first core up, world 0, a page that maps low addresses to themselves in its data TLB. -/
def core48 (s : State) : State :=
  s.setCore 48 { CoreSt.reset with
    up := true, dtlb := [{ world := 0, va := 0, log := 25, pa := 0, u := true, w := true, x := true, locked := false }] }

theorem witness_sliceDispatch :
    let x := { slice0 with st := .queued }
    let s := core48 (withSlice (prog5 frm) x)
    s.castOn = true ∧ ((dmapOn s.dmapA).all fun g => s.clusterOf g != 3 || !s.uncovered 3 g) = true ∧ s.clocked 3 = true ∧ (s.clu 3).bist = 0 ∧
    (s.clu 3).slices = [x] ∧ x.st = .queued ∧ s.chooseCtx 3 x = some (48, 0) ∧
    gives (.sliceDispatch 9 3) s (fun u => (u.clu 3).slices.map (fun y => (y.st, y.holder, y.ckpt.isSome)) = [(.build, some (48, 0), true)] ∧
      (u.ctx 48 0).state = 1 ∧ (u.ctx 48 0).waits = 1) = true := by
  decide +kernel

/-- The CODE object of `progWs`: its header, its entry 0x3000, its environment. -/
def code5 (s : State) : State := inL2 3 0x80 { s with mem := mwrWs 0x2000 [headW 3 0 2, fixN 0x3000, nilW] s.mem }

/-- A slice in its build on core 48. -/
def built : Slice := { slice0 with st := .build, holder := some (48, 0) }

theorem witness_sliceStart :
    (let s := core48 (withSlice (prog5 frm) { built with rebuild := true })
     (s.clu 3).slices = [{ built with rebuild := true }] ∧ cluOf 48 = 3 ∧ s.clocked 3 = true ∧
      gives (.sliceStart 9 3 slice0.key) s (fun u => (u.clu 3).slices = [{ built with begun := 9 }]) = true) ∧
    (let s := code5 (core48 (withSlice (prog5 (served frm)) built))
     let e : TlbEnt := { world := 0, va := 0, log := 25, pa := 0, u := true, w := true, x := true, locked := false }
     (s.clu 3).slices = [built] ∧ built.rebuild = false ∧ s.haOn 2 3 = false ∧ s.ownCopies 3 built = [] ∧ s.ctxCopies 3 built = [] ∧ (s.ctx 48 0).storeQ = [] ∧
      (s.core 48).dtlb.find? (fun a => a.hits (s.ctxWorld 48 0) 0x2000) = some e ∧
      (s.core 48).dtlb.find? (fun a => a.hits (s.ctxWorld 48 0) 0x2008) = some e ∧ pay (s.progWord 3 5 0) = 0x2000 ∧
      inL2b s 3 0x2000 = true ∧ inL2b s 3 0x2008 = true ∧ headerOk tCode (mrdW 0x2000 s.mem) = true ∧
      bf (mrdW 0x2008 s.mem) 46 0 = 0x3000 ∧
      gives (.sliceStart 9 3 slice0.key) s (fun u => (u.clu 3).slices.map (·.st) = [.provRun] ∧ (u.ctx 48 0).prog = some slice0.key ∧
        (u.ctx 48 0).flow.pc = 0x3000 ∧ u.rf 48 (winKey 0 0 2) = nilW ∧ stProv (u.ctx 48 0).spec.st = 1) = true) := by
  decide +kernel

theorem witness_entryReadable :
    let s := code5 (core48 (withSlice (prog5 (served frm)) built))
    entryReadable s 48 (s.ctxWorld 48 0) (s.progWord 3 5 0)
      { world := 0, va := 0, log := 25, pa := 0, u := true, w := true, x := true, locked := false } 0x3000 := by
  refine ⟨?_, ?_, inL2_of ?_, inL2_of ?_, ?_, ?_, ?_⟩ <;> decide +kernel

theorem witness_sliceEnds :
    (let x := { slice0 with st := .firmRun, ended := true, holder := some (48, 0), staged := [List.replicate 8 3] }
     let s := core48 (withSlice (prog5 (served frm)) x)
     let s := s.setClu 3 { s.clu 3 with fw := [(128, 60000)] }
     let s := s.setCtx 48 0 { s.ctx 48 0 with slices := [slice0.key] }
     (s.clu 3).slices = [x] ∧ s.canCommit 3 x = true ∧
      gives (.sliceCommit 9 3 slice0.key) s (fun u => sget [] 3 u.outqs = [(List.replicate 8 3, 1)] ∧ (u.clu 3).slices = [] ∧
        (u.clu 3).gone = [(slice0.key, true)] ∧ (u.reg (oCnt 3 0x3110)).toNat = 1) = true) ∧
    (let s := withSlice (prog5 frm) { slice0 with staged := [List.replicate 8 3] }
     s.cutoffT (s.sliceAfter 3 slice0.key - 1) ≤ usT 900 ∧
      gives (.sliceTimeout (usT 900) 3 slice0.key) s (fun u => u.outqs = [] ∧ (u.clu 3).slices = [] ∧
        (u.clu 3).gone = [(slice0.key, false)] ∧ (u.reg (oCnt 3 0x3130)).toNat = 1) = true) := by
  decide +kernel

theorem witness_unravel :
    let q : Ckpt := { win := [fixN 4], globals := [fixN 6], spec := { SpecSt.reset with rc := 3 }, base := 2, depth := 0, shadow := [7], spilled := 0,
                      staged := 0, chunk := [] }
    let x := { slice0 with st := .provRun, late := true, holder := some (48, 0), ckpt := some q }
    let s := core48 (withSlice (prog5 frm) x)
    let s := s.setCtx 48 0 { s.ctx 48 0 with slices := [slice0.key], prog := some slice0.key, state := 2 }
    (s.clu 3).slices = [x] ∧ (s.at 9).canRestore 48 0 = true ∧ (s.ctx 48 0).storeQ = [] ∧ (s.ctx 48 0).slices = [x.key] ∧
    gives (.unravel 9 3 slice0.key) s (fun u => u.rf 48 (winKey 0 2 0) = fixN 4 ∧ u.rf 48 (globKey 0 0 0) = fixN 6 ∧
      (u.ctx 48 0).spec = q.spec ∧ (u.ctx 48 0).base = 2 ∧ (u.ctx 48 0).prog = none ∧
      (u.clu 3).slices.map (fun y => (y.unravels, y.holder)) = [(1, none)]) = true := by
  decide +kernel

/-! ### Contexts, interrupts, the bank -/

theorem witness_provClear :
    let x := { slice0 with st := .firmRun, holder := some (48, 0) }
    let s := core48 (withSlice (prog5 frm) x)
    let s := s.setCtx 48 0 { s.ctx 48 0 with slices := [slice0.key], prog := some slice0.key, state := 3, spec := { SpecSt.reset with st := 0x90100000 } }
    let s := s.setCore 48 { s.core 48 with run := true }
    (s.core 48).cur = 0 ∧ s.recognises 48 = true ∧ (s.ctx 48 0).prog = some slice0.key ∧ (s.ctx 48 0).slices.head? = some slice0.key ∧
    s.slice 3 slice0.key = some x ∧ x.st = .firmRun ∧ (s.ctx 48 0).level = 0 ∧
    gives (.provClear 48 0) s (fun u => stProv (u.ctx 48 0).spec.st = 0) = true := by
  decide +kernel

theorem witness_schedulerAndTimers :
    (let s := core48 (prog5 dev)
     let s := s.setCtx 48 2 { CtxSt.reset with state := 2 }
     (s.core 48).run = false ∧ (s.core 48).up = true ∧ (s.core 48).bankOn = false ∧ s.clocked (cluOf 48) = true ∧
      s.bestOf 48 ((List.range 4).filter fun i => s.ready 48 i) = some 2 ∧
      gives (.contextSwitch 48) s (fun u => (u.core 48).run = true ∧ (u.core 48).cur = 2 ∧ (u.ctx 48 2).state = 3 ∧ (u.core 48).tick = 2) = true) ∧
    (let s := (core48 (prog5 dev)).setField (oTimer 48 1) 55 0 5
     let s := s.setCore 48 { s.core 48 with tick := 5 }
     s.field (oTimer 48 1) 55 0 ≠ 0 ∧ s.field (oTimer 48 1) 55 0 ≤ (s.core 48).tick ∧ (s.core 48).up = true ∧ s.clocked (cluOf 48) = true ∧
      gives (.ctxTimerExpiry 48 1) s (fun u => bit (sget 0 193 u.irqs) irqTimer = true) = true) ∧
    gives (.ctxTimerWrite 9 48 1 77) { dev with irqs := [(193, 2 ^ irqTimer)] }
      (fun u => u.field (oTimer 48 1) 55 0 = 77 ∧ bit (sget 0 193 u.irqs) irqTimer = false) = true := by
  decide +kernel

/-! ### Oxxus words -/

/-- Maps the low 32 MiB of world 0 to themselves. -/
def page : TlbEnt := { world := 0, va := 0, log := 25, pa := 0, u := true, w := true, x := true, locked := false }

/-- Core 14, a fit core, in operation: context 0 runs at supervisor level at 0x1000, register r0 to r15 at keys 0 to 15, the globals s0
to s7 at 72 to 79. -/
def cpu (regs : List (Nat × Word)) : State :=
  (hot dev 0).setCore 14 { CoreSt.reset with
    up := true, run := true, itlb := [page], dtlb := [page], l1i := [(0, 0x41), (1, 0x40)], rf := regs
    ctxs := [(0, { CtxSt.reset with state := 3, flow := .start 0x1000 })] }

/-- The running context of core 14 changed. -/
def withMe (s : State) (f : CtxSt → CtxSt) : State := s.setCtx 14 0 (f (s.ctx 14 0))

/-- The word leaves `v` in register `r`, and the next word is at 0x1004. -/
def puts (i : Instr) (s : State) (r : Nat) (v : Word) : Bool :=
  gives i s fun u => u.rget 14 r = v ∧ (u.flow 14).pc = 0x1004 ∧ u.mem = s.mem

/-- The word makes the next word be at `pc`. -/
def goes (i : Instr) (s : State) (pc : Nat) : Bool := gives i s fun u => (u.flow 14).pc = pc

theorem witness_Steady : Steady (cpu []) 14 page ∧ named 8 ∧ SlotFree (cpu []) 14 := by
  unfold SlotFree Steady Issues named; decide +kernel

/-- r1 = 7, r2 = −3. -/
def nums : State := cpu [(1, fixW 7), (2, fixW (-3))]

theorem witness_GenericOperations :
    holdsFix nums 14 1 ∧ holdsFix nums 14 2 ∧ int nums 14 1 = 7 ∧ int nums 14 2 = -3 ∧
    puts (.add 14 3 1 2) nums 3 (fixW 4) = true ∧ puts (.sub 14 3 1 2) nums 3 (fixW 10) = true ∧
    puts (.mul 14 3 1 2) nums 3 (fixW (-21)) = true ∧ puts (.addi 14 1 1 0x7FFF) nums 1 (fixW 6) = true ∧
    puts (.cmp 14 3 2 1) nums 3 (fixW (-1)) = true ∧ puts (.min 14 3 1 2) nums 3 (fixW (-3)) = true ∧
    puts (.max 14 3 1 2) nums 3 (fixW 7) = true := by
  unfold holdsFix int; decide +kernel

/-- r1 the TIME 5000, r2 the FIX 100, r3 a HIT at 30, r4 a HIT at 20, r5 the SPAN of 2 from 20. -/
def times : State := cpu [(1, mkTag tTime 5000), (2, fixW 100), (3, mkTag tHit 30), (4, mkTag tHit 20), (5, mkTag tSpan (20 * 2 ^ 28 + 2))]

theorem witness_timeOperations :
    isPoint (mkTag tTime 5000) = true ∧ tagOf (fixW 100) = tFix ∧ inFix (timeOf (mkTag tTime 5000) + fixI (fixW 100)) = true ∧
    puts (.add 14 6 1 2) times 6 (mkTag tTime 5100) = true ∧
    isPoint (mkTag tHit 30) = true ∧ inFix (timeOf (mkTag tTime 5000) - timeOf (mkTag tHit 30)) = true ∧
    puts (.sub 14 6 1 3) times 6 (mkTag tTime 4520) = true ∧
    tagOf (mkTag tHit 30) = tHit ∧ puts (.sub 14 6 3 4) times 6 (mkTag tSpan (20 * 2 ^ 28 + 10)) = true ∧
    puts (.mul 14 6 2 1) times 6 (mkTag tTime 500000) = true ∧
    tagOf (mkTag tSpan 5) = tSpan ∧ puts (.cmp 14 6 3 5) times 6 (fixW 1) = true ∧ puts (.cmp 14 6 4 5) times 6 (fixW 0) = true ∧
    ([mkTag tTime 5000, fixW 100, mkTag tHit 30, mkTag tSpan (20 * 2 ^ 28 + 2)].all fun w => !malformed w) = true := by
  decide +kernel

/-- r1 = 12, r2 = 5, r3 = −8. -/
def bits : State := cpu [(1, fixW 12), (2, fixW 5), (3, fixW (-8))]

theorem witness_logic :
    puts (.andR 14 4 1 2) bits 4 (fixW 4) = true ∧ puts (.orR 14 4 1 2) bits 4 (fixW 13) = true ∧ puts (.xorR 14 4 1 2) bits 4 (fixW 9) = true ∧
    pay (fixW 5) ≤ 63 ∧ puts (.shl 14 4 1 2) bits 4 (fixW 384) = true ∧ puts (.shr 14 4 3 2) bits 4 (fixW (-1)) = true ∧
    puts (.shru 14 4 3 2) bits 4 (mkTag 0 ((2 ^ 56 - 8) / 32)) = true ∧ puts (.andi 14 4 1 4) bits 4 (fixW 4) = true ∧
    puts (.ori 14 4 1 1) bits 4 (fixW 13) = true ∧ puts (.xori 14 4 1 0x7FFF) bits 4 (fixW 0x7FF3) = true ∧
    puts (.shli 14 4 1 63) bits 4 (fixW 0) = true ∧ puts (.shri 14 4 3 1) bits 4 (fixW (-4)) = true := by
  decide +kernel

theorem witness_moves :
    puts (.movi 14 4 0x7FFF) bits 4 (fixW (-1)) = true ∧ puts (.tchk 14 4 1 0) bits 4 trueW = true ∧ puts (.tchk 14 4 1 2) bits 4 nilW = true ∧
    puts (.mov 14 4 1) bits 4 (fixW 12) = true ∧ puts (.tag 14 4 3) times 4 (mkTag 0 tHit) = true ∧
    readCause (fixW 12) = none ∧ puts (.eqR 14 4 1 1) bits 4 trueW = true ∧ puts (.eqR 14 4 1 2) bits 4 nilW = true := by
  decide +kernel

theorem witness_tagsAndFields :
    (let s := cpu [(1, mkTag tHit 0x12345678), (2, fixN tSym), (3, fixN tCons)]
     readCause (mkTag tHit 0x12345678) = none ∧ malformed (mkTag tHit 0x12345678) = false ∧ tSym < 256 ∧ tSym ≠ tUninit ∧ tSym ≠ tFwd ∧
      isReserved tSym = false ∧ isObject tCons = true ∧ s.sup 14 = true ∧
      puts (.retag 14 4 1 2) s 4 (mkTag tSym 0x12345678) = true ∧ puts (.retag 14 4 1 3) s 4 (mkTag tCons 0x12345678) = true) ∧
    (∀ f ∈ fields, let w : Word := mkTag f.2.1 (if f.2.1 = tChan ∨ f.2.1 = tRegion then 0x10010 else 5); malformed w = false ∧
      puts (.fld 14 4 1 (BitVec.ofNat 15 f.1)) (cpu [(1, w)]) 4 (mkTag 0 (bf w f.2.2.1 f.2.2.2)) = true) ∧
    puts (.fld 14 4 1 7) (cpu [(1, mkTag tSpan 77)]) 4 (fixW 77) = true ∧
    (isFit 14 = true ∧ puts (.cvtf 14 4 1) (cpu [(1, fixW 3)]) 4 (mkTag tSflt 0x40080000000000) = true) ∧
    (let w : Word := mkTag tSflt 0x40080000000000
     ftrunc (fdec (pay w * 256)) = some 3 ∧ inFix 3 = true ∧ puts (.cvti 14 4 1) (cpu [(1, w)]) 4 (fixW 3) = true) ∧
    (let w : Word := mkTag tSflt 0x7FF00000000000
     ftrunc (fdec (pay w * 256)) = none ∧ puts (.cvti 14 4 1) (cpu [(1, w)]) 4 nilW = true) := by
  decide +kernel

theorem witness_generalCore :
    let s := fun (w : Word) => (hot dev 0).setCore 3 { CoreSt.reset with
      up := true, run := true, itlb := [page], l1i := [(0, 0x41)], rf := [(1, w)]
      ctxs := [(0, { CtxSt.reset with state := 3, flow := .start 0x1000 })] }
    let ok := fun (i : Instr) (w v : Word) => gives i (s w) fun u => u.rget 3 4 = v ∧ (u.flow 3).pc = 0x1004 ∧
      (u.reg (oUcs 0x100)).toNat = 1
    Steady (s 0) 3 page ∧ isFit 3 = false ∧ (s 0).haOn 7 0 = false ∧
    ok (.cvtf 3 4 1) (fixW 3) (mkTag tSflt 0x40080000000000) = true ∧ ok (.cvti 3 4 1) (mkTag tSflt 0x40080000000000) (fixW 3) = true ∧
    ok (.cvti 3 4 1) (mkTag tSflt 0x7FF00000000000) nilW = true := by
  unfold Steady Issues; decide +kernel

/-- MOV or ADD of ply A with MOV of ply B. -/
def plies (op rd lo rd2 lo2 : Nat) : BitVec 32 := BitVec.ofNat 32 ((op * 1024 + rd * 32 + lo) * 2 ^ 16 + (0x01 * 1024 + rd2 * 32 + lo2) * 2)

theorem witness_twoPly :
    (let w := plies 0x01 3 1 4 2
     let a := Ply.ofNat (w.toNat / 2 ^ 16)
     let b := Ply.ofNat (w.toNat / 2)
     w.toNat % 2 = 0 ∧ a.legal = true ∧ b.legal = true ∧ badPair a b = false ∧ b.op = 0x01 ∧ a.op = 0x01 ∧
      puts (.twoPlyWord 14 w) nums 3 (fixW 7) = true ∧ puts (.twoPlyWord 14 w) nums 4 (fixW (-3)) = true) ∧
    (let w := plies 0x03 1 2 4 2
     let a := Ply.ofNat (w.toNat / 2 ^ 16)
     let b := Ply.ofNat (w.toNat / 2)
     w.toNat % 2 = 0 ∧ a.op = 0x03 ∧ a.legal = true ∧ b.legal = true ∧ badPair a b = false ∧ isFix (nums.rget 14 1) = true ∧
      isFix (nums.rget 14 2) = true ∧ puts (.twoPlyWord 14 w) nums 1 (fixW 4) = true ∧ puts (.twoPlyWord 14 w) nums 4 (fixW (-3)) = true) ∧
    gives (.nopS 14) nums (fun u => (u.flow 14).pc = 0x1004 ∧ (u.core 14).rf = (nums.core 14).rf) = true ∧
    (let s := withMe nums fun y => { y with flow := { Flow.start 0x1000 with pend := [(5, fixW 9)] } }
     Issues s 14 page ∧ (s.flow 14).pend = [(5, fixW 9)] ∧
      gives (.nopS 14) s (fun u => u.rget 14 5 = fixW 9 ∧ (u.flow 14).pend = [] ∧ (u.flow 14).pc = 0x1004) = true) := by
  unfold Issues; decide +kernel

theorem witness_shortOk : ∀ op ∈ [0x01, 0x03], shortOk nums 14 (Ply.ofNat ((plies op 1 2 4 2).toNat / 2 ^ 16)) := by
  intro op h
  unfold shortOk
  fin_cases h <;> (refine ⟨?_, ?_, ?_, ?_, ?_, ?_, ?_, ?_⟩ <;> decide +kernel)

/-! ### Loads and stores -/

/-- r1 the address 0x2000, r2 a CONS cell there, r3 a VEC there, r4 the index 1, r5 the word to store, r6 = NIL; memory holds a header of LEN 2
and its elements 71 and 72. The line is in the data cache. -/
def memCpu : State :=
  let s := cpu [(1, fixN 0x2000), (2, mkTag tCons 0x2000), (3, mkTag tVec 0x2000), (4, fixN 1), (5, fixN 9), (6, nilW)]
  let s := { s with mem := mwrWs 0x2000 [headW 1 0 2, fixN 71, fixN 72] s.mem }
  inL2 0 0x80 (s.setCore 14 { s.core 14 with l1d := [(0, 0x2000 / 64 + 1)] })

/-- A word whose line the data cache holds, at an address that maps to itself. -/
theorem cached_of {s : State} {c va : Nat} (e : TlbEnt)
    (h : (s.core c).dtlb.find? (fun a => a.hits (s.world_ c) va) = some e ∧ e.allows .load (s.sup c) = true ∧
      va = (e.pa + (va - e.va)) % 2 ^ 46 ∧ va < 0x100000000000 ∧ (s.core c).me.storeQ = [] ∧ (s.core c).blocked = none ∧
      s.l1dHas c (va / 64) = true ∧ tagOf (mrdW va s.mem) ≠ tFwd ∧ l1Has (va / 64) (s.core c).l1d = true) :
    Cached s c va va (mrdW va s.mem) :=
  ⟨⟨e, h.1, h.2.1, h.2.2.1, h.2.2.2.1, h.2.2.2.2.1, h.2.2.2.2.2.1, Or.inl h.2.2.2.2.2.2.1, rfl, h.2.2.2.2.2.2.2.1⟩, h.2.2.2.2.2.2.2.2⟩

theorem witness_LoadFinds : ∀ k : Fin 3, Cached memCpu 14 (0x2000 + 8 * k) (0x2000 + 8 * k) (mrdW (0x2000 + 8 * k) memCpu.mem) := by
  intro k
  exact cached_of page (by revert k; decide +kernel)

/-- The same without the line in the data cache: from L2, and from memory. -/
theorem witness_LoadFinds_miss :
    let s := memCpu.setCore 14 { memCpu.core 14 with l1d := [] }
    let u := s.setClu 0 { s.clu 0 with l2 := [] }
    inL2b s 0 0x2008 = true ∧ u.l2Find 0 0x80 = none ∧ u.stacks * stackSize > 0x2008 ∧ u.isCheck 0x2008 = false ∧ u.memDead 0x2008 = false ∧
    sget (0, 0) 0x80 u.flips = (0, 0) ∧ sget 0 0x80 u.bad = 0 ∧ u.decoding 0x2008 = false ∧ sget [] (ctlOf 0x2008) u.merges = [] ∧
    gives (.ld 14 7 1 false 1) s (fun v => (v.flow 14).pend = [(7, fixN 71)] ∧ v.mem = s.mem) = true ∧
    gives (.ld 14 7 1 false 1) u (fun v => (v.flow 14).pend = [(7, fixN 71)] ∧ v.mem = s.mem) = true := by
  decide +kernel

/-- The word loads `w` into register `r` after the load slot. -/
def loads (i : Instr) (s : State) (r : Nat) (w : Word) : Bool :=
  gives i s fun u => (u.flow 14).pend = [(r, w)] ∧ (u.flow 14).pc = 0x1004 ∧ u.mem = s.mem

theorem witness_LoadsReadMemory :
    rawOk 0x2000 (0x2000 + (1 : BitVec 14).toInt * 8) ∧ holdsFix memCpu 14 1 ∧ holds memCpu 14 2 tCons ∧ holds memCpu 14 3 tVec ∧ holds memCpu 14 6 tNil ∧
    headerOk tVec (mrdW 0x2000 memCpu.mem) = true ∧ bf (memCpu.core 14).me.spec.bank 46 20 * 2 ^ 20 + (0x2008 : BitVec 20).toNat = 0x2008 ∧
    loads (.ld 14 7 1 false 1) memCpu 7 (fixN 71) = true ∧ loads (.ld 14 7 1 true 2) memCpu 7 (headW 1 0 2) = true ∧
    gives (.ld 14 7 1 true 2) memCpu (fun u => u.rget 14 1 = fixN 0x2010) = true ∧ loads (.ld 14 7 2 false 1) memCpu 7 (fixN 71) = true ∧
    loads (.lda 14 7 0x2008) memCpu 7 (fixN 71) = true ∧ loads (.car 14 7 2) memCpu 7 (headW 1 0 2) = true ∧
    loads (.cdr 14 7 2) memCpu 7 (fixN 71) = true ∧ loads (.car 14 7 6) memCpu 7 nilW = true ∧ loads (.cdr 14 7 6) memCpu 7 nilW = true ∧
    loads (.ldp 14 7 1) memCpu 7 (headW 1 0 2) = true ∧ gives (.ldp 14 7 1) memCpu (fun u => u.rget 14 1 = fixN 0x2008) = true ∧
    loads (.vlen 14 7 3) memCpu 7 (fixN 2) = true ∧ loads (.vld 14 7 3 4) memCpu 7 (fixN 72) = true := by
  unfold rawOk holdsFix holds; decide +kernel

theorem witness_StoreFinds : StoreFinds memCpu 14 0x2008 0x2008 ∧ mayStore (fixN 9) 0x2008 := by
  refine ⟨⟨page, ?_⟩, ?_⟩
  · decide +kernel
  · unfold mayStore; decide +kernel

/-- The word puts a store of 9 at `pa` into the context's queue. -/
def stores (i : Instr) (pa : Nat) : Bool :=
  gives i memCpu fun u => (u.core 14).me.storeQ = [(pa, fixN 9)] ∧ (u.flow 14).pc = 0x1004 ∧ u.mem = memCpu.mem

theorem witness_Stores :
    stores (.st 14 5 1 false 1) 0x2008 = true ∧ stores (.st 14 5 1 true 1) 0x2000 = true ∧
    gives (.st 14 5 1 true 1) memCpu (fun u => u.rget 14 1 = fixN 0x2008) = true ∧ stores (.sta 14 5 0x2008) 0x2008 = true ∧
    stores (.stp 14 5 1) 0x2000 = true ∧ stores (.setcar 14 2 5) 0x2000 = true ∧ stores (.setcdr 14 2 5) 0x2008 = true ∧
    stores (.vst 14 5 3 4) 0x2010 = true ∧
    (let s := withMe memCpu fun y => { y with storeQ := [(0x2008, fixN 9)] }
     (s.ctx 14 0).storeQ = [(0x2008, fixN 9)] ∧ s.memDead 0x2008 = false ∧
      gives (.storeRelease 14 0) s (fun u => (u.ctx 14 0).storeQ = [] ∧ mrdW 0x2008 u.mem = fixN 9 ∧ mrdW 0x2010 u.mem = fixN 72) = true) := by
  decide +kernel

theorem witness_memoryPlies :
    let w := fun (op rd lo : Nat) => plies op rd lo 0 0 &&& 0xFFFF0000
    let a := fun (op rd lo : Nat) => Ply.ofNat ((w op rd lo).toNat / 2 ^ 16)
    let b := Ply.ofNat ((w 0x0F 7 2).toNat / 2)
    b.op = 0 ∧ b.legal = true ∧ (a 0x0F 7 2).legal = true ∧ badPair (a 0x0F 7 2) b = false ∧ (a 0x0F 7 2).op = 0x0F ∧ (a 0x0F 7 2).lo = 2 ∧
    loads (.twoPlyWord 14 (w 0x0F 7 2)) memCpu 7 (headW 1 0 2) = true ∧ loads (.twoPlyWord 14 (w 0x10 7 2)) memCpu 7 (fixN 71) = true ∧
    loads (.twoPlyWord 14 (w 0x11 7 1)) memCpu 7 (headW 1 0 2) = true ∧
    gives (.twoPlyWord 14 (w 0x11 7 1)) memCpu (fun u => u.rget 14 1 = fixN 0x2008) = true ∧
    stores (.twoPlyWord 14 (w 0x12 5 1)) 0x2000 = true ∧
    gives (.twoPlyWord 14 (w 0x12 5 1)) memCpu (fun u => u.rget 14 1 = fixN 0x2008) = true := by
  decide +kernel

/-! ### Lists, heaps -/

/-- Frame heaps of 1 MiB for world 0, that of cluster 0 at 0x1000000; a hold heap of 4 blocks at 0x4000000, whose block 1 is open for
cluster 0 at offset 64. -/
def heapCpu : State :=
  let s := cpu [(1, mkTag tCons 0x2000), (2, fixN 7), (3, mkTag tVec 0x2040), (4, fixN 3), (5, mkTag tCons 0x2020), (78, fixN 0x400000000010)]
  let s := { s with
    world := { WorldSt.reset with frameLog := [(0, 20)], frameBase := [(0, 0x1000000)], holdBase := [(0, 0x4000000)], holdUnits := [(0, 4)] } }
  let s := { s with mem := mwrWs 0x2000 [mkTag tCons 0x2020, mkTag tCons 0x2010, mkTag tCons 0x2030, nilW, fixN 7, fixN 70, fixN 8, fixN 80] s.mem }
  let s := { s with mem := mwrWs 0x2040 [headW 1 0 1, mkTag tCons 0x2000] s.mem }
  let s := { s with mem := mwrW (0x4000000 + 0x100) (fixN (2 ^ 25 + 64)) (mwrW (0x4000000 + 0x100008) (setBf 0 55 52 1) s.mem) }
  let s := [0x80, 0x81, 0x40000, 0x100000, 0x100004, 0x104000].foldl (fun s l => inL2 0 l s) s
  s.setCore 14 { s.core 14 with l1d := [(0, 0x2000 / 64 + 1), (4, 0x2040 / 64 + 1)] }

/-- The same, with the word named. -/
theorem cachedAt {s : State} {c va : Nat} {w : Word} {ok : Nat → Prop} (e : TlbEnt) (hw : mrdW va s.mem = w) (hok : ok va)
    (h : (s.core c).dtlb.find? (fun a => a.hits (s.world_ c) va) = some e ∧ e.allows .load (s.sup c) = true ∧
      va = (e.pa + (va - e.va)) % 2 ^ 46 ∧ va < 0x100000000000 ∧ (s.core c).me.storeQ = [] ∧ (s.core c).blocked = none ∧
      s.l1dHas c (va / 64) = true ∧ tagOf w ≠ tFwd ∧ l1Has (va / 64) (s.core c).l1d = true) :
    ∃ pa, Cached s c va pa w ∧ ok pa := ⟨va, hw ▸ cached_of e (hw ▸ h), hok⟩

theorem witness_listAt : listAt heapCpu 14 (fun pa => pa + 8 ≤ 0x1000010 ∨ 0x1000030 ≤ pa) (mkTag tCons 0x2000) [mkTag tCons 0x2020, mkTag tCons 0x2030] := by
  refine ⟨?_, ?_, cachedAt page ?_ ?_ ?_, mkTag tCons 0x2010, cachedAt page ?_ ?_ ?_, ?_, ?_, cachedAt page ?_ ?_ ?_, nilW,
    cachedAt page ?_ ?_ ?_, rfl⟩ <;> decide +kernel

theorem witness_HeapRoom : HeapRoom heapCpu 14 0x400000000010 32 0x1000010 ∧ Steady heapCpu 14 page := by
  unfold HeapRoom Takes Steady Issues; decide +kernel

theorem witness_ListAndTableRoutines :
    puts (.llen 14 6 1) heapCpu 6 (fixN 2) = true ∧ puts (.assoc 14 6 1 2) heapCpu 6 (mkTag tCons 0x2020) = true ∧
    puts (.hlook 14 6 3 2) heapCpu 6 (mkTag tCons 0x2020) = true ∧ puts (.assoc 14 6 1 4) heapCpu 6 nilW = true ∧
    gives (.cpyl 14 6 1) heapCpu (fun u => u.rget 14 6 = mkTag tCons 0x400000000010 ∧ u.rget 14 22 = fixN 0x400000000030 ∧
      mrdW 0x1000018 u.mem = mkTag tCons 0x400000000020 ∧ mrdW 0x1000028 u.mem = nilW ∧ mrdW 0x1000020 u.mem = mkTag tCons 0x2030) = true ∧
    gives (.hset 14 6 3 5 0) heapCpu (fun u => u.rget 14 6 = mkTag tCons 0x2020 ∧ (u.core 14).me.storeQ = [(0x2048, mkTag tCons 0x400000000010)] ∧
      mrdW 0x1000010 u.mem = mkTag tCons 0x2020 ∧ mrdW 0x1000018 u.mem = mkTag tCons 0x2000) = true := by
  decide +kernel

/-- r1 a list of 61 cells at 0x2000. -/
def longWords : List Word := (List.range 61).flatMap fun i => [fixN 1, if i = 60 then nilW else mkTag tCons (0x2010 + 16 * i)]

def longCpu : State :=
  let s := { cpu [(1, mkTag tCons 0x2000)] with mem := (wordBytes longWords).zipIdx.map fun (e : Byte × Nat) => (0x2000 + e.2, e.1) }
  s.setCore 14 { s.core 14 with l1d := (List.range 16).map fun i => (i, 0x81 + i) }

/-- A chain of `m` cells at `a` is a list. -/
theorem listAt_chain {s : State} {c a m : Nat} {x : Word}
    (h : ∀ i, i < m → malformed (mkTag tCons (a + 16 * i)) = false ∧ tagOf (mkTag tCons (a + 16 * i)) = tCons ∧
      pay (mkTag tCons (a + 16 * i)) = a + 16 * i ∧ (∃ pa, Cached s c (a + 16 * i) pa x ∧ True) ∧
      ∃ pa, Cached s c (a + 16 * i + 8) pa (if i + 1 = m then nilW else mkTag tCons (a + 16 * (i + 1))) ∧ True) :
    ∀ n, n ≤ m → listAt s c (fun _ => True) (if n = 0 then nilW else mkTag tCons (a + 16 * (m - n))) (List.replicate n x) := by
  intro n
  induction n with
  | zero => intro _; rfl
  | succ n ih =>
    intro hn
    obtain ⟨h1, h2, h3, h4, h5⟩ := h (m - (n + 1)) (by omega)
    rw [if_neg (by omega), List.replicate_succ]
    refine ⟨h2, h1, by rw [h3]; exact h4, (if n = 0 then nilW else mkTag tCons (a + 16 * (m - n))), ?_, ih (by omega)⟩
    rw [h3]
    have e : m - (n + 1) + 1 = m - n := by omega
    rw [e] at h5
    by_cases hz : n = 0
    · rw [if_pos hz]; rwa [if_pos (by omega)] at h5
    · rw [if_neg hz]; rwa [if_neg (by omega)] at h5

theorem sget_zip {d : Byte} {a j : Nat} : ∀ (l : List Byte) (n : Nat), n ≤ j →
    sget d (a + j) ((l.zipIdx n).map fun (e : Byte × Nat) => (a + e.2, e.1)) = l.getD (j - n) d := by
  intro l
  induction l with
  | nil => intro n _; rfl
  | cons x l ih =>
    intro n hn
    rw [List.zipIdx_cons, List.map_cons, sget]
    by_cases h : n = j
    · subst h; simp
    · rw [if_neg (by simp only; omega), ih _ (by omega), show j - n = (j - (n + 1)) + 1 by omega, List.getD_cons_succ]

theorem wordBytes_getD {d : Byte} {i : Nat} (hi : i < 8) : ∀ (ws : List Word) (k : Nat), k < ws.length →
    (wordBytes ws).getD (8 * k + i) d = wordByte (ws.getD k 0) i := by
  intro ws
  induction ws with
  | nil => intro k h; simp at h
  | cons w ws ih =>
    intro k h
    have e : wordBytes (w :: ws) = ((List.range 8).map fun i => wordByte w i) ++ wordBytes ws := rfl
    cases k with
    | zero => rw [e, List.getD_append _ _ _ _ (by simpa using hi)]; simp [List.getD, hi]
    | succ k =>
      rw [e, List.getD_append_right _ _ _ _ (by simp; omega)]
      have := ih k (by simpa using h)
      simpa [show 8 * (k + 1) + i - 8 = 8 * k + i by omega] using this

theorem mrdW_zip {a k : Nat} {ws : List Word} (h : k < ws.length) :
    mrdW (a + 8 * k) ((wordBytes ws).zipIdx.map fun (e : Byte × Nat) => (a + e.2, e.1)) = ws.getD k 0 := by
  have f : ∀ i, i < 8 → mrd (a + 8 * k + i) ((wordBytes ws).zipIdx.map fun (e : Byte × Nat) => (a + e.2, e.1)) =
      wordByte (ws.getD k 0) i := fun i hi => by
    rw [mrd, Nat.add_assoc, sget_zip _ 0 (Nat.zero_le _)]
    exact wordBytes_getD hi ws k h
  have g := wordByte_join (ws.getD k 0)
  have f0 := f 0 (by omega)
  rw [Nat.add_zero] at f0
  unfold mrdW
  simp only [List.range_succ, List.range_zero, List.nil_append, List.cons_append, List.foldr_cons, List.foldr_nil,
    Nat.add_zero, f0, f 1, f 2, f 3, f 4, f 5, f 6, f 7, Nat.reduceLT] at g ⊢
  exact g

theorem mrdW_long (j : Nat) (h : j < 122) : mrdW (0x2000 + 8 * j) longCpu.mem = longWords.getD j 0 := by
  have e : longWords.length = 122 := by decide +kernel
  have := @mrdW_zip 0x2000 j longWords (by omega)
  unfold longCpu
  generalize longWords = ws at this ⊢
  exact this

theorem longCpu_words : ∀ i : Fin 61, malformed (mkTag tCons (0x2000 + 16 * i.val)) = false ∧ tagOf (mkTag tCons (0x2000 + 16 * i.val)) = tCons ∧
    pay (mkTag tCons (0x2000 + 16 * i.val)) = 0x2000 + 16 * i.val ∧ mrdW (0x2000 + 16 * i.val) longCpu.mem = fixN 1 ∧
    mrdW (0x2000 + 16 * i.val + 8) longCpu.mem = if i.val + 1 = 61 then nilW else mkTag tCons (0x2000 + 16 * (i.val + 1)) := by
  intro i
  have a := mrdW_long (2 * i) (by omega)
  have b := mrdW_long (2 * i + 1) (by omega)
  rw [show 0x2000 + 8 * (2 * i.val) = 0x2000 + 16 * i.val by omega] at a
  rw [show 0x2000 + 8 * (2 * i.val + 1) = 0x2000 + 16 * i.val + 8 by omega] at b
  rw [a, b]
  clear a b
  revert i; decide +kernel

theorem longCpu_cached (b : Nat) (hb : b = 0 ∨ b = 8) (w : Word) (hw : tagOf w ≠ tFwd) : ∀ i : Fin 61,
    (longCpu.core 14).dtlb.find? (fun a => a.hits (longCpu.world_ 14) (0x2000 + 16 * i.val + b)) = some page ∧
      page.allows .load (longCpu.sup 14) = true ∧
      0x2000 + 16 * i.val + b = (page.pa + (0x2000 + 16 * i.val + b - page.va)) % 2 ^ 46 ∧ 0x2000 + 16 * i.val + b < 0x100000000000 ∧
      (longCpu.core 14).me.storeQ = [] ∧ (longCpu.core 14).blocked = none ∧ longCpu.l1dHas 14 ((0x2000 + 16 * i.val + b) / 64) = true ∧
      tagOf w ≠ tFwd ∧ l1Has ((0x2000 + 16 * i.val + b) / 64) (longCpu.core 14).l1d = true := by
  have h : ∀ i : Fin 61, (longCpu.core 14).dtlb.find? (fun a => a.hits (longCpu.world_ 14) (0x2000 + 16 * i.val + b)) = some page ∧
      page.allows .load (longCpu.sup 14) = true ∧
      0x2000 + 16 * i.val + b = (page.pa + (0x2000 + 16 * i.val + b - page.va)) % 2 ^ 46 ∧ 0x2000 + 16 * i.val + b < 0x100000000000 ∧
      (longCpu.core 14).me.storeQ = [] ∧ (longCpu.core 14).blocked = none ∧ longCpu.l1dHas 14 ((0x2000 + 16 * i.val + b) / 64) = true ∧
      l1Has ((0x2000 + 16 * i.val + b) / 64) (longCpu.core 14).l1d = true := by
    rcases hb with rfl | rfl <;> decide +kernel
  intro i
  obtain ⟨a1, a2, a3, a4, a5, a6, a7, a8⟩ := h i
  exact ⟨a1, a2, a3, a4, a5, a6, a7, hw, a8⟩

theorem witness_longList : ∀ n, n ≤ 61 →
    listAt longCpu 14 (fun _ => True) (if n = 0 then nilW else mkTag tCons (0x2000 + 16 * (61 - n))) (List.replicate n (fixN 1)) :=
  listAt_chain fun i hi =>
    have h := longCpu_words ⟨i, hi⟩
    have k : tagOf (if i + 1 = 61 then nilW else mkTag tCons (0x2000 + 16 * (i + 1))) ≠ tFwd := by
      split
      · decide +kernel
      · have := (longCpu_words ⟨i + 1, by omega⟩).2.1
        simp only at this
        rw [this]; decide
    ⟨h.1, h.2.1, h.2.2.1, cachedAt page h.2.2.2.1 trivial (longCpu_cached 0 (.inl rfl) _ (by decide +kernel) ⟨i, hi⟩),
      cachedAt page h.2.2.2.2 trivial (longCpu_cached 8 (.inr rfl) _ k ⟨i, hi⟩)⟩

theorem witness_stands : Steady longCpu 14 page ∧ stretch < 61 := by
  unfold Steady Issues; decide +kernel

theorem witness_tableRoutines_more :
    (let s := { heapCpu with mem := mwrW 0x2040 (headW 1 0 0) heapCpu.mem }
     headerOk tVec (mrdW 0x2040 s.mem) = true ∧ puts (.hlook 14 6 3 2) s 6 nilW = true) ∧
    mayStore (fixN 70) 0x2028 ∧
    gives (.hset 14 6 3 5 1) heapCpu (fun u => u.rget 14 6 = mkTag tCons 0x2020 ∧ (u.core 14).me.storeQ = [(0x2028, fixN 70)] ∧
      u.mem = heapCpu.mem) = true := by
  unfold mayStore; decide +kernel

theorem witness_pairsAndBuckets : bucketOf (fixN 7) 1 = 0 ∧ srcCause isConsNil (mkTag tCons 0x2000) = none ∧ isHoldVa 0x2048 = false ∧
    StoreFinds heapCpu 14 0x2048 0x2048 := by
  refine ⟨by decide +kernel, by decide +kernel, by decide +kernel, page, ?_⟩
  decide +kernel

theorem witness_allocation :
    srcCause notFwd (fixN 7) = none ∧
    gives (.cons 14 6 2 1) heapCpu (fun u => u.rget 14 6 = mkTag tCons 0x400000000010 ∧ u.rget 14 22 = fixN 0x400000000020 ∧
      mrdW 0x1000010 u.mem = fixN 7 ∧ mrdW 0x1000018 u.mem = mkTag tCons 0x2000) = true ∧
    gives (.allocv 14 6 4) heapCpu (fun u => u.rget 14 6 = mkTag tVec 0x400000000010 ∧ u.rget 14 22 = fixN 0x400000000030 ∧
      mrdW 0x1000010 u.mem = headW 1 0 3 ∧ mrdW 0x1000018 u.mem = uninit) = true := by
  decide +kernel

/-- Metadata words that the L2 holds, in memory that takes them. -/
theorem metaHere_of {s : State} {w k o : Nat} (h : inL2b s k (s.holdPa w o) = true ∧ s.holdPa w o < s.stacks * stackSize ∧
    s.isCheck (s.holdPa w o) = false ∧ s.memDead (s.holdPa w o) = false) : MetaHere s w k o := ⟨inL2_of h.1, h.2⟩

theorem witness_OpenBlock : OpenBlock heapCpu 0 0 1 64 32 := by
  refine ⟨?_, ?_, ?_, ?_, ?_, ?_, metaHere_of ?_, metaHere_of ?_⟩ <;> decide +kernel

theorem witness_holdHeap :
    heapCpu.holdPa 0 (2 ^ 25 + 64) < heapCpu.stacks * stackSize ∧ heapCpu.isCheck (heapCpu.holdPa 0 (2 ^ 25 + 64)) = false ∧ heapCpu.memDead (heapCpu.holdPa 0 (2 ^ 25 + 64)) = false ∧ stProv (heapCpu.st 14) = 0 ∧
    gives (.halloc 14 6 4 1) heapCpu (fun u => u.rget 14 6 = mkTag tCons 0x500002000040 ∧ u.metaW 0 0x100 = fixN (2 ^ 25 + 80)) = true ∧
    gives (.halloc 14 6 4 0) heapCpu (fun u => u.rget 14 6 = mkTag tVec 0x500002000040 ∧ mrdW (0x4000000 + 2 ^ 25 + 64) u.mem = headW 1 0 3 ∧
      u.metaW 0 0x100 = fixN (2 ^ 25 + 96)) = true ∧
    (heapCpu.sup 14 = true ∧ heapCpu.haOn 4 0 = false ∧ heapCpu.holdBlocks (heapCpu.world_ 14) ≠ 0 ∧
      gives (.hgc 14 6) heapCpu (fun u => sget 0 0 u.gc = 57) = true) ∧
    puts (.halloc 14 6 4 0) { heapCpu with cores := (cpu [(4, fixW (-1))]).cores } 6 nilW = true := by
  decide +kernel

/-- Context 0 of core 14 asks for a cycle of world 0, whose hold heap has one block and whose roots are none. -/
def gcCpu : State :=
  let s := { cpu [] with world := { WorldSt.reset with holdBase := [(0, 0x4000000)], holdUnits := [(0, 1)] }, gc := [(0, 57)] }
  inL2 0 0x100000 { s with mem := mwrWs 0x4000010 [fixN 6, fixN 0, fixN 0] s.mem }

theorem witness_collectionCycle :
    sget 0 0 gcCpu.gc = 14 * 4 + 0 + 1 ∧ (gcCpu.at 9).inGap = true ∧ gcCpu.haOn 4 0 = false ∧ gcCpu.ctxFree 14 = true ∧
    gcCpu.metaW 0 0x10 = fixN 6 := by
  decide +kernel

theorem witness_NoRoots : NoRoots gcCpu 0 ∧ ∀ o ∈ [0x10, 0x18, 0x20, 0x28], MetaHere gcCpu 0 (cluOf 14) o := by
  have h : ∀ d, d < 512 → (gcCpu.core d).rf = [] := by decide +kernel
  refine ⟨⟨by decide +kernel, by decide +kernel, ?_, by decide +kernel⟩, ?_⟩
  · intro d hd k
    unfold State.rf
    rw [h d hd]; exact (by decide +kernel : isObject (tagOf (0 : Word)) = false)
  · intro o ho
    refine metaHere_of ?_
    revert o; decide +kernel

/-! ### Control flow, special registers, the system -/

/-- A branch of `kind` (CALL.S or not) has issued before the word at 0x1004. -/
def inSlot (s : State) (call : Bool) (target : Option Nat) : State :=
  withMe s fun y => { y with flow := { Flow.start 0x1004 with branch := some { pc := 0x1000, target := target, call := call, flags := 0 } } }

/-- The cost of a branch is a free value (prediction), so that the kernel evaluates hypotheses only here. -/
theorem witness_branches :
    (nums.flow 14).pc % 4 = 0 ∧ condTrue 4 (fixW (-3)) = true ∧ readCause (fixW (-3)) = none ∧ tagOf (fixW (-3)) = tFix ∧
    SlotFree nums 14 ∧ plainFlags nums 14 = 0 ∧ wordsOn nums 14 (-1) = 0xFFC ∧ bf (fixN 0x2000) 46 0 % 4 = 0 ∧
    Issues (inSlot nums false (some 0x1020)) 14 page ∧ Issues (inSlot nums false none) 14 page ∧
    ((inSlot nums false none).flow 14).pend = [] ∧ ((inSlot nums false none).flow 14).rep = none ∧
    ((inSlot nums false none).flow 14).branch = some { pc := 0x1000, target := none, call := false, flags := 0 } := by
  unfold SlotFree Issues; decide +kernel

/-- A closure at 0x2000: header, entry 0x3000, environment 5; r1 points to it. -/
def callCpu : State :=
  let s := cpu [(1, mkTag tCode 0x2000)]
  let s := { s with mem := mwrWs 0x2000 [headW 3 0 2, fixN 0x3000, fixN 5] s.mem }
  s.setCore 14 { s.core 14 with l1d := [(0, 0x2000 / 64 + 1)] }

/-- World table of world 1 with one entry, a gate to 0x5000 at user level. -/
def gateCpu : State :=
  let s := callCpu.setReg (oClu 0 0x2030) (setBf (setBf 0 63 48 1) 45 3 (0x2100 / 8))
  inL2 0 0x84 { s with mem := mwrWs 0x2100 [setBf (setBf 0 55 55 1) 46 0 0x5000] s.mem }

theorem witness_calls :
    MayCall callCpu 14 ∧ holds callCpu 14 1 tCode ∧ headerOk tCode (headW 3 0 2) = true ∧ bf (fixN 0x3000) 46 0 % 4 = 0 ∧
    Issues (inSlot callCpu true (some 0x1020)) 14 page ∧ MayCall (inSlot callCpu true (some 0x1020)) 14 ∧
    ((inSlot callCpu true (some 0x1020)).flow 14).branch = some { pc := 0x1000, target := some 0x1020, call := true, flags := 0 } := by
  unfold MayCall holds Issues; decide +kernel

theorem witness_ReadsAs : ∀ e ∈ [(0x2000, headW 3 0 2), (0x2008, fixN 0x3000), (0x2010, fixN 5)], ReadsAs callCpu 14 e.1 e.2 := by
  intro e h
  obtain ⟨pa, h, -⟩ : ∃ pa, Cached callCpu 14 e.1 pa e.2 ∧ True := cachedAt page (by revert e; decide +kernel) trivial (by revert e; decide +kernel)
  exact ⟨pa, h⟩

theorem witness_worldEntry : worldEntry gateCpu 14 0 (setBf (setBf 0 55 55 1) 46 0 0x5000) := by
  refine ⟨?_, inL2_of ?_, ?_, ?_, ?_, ?_, ?_, ?_⟩ <;> decide +kernel

theorem witness_returns :
    (let s := withMe callCpu fun y => { y with shadow := [shadowW 0 0 0 0x1014, shadowW 2 0 0 0], base := 1,
                                               spec := { y.spec with lr := fixN 0x1014, st := setBf y.spec.st 23 20 2 } }
     MayReturn s 14 0 (shadowW 0 0 0 0x1014) [shadowW 2 0 0 0] ∧ bf (shadowW 0 0 0 0x1014) 46 0 = bf (s.core 14).me.spec.lr 46 0 ∧
      Steady s 14 page ∧
      gives (.ret 14) s (fun u => (u.flow 14).pc = 0x1014 ∧ (u.core 14).me.base = 0 ∧ (u.core 14).me.shadow = [shadowW 2 0 0 0] ∧
        stWres (u.st 14) = 1) = true) ∧
    (let s := withMe callCpu fun y => { y with shadow := [shadowW 1 0 1 0x1014, shadowW 2 0 0 0], base := 1, spec := { y.spec with st := setBf y.spec.st 23 20 2 } }
     MayReturn s 14 1 (shadowW 1 0 1 0x1014) [shadowW 2 0 0 0] ∧
      gives (.wret 14) s (fun u => (u.flow 14).pc = 0x1014 ∧ stSup (u.core 14).me.spec.st = 0 ∧ stWorld (u.core 14).me.spec.st = 1) = true) := by
  unfold MayReturn Steady Issues; decide +kernel

theorem witness_loops :
    holdsFix nums 14 1 ∧
    goes (.loopi 14 0 3) nums 0x1014 = true ∧
    gives (.loopi 14 5 3) nums (fun u => (u.flow 14).pc = 0x1004 ∧ stLdep (u.st 14) = 1 ∧ bf (u.spec 14).lb0 46 0 = 0x1004 ∧
      bf (u.spec 14).lb0 55 47 = 3 ∧ bf (u.spec 14).lc 27 0 = 5) = true ∧
    gives (.loopr 14 1 3) nums (fun u => bf (u.spec 14).lc 27 0 = 7) = true ∧
    gives (.repi 14 9) nums (fun u => (u.spec 14).rc = fixN 9 ∧ (u.flow 14).rep = some { pc := 0x1000, old := 0, started := false, flags := 0 }) = true ∧
    gives (.repr 14 1) nums (fun u => (u.spec 14).rc = fixN 7) = true := by
  unfold holdsFix; decide +kernel

/-- Inside one loop of two words from 0xFFC, `n` rounds left. -/
def looping (n : Nat) : State :=
  withMe nums fun y => { y with spec := { y.spec with st := setBf y.spec.st 26 25 1, lb0 := setBf (fixN 0xFFC) 55 47 1, lc := fixN n } }

theorem witness_insideLoops :
    Issues (looping 3) 14 page ∧ ((looping 3).flow 14).rep = none ∧ stLdep ((looping 3).st 14) = 1 ∧
    ((looping 3).flow 14).pc = bf (looping 3 |>.spec 14).lb0 46 0 + bf (looping 3 |>.spec 14).lb0 55 47 * 4 ∧
    gives (.nopS 14) (looping 3) (fun u => (u.flow 14).pc = 0xFFC ∧ bf (u.spec 14).lc 27 0 = 2 ∧ stLdep (u.st 14) = 1) = true ∧
    gives (.nopS 14) (looping 1) (fun u => (u.flow 14).pc = 0x1004 ∧ stLdep (u.st 14) = 0) = true ∧
    (let s := withMe (looping 3) fun y => { y with flow := .start 0xFFC }
     s.isLast 14 0xFFC = false ∧ Issues s 14 page ∧ gives (.lbrk 14) s (fun u => stLdep (u.st 14) = 0 ∧ (u.flow 14).pc = 0x1000) = true) ∧
    (let s := fun (n : Nat) => withMe nums fun y =>
       { y with flow := { Flow.start 0x1000 with rep := some { pc := 0xFFC, old := 0, started := true, flags := 0 } }, spec := { y.spec with rc := fixN n } }
     ((s 2).flow 14).rep = some { pc := 0xFFC, old := 0, started := true, flags := 0 } ∧
      gives (.nopS 14) (s 2) (fun u => (u.flow 14).pc = 0x1000 ∧ bf (u.spec 14).rc 27 0 = 1) = true ∧
      gives (.nopS 14) (s 1) (fun u => (u.flow 14).pc = 0x1004 ∧ (u.flow 14).rep = none) = true) := by
  unfold Issues; decide +kernel

/-- s7 has room for a frame below 0x3000, the handlers lie at 0x8000. -/
def trapCpu (regs : List (Nat × Word)) : State := (cpu (regs ++ [(79, fixN 0x3000)])).setField (oClu 0 0x2000) 46 12 8

theorem witness_FaultReady : FaultReady (trapCpu []) 14 0x3000 page page := by
  unfold FaultReady entryReady Takes Steady Issues; decide +kernel

/-- The word enters the exception of class `cls`, cause `cause`, with EPC `epc`. -/
def traps (i : Instr) (s : State) (cls cause epc : Nat) : Bool :=
  gives i s fun u => (u.flow 14).pc = 0x8000 + cls * 0x40 ∧ (u.core 14).me.spec.epc = fixN epc ∧ bf (u.core 14).me.spec.esr 55 48 = cls ∧
    bf (u.core 14).me.spec.esr 47 40 = cause ∧ (u.core 14).me.level = 1 ∧ u.rget 14 23 = fixN 0x2FE0 ∧
    mrdW 0x2FE0 u.mem = setBf (s.core 14).me.spec.st 63 56 0

theorem witness_exceptions :
    traps (.sys 14 77) (trapCpu []) 0x0E 0 0x1004 = true ∧ traps (.illegalInstruction 14 0xFFFFFFFF) (trapCpu []) 0x06 0 0x1000 = true ∧
    traps (.andR 14 24 1 1) (trapCpu []) 0x06 0 0x1000 = true ∧ traps (.andR 14 3 1 1) (trapCpu [(1, mkTag tUninit 0)]) 0x0A 1 0x1000 = true ∧
    traps (.andR 14 3 1 1) (trapCpu [(1, mkTag tSym 0)]) 0x0A 3 0x1000 = true ∧ ¬ named 24 ∧ named 23 ∧ definedWord 14 0xFFFFFFFF = false := by
  unfold named; decide +kernel

/-- In a handler, its frame at 0x2000: ST, EPC and ESR of the program before. -/
def handler : State :=
  let s := cpu [(79, fixN 0x2000)]
  let s := { s with mem := mwrWs 0x2000 [0xA0100000, fixN 0x44, fixN 5] s.mem }
  let s := s.setCore 14 { s.core 14 with l1d := [(0, 0x81)] }
  withMe s fun y => { y with level := 1, spec := { y.spec with epc := fixN 0x1234 } }

theorem witness_eret :
    Steady handler 14 page ∧ stSup (handler.core 14).me.spec.st = 1 ∧ (handler.core 14).me.storeQ = [] ∧ (handler.core 14).blocked = none ∧ (handler.core 14).cur < 4 ∧
    handler.rf 14 (globKey 0 0 7) = mkTag 0 0x2000 ∧ frameAt handler 14 0x2000 page 0 0xA0100000 ∧ frameAt handler 14 0x2000 page 1 (fixN 0x44) ∧
    frameAt handler 14 0x2000 page 2 (fixN 5) ∧ forgery (handler.core 14).me.spec.st 0xA0100000 = none ∧ (handler.core 14).me.spec.epc ≠ 0 ∧
    bf (handler.core 14).me.spec.epc 46 0 % 4 = 0 ∧
    gives (.eret 14) handler (fun u => (u.core 14).me.flow.pc = 0x1234 ∧ (u.core 14).me.spec.st = 0xA0100000 ∧ (u.core 14).me.spec.epc = fixN 0x44 ∧
      (u.core 14).me.level = 0 ∧ u.rget 14 23 = fixN 0x2020) = true := by
  unfold frameAt Steady Issues; decide +kernel

theorem witness_interrupts :
    (let s := (withMe (trapCpu []) fun y => { y with spec := { y.spec with st := setBf y.spec.st 29 29 1 } })
     let s := { (s.setField (oCore 14 0) 12 8 31) with irqErr := 1 }
     s.recognises 14 = true ∧ s.irqNext 14 0 = some 3 ∧ entryReady s 14 0x3000 page ∧
      traps (.interruptTaken 14) s 3 3 0x1000 = true) ∧
    (let s := { (((trapCpu []).setField (oCore 14 0x10) 63 63 1).setField (oCore 14 0x10) 55 52 3).setField (oCore 14 0x10) 46 2 0x1000 with irqErr := 1 }
     (s.core 14).run = true ∧ s.recognises 14 = true ∧ (s.core 14).bankGap = false ∧ s.field (oCore 14 0x10) 63 63 = 1 ∧
      s.field (oCore 14 0x10) 62 62 = 0 ∧ s.bankPending 14 (s.field (oCore 14 0x10) 55 52) = true ∧
      gives (.fiqEntry 14) s (fun u => (u.core 14).bankOn = true ∧ (u.core 14).bankFlow = .start 0x4000 ∧ stHeld (u.core 14).bank.st = 1) = true) ∧
    (let s := (trapCpu []).setCore 14 { (trapCpu []).core 14 with bankOn := true, bank := { SpecSt.reset with st := 0x88100000 }, tick := 2 ^ 40 }
     (s.core 14).bankOn = true ∧ s.runs 14 = true ∧ s.holdOut 14 = true ∧ (s.core 14).bankFlow.pend = [] ∧ (s.core 14).bankFlow.aLoads = [] ∧
      gives (.holdOverrun 14) s (fun u => (u.core 14).bankOn = false ∧ u.field (oCore 14 0x10) 62 62 = 1 ∧
        u.errs.map (fun e => (e.cls, e.src, e.unit, e.code)) = [(1, 3, 14, 1)]) = true) := by
  unfold entryReady Takes; decide +kernel

/-! ### Special registers, ordering, TLBs, the L2 -/

theorem witness_specialRegisters :
    (let s := withMe nums fun y => { y with spec := { y.spec with lr := fixN 4, epc := fixN 8, esr := fixN 5 } }
     mayUse s 14 5 ∧ mayUse s 14 7 ∧ puts (.mfs 14 3 0) s 3 (fixN 4) = true ∧ puts (.mfs 14 3 5) s 3 (fixN 8) = true ∧
      puts (.mfs 14 3 4) s 3 (setBf 0x80100000 63 56 0) = true ∧ puts (.mfs 14 3 9) s 3 (fixN 0) = true) ∧
    gives (.mts 14 0 1) nums (fun u => (u.core 14).me.spec = specWritten (nums.core 14).me.spec 0 (fixW 7)) = true ∧
    gives (.mts 14 1 2) nums (fun u => (u.core 14).me.spec = specWritten (nums.core 14).me.spec 1 (fixW (-3))) = true ∧
    gives (.mts 14 8 2) nums (fun u => (u.core 14).me.spec.mrl = fixW (-3)) = true ∧
    (let s := cpu [(1, fixN 0xA0000000)]
     s.sup 14 = true ∧ bf (s.rget 14 1) 26 25 = 0 ∧
      gives (.mts 14 4 1) s (fun u => stSup (u.st 14) = 1 ∧ stIe (u.st 14) = 1 ∧ stWres (u.st 14) = 1) = true) ∧
    isFit 14 = true ∧ isFix (nums.core 14).me.spec.mrh = true ∧ isFix (nums.core 14).me.spec.mrl = true ∧
    gives (.xmul 14 1 2) nums (fun u => (u.core 14).me.mult = [(nums.tick 14, fixW (-1), fixW (-21))]) = true ∧
    gives (.xfma 14 1 2) (withMe nums fun y => { y with spec := { y.spec with mrl := fixN 30 } })
      (fun u => (u.core 14).me.mult = [(nums.tick 14, fixN 0, fixN 9)]) = true ∧
    (let s := withMe nums fun y => { y with mult := [(0, fixN 3, fixN 4)] }
     let s := s.setCore 14 { s.core 14 with tick := 10 }
     Issues s 14 page ∧ (s.core 14).me.mult = [(0, fixN 3, fixN 4)] ∧ 4 ≤ s.since 14 0 ∧
      gives (.nopS 14) s (fun u => (u.core 14).me.spec.mrh = fixN 3 ∧ (u.core 14).me.spec.mrl = fixN 4 ∧ (u.core 14).me.mult = []) = true) := by
  unfold mayUse Issues; decide +kernel

theorem witness_orderingAndTlbs :
    (let s := withMe nums fun y => { y with storeQ := [(0x2000, fixN 9)] }
     (s.core 14).me.storeQ = [(0x2000, fixN 9)] ∧ s.memDead 0x2000 = false ∧ s.isCheck 0x2000 = false ∧ 0x2000 < s.stacks * stackSize ∧ tagOf (mrdW 0x2000 s.mem) ≠ tFwd ∧
      gives (.fence 14) s (fun u => (u.core 14).me.storeQ = [] ∧ mrdW 0x2000 u.mem = fixN 9) = true) ∧
    gives (.dsync 14) { nums with ucode := { UcodeSt.reset with decA := [(40, 7)] } } (fun u => (u.core 14).dec = [(40, 7)]) = true ∧
    (let s := (cpu [(1, fixN 0x40)]).setClu 0 { CluSt.reset with tlb := [(0, page)] }
     s.sup 14 = true ∧ tagOf (s.rget 14 1) = tFix ∧ page.hits (s.world_ 14) (bf (s.rget 14 1) 46 0) = true ∧
      gives (.tlbiA 14 1) s (fun u => (u.core 14).dtlb = [] ∧ (u.clu 0).tlb = []) = true ∧
      gives (.tlblk 14 1) s (fun u => (u.clu 0).tlb = [(0, { page with locked := true })]) = true ∧
      (let s := s.setClu 0 { CluSt.reset with tlb := [(0, { page with locked := true })] }
       gives (.tlbiAll 14) s (fun u => (u.core 14).dtlb = [] ∧ (u.clu 0).tlb.length = 1) = true ∧
        gives (.tlbul 14 1) s (fun u => (u.clu 0).tlb = [(0, page)]) = true)) ∧
    (let s := cpu [(1, fixN 0)]
     pay (s.rget 14 1) < 2 ∧ gives (.tlbiW 14 1) s (fun u => (u.core 14).itlb = []) = true) := by
  decide +kernel

/-- Page tables of world 0: a table at 0x10000 whose entry 0 leads to that at 0x14000, whose entry 0 maps 32 MiB. -/
def walkCpu : State :=
  let s := (cpu []).setCore 14 { (cpu []).core 14 with dtlb := [] }
  let s := { s.setReg (oClu 0 0x4000) (setBf (setBf 0 63 63 1) 45 14 4) with world := { WorldSt.reset with regions := [(0, 3)] } }
  { s with mem := mwrW 0x10000 (setBf (setBf (setBf 0 55 55 1) 54 54 1) 45 14 5) (mwrW 0x14000 (setBf (setBf 0 55 55 1) 52 50 7) s.mem) }

theorem witness_pageWalk : walkCpu.runs 14 = true ∧ (walkCpu.core 14).dtlb.length < 64 ∧
    (walkCpu.core 14).dtlb.find? (fun x => x.hits (walkCpu.world_ 14) (bf 0x2000 46 0)) = none ∧
    (walkCpu.clu (cluOf 14)).tlb.find? (fun x => x.2.hits (walkCpu.world_ 14) (bf 0x2000 46 0)) = none ∧
    (match (walkCpu.bump (oCnt (cluOf 14) 0x4100)).walkFill (cluOf 14) (walkCpu.world_ 14) (bf 0x2000 46 0) (accFault .load (bf 0x2000 46 0)) false 5 with
      | (_, .inr (a, true)) => decide (a = page)
      | _ => false) = true := by
  decide +kernel

/-- Line 0x80 is in way 3 of the L2 of cluster 0, dirty. -/
def l2Cpu : State := nums.setClu 0 { CluSt.reset with l2 := [(0x80 * 16 + 3, some { line := 0x80, dirty := true, mark := false, behind := none, one := 0, two := 0, lost := 0 })] }

theorem witness_lineFill : l2Cpu.l2Find (cluOf 14) (0x2000 / 64) = some 3 ∧ isDevice 0x2000 = false ∧
    (let s := l2Cpu.setCore 14 { l2Cpu.core 14 with blocked := some 0x80 }
     (s.core 14).blocked = some (0x2000 / 64) ∧ s.l2Find 0 (0x2000 / 64) = some 3 ∧ (s.core 14).upset = [] ∧ inL2b s 0 0x2000 = true ∧
      gives (.lineFill 14 .data 0x2000) s (fun u => (u.core 14).blocked = none ∧ l1Has 0x80 (u.core 14).l1d = true) = true) ∧ l1Has 0x80 (l2Cpu.core 14).l1d = false ∧
    gives (.lineFill 14 .side 0x2000) l2Cpu (fun u => (u.core 14).side = [0x80]) = true := by
  decide +kernel

def line82 : L2Line := { line := 0x82, dirty := true, mark := false, behind := none, one := 0, two := 0, lost := 0 }

theorem witness_LevelTwoCache :
    (let s := cpu [(1, fixN 0x2000), (2, fixN 3)]
     s.sup 14 = true ∧ holdsFix s 14 1 ∧ s.rget 14 2 = mkTag 0 3 ∧ bit (s.lockMask 0) 3 = false ∧ isDevice 0x2000 = false ∧
      s.memDead 0x2000 = false ∧ s.isCheck 0x2000 = false ∧ 0x2000 < s.stacks * stackSize ∧ sget (0, 0) 0x80 s.flips = (0, 0) ∧
      sget 0 0x80 s.bad = 0 ∧ s.decoding 0x2000 = false ∧ sget [] (ctlOf 0x2000) s.merges = [] ∧ s.l2Find 0 0x80 = none ∧ s.l2At 0 0x80 3 = none) ∧
    (let s := cpu [(1, fixN 0xFFF)]
     bf (s.rget 14 1) 55 16 = 0 ∧ popcount16 (bf (s.rget 14 1) 15 0) ≤ 12 ∧ tagOf (s.rget 14 1) = tFix ∧
      gives (.l2lock 14 1) s (fun u => u.reg (oClu 0 0x4010) = 0xFFF) = true) ∧
    (popcount16 (bf 0xFFF 15 0) ≤ 12 ∧ gives (.cluL2lockWrite 9 0 0xFFF) dev (fun u => u.reg (oClu 0 0x4010) = 0xFFF) = true) ∧
    (12 < popcount16 (bf 0x1FFF 15 0) ∧ gives (.cluL2lockWrite 9 0 0x1FFF) dev (fun u => decide (u = dev.at 9)) = true) ∧
    (let s := dev.setClu 0 { CluSt.reset with evict := [(2, some line82)] }
     sget none 2 (s.clu 0).evict = some line82 ∧ (s.clu 0).evWait = [] ∧ s.domain (80 + ctlOf (0x82 * 64)) ≠ 0 ∧
      gives (.evictionAccept 9 0 2) s (fun u => (u.clu 0).evict = []) = true) ∧
    l2Cpu.l2At 0 0x80 3 = some { line := 0x80, dirty := true, mark := false, behind := none, one := 0, two := 0, lost := 0 } ∧
    gives (.snoop 9 0 (.cluster 5) 0x2000 false) l2Cpu (fun u => u.l2At 0 0x80 3 = some { line := 0x80, dirty := false, mark := false, behind := none, one := 0, two := 0, lost := 0 }) = true ∧
    gives (.snoop 9 0 (.cluster 5) 0x2000 true) l2Cpu (fun u => u.l2At 0 0x80 3 = none) = true ∧
    gives (.snoop 9 0 .host 0x2000 false) l2Cpu (fun u => u.l2At 0 0x80 3 = some { line := 0x80, dirty := false, mark := false, behind := none, one := 0, two := 0, lost := 0 } ∧
      1 ≤ sget 0 0x80 u.hostLines) = true ∧
    gives (.snoop 9 0 .host 0x2000 true) l2Cpu (fun u => u.l2At 0 0x80 3 = none ∧ sget 0 0x80 u.hostLines = 2) = true ∧
    (let l : L2Line := { line82 with two := 4, lost := 1 }
     sharedCopy l = { l with dirty := false, two := 0, lost := 5 }) := by
  unfold holdsFix; decide +kernel

/-- r1 the VEC of eight words at 0x2000, in the data cache; context 0 runs the slice of region 5. -/
def stageCpu : State :=
  let s := cpu [(1, mkTag tVec 0x2000)]
  let s := { s with mem := mwrWs 0x2000 [headW 1 0 8, 1, 2, 3, 4, 5, 6, 7, 8] s.mem }
  let s := withMe s fun y => { y with prog := some slice0.key }
  (s.setCore 14 { s.core 14 with l1d := [(0, 0x80 + 1), (4, 0x81 + 1)] }).setClu 0 { CluSt.reset with slices := [{ slice0 with st := .firmRun }] }

theorem witness_stage :
    holds stageCpu 14 1 tVec ∧ (stageCpu.core 14).me.prog = some slice0.key ∧ (stageCpu.clu (cluOf 14)).slices = [{ slice0 with st := .firmRun }] ∧
    headerOk tVec (headW 1 0 8) = true ∧ bf (headW 1 0 8) 31 0 = 8 ∧
    gives (.stage 14 1) stageCpu (fun u => (u.clu 0).slices = [{ slice0 with st := .firmRun, staged := [[1, 2, 3, 4, 5, 6, 7, 8]] }]) = true := by
  unfold holds; decide +kernel

theorem witness_candidatesAndCustomerWords :
    (let s := { frm with outqs := [(3, [(List.replicate 8 5, 1)])] }
     sget [] 3 s.outqs = [(List.replicate 8 5, 1)] ∧ candCount (sget [] 3 s.mast.fifos) < 64 ∧
      gives (.candidateTransfer 9 3) s (fun u => u.outqs = [] ∧ sget [] 3 u.mast.fifos = [.cand (List.replicate 8 5) 1]) = true) ∧
    (bf (sget 0 (32 + 4) ((trapCpu []).core 14).dec) 63 63 = 0 ∧ traps (.cx 14 4 3 1 2 0) (trapCpu []) 0x06 0 0x1000 = true) ∧
    (let s := dev.setField (oUcs 0x18) 5 0 40
     32 ≤ 40 ∧ (bf 0x8000000000007900 63 63 = 1 → 0x7800 ≤ bf 0x8000000000007900 14 0) ∧
      gives (.decodeTableAccess 9 true 0x8000000000007900) s (fun u => sget 0 40 u.ucode.decS = 0x8000000000007900 ∧ u.tabPending 3 = true) = true ∧
      gives (.decodeTableAccess 9 false 0) { s with ucode := { UcodeSt.reset with decS := [(40, 7)] } } (fun u => u.rdata = 7) = true) := by
  decide +kernel

theorem witness_CxBound :
    let s := (trapCpu []).setCore 14 { (trapCpu []).core 14 with dec := [(36, 0x8000000000007900)] }
    let ram := fun (w : BitVec 144) => { s with ucode := { UcodeSt.reset with ram := [(0x7900, some w)] } }
    CxBound s 14 4 0x7900 ∧ FaultReady s 14 0x3000 page page ∧ returns 0x401c00000000000000000000000000000000#144 ∧
    (ram 0x401c00000000000000000000000000000000#144).microword 0x7900 = some 0x401c00000000000000000000000000000000#144 ∧
    traps (.cx 14 4 3 1 2 0) (ram (0x100000000000000000000#144)) 0x09 0 0x1000 = true ∧ mbf 0x100000000000000000000#144 83 80 = 1 ∧
    s.microword 0x7900 = none ∧ traps (.cx 14 4 3 1 2 0) s 0x09 0 0x1000 = true ∧
    traps (.safePointOverrun 14 4 0x7900) s 0x09 0 0x1000 = true := by
  unfold CxBound FaultReady entryReady Takes Steady Issues returns; dsimp only; decide +kernel

/-! ### HBM -/

theorem witness_Serves : Serves dev 1 0xC00000040 := by unfold Serves; decide +kernel

/-- A record of the error log holds free values (die, bank), so that what writes one shows its hypotheses only. -/
theorem witness_memoryWrite :
    gives (.memoryWrite 9 1 0xC00000040 2 [1, 2, 3, 4, 5, 6, 7, 8]) dev (fun u => mrdW 0xC00000048 u.mem = 2 ∧ mrdW 0xC00000040 u.mem = uninit ∧
      (sget [] 1 u.merges).any (fun e => e.1 == 0xC00000040 / 64) = true) = true ∧
    gives (.memoryWrite 9 1 0xC00000040 0xFF [1, 2, 3, 4, 5, 6, 7, 8]) dev (fun u => mrdW 0xC00000078 u.mem = 8 ∧ u.badMask 0xC00000040 = 0) = true := by
  decide +kernel

theorem witness_memoryRead :
    (sget [] 1 dev.merges).all (fun e => e.1 != 0xC00000040 / 64) = true ∧ sget (0, 0) (0xC00000040 / 64) dev.flips = (0, 0) ∧
    dev.badMask 0xC00000040 = 0 ∧ dev.isPage 0xC00000040 = true ∧
    gives (.memoryRead 9 1 0xC00000040 .core 3 .clean) dev (fun u => u.errs = [] ∧ u.mem = []) = true ∧
    gives (.memoryRead 9 1 0xC00000040 .core 3 (.uncorrectable 5)) dev (fun u => sget 0 (0xC00000040 / 64) u.suspect = 5) = true ∧
    (let s := dev.setReg (oMem 1 0x1000) 1
     s.isPage 0xC00000040 = false ∧ Serves s 1 0xC00000040) := by
  unfold Serves; decide +kernel

theorem witness_ControllersRepairFillAndFail :
    (let s := { dev with suspect := [(0xC00000040 / 64, 5)], decodes := [(1, [0xC00000040 / 4096])] }
     ctlOf 0xC00000040 = 1 ∧ sget 0 (0xC00000040 / 64) s.suspect = 5 ∧ ((sget [] 1 s.decodes).take 4).contains (0xC00000040 / 4096) = true ∧ (sget (0, 0) (checkBlock 0xC00000040 / 64) s.flips).2 < 2 ∧
      gives (.pageDecode 9 1 0xC00000040 .core 3 false) s (fun u => u.suspect = [] ∧ sget 0 (0xC00000040 / 64) u.bad = 5 ∧ u.decoding 0xC00000040 = false) = true ∧
      (let s := { s with flips := [(checkBlock 0xC00000040 / 64, (0, 2))] }
       s.small = false ∧ gives (.pageDecode 9 1 0xC00000040 .core 3 true) s (fun u => sget 0 (0xC00000040 / 64) u.bad = 5) = true)) ∧
    gives (.mergeComplete 9 1 0xC00000040) { dev with merges := [(1, [(0xC00000040 / 64, 2, 3)])] } (fun u => u.merges = []) = true ∧
    (let s := { dev with merges := [(1, [(0xC00000040 / 64, 2, 3)])], bad := [(0xC00000040 / 64, 6)] }
     (sget [] 1 s.merges).find? (fun e => e.1 == 0xC00000040 / 64) = some (0xC00000040 / 64, 2, 3) ∧ s.decoding 0xC00000040 = false ∧
      s.badMask 0xC00000040 = 6 ∧ sget (0, 0) (0xC00000040 / 64) s.flips = (0, 0)) ∧
    (let s := { dev with small := true }
     (2 : Nat) < 4 ∧ s.stacks ≤ 2 ∧ gives (.flipArm 9 2 0x8000000000000040) s (fun u => u.regs = s.regs) = true ∧
      gives (.flipArm 9 1 0xA000000000000040) s (fun u => u.field (oMem 1 0x20) 61 61 = 0 ∧ u.field (oMem 1 0x20) 63 63 = 1) = true) ∧
    (dev.field (oMem 1 0x20) 63 63 = 0 ∧ gives (.flipArm 9 1 0x8000000000000040) dev (fun u => u.field (oMem 1 0x20) 63 62 = 2) = true) ∧
    (let s := { dev.setField (oMem 1 8) 61 61 1 with mem := mwrW 0x40 7 (mwrW 0xC00000040 8 []) }
     (1 : Nat) < s.stacks ∧ s.field (oMem 1 8) 61 61 = 1 ∧
      gives (.powerOnFill 9 1 false) s (fun u => mrdW 0xC00000040 u.mem = uninit ∧ mrdW 0x40 u.mem = 7 ∧ u.field (oMem 1 8) 62 61 = 2) = true) := by
  decide +kernel

/-! ### The masthead -/

/-- Slot 0 is next, its cut-off noted. -/
def slot0 : State := { frm with mast := { MastSt.reset with cut := 1 } }

/-- Threshold 0 is one candidate of kind 0 of value 0 or more; trigger bit 0 takes it, with prescale 1; an accepted one was taken. -/
def fires (s : State) : State :=
  { s with
    mastA := [(0, setBf (setBf 0 63 63 1) 55 48 1), (512, setBf (setBf 0 63 63 1) 59 56 1), (1024, 1)]
    mast := { s.mast with taken := [(0, [(3, [0, 5, 0, 0, 0, 0, 0, 0])])] } }

theorem witness_Decides : Decides (usT 1) slot0 0 ∧ Decides (usT 1) (fires slot0) 0 ∧ slot0.role = 0 := by unfold Decides; decide +kernel

theorem witness_SlotsAreDecidedInOrder :
    (((fires slot0).at (usT 1)).raw 0 = 1 ∧ ((fires slot0).at (usT 1)).dead 0 = false ∧ ((fires slot0).at (usT 1)).lateSrc 0 = 0 ∧
      gives (.slotCutoff (usT 1) 0 false) (fires slot0) (fun u => u.mast.next = 1 ∧ verdict u = (1, 0, 0, 0) ∧ u.mast.record.getD 3 0 = 1) = true) ∧
    gives (.slotCutoff (usT 1) 0 false) slot0 (fun u => verdict u = (0, 0, 0, 0)) = true ∧
    (let s := { fires slot0 with mastA := (fires slot0).mastA ++ [(1536, 5)] }
     let s := { s with mast := { s.mast with next := 2, cut := 3, accepted := [1] } }
     Decides (usT 2) s 2 ∧ (s.at (usT 2)).dead 2 = true ∧ gives (.slotCutoff (usT 2) 2 false) s (fun u => verdict u = (0, 0, 1, 0)) = true) ∧
    (let s := slot0.setField (oMst 0x20) 35 0 8
     let s := { s with eff := [(oMst 0, 0x8000000000000000)] }
     Decides (usT 1) s 0 ∧ (s.at (usT 1)).lateSrc 0 = 8 ∧ (s.at (usT 1)).dead 0 = false ∧
      gives (.slotCutoff (usT 1) 0 false) s (fun u => verdict u = (2, 1, 0, 0) ∧ bf (u.mast.record.getD 5 0) 35 0 = 8) = true) ∧
    gives (.slotCutoff (usT 1) 0 true) slot0 (fun u => u.mast.next = 1 ∧ verdict u = (0, 0, 0, 1) ∧ u.field (oMst 8) 61 61 = 1) = true ∧
    (let s := { fires slot0 with mast := { (fires slot0).mast with failed := true } }
     gives (.slotCutoff (usT 1) 0 false) s (fun u => verdict u = (0, 0, 0, 1) ∧ u.mast.next = 1) = true) ∧
    (let s := (fires slot0).setField (oMst 0x18) 63 62 2
     let s := { s with ring := { s.ring with joined := true } }
     s.combines = true ∧ Decides (usT 1) s 0 ∧
      gives (.systemCutoff (usT 1) 0 false) s (fun u => verdict u = (1, 0, 0, 0) ∧ bf (u.mast.record.getD 5 0) 57 57 = 1) = true) := by
  unfold Decides; decide +kernel

theorem witness_candidateTake :
    let ws : List Word := [3, 5, 0, 0, 0, 0, 0, 0]
    let s := { frm with mast := { MastSt.reset with fifos := [(2, [.cand ws 1])] } }
    s.mast.fifos = [(2, [.cand ws 1])] ∧ s.role = 0 ∧ s.ha3 = false ∧ 1 = s.frame.count ∧ (s.at 9).badCand ws = false ∧ s.mast.next ≤ 3 ∧ 9 ≤ s.closeT 3 ∧
    gives (.candidateTake 9) s (fun u => u.mast.fifos = [] ∧ sget [] 3 u.mast.taken = [(2, ws)] ∧ (u.reg (oMst 0x128)).toNat = 1) = true ∧
    (s.closeT 3 < usT 9 ∧ (s.at (usT 9)).badCand ws = false ∧
      gives (.candidateTake (usT 9)) s (fun u => u.mast.taken = [] ∧ (u.reg (oMst 0x130)).toNat = 1) = true) := by
  decide +kernel

theorem witness_doneTimesAndReports :
    (sget [] 3 frm.outqs = [] ∧ frm.castOn = true ∧
      gives (.doneTime 9 3) frm (fun u => sget [] 3 u.mast.fifos = [.done ((frm.at 9).cluDone 3)]) = true) ∧
    (let s := { frm with reports := [(33, 4), (2, 7)], mast := { MastSt.reset with next := 5 } }
     s.role ≠ 1 ∧ (33, 4) ∈ s.reports ∧ (2, 7) ∈ s.reports ∧
      gives (.slotReport 9 33 4) s (fun u => u.reports = [(2, 7)] ∧ bit u.mast.lateReef 33 = true) = true ∧
      gives (.slotReport 9 2 7) s (fun u => u.reports = [(33, 4)] ∧ bit (sget 0 7 u.mast.slotReef) 2 = true) = true) := by
  decide +kernel

theorem witness_readoutGather :
    let j : RoJob := { slot := 0, record := List.replicate 8 0, cands := [] }
    let s := (queueOn frm 7 1 1).setField (oQcfg 7) 54 52 4
    let s := { (s.setField (oQidx 7) 63 32 16) with mast := { MastSt.reset with ro := [j], next := 1 } }
    s.mast.ro = [j] ∧ s.activeQueues 1 = [7] ∧ bit (s.kinds 7) 2 = true ∧ s.qFull 7 = true ∧ sget [] 7 s.mast.roOut = [] ∧
    s.slotT j.slot + s.horizon ≤ usT 2 ∧ s.field (oQbind 7) 31 0 = 0 ∧
    gives (.readoutGather (usT 2) 0) s (fun u => u.mast.ro = [] ∧ sget [] 7 u.mast.roOut = ((s.at (usT 2)).roRecords j 0 false).2) = true := by
  decide +kernel

theorem witness_swaps :
    (let s := { dev.setField (oDev 0x20) 3 0 15 with regionS := [(3, 5)], dmapS := [(4, 1)], mastS := [(7, 6)], ucode := { UcodeSt.reset with decS := [(40, 7)] } }
     (∀ k : Fin 4, s.tabPending k = true) ∧ s.castOn = false ∧
      gives (.swap 9 1) s (fun u => u.regionA = [(3, 5)] ∧ gen u 0 = 1 ∧ u.tabPending 0 = false ∧ u.tabPending 1 = true) = true ∧
      gives (.swap 9 4) s (fun u => u.mastA = [(7, 6)] ∧ gen u 2 = 1 ∧ u.tabPending 2 = false) = true ∧
      gives (.swap 9 8) s (fun u => u.ucode.decA = [(40, 7)] ∧ gen u 3 = 1) = true) ∧
    (let s := { frm.setField (oDev 0x20) 3 0 15 with regionS := [(3, 5)], mastS := [(7, 6)], ucode := { UcodeSt.reset with decS := [(40, 7)] } }
     s.castOn = true ∧ s.tabWaiting 0 = false ∧ s.tabPending 2 = true ∧
      gives (.swap 9 1) s (fun u => u.tabWaiting 0 = true ∧ u.regionA = [] ∧ gen u 0 = 0) = true ∧
      gives (.swap 9 4) s (fun u => u.tabWaiting 2 = true ∧ u.mast.swapAt = some 9) = true ∧
      gives (.swap 9 8) s (fun u => u.ucode.decA = [(40, 7)] ∧ gen u 3 = 1) = true) ∧
    (let s := { frm.setField (oDev 0x20) 6 0 0x44 with mastS := [(7, 6)], mast := { MastSt.reset with swapAt := some 9 } }
     s.mast.swapAt = some 9 ∧ 9 + 64 * mastT ≤ s.cutoffT s.mast.next ∧
      gives (.mastheadActivation 20) s (fun u => u.mastA = [(7, 6)] ∧ gen u 2 = 1 ∧ u.mast.swapAt = none) = true) := by
  decide +kernel

theorem witness_mstTab :
    let s := (dev.setField (oMst 0x38) 17 16 1).setField (oMst 0x38) 7 0 63
    s.field (oMst 0x38) 17 16 = 1 ∧ s.field (oMst 0x38) 7 0 = 63 ∧ 63 < mtabSize 1 ∧
    gives (.mstTabAccess 9 true true 77) s (fun u => u.mastS = [(512 + 127, 77)] ∧ u.tabPending 2 = true) = true ∧
    gives (.mstTabAccess 9 true false 0) { s with mastS := [(512 + 127, 77)] } (fun u => u.rdata = 77) = true ∧
    (let s := s.setField (oMst 0x38) 7 0 64
     mtabSize (s.field (oMst 0x38) 17 16) ≤ s.field (oMst 0x38) 7 0 ∧
      gives (.mstTabAccess 9 true true 77) s (fun u => u.mastS = [] ∧ u.tabPending 2 = false) = true ∧
      gives (.mstTabAccess 9 true false 77) { s with rdata := 5 } (fun u => u.rdata = 0) = true) ∧
    (let s := ((dev.setField (oMst 0x38) 17 16 2).setField (oMst 0x38) 7 0 3).setField (oMst 0x38) 62 62 1
     let s := { s with mastA := [(1024 + 6, 5)], mast := { s.mast with counts := [(3, 9)] } }
     gives (.mstTabAccess 9 false false 0) s (fun u => bf u.rdata 55 32 = 9 ∧ bf u.rdata 31 0 = 5) = true) := by
  decide +kernel

/-! ### The ring -/

/-- Device 0x0100 (x 1, y 0) of a ring of 4 by 1, JOINED, ports X+ and X− UP. -/
def onRing : State :=
  let s := ((dev.setField (oShr 8) 15 0 0x100).setField (oShr 8) 24 16 4).setField (oShr 0x10) 63 60 2
  (s.setField (oPstat 0) 63 60 4).setField (oPstat 1) 63 60 4

/-- A sound message of a class and type for device 0x0100. -/
def rmsg (cls typ scope : Nat) (src : BitVec 16) (body : List Word) : RingMsg :=
  sealMsg
    { cls := BitVec.ofNat 3 cls, len := BitVec.ofNat 5 ((body.length + 2) / 4), scope := BitVec.ofNat 2 scope, radX := 0, radY := 0, typ := BitVec.ofNat 6 typ,
      dst := 0x100, src := src, seq := 7, crc := 0, body := body }

/-- A body of one block (2 words), of two blocks, of three. -/
def body2 (a b : Word) : List Word := [a, b]

theorem witness_Heard : Heard onRing 0 0 0 (rmsg 0 0 3 0x200 (body2 1 2)) ∧ Heard onRing 0 4 4 (rmsg 4 4 0 0x200 (body2 (BitVec.ofNat 64 (oDev 0x30)) 0)) ∧
    Heard onRing 0 4 5 (rmsg 4 5 0 0x200 (body2 (BitVec.ofNat 64 (oDev 0x30)) 9)) ∧ Heard onRing 0 4 0 (rmsg 4 0 3 0x200 (body2 0x0000000100040200 0)) ∧
    Heard onRing 0 4 1 (rmsg 4 1 3 0x200 (body2 0 0)) ∧ Heard onRing 0 4 2 (rmsg 4 2 1 0x200 (body2 0 0)) ∧
    Heard onRing 0 4 6 (rmsg 4 6 0 0x200 (body2 0 0)) ∧ Heard onRing 0 5 1 (rmsg 5 1 0 0x200 (body2 0 0)) := by
  unfold Heard; decide +kernel

theorem witness_RingLinks :
    gives (.fecCodeword 9 0 ⟨16, 3⟩) onRing (fun u => (u.reg (oRcnt 0 8)).toNat = 3) = true ∧
    gives (.fecCodeword 9 0 ⟨15, 0⟩) onRing (fun u => (u.reg (oRcnt 0 0)).toNat = 1) = true ∧
    gives (.fecCodeword 9 0 ⟨0, 0⟩) onRing (fun u => decide (u = onRing.at 9)) = true ∧
    gives (.ringIdle 9 0 ⟨0x5A, 0⟩ 0) onRing (fun u => (u.reg (oRcnt 0 0x10)).toNat = 1) = true ∧
    gives (.ringIdle 9 0 ⟨0xA5, 0⟩ 0) onRing (fun u => (u.rport 0).t2 = some 9) = true ∧
    ((onRing.at 9).lastAlign 0 = 0 ∧ (onRing.setRport 0 { onRing.rport 0 with lastTsync := 1 }).pstate 0 = 4 ∧
      gives (.tsyncSend 9 0) (onRing.setRport 0 { onRing.rport 0 with lastTsync := 1 }) (fun u => (u.rport 0).outq = []) = true) ∧
    ((onRing.rport 0).waitq = [] ∧ gives (.ringIdle 9 0 ⟨0, 4⟩ 5) onRing (fun u => sget 0 4 (u.rport 0).credits = 5) = true) ∧
    gives (.alignBlock 9 0) onRing (fun u => (u.rport 0).t2 = some 9) = true ∧
    ((onRing.at 9).lastAlign 0 = 0 ∧ onRing.pstate 0 = 4 ∧ 9 ≤ 0 + 163840000 ∧ (onRing.rport 0).lastTsync < 0 + 1 ∧
      gives (.tsyncSend 9 0) onRing (fun u => (u.rport 0).lastTsync = 10 ∧ (u.rport 0).outq.length = 1) = true) ∧
    (let s := onRing.setRport 0 { onRing.rport 0 with t2 := some 125000 }
     Heard s 0 0 0 (rmsg 0 0 3 0x200 (body2 10 30)) ∧ (s.rport 0).t2 = some 125000 ∧
      gives (.tsync 250000 0 (rmsg 0 0 3 0x200 (body2 10 30))) s (fun u => u.field (oShr 0x108) 63 63 = 1) = true) ∧
    (max 1 (bf 0x0000000100040200 24 16) = onRing.nx ∧ max 1 (bf 0x0000000100040200 40 32) = onRing.ny ∧
      gives (.hello 9 0 (rmsg 4 0 3 0x200 (body2 0x0000000100040200 0))) onRing (fun u => u.field (oPstat 0) 15 0 = 0x200 ∧ u.rstate = 2) = true) ∧
    (Heard onRing 0 4 0 (rmsg 4 0 3 0x200 (body2 0x0000000200040200 0)) ∧ max 1 (bf 0x0000000200040200 40 32) ≠ onRing.ny ∧
      gives (.hello 9 0 (rmsg 4 0 3 0x200 (body2 0x0000000200040200 0))) onRing (fun u => u.rstate = 0 ∧ u.field (oShr 0x10) 63 62 = 3 ∧
        u.field (oShr 0x10) 58 58 = 1) = true) ∧
    (let m := rmsg 4 3 1 0x200 (body2 0x100 0)
     Heard onRing 0 4 3 m ∧ onRing.rstate ≠ 1 ∧ gives (.conflict 9 0 m) onRing (fun u => u.rstate = 2 ∧ u.errs = []) = true) ∧
    gives (.leave 9 0 (rmsg 4 1 3 0x200 (body2 0 0))) onRing (fun u => (u.rport 0).lastLeave = some 9) = true ∧
    gives (.probe 9 0 (rmsg 4 2 1 0x200 (body2 0 0))) onRing (fun u => u.rstate = 2 ∧ u.errs = []) = true ∧
    (msgSound 4 2 (rmsg 4 2 1 0x100 (body2 0 0)) = true ∧
      gives (.probe 9 0 (rmsg 4 2 1 0x100 (body2 0 0))) onRing (fun u => (u.reg (oRcnt 0 0x30)).toNat = 1) = true) ∧
    (let s := onRing.setField (oShr 0x10) 61 60 1
     s.rstate = 1 ∧ Heard s 0 4 3 (rmsg 4 3 1 0x200 (body2 0x100 0)) ∧ bf 0x100 15 0 = s.node ∧
      gives (.conflict 9 0 (rmsg 4 3 1 0x200 (body2 0x100 0))) s (fun u => u.rstate = 0 ∧ u.field (oShr 0x10) 63 62 = 3 ∧ u.field (oShr 0x10) 59 59 = 1) = true) ∧
    (onRing.activeQueues 5 = [] ∧ (onRing.rport 0).lastLeave = none ∧
      gives (.ringLossOfSignal 9 0 false) onRing (fun u => u.pstate 0 = 5 ∧ (u.reg (oRcnt 0 0x18)).toNat = 1) = true) := by
  unfold Heard; decide +kernel

theorem witness_RingMembership :
    (let s := (dev.setField (oShr 8) 24 16 4).setField (oPstat 0) 63 60 1
     s.portUsed 0 = true ∧ s.pstate 0 = 1 ∧ s.activeQueues 5 = [] ∧ gives (.ringPortTrained 9 0) s (fun u => u.pstate 0 = 2) = true ∧
      gives (.ringPortTrained 9 0) (s.setField (oPstat 0) 63 60 3) (fun u => u.pstate 0 = 4) = true) ∧
    (let s := dev.setReg (oShr 0x10) 0xC000000000000000
     s.rstate = 0 ∧ s.field (oShr 0x10) 58 58 = 0 ∧ s.badNode = false ∧ s.nx = 1 ∧ s.ny = 1 ∧ gives (.join 9) s (fun u => u.rstate = 2) = true) ∧
    (let s := ((dev.setField (oShr 8) 24 16 4).setField (oPstat 0) 63 60 2).setField (oPstat 1) 63 60 2
     s.rstate = 0 ∧ s.nx = 4 ∧ (∀ i, i < 4 → s.portUsed i = true → s.pstate i = 2) ∧
      gives (.join 9) s (fun u => u.rstate = 1 ∧ u.pstate 0 = 3 ∧ u.pstate 1 = 3) = true) ∧
    (let s := onRing.setField (oShr 0x10) 61 60 1
     s.rstate = 1 ∧ s.ring.probeAt = none ∧ (∀ i, i < 4 → s.portUsed i = true → s.pstate i = 4) ∧
      s.ring.helloAt + usT 2 ≤ usT 2 ∧ gives (.joinComplete (usT 2)) s (fun u => u.ring.probeAt = some (usT 2) ∧ u.rstate = 1) = true ∧
      gives (.joinComplete (usT 100)) { s with ring := { s.ring with probeAt := some 0 } } (fun u => u.rstate = 2) = true) ∧
    gives (.leaveRequest 9) onRing (fun u => u.rstate = 3 ∧ u.ring.leaveAt = some 9) = true ∧
    (let s := { onRing.setField (oShr 0x10) 61 60 3 with ring := { onRing.ring with leaveAt := some 0 } }
     s.rstate = 3 ∧ gives (.bypassClose (usT 1)) s (fun u => u.rstate = 0 ∧ u.field (oShr 0x10) 63 62 = 3) = true) := by
  decide +kernel

/-- The device as combiner, in a frame; contributor 5 is device 0x0200. -/
def combiner : State :=
  let s := { (onRing.setField (oMst 0x18) 63 62 2).setField (oShr (0x800 + 5 * 8)) 63 63 1 with frame := frm.frame, ring := { onRing.ring with joined := true } }
  s.setField (oShr (0x800 + 5 * 8)) 15 0 0x200

/-- The device as contributor, in a frame; its combiner is device 0x0200. -/
def contributor : State :=
  { (onRing.setField (oMst 0x18) 63 62 1).setField (oMst 0x18) 47 32 0x200 with frame := frm.frame, ring := { onRing.ring with joined := true } }

theorem witness_RingContributions :
    (let m := rmsg 2 0 0 0x200 [1, 2, 3, 4, 5, 6, 7, 8, 0x10000064, 0]
     FromContributor combiner m 5 ∧ Heard combiner 0 2 0 m ∧ combiner.doneOf (bodyW m 8) = some 100 ∧
      gives (.cand 9 0 m) combiner (fun u => sget [] (srcOf combiner m) u.mast.fifos = [.cand [1, 2, 3, 4, 5, 6, 7, 8] 1, .rdone 5 100]) = true) ∧
    (let m := rmsg 2 1 0 0x200 [0x10000064, 0]
     FromContributor combiner m 5 ∧ Heard combiner 0 2 1 m ∧
      gives (.done 9 0 m) combiner (fun u => sget [] (srcOf combiner m) u.mast.fifos = [.rdone 5 100]) = true) ∧
    (let m := rmsg 2 2 0 0x200 [4, 0]
     Heard combiner 0 2 2 m ∧ bf (bodyW m 0) 63 63 = 0 ∧ gives (.loss 9 0 m) combiner (fun u => u.mast.sysSlots = [4] ∧ u.mast.sysAll = false) = true) ∧
    (let m := rmsg 2 2 0 0x200 [0x8000000000000000, 0]
     gives (.loss 9 0 m) combiner (fun u => u.mast.sysAll = true) = true) ∧
    (let m := rmsg 1 0 2 0x200 [1, 2, 3, 4, 5, 6, 7, 8, 0, 0]
     Heard contributor 0 1 0 m ∧ (contributor.at 9).decFull 0 m = false ∧ contributor.role = 1 ∧ m.src.toNat = contributor.field (oMst 0x18) 47 32 ∧ contributor.mast.next ≤ 7 ∧
      gives (.decision 9 0 m) contributor (fun u => sget [] 7 u.mast.bcast = [1, 2, 3, 4, 5, 6, 7, 8]) = true) ∧
    (contributor.castOn = true ∧ (contributor.reg (oMst 0x30)).toNat &&& (2 ^ 64 - 1 - contributor.ring.reefTold) = 0 ∧
      contributor.ring.doneSent < contributor.ownDone ∧ contributor.ring.candAt + 2 * hopT ≤ 2 * hopT ∧
      gives (.doneSend (2 * hopT)) contributor (fun u => u.ring.doneSent = contributor.ownDone ∧ u.ring.candAt = 2 * hopT) = true) ∧
    (combiner.contribOn 5 = true ∧ (sget ContribSt.reset 5 combiner.ring.contribs).absent = false ∧
      (sget ContribSt.reset 5 combiner.ring.contribs).heard + usT 1 ≤ usT 1 ∧
      gives (.contributorAbsent (usT 1) 5) combiner (fun u => u.mast.sysAll = true ∧ (sget ContribSt.reset 5 u.ring.contribs).absent = true) = true) := by
  unfold FromContributor Heard; decide +kernel

theorem witness_contributionsElsewhere :
    (let m := rmsg 2 1 0 0x200 [0x10000064, 0]
     contributor.combines = false ∧ Heard contributor 0 2 1 m ∧ gives (.done 9 0 m) contributor (fun u => u.mast = contributor.mast) = true) ∧
    (let m := rmsg 1 0 2 0x300 [1, 2, 3, 4, 5, 6, 7, 8, 0, 0]
     Heard contributor 0 1 0 m ∧ (contributor.at 9).decFull 0 m = false ∧ m.src.toNat ≠ contributor.field (oMst 0x18) 47 32 ∧
      gives (.decision 9 0 m) contributor (fun u => u.mast = contributor.mast) = true) ∧
    (let s := { contributor with ring := { contributor.ring with joined := false } }
     s.ring.doneSent < s.ownDone ∧
      gives (.doneSend (2 * hopT)) s (fun u => u.ring.doneSent = s.ownDone ∧ u.ring.candAt = s.ring.candAt) = true) := by
  unfold Heard; decide +kernel

theorem witness_decisionBuffer :
    let m := rmsg 1 0 2 0x200 [1, 2, 3, 4, 5, 6, 7, 8, 0, 0]
    let s := onRing.setRport 0 { RingPortSt.reset with dec1 := List.replicate 42 m }
    let s := s.setRport 1 { RingPortSt.reset with outq := [(usT 1, m)] }
    Heard s 0 1 0 m ∧ (s.at 9).decFull 0 m = true ∧
    gives (.decision 9 0 m) s (fun u => u.ring = s.ring ∧ (u.reg (oRcnt 0 0x20)).toNat = 1) = true := by
  unfold Heard; decide +kernel

theorem witness_fcrel :
    let m := rmsg 3 0 1 0x200 [0x2800000000000000, 3072000, 32, 0, 0, 0, 0, 0, 0, 0]
    let s := { fcPort.setField (oPstat 0) 63 60 4 with ports := fcPort.ports }
    let s := (s.setField (oShr 8) 15 0 0x100).setField (oShr 8) 24 16 4
    Heard s 0 3 0 m ∧ s.ports = [(5, s.port 5)] ∧ (s.port 5).link = .up ∧ s.isHit 5 = true ∧ (s.port 5).cmds = [] ∧ bit (bodyW m 2).toNat 5 = true ∧
    softClass (bf (bodyW m 0) 63 58) = some (3, 3) ∧ bit (dFcMask (s.descB 5)) 3 = true ∧ 9 + usT 1 ≤ bf (bodyW m 1) 55 0 * unitT ∧
    gives (.fcrel 9 0 m) s (fun u => (u.port 5).cmds.map (fun c => (c.code, c.teff)) = [(10, 384000000)]) = true ∧
    (bf (bodyW m 1) 55 0 * unitT < 384000000 - 1 + usT 1 ∧
      gives (.fcrel (384000000 - 1) 0 m) s (fun u => (u.port 5).cmds = [] ∧ (u.reg (oPort 5 0x150)).toNat = 1) = true) := by
  unfold Heard; decide +kernel

theorem witness_managementReads :
    (let m := rmsg 4 4 0 0x200 (body2 (BitVec.ofNat 64 (oDev 0x30)) 0)
     onRing.servedFor m.src.toNat m.seq.toNat = none ∧ (bodyW m 0).toNat = oDev 0x30 ∧
      gives (.rd 9 0 m) (onRing.setReg (oDev 0x30) 77) (fun u => u.ring.served.head? = some (0x200, 7, 0, 77)) = true) ∧
    (let m := rmsg 4 5 0 0x200 (body2 (BitVec.ofNat 64 (oDev 0x30)) 9)
     let s := onRing.setField (oShr 0) 2 2 1
     s.pwr.main = true ∧ s.field (oShr 0) 2 2 = 1 ∧ Heard s 0 4 5 m ∧
      gives (.wr 9 0 m) s (fun u => u.reg (oDev 0x30) = 9 ∧ u.ring.served.head? = some (0x200, 7, 0, 0)) = true ∧
      gives (.wr 9 0 m) onRing (fun u => u.reg (oDev 0x30) = 0 ∧ u.ring.served = []) = true ∧
      (let s := { s with ring := { s.ring with served := [(0x200, 7, 0, 5)] } }
       (s.servedFor m.src.toNat m.seq.toNat).isSome = true ∧
        gives (.wr 9 0 m) s (fun u => u.reg (oDev 0x30) = 0 ∧ u.ring.served = s.ring.served) = true)) ∧
    (let m := rmsg 4 5 0 0x200 (body2 (BitVec.ofNat 64 (oSec 0)) 9)
     let s := onRing.setField (oShr 0) 2 2 1
     Heard s 0 4 5 m ∧ gives (.wr 9 0 m) s (fun u => u.reg (oSec 0) = s.reg (oSec 0) ∧ u.ring.served = []) = true) ∧
    (let m := rmsg 4 4 0 0x200 (body2 (BitVec.ofNat 64 barEnd) 0)
     Heard onRing 0 4 4 m ∧ gives (.rd 9 0 m) onRing (fun u => (u.ring.served.head?.map fun e => (e.1, e.2.1, e.2.2.1)) = some (0x200, 7, 2)) = true) ∧
    (let m := rmsg 4 4 0 0x200 (body2 (BitVec.ofNat 64 (oSpill 0 0 0)) 0)
     Heard onRing 0 4 4 m ∧ oSpill 0 0 0 < barEnd ∧ (worldReg (oSpill 0 0 0)).isSome = true) := by
  unfold Heard; decide +kernel

/-- A job that runs in queue 6. -/
def job (words : List Word) (progress : Nat) : JobSt :=
  { idx := 0, words := words, committed := false, progress := progress, acked := 0, refused := false, since := 0 }

/-- Queue 6 runs the job. -/
def running (s : State) (j : JobSt) : State := s.setQueue 6 { QSt.reset with busy := some j }

theorem witness_managementAnswers :
    let req := rmsg 4 4 0 0x100 (body2 0x10030 0)
    let r : PendReq := { seq := 7, queue := 6, sends := 1, again := 5, msg := { req with dst := 0x200, src := 0x100 } }
    let s := running { onRing with ring := { onRing.ring with pend := [r] } } (job [0x1000000000000000, 0x200, 0x10030] 1)
    let m := rmsg 4 6 0 0x200 (body2 0 77)
    s.ring.pend = [r] ∧ (s.queue r.queue).busy = some (job [0x1000000000000000, 0x200, 0x10030] 1) ∧ Heard s 0 4 6 m ∧ r.seq = m.seq.toNat ∧
    r.msg.dst = m.src ∧ r.again ≤ 9 ∧
    gives (.ack 9 0 m) s (fun u => (u.queue 6).busy = none ∧ (u.queue 6).ended = [(0, 0, 77)] ∧ u.ring.pend = []) = true ∧
    gives (.mgmtRetransmit 9 7) s (fun u => u.ring.pend.map (fun p => (p.sends, p.again)) = [(2, 9 + retryWait 2)]) = true ∧
    (let s := { s with ring := { s.ring with pend := [{ r with sends := 32 }] } }
     gives (.mgmtRetransmit 9 7) s (fun u => (u.queue 6).ended = [(0, 4, 0)] ∧ u.ring.pend = []) = true) := by
  unfold Heard; decide +kernel

theorem witness_bulk :
    (let m := sealMsg { rmsg 5 0 0 0x200 [0x1000, 77, 1, 2, 3, 4] with seq := BitVec.ofNat 32 (bulkSeq 4 0) }
     let s := { onRing with world := { WorldSt.reset with regions := [(0, 16 + 3)] } }
     Heard s 0 5 0 m ∧ 8 * ((m.body.drop 1).take (m.seq.toNat / 2 ^ 25)).length = 32 ∧ s.bulkTarget 0x1000 32 = true ∧ s.memDead 0x1000 = false ∧
      s.memDead 0x101F = false ∧
      gives (.bwrite 9 0 m) s (fun u => mrdW 0x1000 u.mem = 77 ∧ mrdW 0x1018 u.mem = 3 ∧ mrdW 0x1020 u.mem ≠ 4) = true ∧
      onRing.bulkTarget 0x1000 32 = false ∧ gives (.bwrite 9 0 m) onRing (fun u => u.mem = onRing.mem) = true) ∧
    (let m := sealMsg { rmsg 5 1 0 0x200 (body2 0 0) with seq := BitVec.ofNat 32 (bulkSeq 1 0) }
     let j := job [0x2000000000000000, 0x200, 0x1000, 0x300000000000, 8] 8
     let s := running onRing j
     Heard s 0 5 1 m ∧ s.bulkQueue m.src.toNat = some 6 ∧ jobOp j.words = 0x20 ∧ j.w 1 = m.src.toNat ∧ bf (bodyW m 0) 7 0 = 0 ∧
      j.w 4 ≤ (m.seq.toNat % 2 ^ 25 + 1) * (8 * bwriteWords) ∧
      gives (.bdone 9 0 m) s (fun u => (u.queue 6).ended = [(0, 0, 8)]) = true ∧
      (let j := { j with words := [0x2000000000000000, 0x200, 0x1000, 0x300000000000, 1000], progress := 616 }
       (0 + 1) * (8 * bwriteWords) < j.w 4 ∧
        gives (.bdone 9 0 m) (running onRing j) (fun u => (u.queue 6).busy = some { j with acked := 616 }) = true)) := by
  unfold Heard; decide +kernel

/-! ### Queues and jobs -/

/-- Queue 7 takes mail jobs (MGMT) and completes to queue 8, a completion queue; both ACTIVE, in host memory. -/
def jobQ : State := (queueOn (queueOn dev 8 3 8) 7 6 7).setField (oQbind 7) 14 0 8

/-- Queue 7 with three jobs waiting, the first taken. -/
def busyQ (j : JobSt) : State :=
  (jobQ.setField (oQidx 7) 31 0 3).setQueue 7 { QSt.reset with busy := some j }

theorem witness_doorbells :
    (dev.qState 7 = 0 ∧ gives (.doorbellWrite 9 7 3) dev (fun u => u.reg (oQue 0x200) = 1) = true) ∧
    (jobQ.qState 7 ≠ 0 ∧ jobQ.bellOk 7 (bf 3 31 0) = true ∧ gives (.doorbellWrite 9 7 3) jobQ (fun u => u.qHost 7 = 3 ∧ u.qState 7 = 1) = true) ∧
    (jobQ.bellOk 7 (bf 16 31 0) = true ∧ jobQ.bellOk 7 (bf 17 31 0) = false ∧
      gives (.doorbellWrite 9 7 17) jobQ (fun u => u.qState 7 = 2 ∧ u.qHost 7 = 0) = true) ∧
    gives (.doorbellArm 9 7) jobQ (fun u => u.field (oQcfg 7) 29 29 = 1) = true := by
  decide +kernel

theorem witness_queueInterrupt :
    let s := ((jobQ.setField (oQcfg 8) 51 51 1).setField (oQcfg 8) 29 29 1).setField (oQbind 8) 63 53 9
    let s := s.setQueue 8 { QSt.reset with fresh := [(0, 1)] }
    (s.at 9).irqDue 8 = true ∧ s.field (oQcfg 8) 50 50 = 0 ∧
    gives (.queueInterrupt 9 8) s (fun u => u.lastMsi = some 9 ∧ u.field (oQcfg 8) 29 29 = 0) = true ∧
    gives (.queueInterrupt 9 8) (s.setField (oQcfg 8) 50 50 1) (fun u => bit (sget 0 9 u.irqs) irqQueue) = true := by
  decide +kernel

theorem witness_queueEnables :
    (let s := ((queueOn dev 8 3 8).setField (oQbase 7) 45 12 0x300000007).setField (oQbind 7) 14 0 8
     let v : Word := setBf (setBf (setBf 0 63 63 1) 62 60 6) 59 55 4
     s.qState 7 = 0 ∧ ((s.at 9).regWrite false (oQcfg 7) v).enableBad 7 = false ∧
      gives (.queueEnable 9 7 v) s (fun u => u.qState 7 = 1 ∧ u.qType 7 = 6) = true ∧
      ((s.at 9).regWrite false (oQcfg 7) (setBf v 59 55 3)).enableBad 7 = true ∧
      gives (.queueEnable 9 7 (setBf v 59 55 3)) s (fun u => u.qState 7 = 0 ∧ u.field (oQcfg 7) 63 63 = 0) = true) ∧
    gives (.queueDisable 9 7) jobQ (fun u => u.qState 7 = 0) = true := by
  decide +kernel

theorem witness_aborts :
    (let v : Word := setBf (setBf 0 46 32 7) 31 0 5
     jobQ.field (oQue 0x110) 62 62 = 0 ∧
      gives (.abortRequest 9 v) jobQ (fun u => u.field (oQue 0x110) 62 62 = 1 ∧ u.field (oQue 0x110) 46 32 = 7 ∧ u.field (oQue 0x110) 31 0 = 5) = true ∧
      gives (.abortRequest 9 v) (jobQ.setField (oQue 0x110) 62 62 1) (fun u => u.reg (oQue 0x208) = 1) = true) ∧
    (let j := { job [0x1000000000000000, 0x200, 0x10030] 0 with idx := 1 }
     let s := fun (k : Nat) => (((busyQ j).setQueue 7 { QSt.reset with busy := some j, ci := 1 }).setReg (oQue 0x110)
       (setBf (setBf (setBf 0 62 62 1) 46 32 7) 31 0 k))
     (s 0).field (oQue 0x110) 62 62 = 1 ∧ (s 0).field (oQue 0x110) 46 32 = 7 ∧ (s 0).activeQueues 5 = [] ∧ 6 ≤ (s 0).qType 7 ∧
      ((s 0).queue 7).busy = some j ∧ j.committed = false ∧ ((s 0).queue 7).ci = 1 ∧ 0 < idxSub 1 0 ∧ idxSub 1 0 < 2 ^ 31 ∧
      gives (.abortDecide 9) (s 0) (fun u => u.field (oQue 0x110) 63 60 = 9 ∧ u.queues = (s 0).queues) = true ∧
      idxSub ((s 1).qHost 7) ((s 1).queue 7).ci ≠ 0 ∧ j.idx = (s 1).field (oQue 0x110) 31 0 ∧
      gives (.abortDecide 9) (s 1) (fun u => u.field (oQue 0x110) 63 60 = 8 ∧ (u.queue 7).ended = [(1, 1, 0)] ∧ (u.queue 7).ci = 2) = true) := by
  decide +kernel

/-- The first entry of queue 7 in host memory is this job. -/
def withJob (s : State) (ws : List Word) : State :=
  ((s.setField (oQidx 7) 31 0 1).memPut (s.qAddr 7 0) ws)

theorem witness_engineTakes :
    let ws := [0x0100000000000000, 0, 64, 0x300000000000, 0, 0, 0, 0]
    let s := withJob jobQ ws
    s.qState 7 = 1 ∧ 6 ≤ s.qType 7 ∧ (s.queue 7).busy = none ∧ (s.queue 7).aborted = [] ∧ idxSub (s.qHost 7) (s.queue 7).ci ≠ 0 ∧
    isHostPa (s.qAddr 7 (s.queue 7).ci) = true ∧ bytesWords (hostBytes s (s.qAddr 7 (s.queue 7).ci) 64) = ws ∧
    jobOk (s.qType 7) ws = true ∧
    ([Instr.norRead 9 7, .norErase 9 7, .norProgram 9 7, .ringRd 9 7, .ringWr 9 7, .fcrelJob 9 7, .bwriteJob 9 7].all fun i =>
      gives i s fun u => (u.queue 7).busy = some { idx := 0, words := ws, committed := false, progress := 0, acked := 0, refused := false,
                                                   since := 9 }) = true := by
  decide +kernel

theorem witness_norJobs :
    (let s := { busyQ (job [0x0100000000000000, 0x100, 64, 0x300000000000] 0) with flash := [(0x101, 7)] }
     isHostPa (((s.queue 7).busy.getD (job [] 0)).w 3) = true ∧
      gives (.norRead 9 7) s (fun u => mrd 0x300000000000 u.mem = 0xFF ∧ mrd 0x300000000001 u.mem = 7 ∧ mrd 0x30000000003F u.mem = 0xFF ∧
        mrd 0x300000000040 u.mem = 0 ∧ (u.queue 7).ended = [(0, 0, 64)]) = true) ∧
    (let s := { busyQ (job [0x0200000000000000, 0x10000, 0x10000] 0) with flash := [(0xFFFF, 7), (0x10000, 8), (0x1FFFF, 9), (0x20000, 6)] }
     gives (.norErase 9 7) s (fun u => u.flash = [(0xFFFF, 7), (0x20000, 6)] ∧ (u.queue 7).ended = [(0, 0, 0x10000)]) = true) ∧
    (let s := { busyQ (job [0x0300000000000000, 0x100, 64, 0x300000000000] 0) with mem := (busyQ (job [] 0)).mem }
     let s := s.memPut 0x300000000000 [0x0102030405060708]
     (((List.range 64).all fun k => s.flashB (0x100 + k) == 0xFF) = true) ∧
      gives (.norProgram 9 7) s (fun u => u.flashB 0x100 = 8 ∧ u.flashB 0x107 = 1 ∧ u.flashB 0x108 = 0 ∧ u.flashB 0x140 = 0xFF ∧
        (u.queue 7).ended = [(0, 0, 64)]) = true) := by
  decide +kernel

/-- JOINED at x 1 of a ring of 4 by 1, X+ and X− UP. -/
def joined (s : State) : State :=
  let s := ((s.setField (oShr 8) 15 0 0x100).setField (oShr 8) 24 16 4).setField (oShr 0x10) 63 60 2
  (s.setField (oPstat 0) 63 60 4).setField (oPstat 1) 63 60 4

theorem witness_ringJobs :
    (let s := busyQ (job [0x1000000000000000, 0x200, 0x10030] 0)
     gives (.ringRd 9 7) s (fun u => u.ring.pend.map (fun r => (r.queue, r.sends, r.msg.dst, r.msg.body)) = [(7, 1, 0x200, [0x10030])] ∧
      (u.queue 7).busy = some { job [0x1000000000000000, 0x200, 0x10030] 1 with since := 9 }) = true) ∧
    (let s := joined (busyQ (job [0x1100000000000000, 0x200, 0x10030, 5] 0))
     s.departs 0x200 = true ∧ gives (.ringWr 9 7) s (fun u => u.ring.pend.map (fun r => (r.msg.typ, r.msg.body)) = [(5, [0x10030, 5])] ∧ (u.queue 7).ci = 1) = true) ∧
    (let s := joined (busyQ (job [0x1200000000000000, 0, 0, 0x200, 0x300000000000] 0))
     s.rstate = 2 ∧ s.departs 0x200 = true ∧ gives (.fcrelJob 9 7) s (fun u => (u.queue 7).ended = [(0, 0, 64)]) = true) ∧
    (let j := job [0x2000000000000000, 0x200, 0x1000, 0x300000000000, 800] 0
     let s := joined (busyQ j)
     s.departs 0x200 = true ∧ j.progress < j.w 4 ∧
      gives (.bwriteJob 9 7) s (fun u => (u.queue 7).busy = some { j with committed := true, progress := 616, since := 9 }) = true) := by
  decide +kernel

theorem witness_jobComplete :
    let s := jobQ.setQueue 7 { QSt.reset with ended := [(5, 2, 77), (6, 0, 0)] }
    (s.queue 7).busy = none ∧ (s.queue 7).ci = s.qHost 7 ∧ s.qCq 7 = 8 ∧ s.qState 8 = 1 ∧ s.qFull 8 = false ∧ isHostPa (s.qAddr 8 (s.qDev 8)) = true ∧
    gives (.jobComplete 9 7) s (fun u => (u.queue 7).ended = [(6, 0, 0)] ∧ u.qDev 8 = 1 ∧ bf (mrdW (s.qAddr 8 0) u.mem) 31 0 = 5 ∧
      bf (mrdW (s.qAddr 8 0) u.mem) 46 32 = 7 ∧ bf (mrdW (s.qAddr 8 0) u.mem) 58 56 = 2 ∧ mrdW (s.qAddr 8 0 + 8) u.mem = 77) = true ∧
    (let s := s.setField (oQcfg 8) 54 52 4 |>.setField (oQidx 8) 63 32 16
     s.qFull 8 = true ∧ gives (.jobComplete 9 7) s (fun u => u.queues = s.queues ∧ u.mem = s.mem) = true) ∧
    (let s := dev.setQueue 7 { QSt.reset with ended := [(5, 2, 77), (6, 0, 0)] }
     s.qState (s.qCq 7) ≠ 1 ∧ gives (.jobComplete 9 7) s (fun u => (u.queue 7).ended = [(6, 0, 0)] ∧ u.mem = s.mem) = true) := by
  decide +kernel

/-! ### Host-assisted functions -/

/-- An outstanding item of function `f` for a unit. -/
def item (unit op : Nat) (ws : List Word) : HaJob :=
  { job := 3, unit := unit, sent := 0, deadline := some 5, op := op, words := ws, base := 0 }

def outOf (s : State) (f : Nat) (h : HaJob) : State := s.setHa f { s.haFn f with out := [h] }

/-- Word 0 of a reply of function `f`. -/
def rword (f op st : Nat) : Word := setBf (setBf (setBf (setBf 0 58 56 f) 55 52 op) 51 48 st) 47 24 3

theorem witness_staleReplies :
    ([(0, Instr.hitDecodeReply 9), (1, .orderingReply 9), (2, .ruleEvalReply 9), (3, .combineReply 9), (4, .heapKeepReply 9),
      (6, .linkCalReply 9), (7, .slowPathReply 9)].all fun x =>
        dev.haFind x.1 [rword x.1 0 0] == none && gives (x.2 [rword x.1 0 0]) dev fun u => decide (u.reg (oQue 0x210) = 1)) = true := by
  decide +kernel

theorem witness_hitDecodeReplies :
    (let h := item 5 0 []
     let s := outOf (withPort (hitDesc frm) { inLink .up with closed := true }) 0 h
     let reply := fun (k : Nat) => [rword 0 0 0, setBf (setBf 0 63 56 0x12) 55 0 (16 * k), 0, 0, 0, 0, 0, 1]
     let x := frm.stopFine.toNat
     s.haFind 0 (reply 700) = some h ∧ (s.port 5).closed = true ∧ (h.base / 16 + 700 : Int) < s.stopFine ∧ s.stopFine ≤ (h.base / 16 + x : Int) ∧
      gives (.hitDecodeReply 9 (reply 700)) s (fun u => (u.haFn 0).out = [] ∧ (u.reg (oPort 5 0x140)).toNat = 1 ∧ u.ports = s.ports) = true ∧
      gives (.hitDecodeReply 9 (reply x)) s (fun u => (u.haFn 0).out = [] ∧ (u.port 5).held.map (·.1) = [(x : Int)]) = true) ∧
    (let h := item 5 0 []
     let s := outOf (withPort (hitDesc frm) { inLink .up with closed := false }) 0 h
     let reply := [rword 0 0 0, setBf (setBf 0 63 56 0x12) 55 0 (16 * 700), 0, 0, 0, 0, 0, 1]
     s.haFind 0 reply = some h ∧ (s.port 5).closed = false ∧ bf (reply.getD 7 0) 2 0 = 1 ∧ s.classify 5 (s.startFine + 700) = .pass ∧
      gives (.hitDecodeReply 9 reply) s (fun u => (u.port 5).portTime = some (s.startFine + 700) ∧
        (u.row 0).inbox = [(9 + 3 * stitchT, 5, .time 11200)]) = true) ∧
    (let h := item 5 0 []
     let s := outOf dev 6 h
     let reply := [rword 6 0 0, 0x123456]
     s.haFind 6 reply = some h ∧ gives (.linkCalReply 9 reply) s (fun u => u.field (oPort 5 0x18) 23 0 = 0x123456) = true) := by
  decide +kernel

theorem witness_orderingReplies :
    (let h := item 2 0 []
     let s := outOf frm 1 h
     let reply := [rword 1 1 0, 4, 500, 600]
     s.haFind 1 reply = some h ∧ bf (reply.headD 0) 55 52 = 1 ∧
      gives (.orderingReply 9 reply) s (fun u => (u.row 2).haPw = 600 ∧ sget 0 4 (u.row 2).haFw = 500) = true) ∧
    (let h := item 2 0 []
     let s := outOf frm 1 h
     let reply := [rword 1 0 0, hitW 7, uninit, uninit, uninit, uninit, uninit, 3]
     s.haFind 1 reply = some h ∧ (s.row 2).vstate ≠ 2 ∧ (s.row 2).line = [] ∧
      gives (.orderingReply 9 reply) s (fun u => (u.row 2).picked.map (fun x => (x.word, x.stream)) = [(hitW 7, 3)]) = true) ∧
    (let h := item 0 0 [0, 6]
     let s := outOf frm 3 h
     s.haFind 3 [rword 3 0 0, 1, 2, 3] = some h ∧ h.op ≠ 1 ∧
      gives (.combineReply 9 [rword 3 0 0, 1, 2, 3]) s (fun u => sget [] 6 u.mast.f3 = [1, 2, 3]) = true ∧
      (let s := { s with mast := { s.mast with next := 7 } }
       bf ([0, 6].getD 1 (0 : Word)) 31 0 < s.mast.next ∧
        gives (.combineReply 9 [rword 3 0 0, 1, 2, 3]) s (fun u => u.mast = s.mast ∧ u.reg (oQue 0x210) = 1) = true)) := by
  decide +kernel

theorem witness_ruleEvalReplies :
    let h := item (48 * 32768) 0 []
    let s := core48 (withSlice (prog5 frm) { slice0 with st := .provRun, holder := some (48, 0) })
    let s := outOf (s.setCtx 48 0 { s.ctx 48 0 with prog := some slice0.key }) 2 h
    let x := { slice0 with st := SliceSt.provRun, holder := some (48, 0) }
    let r := [rword 2 1 0, 1, 2, 3, 4, 5, 6, 7]
    s.haFind 2 r = some h ∧ s.evalSlice h = some x ∧ (s.clu 3).slices = [x] ∧ x.staged.length < 64 ∧
    gives (.ruleEvalReply 9 r) s (fun u => (u.clu 3).slices.map (·.staged) = [[[1, 2, 3, 4, 5, 6, 7, 0]]]) = true ∧
    gives (.ruleEvalReply 9 [rword 2 0 0, 0]) s (fun u => (u.clu 3).slices.map (·.ended) = [true] ∧ (u.ctx 48 0).prog = none ∧
      (u.ctx 48 0).state = 1 ∧ (u.haFn 2).out = []) = true := by
  decide +kernel

/-- What a context that waits has under way. -/
def susp (f : Nat) : SuspSt := { func := f, job := 3, rd := 4, ply := 0, parts := [], writes := [], next := none, s6 := none }

/-- Context 0 of core 14 waits for item 3 of function `f`; context 1 runs. -/
def waiting (f : Nat) : State :=
  let s := withMe nums fun x => { x with susp := some (susp f) }
  let s := s.setCore 14 { s.core 14 with cur := 1 }
  outOf s f (item (14 * 32768) 0 [])

theorem witness_heldWordsGoOn :
    (∀ f ∈ [4, 7], WaitsFor 9 (waiting f) f 14 0 (item (14 * 32768) 0 []) (susp f) ∧
      (waiting f).haFind f [rword f 0 0, 77] = some (item (14 * 32768) 0 [])) ∧
    gives (.heapKeepReply 9 [rword 4 0 0, 77]) (waiting 4) (fun u => (u.ctx 14 0).susp = none ∧ (u.ctx 14 0).state = 2 ∧
      (u.ctx 14 0).flow.pc = 0x1004 ∧ (u.core 14).cur = 1) = true ∧
    gives (.slowPathReply 9 [rword 7 0 0, 77]) (waiting 7) (fun u => (u.ctx 14 0).susp = none ∧ u.rf 14 4 = 77 ∧ u.rf 14 1 = fixW 7) = true ∧
    (let s := (waiting 7).setCore 14 { (waiting 7).core 14 with bankOn := true }
     (s.at 9).takesAnswer 7 (item (14 * 32768) 0 []) = false ∧ s.haFind 7 [rword 7 0 0, 77] = some (item (14 * 32768) 0 []) ∧
      gives (.slowPathReply 9 [rword 7 0 0, 77]) s (fun u => decide (u = s.at 9)) = true ∧
      (s.at 9).haLate 7 3 = some (item (14 * 32768) 0 []) ∧ gives (.haTimeout 9 7 3) s (fun u => decide (u = s.at 9)) = true) := by
  unfold WaitsFor; decide +kernel

/-- A gathered block. -/
def blk (n : Nat) : Elastic := { data := true, block := BitVec.ofNat 64 (10 + n), arr := n, hit2 := false }

theorem witness_hitDecodeWork :
    let s := (queueOn (withPort (hitDesc frm) { inLink .up with gathered := [blk 1, blk 2, blk 3, blk 4] })
      7 2 7).setReg (oQue 0) (setBf (setBf (setBf 0 62 62 1) 61 47 7) 31 0 1)
    s.haOn 0 0 = true ∧ s.field (oQue 0) 61 47 = 7 ∧ s.qState 7 = 1 ∧ s.qFull 7 = false ∧ isHostPa (s.qAddr 7 (s.qDev 7)) = true ∧
    gives (.hitDecodeWork 9 5) s (fun u => (u.port 5).gathered = [blk 4] ∧ u.qDev 7 = 1 ∧ mrdW (s.qAddr 7 0 + 8) u.mem = 1 ∧
      mrdW (s.qAddr 7 0 + 16) u.mem = 11 ∧ mrdW (s.qAddr 7 0 + 48) u.mem = 13 ∧ mrdW (s.qAddr 7 0 + 56) u.mem = 3 ∧
      (u.haFn 0).out.length = 1) = true ∧
    (let s := (s.setField (oQcfg 7) 54 52 4).setField (oQidx 7) 63 32 16
     s.qFull 7 = true ∧ gives (.hitDecodeWork 9 5) s (fun u => (u.port 5).gathered = [blk 4] ∧ (u.haFn 0).stalled.length = 1 ∧ u.mem = s.mem) = true) := by
  decide +kernel

theorem witness_haTimeouts :
    (let s := outOf frm 5 (item 0 0 [])
     (s.at 9).haLate 5 3 = some (item 0 0 []) ∧ gives (.haTimeout 9 5 3) s (fun u => (u.haFn 5).out = []) = true) ∧
    (let s := outOf (withPort (hitDesc frm) { inLink .up with closed := false }) 0 (item 5 0 [])
     (s.at 9).haLate 0 3 = some (item 5 0 []) ∧ s.castOn = true ∧ (s.port 5).closed = false ∧
      gives (.haTimeout 9 0 3) s (fun u => (u.port 5).closed = true ∧ u.errs.map (fun e => (e.cls, e.src, e.unit, e.code)) = [(1, 0, 5, 1)]) = true) ∧
    (let s := outOf frm 1 (item 2 0 [])
     (s.at 9).haLate 1 3 = some (item 2 0 []) ∧ (s.row 2).vstate ≠ 2 ∧ (s.row 2).line = [] ∧
      gives (.haTimeout 9 1 3) s (fun u => (u.row 2).vstate = 2 ∧ u.errs.map (fun e => (e.cls, e.src, e.unit, e.code)) = [(2, 1, 2, 5)]) = true) := by
  decide +kernel

/-! ### The host's link -/

theorem witness_hostLink :
    gives (.cxlLinkTrained 9 64 16) dev (fun u => u.cxl.up ∧ u.errs = []) = true ∧
    gives (.cxlLinkTrained 9 32 16) dev (fun u => u.errs.map (fun e => (e.cls, e.src, e.unit, e.code)) = [(1, 9, 0, 1)]) = true ∧
    gives (.cxlLinkTrained 9 64 8) dev (fun u => u.errs.map (fun e => (e.cls, e.src, e.unit, e.code)) = [(1, 9, 0, 1)]) = true ∧
    (let s := { dev.setField (oPwr 8) 3 3 0 with cxl := { CxlSt.reset with up := true } }
     s.field (oPwr 8) 3 3 = 0 ∧ gives (.cxlLinkDown 9) s (fun u => u.cxl.up = false) = true ∧
      s.pwr.enable = true ∧ gives (.perstN 9) s (fun u => u.cxl.up = false) = true) ∧
    State.reset.pwr.enable = false := by
  decide +kernel

theorem witness_hostMemory :
    let s := { dev with cxl := { CxlSt.reset with up := true }, world := { WorldSt.reset with regions := [(0, 16 + 3)] } }
    s.cxl.up = true ∧ 0x1004 < s.stacks * stackSize ∧ s.hostSees 0x1004 = true ∧ s.memDead 0x1004 = false ∧
    gives (.hostMemoryAccess 9 0x1004 true 77) s (fun u => mrdW 0x1000 u.mem = 77) = true ∧
    gives (.hostMemoryAccess 9 0x1004 false 0) (s.memPut 0x1000 [88]) (fun u => u.rdata = 88) = true ∧
    s.hostSees 0x2000000 = false ∧
    gives (.hostMemoryAccess 9 0x2000000 true 77) s (fun u => u.mem = s.mem ∧
      u.errs.map (fun e => (e.cls, e.src, e.unit, e.code)) = [(1, 5, 0, 7)]) = true ∧
    gives (.hostMemoryAccess 9 0x2000000 false 77) { s with cxl := { s.cxl with refused := [1] } } (fun u => u.errs = []) = true ∧
    gives (.hostMemoryAccess 9 0x1000 true 77) dev (fun u => decide (u = dev.at 9)) = true := by
  decide +kernel

/-! ### Error records -/

theorem witness_errorRecords :
    let e : ErrEv := { num := 0, time := 1250, cls := 3, src := 10, unit := 92, code := 5, frame := 0, slot := 0, d4 := 1, d5 := 2, d6 := 3, d7 := 4, cause := none }
    let s := (dev.setField (oErr 0) 31 0 1026)
    let s := { s with errs := [e], errNum := 1 }
    s.errNext = some e ∧ e.cls < 4 ∧ s.activeQueues 4 = [] ∧ s.firstFree = true ∧ s.field (oErr 0) 31 0 = 1026 ∧
    gives (.errorRecordWrite 9) s (fun u => u.errs = [] ∧ u.field (oErr 0) 31 0 = 1027 ∧ u.reg (oErr (0x10000 + 2 * 0x40 + 8)) = 10 ∧
      u.reg (oErr (0x1000 + 0x38)) = 4 ∧ u.reg (oErr 0x118) = 1 ∧ u.irqErr = 1) = true ∧
    gives (.errorRecordWrite 9) { s with errs := [{ e with cls := 1 }] } (fun u => u.errs = [] ∧ u.reg (oErr (0x1000 + 0x38)) = 0 ∧
      u.reg (oErr 0x108) = 1) = true ∧
    dev.errs = [] ∧ givesS (.errorRecordWrite 9) dev (dev.at 9) = true := by
  decide +kernel

theorem witness_errorControl :
    let s := (dev.setReg (oErr 0x10040) 5).setReg (oErr 0x1008) 6
    gives (.clearLog 9) s (fun u => u.reg (oErr 0x10040) = 0 ∧ u.reg (oErr 0x1008) = 6) = true ∧
    gives (.clearFirst 9) s (fun u => u.reg (oErr 0x10040) = 5 ∧ u.reg (oErr 0x1008) = 0 ∧ u.firstFree) = true ∧
    gives (.errInject 9 (setBf 77 63 62 2)) s (fun u => u.errs.map (fun e => (e.cls, e.src, e.unit, e.code, e.d4)) = [(2, 13, 0, 1, 77)]) = true := by
  decide +kernel

/-! ### Supply and reset -/

/-- The AO domain runs; the switch is open. -/
def aoOnly : State := { State.reset with pwr := { PwrSt.reset with ao := true } }

/-- Start-up writes digests, which are opaque, so that the commands that begin it show their hypotheses only. -/
theorem witness_switchCloses :
    (let s := { aoOnly with pwr := { aoOnly.pwr with enable := true } }
     s.pwr.main = false ∧ s.pwr.ao = true ∧ s.pwr.latched = false ∧ s.pwr.shut = false ∧ s.pwr.enable = true ∧
      headerValid (s.flashWs 0 512) = false) ∧
    (let s := { aoOnly with pwr := { aoOnly.pwr with inRange := true } }
     s.pwr.main = false ∧ s.pwr.ao = true ∧ s.pwr.latched = false ∧ s.pwr.shut = false ∧ s.pwr.inRange = true ∧
      headerValid (s.flashWs 0 512) = false) ∧
    (dev.pwr.main = true ∧ dev.pwr.enable = true ∧ dev.pwr.shut = false ∧ headerValid (dev.flashWs 0 512) = false ∧
      bf 0x800000000000A55A 63 63 = 1 ∧ bf 0x800000000000A55A 15 0 = 0xA55A) := by
  decide +kernel

/-- The device has left operation (a Bool, for the kernel). -/
def isOff (u : State) : Bool := decide (u.pwr.main = false ∧ u.field (oDev 8) 15 8 = 1 ∧ u.ports = [] ∧ u.cores = [])

theorem witness_switchOpens :
    gives (.undervoltageRelease 9) aoOnly (fun u => u.pwr.inRange ∧ u.pwr.main = false) = true ∧
    gives (.enableHigh 9) State.reset (fun u => u.pwr.enable ∧ u.pwr.main = false) = true ∧
    dev.pwr.main = true ∧ dev.pwr.enable = true ∧
    gives (.enableLow 9) (nums) (fun u => isOff u ∧ u.pwr.lowAt = some 9) = true ∧
    gives (.undervoltageTrip 9) nums isOff = true ∧ gives (.overvoltageTrip 9) nums isOff = true ∧
    gives (.inputOvercurrent 9) nums (fun u => isOff u ∧ u.pwr.latched ∧ u.errs.map (fun e => (e.cls, e.src, e.unit, e.code)) = [(3, 10, 96, 3)]) = true ∧
    (aoOnly.pwr.enable = false ∧ givesS (.resetN 9) aoOnly (aoOnly.at 9) = true) ∧
    (bf 0x8000000000005AA5 15 0 ≠ 0xA55A ∧ givesS (.deviceReset 9 0x8000000000005AA5) dev (dev.at 9) = true ∧
      bf 0x000000000000A55A 63 63 = 0 ∧ givesS (.deviceReset 9 0x000000000000A55A) dev (dev.at 9) = true) := by
  decide +kernel

theorem witness_aoDomain :
    (aoOnly.pwr.ao = true ∧ aoOnly.pwr.main = false ∧ gives (.aoPowerLoss 9) aoOnly (fun u => u.pwr.ao = false ∧ u.pwr.lostAt = some 9) = true) ∧
    (let s := { aoOnly with pwr := { aoOnly.pwr with ao := false, lostAt := some 9 } }
     s.pwr.ao = false ∧ 9 + usT 10000 ≤ 9 + usT 10000 ∧
      gives (.aoStart (9 + usT 10000)) (s.setReg (oErr 0x100) 5) (fun u => u.pwr.ao ∧ u.reg (oErr 0x100) = 5) = true) ∧
    (let s := ({ State.reset with flash := [(3, 4)] } : State).setReg (oErr 0x100) 5
     s.pwr.ao = false ∧ s.pwr.lostAt = none ∧ s.fuses.busy = none ∧
      gives (.aoStart 9) s (fun u => u.pwr.ao ∧ u.reg (oErr 0x100) = 0 ∧ u.flash = [(3, 4)]) = true) := by
  decide +kernel

/-! ### SPDM -/

theorem witness_spdm :
    dev.pwr.main = true ∧ dev.pwr.shut = false ∧
    gives (.getVersion .doe) dev (fun u => (u.conn .doe).version ∧ (u.conn .doe).resp = some (.version 0x13)) = true ∧
    (let s := dev.setConn .doe { SpdmSt.reset with version := true }
     (s.conn .doe).version = true ∧ gives (.getCapabilities .doe) s (fun u => (u.conn .doe).caps) = true) ∧
    (let s := dev.setConn .doe { SpdmSt.reset with version := true, caps := true }
     (s.conn .doe).caps = true ∧ gives (.negotiateAlgorithms .doe true) s (fun u => (u.conn .doe).algs = some true) = true) ∧
    gives (.unsupportedSpdmRequest .doe 0xE4) dev (fun u => (u.conn .doe).resp = some .errUnsupported) = true ∧
    (let s := { dev with boot := BootSt.reset }
     s.boot.locked = false ∧ gives (.challenge .doe true 0) s (fun u => (u.conn .doe).resp = some .errBusy) = true ∧
      gives (.getMeasurements .doe 1 true 0) s (fun u => (u.conn .doe).resp = some .errBusy) = true) ∧
    ((dev.conn .doe).large = none ∧ gives (.chunkGet .doe 0) dev (fun u => (u.conn .doe).resp = some .errUnexpected) = true) ∧
    (let s := dev.setConn .doe { SpdmSt.reset with large := some (.certificate (List.replicate 60 1) 0, 0) }
     (s.conn .doe).large = some (.certificate (List.replicate 60 1) 0, 0) ∧
      gives (.chunkGet .doe 1) s (fun u => (u.conn .doe).resp = some .errInvalid) = true ∧
      gives (.chunkGet .doe 0) s (fun u => (u.conn .doe).large.isNone) = true) ∧
    (let s := dev.setConn .doe { SpdmSt.reset with version := true, caps := true, algs := some true }
     (s.conn .doe).algs = some true ∧ s.boot.locked = true ∧ 1 ≤ (24 : BitVec 8).toNat ∧ 0x18 < (0x19 : BitVec 8).toNat ∧
      gives (.getMeasurements .doe 0x19 false 0) s (fun u => (u.conn .doe).resp = some .errInvalid) = true ∧
      gives (.getMeasurements .doe 0x40 false 0) s (fun u => (u.conn .doe).resp = some .errInvalid) = true) ∧
    (let s := dev.setConn .doe { SpdmSt.reset with version := true, caps := true, algs := some false }
     (s.conn .doe).algs = some false ∧ s.boot.locked = true ∧
      gives (.challenge .doe true 0) s (fun u => (u.conn .doe).resp = some .errUnexpected) = true) ∧
    (let s := { dev with flash := [(0x10000000, 20), (0x10000001, 0), (0x10000002, 0)] }
     5 < s.chain.length ∧ 8 + 15 ≤ transferOf .doe) := by
  decide +kernel

/-! ### Start-up and fuses -/

/-- Every stack is filled. -/
def filled4 : State :=
  let s := { dev with memActive := false }
  (((s.setField (oMem 0 8) 62 62 1).setField (oMem 1 8) 62 62 1).setField (oMem 2 8) 62 62 1).setField (oMem 3 8) 62 62 1

theorem witness_fillDone : filled4.pwr.main = true ∧ (∀ m, m < filled4.stacks → filled4.filled m = true) ∧ filled4.bootStep ≠ 6 ∧
    gives (.fillDone 9) filled4 (fun u => u.memActive) = true ∧
    (let s := (filled4.setField (oDev 8) 61 58 6).setField (oDev 8) 62 62 1
     s.bootStep = 6 ∧ s.bare = true) := by
  decide +kernel

/-- All 512 ports try to leave OFF when the lasers are warm: too long for the kernel, so hypotheses only. -/
theorem witness_startLock :
    (let s := { dev.setField (oDev 8) 61 58 7 with boot := BootSt.reset }
     s.bootStep = 7 ∧ s.bare = false ∧ s.activeQueues 5 = [] ∧ dev.bootStep ≠ 7) ∧
    (let s := { dev.setField (oDev 8) 61 58 7 with boot := { BootSt.reset with warm := true } }
     s.bootStep = 7 ∧ s.boot.locked = false ∧ s.bare = false ∧ s.boot.warm = true ∧
      (let s := s.setField (oDev 8) 62 62 1
       s.bare = true)) := by
  decide +kernel

theorem witness_fuses :
    (let s := dev.setReg (oSec 0x10) 5
     let v : Word := 0x4655
     s.fuses.busy = none ∧ bf v 49 48 ≤ 1 ∧ bf v 15 0 = 0x4655 ∧ s.fuseData.any (· != 0) = true ∧
      gives (.fuseProgram 9 v) s (fun u => u.fuses.busy = some (1, 0, [5, 0, 0, 0]) ∧ u.field (oSec 0) 63 63 = 1) = true ∧
      gives (.fuseRevoke 9 (setBf v 49 48 1)) s (fun u => u.fuses.busy = some (2, 1, [5, 0, 0, 0])) = true) ∧
    (let s := { dev with fuses := { FuseSt.reset with busy := some (2, 1, [5, 0, 0, 0]) } }
     s.fuses.busy.isSome = true ∧ givesS (.fuseProgram 9 0x4655) s (s.at 9) = true ∧ givesS (.fuseRevoke 9 0x4655) s (s.at 9) = true) ∧
    FuseSt.reset.used 0 = false ∧ (let f := { FuseSt.reset with digest0 := some [1, 2, 3, 4] }
      f.used 0 = true) := by
  decide +kernel

/-! ### Clocks, crossings, temperature -/

theorem witness_plls :
    (let s := hot (withRow dev { RowSt.reset with vstate := 2 }) 34
     s.domain 34 ≠ 0 ∧ (s.pll 2).lost = false ∧ (s.row 2).vstate = 2 ∧
      gives (.pllLockLoss 9 (.row 2)) s (fun u => (u.pll 2).lost ∧ u.errs.map (fun e => (e.cls, e.src, e.unit, e.code)) = [(2, 1, 2, 7)]) = true) ∧
    (let s := hot (withRow frm { RowSt.reset with store := [held 7] }) 34
     s.domain 34 ≠ 0 ∧ (s.pll 2).lost = false ∧ (s.row 2).vstate = 0 ∧
      gives (.pllLockLoss 9 (.row 2)) s (fun u => (u.row 2).vstate = 2 ∧ (u.row 2).store = [] ∧ u.errs.map (fun e => (e.num, e.cls, e.src, e.unit, e.code)) = [(0, 2, 1, 2, 7), (1, 2, 1, 2, 5)]) = true) ∧
    (let s := cpu []
     s.domain 0 ≠ 0 ∧ (s.pll 32).lost = false ∧ (s.core 14).up = true ∧
      gives (.pllLockLoss 9 (.cluster 0)) s (fun u => (u.core 14).out) = true) ∧
    (let s := hot dev 3
     s.domain 3 ≠ 0 ∧ (s.pll 35).lost = false ∧ (∀ i, i < 16 → (s.core (3 * 16 + i)).up = false ∧ (s.core (3 * 16 + i)).out = false) ∧
      gives (.pllLockLoss 9 (.cluster 3)) s (fun u => (u.pll 35).lost ∧ u.errs.map (fun e => (e.cls, e.src, e.unit, e.code)) = [(2, 2, 3, 6)]) = true) ∧
    (let s := { dev with pwr := { dev.pwr with plls := [(2, { lost := true, trying := true, locked := none })] } }
     (s.pll 2).lost = true ∧ (s.pll 2).trying = true ∧ (s.pll 2).locked = none ∧
      gives (.pllLockGained 9 (.row 2)) s (fun u => (u.pll 2).locked = some 9) = true) ∧
    gives (.crossingHold 9 (List.replicate 4 false)) dev (fun u => u.reg (oPwr 0x600) = 1) = true ∧
    gives (.crossingHold 9 (List.replicate 3 false)) dev (fun u => u.reg (oPwr 0x600) = 0) = true ∧
    (let s := (dev.setField (oPwr 8) 1 1 0).setField (oDom 80) 61 60 0
     s.farOff 1 80 = true ∧ s.pwr.stalls.contains (1, 80) = false ∧
      gives (.crossingStallTimeout 9 1 80) s (fun u => u.pwr.stalls = [(1, 80)] ∧ u.errs.map (fun e => (e.cls, e.src, e.unit, e.code)) = [(1, 10, 80, 2)]) = true ∧
      (let s := { s with pwr := { s.pwr with stalls := [(1, 80)] } }
       s.farOff 1 80 = true ∧ s.pwr.stalls.contains (1, 80) = true ∧ givesS (.crossingStallTimeout 9 1 80) s (s.at 9) = true)) := by
  decide +kernel

theorem witness_temperature :
    let s := dev.setField (oTmg 0x60) 11 0 2000
    let r := fun (v : BitVec 12) => List.replicate 60 v
    s.pwr.ao = true ∧ s.pwr.main = true ∧ s.pwr.shut = false ∧ s.pwr.throttled = false ∧
    s.junction (r 419) = some 419 ∧ s.junction (r 420) = some 420 ∧ s.junction (r 459) = some 459 ∧ s.junction (r 460) = some 460 ∧
    gives (.temperatureSample 9 (r 419)) s (fun u => u.pwr.shut = false ∧ u.pwr.throttled = false ∧ u.field (oTemp 7) 11 0 = 419) = true ∧
    gives (.temperatureSample 9 (r 420)) s (fun u => u.pwr.throttled) = true ∧
    gives (.temperatureSample 9 (r 459)) s (fun u => u.pwr.throttled ∧ u.pwr.shut = false) = true ∧
    gives (.temperatureSample 9 (r 460)) s (fun u => u.pwr.shut ∧ u.field (oDev 8) 15 8 = 3) = true := by
  decide +kernel

/-! ### Time base and spikes -/

theorem witness_timeBase :
    gives (.syncEdge 9 4999) dev (fun u => u.reg (oTmg 0x628) = 1) = true ∧
    (dev.field (oTmg 0) 55 55 = 0 ∧ gives (.syncEdge (1000 * unitT) 5000) ((dev.setReg (oTmg 0x30) 400).setReg (oTmg 0x38) 100)
      (fun u => u.field (oTmg 0x40) 55 0 = 600 ∧ u.field (oTmg 0x30) 55 0 = 500) = true) ∧
    (let s := (dev.setField (oTmg 0) 55 55 1).setReg (oTmg 0x30) 400
     gives (.syncEdge (1000 * unitT) 5000) s (fun u => u.field (oTmg 0) 55 55 = 0) = true) ∧
    (let s := dev.setField (oTmg 8) 63 61 2
     s.tstate = 2 ∧ gives (.sourceLost 9) s (fun u => u.tstate = 3 ∧ u.errs.map (fun e => (e.cls, e.src, e.unit, e.code)) = [(1, 7, 0, 3)]) = true) ∧
    (let s := dev.setField (oTmg 8) 63 61 3
     s.tstate ≠ 2 ∧ givesS (.sourceLost 9) s (s.at 9) = true ∧ gives (.sourceRestored 9) s (fun u => u.tstate = 1) = true) ∧
    gives (.timeLocked 9) (dev.setField (oTmg 8) 63 61 1) (fun u => u.tstate = 2) = true := by
  decide +kernel

theorem witness_spikes :
    (dev.spikeOn 4 = false ∧ givesS (.spikeEdge 9 4) dev (dev.at 9) = true) ∧
    (let w : Word := setBf (setBf 0 31 31 1) 27 16 9
     let s := (hot frm 34).setReg (oRow 2 0x10) w
     let s := { s with eff := [(oRow 2 0x10, w)], spikes := [(4, { SpikeSt.reset with closed := false })] }
     s.spikeOn 4 = true ∧ s.time.tdc = none ∧ (s.spike 4).lastEdge = none ∧ (s.spike 4).closed = false ∧ (s.spike 4).cnt < 1000 ∧
      0 ≤ s.spikeRel 4 1000 ∧ s.spikeRel 4 1000 < (s.keyL : Int) ∧
      gives (.spikeEdge 1000 4) s (fun u => (u.row 2).inbox = [(1000 + 5 * stitchT, 16, .hit (mkTag 0x11 (4 * 2 ^ 50 + 8)) 9)]) = true) ∧
    (dev.time.tdc = none ∧ dev.castOn = false ∧ gives (.tdcCalStart 9) dev (fun u => u.time.tdc = some 9 ∧ u.field (oTmg 0x58) 58 56 = 1) = true) ∧
    (frm.castOn = true ∧ gives (.tdcCalStart 9) frm (fun u => u.time.tdcWait ∧ u.field (oTmg 0x58) 58 56 = 2) = true) ∧
    (let s := { dev with time := { dev.time with tdc := some 9 } }
     s.time.tdc = some 9 ∧ gives (.tdcCalDone (9 + usT 1050) []) s (fun u => u.time.tdc = none ∧ u.field (oTmg 0x58) 58 56 = 3) = true ∧
      gives (.tdcCalDone (9 + usT 1050) [3, 5]) s (fun u => u.field (oTmg 0x58) 58 56 = 4 ∧ u.errs.length = 2) = true) := by
  decide +kernel

/-! ### Power domains and self-test -/

theorem witness_domainRequests :
    (dev.domAbsent 70 = false ∧ domHas 70 2 = true ∧ dev.moving 70 = none ∧ sget [] 70 dev.pwr.waitq = [] ∧ dev.domain 70 ≠ 2 ∧
      gives (.domainRequest 9 70 2) dev (fun u => u.moving 70 = some 2 ∧ u.field (oDom 70) 59 59 = 1 ∧ u.domain 70 = 0) = true) ∧
    (let s := hot dev 34
     s.domAbsent 34 = false ∧ domHas 34 1 = true ∧ s.moving 34 = none ∧ s.domain 34 ≠ 1 ∧ sget [] 34 s.pwr.waitq = [] ∧
      gives (.domainRequest 9 34 1) s (fun u => u.moving 34 = none ∧ sget [] 34 u.pwr.waitq = [1] ∧ u.field (oDom 34) 63 62 = 1) = true) ∧
    givesS (.domainRequest 9 31 2) dev (dev.at 9) = true ∧ givesS (.domainRequest 9 92 2) dev (dev.at 9) = true ∧
    (let s := { (hot dev 79).setField (oDom 79) 59 59 1 with pwr := { dev.pwr with going := [(79, some 1)] } }
     s.moving 79 = some 1 ∧ sget [] 79 s.pwr.waitq = [] ∧
      gives (.domainTransitionDone 9 79) s (fun u => u.domain 79 = 1 ∧ u.moving 79 = none ∧ u.field (oDom 79) 59 59 = 0) = true) := by
  decide +kernel

theorem witness_idleDomains :
    (let s := hot dev 3
     let o := oPwr (0x400 + 3 * 8)
     let s := { s.setField o 63 62 0 with eff := [(o, (s.setField o 63 62 0).reg o)] }
     s.boot.locked = true ∧ s.quiet 3 = true ∧ (s.at 9).inGap = true ∧ s.moving 3 = none ∧ (s.clu 3).bist = 0 ∧
      0 = bf (s.effNow o) 63 62 ∧ s.domain 3 ≠ 0 ∧
      gives (.clusterIdle 9 3) s (fun u => u.moving 3 = some 0 ∧ (u.clu 3).writeback) = true) ∧
    (let s := hot frm 3
     let o := oPwr (0x400 + 3 * 8)
     let w : Word := setBf (setBf 0 61 60 1) 15 0 2
     let s := { s.setReg o w with eff := [(o, w)] }
     s.quiet 3 = true ∧ (s.at (2 * 1280000)).inGap = false ∧ (s.clu 3).idleAt + bf (s.effNow o) 15 0 * 1280000 ≤ 2 * 1280000 ∧
      1 = bf (s.effNow o) 61 60 ∧ s.domain 3 ≠ 1 ∧
      gives (.clusterIdle (2 * 1280000) 3) s (fun u => u.moving 3 = some 1 ∧ (u.clu 3).writeback = false) = true) ∧
    (let s := { (hot dev 0).setClu 0 { CluSt.reset with writeback := true, l2 := [(5, some { line := 0x80, dirty := false, mark := false, behind := none, one := 0, two := 0, lost := 0 })] } with
       pwr := { dev.pwr with going := [(0, some 0)] } }
     (s.clu 0).writeback = true ∧ s.moving 0 = some 0 ∧ sget [] 0 s.pwr.waitq = [] ∧
      gives (.clusterWritebackDone 9 0) s (fun u => u.domain 0 = 0 ∧ (u.clu 0).l2 = [] ∧ (u.clu 0).writeback = false) = true) ∧
    (let s := (dev.setField (oPwr 0) 63 63 1).setField (oPwr 0) 15 0 3
     s.field (oPwr 0) 63 63 = 1 ∧ s.inService 81 = true ∧ sget 0 1 s.pwr.memAt + usT (s.field (oPwr 0) 15 0) ≤ usT 3 ∧
      gives (.hbmIdle (usT 3) 1) s (fun u => u.domain 81 = 1 ∧ u.domain 80 = 2) = true) := by
  decide +kernel

theorem witness_selfTest :
    ((dev.clu 3).bist = 0 ∧ dev.moving 3 = none ∧ dev.domain 3 = 0 ∧
      gives (.bistStart 9 3) dev (fun u => (u.clu 3).bist = 1 ∧ u.field (oBist 3) 61 59 = 1) = true) ∧
    (let s := hot dev 3
     s.quiet 3 = true ∧ s.domain 3 ≤ 2 ∧ gives (.bistStart 9 3) s (fun u => (u.clu 3).bist = 1 ∧ (u.clu 3).bistBack = 2 ∧ u.field (oBist 3) 61 59 = 1) = true ∧
      gives (.bistDrain 9 3) (s.setField (oPwr (0x100 + 3 * 8)) 61 60 1) (fun u => (u.clu 3).bist = 1 ∧ (u.clu 3).bistBack = 1) = true) ∧
    (let s := (hot dev 3).setClu 3 { CluSt.reset with slices := [slice0] }
     s.domain 3 = 2 ∧ s.quiet 3 = false ∧ (s.clu 3).bist = 0 ∧ s.moving 3 = none ∧
      gives (.bistStart 9 3) s (fun u => (u.clu 3).bist = 0 ∧ u.field (oBist 3) 61 59 = 2) = true ∧
      gives (.bistDrain 9 3) s (fun u => (u.clu 3).bist = 5 ∧ u.field (oBist 3) 61 59 = 5) = true) ∧
    (let s := dev.setClu 3 { CluSt.reset with bist := 1, bistBack := 2 }
     let f : BistFinding := { cores := 0, ways := 0, tlb := false }
     (s.clu 3).bist = 1 ∧ (s.clu 3).bistBack < 3 ∧ (s.clu 3).slices = [] ∧ (s.clu 3).copies = [] ∧ sget [] 3 s.pwr.waitq = [] ∧
      gives (.bistDone 9 3 f) s (fun u => (u.clu 3).bist = 0 ∧ u.domain 3 = 2 ∧ u.field (oBist 3) 61 59 = 3 ∧ u.errs = []) = true ∧
      gives (.bistDone 9 3 { f with cores := 4 }) s (fun u => u.field (oBist 3) 61 59 = 4 ∧ (u.core 50).out ∧
        u.errs.map (fun e => (e.cls, e.src, e.unit, e.code)) = [(2, 2, 3, 8)]) = true) := by
  decide +kernel

end Sys2Proof.Tests
end

section
/-! PROOFS. Every step keeps memory and the register table in their canonical form (O5). A step is followed through the functions of the
model that it calls: one rule for each, in the order of the model, says that the function keeps what its argument keeps. -/

namespace Sys2Proof.Machine

-- One proof after the other: a thousand short ones, begun at once, would take a thread each and pass the memory limit of the check.
set_option Elab.async false

/-! ### Canonical form of mapped tables -/

section
variable {α : Type}

theorem keysAbove_filterMap {p : Nat × α → Option (Nat × α)} (hp : ∀ e f, p e = some f → f.1 = e.1) {j : Nat} {l : Sparse α}
    (h : keysAbove j l = true) : keysAbove j (l.filterMap p) = true := by
  induction l with
  | nil => rfl
  | cons e l ih =>
    simp only [keysAbove, Bool.and_eq_true, decide_eq_true_eq] at h
    rw [List.filterMap_cons]
    split
    next => exact ih h.2
    next f hf =>
      simp only [keysAbove, Bool.and_eq_true, decide_eq_true_eq]
      exact ⟨hp e f hf ▸ h.1, ih h.2⟩

/-- Mapping the entries to canonical entries of the same keys, or dropping them, keeps the canonical form. -/
theorem swf_filterMap [DecidableEq α] {d : Nat → α} {p : Nat × α → Option (Nat × α)} (hk : ∀ e f, p e = some f → f.1 = e.1)
    (hd : ∀ e f, e.2 ≠ d e.1 → p e = some f → f.2 ≠ d e.1) {l : Sparse α} (h : swf d l = true) : swf d (l.filterMap p) = true := by
  induction l with
  | nil => rfl
  | cons e l ih =>
    simp only [swf, Bool.and_eq_true, decide_eq_true_eq] at h
    rw [List.filterMap_cons]
    split
    next => exact ih h.2
    next f hf =>
      have he := hk e f hf
      simp only [swf, Bool.and_eq_true, decide_eq_true_eq]
      exact ⟨⟨he ▸ hd e f h.1.1 hf, keysAbove_filterMap hk (he ▸ h.1.2)⟩, ih h.2⟩

theorem keptReg_eq_some {e f : Nat × Word} (h : keptReg e = some f) : f.1 = e.1 ∧ f.2 ≠ regReset e.1 := by
  unfold keptReg at h
  extract_lets w at h
  split at h
  · cases h
  next hw => cases h; exact ⟨rfl, hw⟩

end

/-! ### The relation that a step keeps -/

/-- The state at which a transition begins. `sends`: the transition is neither a step of the error writer nor a start of the supply, which
alone take error events away. -/
structure Origin where
  state : State
  sends : Prop

/-- What a transition from an origin to `s` keeps: the waiting commands, the canonical form of memory and of the register table with its
copy of the last cast-on, and the error events that wait. -/
structure Origin.Keeps (s₀ : Origin) (s : State) : Prop where
  pending : s.pending = s₀.state.pending
  mem : Memory.wf s₀.state.mem = true → Memory.wf s.mem = true
  regs : swf regReset s₀.state.regs = true → swf regReset s₀.state.eff = true → swf regReset s.regs = true ∧ swf regReset s.eff = true
  errs : s₀.sends → s₀.state.errs <+: s.errs

/-- Whatever the outcome of an operation, its state is kept from `s₀`. -/
def Op.Keeps (o : Op) (s₀ : Origin) : Prop := match o with
  | .ok s _ => s₀.Keeps s
  | .bad s _ => s₀.Keeps s
  | .taken s => s₀.Keeps s

def Res.Keeps (r : Res) (s₀ : Origin) : Prop := match r with
  | .ok s _ _ => s₀.Keeps s
  | .bad s _ => s₀.Keeps s
  | .taken s => s₀.Keeps s

def Leg.Keeps (l : Leg) (s₀ : Origin) : Prop := match l with
  | .on s _ => s₀.Keeps s
  | .fin o => o.Keeps s₀

def MicroStep.Keeps (m : MicroStep) (s₀ : Origin) : Prop := match m with
  | .on s _ => s₀.Keeps s
  | .stop o => o.Keeps s₀

def Resume.Keeps (m : Resume) (s₀ : Origin) : Prop := match m with
  | .fresh => True
  | .at_ s _ => s₀.Keeps s
  | .stands s => s₀.Keeps s

def Out.Keeps (o : Out) (s₀ : Origin) : Prop := ∀ s, o = .next s → s₀.Keeps s

variable {s₀ : Origin} {s u : State} {α β : Type}

/-! ### What the rules below are built from

`same`, `setMem`, `setReg`, `filterRegs` and `castRegs` are the record updates that the model makes; the others follow its control. -/

/-- An update of memory that keeps its canonical form, and of other fields. -/
theorem Origin.Keeps.setMem (h : s₀.Keeps s) {m : List Host.Cell} (hm : Memory.wf s.mem = true → Memory.wf m = true)
    {now free small rdata raised errNum frame ports chans regionS regionA dmapS dmapA rows wms xbar cluIn wmIn spikes time reports
    queues ha lastMsi irqErr irqCast irqBind irqs outqs ring mast mastS mastA bad suspect decodes flips merges cores clus filter
    hostLines world ucode gc flash memActive pwr fuses boot spdm cxl} :
    s₀.Keeps { s with
      now, free, small, rdata, raised, errNum, frame, ports, chans, regionS, regionA, dmapS, dmapA, rows, wms, xbar, cluIn, wmIn
      spikes, time, reports, queues, ha, lastMsi, irqErr, irqCast, irqBind, irqs, outqs, ring, mast, mastS, mastA, bad, suspect
      decodes, flips, merges, cores, clus, filter, hostLines, world, ucode, gc, flash, memActive, pwr, fuses, boot, spdm, cxl, mem := m } :=
  ⟨h.pending, fun hw => hm (h.mem hw), h.regs, h.errs⟩

/-- An update of fields other than those that `Keeps` speaks of. -/
theorem Origin.Keeps.same (h : s₀.Keeps s)
    {now free small rdata raised errNum frame ports chans regionS regionA dmapS dmapA rows wms xbar cluIn wmIn spikes time reports
    queues ha lastMsi irqErr irqCast irqBind irqs outqs ring mast mastS mastA bad suspect decodes flips merges cores clus filter
    hostLines world ucode gc flash memActive pwr fuses boot spdm cxl} :
    s₀.Keeps { s with
      now, free, small, rdata, raised, errNum, frame, ports, chans, regionS, regionA, dmapS, dmapA, rows, wms, xbar, cluIn, wmIn
      spikes, time, reports, queues, ha, lastMsi, irqErr, irqCast, irqBind, irqs, outqs, ring, mast, mastS, mastA, bad, suspect
      decodes, flips, merges, cores, clus, filter, hostLines, world, ucode, gc, flash, memActive, pwr, fuses, boot, spdm, cxl } :=
  h.setMem id

theorem Origin.Keeps.andThen {P : Prop} (h : s₀.Keeps s) (f : s₀.Keeps s → P) : P := f h

theorem Origin.Keeps.ite {c : Prop} {_ : Decidable c} {a b : State} (ha : s₀.Keeps a) (hb : s₀.Keeps b) :
    s₀.Keeps (if c then a else b) := by split <;> assumption

theorem Origin.Keeps.iteFst {c : Prop} {_ : Decidable c} {a b : State × α} (ha : s₀.Keeps a.1) (hb : s₀.Keeps b.1) :
    s₀.Keeps (if c then a else b).1 := by split <;> assumption

/-- The state of a pair that a `match` has taken apart. -/
theorem Origin.Keeps.fst {p : State × α} {x : α} (h : s₀.Keeps p.1) (e : p = (s, x) := by with_reducible assumption) : s₀.Keeps s := by
  subst e; exact h

theorem Origin.Keeps.pair {x : α} (h : s₀.Keeps s) : s₀.Keeps (s, x).1 := h

theorem Origin.Keeps.foldl {f : State → α → State} {l : List α} (h : s₀.Keeps s) (hf : ∀ s a, s₀.Keeps s → s₀.Keeps (f s a)) :
    s₀.Keeps (l.foldl f s) := by
  induction l generalizing s with
  | nil => exact h
  | cons a l ih => exact ih (hf s a h)

theorem Origin.Keeps.foldlFst {f : State × β → α → State × β} {l : List α} {p : State × β} (h : s₀.Keeps p.1)
    (hf : ∀ p a, s₀.Keeps p.1 → s₀.Keeps (f p a).1) : s₀.Keeps (l.foldl f p).1 := by
  induction l generalizing p with
  | nil => exact h
  | cons a l ih => exact ih (hf p a h)

theorem Op.Keeps.ok {e : Eff} (h : s₀.Keeps s) : (Op.ok s e).Keeps s₀ := h

theorem Op.Keeps.bad {f : Flt} (h : s₀.Keeps s) : (Op.bad s f).Keeps s₀ := h

theorem Op.Keeps.taken (h : s₀.Keeps s) : (Op.taken s).Keeps s₀ := h

theorem Res.Keeps.ok {n : Nxt} {l : List (Nat × Word)} (h : s₀.Keeps s) : (Res.ok s n l).Keeps s₀ := h

theorem Res.Keeps.bad {f : Flt} (h : s₀.Keeps s) : (Res.bad s f).Keeps s₀ := h

theorem Res.Keeps.taken (h : s₀.Keeps s) : (Res.taken s).Keeps s₀ := h

theorem Leg.Keeps.on {r : MicroRec} (h : s₀.Keeps s) : (Leg.on s r).Keeps s₀ := h

theorem Leg.Keeps.fin {o : Op} (h : o.Keeps s₀) : (Leg.fin o).Keeps s₀ := h

theorem MicroStep.Keeps.on {r : MicroAt} (h : s₀.Keeps s) : (MicroStep.on s r).Keeps s₀ := h

theorem MicroStep.Keeps.stop {o : Op} (h : o.Keeps s₀) : (MicroStep.stop o).Keeps s₀ := h

theorem Resume.Keeps.fresh : Resume.fresh.Keeps s₀ := trivial

theorem Resume.Keeps.at_ {r : MicroRec} (h : s₀.Keeps s) : (Resume.at_ s r).Keeps s₀ := h

theorem Resume.Keeps.stands (h : s₀.Keeps s) : (Resume.stands s).Keeps s₀ := h

theorem Out.Keeps.next (h : s₀.Keeps s) : Out.Keeps (.next s) s₀ := by
  intro u e; cases e; exact h

theorem Out.Keeps.ite {c : Prop} {_ : Decidable c} {a b : Out} (ha : a.Keeps s₀) (hb : b.Keeps s₀) : Out.Keeps (if c then a else b) s₀ := by
  split <;> assumption

theorem Op.Keeps.ite {c : Prop} {_ : Decidable c} {a b : Op} (ha : a.Keeps s₀) (hb : b.Keeps s₀) : (if c then a else b).Keeps s₀ := by
  split <;> assumption

theorem Res.Keeps.ite {c : Prop} {_ : Decidable c} {a b : Res} (ha : a.Keeps s₀) (hb : b.Keeps s₀) : (if c then a else b).Keeps s₀ := by
  split <;> assumption

theorem Leg.Keeps.ite {c : Prop} {_ : Decidable c} {a b : Leg} (ha : a.Keeps s₀) (hb : b.Keeps s₀) : (if c then a else b).Keeps s₀ := by
  split <;> assumption

theorem MicroStep.Keeps.ite {c : Prop} {_ : Decidable c} {a b : MicroStep} (ha : a.Keeps s₀) (hb : b.Keeps s₀) :
    (if c then a else b).Keeps s₀ := by split <;> assumption

theorem Resume.Keeps.ite {c : Prop} {_ : Decidable c} {a b : Resume} (ha : a.Keeps s₀) (hb : b.Keeps s₀) :
    (if c then a else b).Keeps s₀ := by split <;> assumption

theorem Origin.Keeps.setReg {o : Nat} {v : Word} (h : s₀.Keeps s) : s₀.Keeps (s.setReg o v) :=
  ⟨h.pending, h.mem, fun hr he => ⟨swf_sset (h.regs hr he).1, (h.regs hr he).2⟩, h.errs⟩

theorem Origin.Keeps.filterRegs {p : Nat × Word → Bool} (h : s₀.Keeps s) : s₀.Keeps { s with regs := s.regs.filter p } :=
  ⟨h.pending, h.mem, fun hr he => ⟨swf_filter (h.regs hr he).1, (h.regs hr he).2⟩, h.errs⟩

/-- At cast-on the registers are copied. -/
theorem Origin.Keeps.castRegs (h : s₀.Keeps s) : s₀.Keeps { s with eff := s.regs } :=
  ⟨h.pending, h.mem, fun hr he => ⟨(h.regs hr he).1, (h.regs hr he).1⟩, h.errs⟩

theorem Resume.Keeps.of_at {m : Resume} {r : MicroRec} (h : m.Keeps s₀) (e : m = .at_ s r := by with_reducible assumption) : s₀.Keeps s := by
  subst e; exact h

theorem Resume.Keeps.of_stands {m : Resume} (h : m.Keeps s₀) (e : m = .stands s := by with_reducible assumption) : s₀.Keeps s := by
  subst e; exact h

theorem MicroStep.Keeps.of_on {m : MicroStep} {x : MicroAt} (h : m.Keeps s₀) (e : m = .on s x := by with_reducible assumption) : s₀.Keeps s := by
  subst e; exact h

theorem MicroStep.Keeps.of_stop {m : MicroStep} {o : Op} (h : m.Keeps s₀) (e : m = .stop o := by with_reducible assumption) : o.Keeps s₀ := by
  subst e; exact h

theorem Op.Keeps.of_ok {o : Op} {f : Eff} (h : o.Keeps s₀) (e : o = .ok s f := by with_reducible assumption) : s₀.Keeps s := by
  subst e; exact h

theorem Op.Keeps.of_bad {o : Op} {f : Flt} (h : o.Keeps s₀) (e : o = .bad s f := by with_reducible assumption) : s₀.Keeps s := by
  subst e; exact h

theorem Op.Keeps.of_taken {o : Op} (h : o.Keeps s₀) (e : o = .taken s := by with_reducible assumption) : s₀.Keeps s := by
  subst e; exact h

section
variable {a b c code d f fuel i j k line m mask n o op p pa q r rd s6 src t unit v va w : Nat} (h : s₀.Keeps s)
include h

/-! ### `Sys2Proof/Machine/Ops.lean` -/

theorem Origin.Keeps.at : s₀.Keeps (s.at t) := h.same
theorem Origin.Keeps.useFree : s₀.Keeps s.useFree := h.same
theorem Origin.Keeps.setPort {x : PortSt} : s₀.Keeps (s.setPort p x) := h.same
theorem Origin.Keeps.setChan {x : ChanSt} : s₀.Keeps (s.setChan c x) := h.same
theorem Origin.Keeps.setRow {x : RowSt} : s₀.Keeps (s.setRow r x) := h.same
theorem Origin.Keeps.setSpike {x : SpikeSt} : s₀.Keeps (s.setSpike i x) := h.same
theorem Origin.Keeps.setQueue {x : QSt} : s₀.Keeps (s.setQueue q x) := h.same
theorem Origin.Keeps.setHa {x : HaSt} : s₀.Keeps (s.setHa f x) := h.same

theorem Origin.Keeps.forN {f : State → Nat → State} (hf : ∀ s x, s₀.Keeps s → s₀.Keeps (f s x)) : s₀.Keeps (Machine.forN n f s) :=
  h.foldl (hf)

theorem Origin.Keeps.setField {hi lo : Nat} : s₀.Keeps (s.setField o hi lo v) := h.setReg
theorem Origin.Keeps.raiseBit : s₀.Keeps (s.raiseBit o b) := h.setField.same
theorem Origin.Keeps.bumpN : s₀.Keeps (s.bumpN o n) := h.setReg
theorem Origin.Keeps.bump : s₀.Keeps (s.bump o) := h.bumpN

theorem Origin.Keeps.errWith {cls slot d4 d5 d6 d7 : Nat} {cause : Option Nat}
    : s₀.Keeps (s.errWith cls src unit code slot d4 d5 d6 d7 cause) :=
  ⟨h.pending, h.mem, h.regs, fun hs => (h.errs hs).trans (List.prefix_append ..)⟩

theorem Origin.Keeps.err {cls d4 : Nat} : s₀.Keeps (s.err cls src unit code d4) := h.errWith
theorem Origin.Keeps.sticky : s₀.Keeps (s.sticky b) := h.setReg
theorem Origin.Keeps.slotRep : s₀.Keeps (s.slotRep b k) := h.same
theorem Origin.Keeps.tabPend : s₀.Keeps (s.tabPend k) := h.setField
theorem Origin.Keeps.tabActivated : s₀.Keeps (s.tabActivated k) := h.setField.setField.setField
theorem Origin.Keeps.setPll {u : Nat} {x : PllSt} : s₀.Keeps (s.setPll u x) := h.same
theorem Origin.Keeps.touchMem : s₀.Keeps (s.touchMem pa) := .ite h (.ite h.same.setField h.same)

/-! ### `Sys2Proof/Machine/Lines.lean` -/

theorem Origin.Keeps.setCore {x : CoreSt} : s₀.Keeps (s.setCore c x) := h.same
theorem Origin.Keeps.setCtx {y : CtxSt} : s₀.Keeps (s.setCtx c j y) := h.setCore
theorem Origin.Keeps.setClu {x : CluSt} : s₀.Keeps (s.setClu k x) := h.same
theorem Origin.Keeps.spend : s₀.Keeps (s.spend c n) := h.setCore
theorem Origin.Keeps.stall : s₀.Keeps (s.stall c) := h.spend.useFree
theorem Origin.Keeps.settle : s₀.Keeps (s.settle k) := h.foldl (fun _ _ h => .ite h.spend h)
theorem Origin.Keeps.settleAll : s₀.Keeps s.settleAll := h.forN (fun _ _ h => h.settle)
theorem Origin.Keeps.restart : s₀.Keeps (s.restart k) := h.foldl (fun _ _ h => .ite h.setCore h)
theorem Origin.Keeps.l2Set {x : Option L2Line} : s₀.Keeps (s.l2Set k line w x) := h.setClu
theorem Origin.Keeps.l1Drop {keep : Option Nat} : s₀.Keeps (s.l1Drop k line keep) := h.foldl (fun _ _ h => h.setCore)
theorem Origin.Keeps.logShow {newest : Nat} : s₀.Keeps (s.logShow m newest) := h.setField.setField
theorem Origin.Keeps.logErr {kind cause : Nat} : s₀.Keeps (s.logErr m kind pa cause) := .ite (.ite h.err h) h.errWith
theorem Origin.Keeps.logMerge : s₀.Keeps (s.logMerge m i mask) := h.setField.setField.setField.logShow

theorem Origin.Keeps.logCreate {kind : Nat} : s₀.Keeps (s.logCreate m i kind pa mask src unit) :=
  h.setReg.raiseBit.setReg.setReg.useFree.setReg.logShow

theorem Origin.Keeps.memLog {kind cause : Nat} : s₀.Keeps (s.memLog m kind pa mask src unit cause) :=
  .ite h (by split; exacts [h.logMerge, (by split; exacts [h.setField.logErr, h.logCreate.logErr])])

theorem Origin.Keeps.busErrLog : s₀.Keeps (s.busErrLog pa src unit) := .ite h (.ite h.bump h.bump.memLog)
theorem Origin.Keeps.wrongWords : s₀.Keeps (s.wrongWords line).1 := .iteFst h (.iteFst h (.iteFst (.iteFst h.useFree.pair h.useFree.pair) h))
theorem Origin.Keeps.corrected : s₀.Keeps (s.corrected m pa mask src unit) := .ite h h.same.bumpN.memLog
theorem Origin.Keeps.decodeAsk : s₀.Keeps (s.decodeAsk m pa mask) := .ite h.same h.same.same

theorem Origin.Keeps.decodeEnd {fits : Bool} : s₀.Keeps (s.decodeEnd m pa fits src unit) :=
  h.same.bump.wrongWords.corrected.andThen fun h => .ite h.same.bump.memLog h.same

theorem Origin.Keeps.awaitPage : s₀.Keeps (s.awaitPage pa) := .ite h.decodeEnd.useFree h

theorem Origin.Keeps.scan : s₀.Keeps (s.scan pa src unit) :=
  h.awaitPage.wrongWords.corrected.andThen fun h => .ite h (.ite h.decodeAsk.decodeEnd.useFree h.same)

theorem Origin.Keeps.flipHook : s₀.Keeps (s.flipHook m pa) := .ite h.same.setField h
theorem Origin.Keeps.checkFold : s₀.Keeps (s.checkFold pa src unit) := .ite h.wrongWords.corrected h.wrongWords.corrected.same.bump.memLog

theorem Origin.Keeps.lineWrite : s₀.Keeps (s.lineWrite pa mask src unit) :=
  Origin.Keeps.andThen (.ite h.awaitPage.scan h.awaitPage) fun h => Origin.Keeps.andThen (.ite h.same.checkFold h.same)
      fun h => Origin.Keeps.andThen (.ite h (.ite (.ite h.same h.same.memLog) (Origin.Keeps.andThen (.ite h.same h.same.memLog)
      fun h => .ite h.bump.memLog h))) fun h => h.flipHook

theorem Origin.Keeps.mergeDone : s₀.Keeps (s.mergeDone m line) := by
  unfold State.mergeDone
  extract_lets
  split
  · exact h
  · exact Origin.Keeps.andThen (.ite h.same h.same.bump) fun h => h.lineWrite

theorem Origin.Keeps.mergeFull : s₀.Keeps (s.mergeFull m line) := .ite h.mergeDone h

theorem Origin.Keeps.mergePut : s₀.Keeps (s.mergePut m line mask) := by
  unfold State.mergePut
  extract_lets
  split
  · exact h.awaitPage.same
  · exact Origin.Keeps.andThen (.ite h.awaitPage.mergeDone h.awaitPage) fun h => h.same

theorem Origin.Keeps.putWords {data : List Word} : s₀.Keeps (s.putWords pa mask data) := h.foldl fun _ _ h => .ite (h.setMem mwrW_wf) h
theorem Origin.Keeps.ctlRead : s₀.Keeps (s.ctlRead pa src unit) := .ite h h.touchMem.mergeDone.scan

theorem Origin.Keeps.acceptLine {x : L2Line} : s₀.Keeps (s.acceptLine x) :=
  .ite h (h.touchMem.mergeDone.lineWrite.andThen fun h => .ite h h.same.memLog)

theorem Origin.Keeps.evictLine {v : L2Line} : s₀.Keeps (s.evictLine k v) := by
  unfold State.evictLine
  extract_lets
  split
  · exact h.bump.setClu
  · exact h.bump.setClu

theorem Origin.Keeps.evictAccept {bank : Nat} : s₀.Keeps (s.evictAccept k bank) := by
  unfold State.evictAccept
  extract_lets
  split
  · exact h
  · exact h.setClu.acceptLine

theorem Origin.Keeps.awaitEvict : s₀.Keeps (s.awaitEvict k line a) := by
  induction a generalizing s with
  | zero => exact h
  | succ _ ih =>
    exact .ite (ih h.evictAccept) h

theorem Origin.Keeps.cacheErr : s₀.Keeps (s.cacheErr k line) := h.bump.err

theorem Origin.Keeps.l2Drop {store : Bool} : s₀.Keeps (s.l2Drop k line store) := by
  unfold State.l2Drop
  split
  · exact h
  · exact Origin.Keeps.andThen (.ite h.bump h) fun h => h.l2Set.l1Drop

theorem Origin.Keeps.l2Check : s₀.Keeps (s.l2Check k line) := by
  unfold State.l2Check
  split
  · exact h
  · split
    · exact h
    · exact .ite h ((h.foldl (fun _ _ h => h.cacheErr)).andThen fun h => .ite h.l2Set (.ite h.l2Set h.cacheErr.l2Drop))

theorem Origin.Keeps.probe : s₀.Keeps (s.probe k pa src unit) := .ite h.l2Check h.l2Check.ctlRead

theorem Origin.Keeps.track : s₀.Keeps (s.track line) :=
  .ite h.same (.ite h.same (Origin.Keeps.andThen (.ite (h.foldl (fun _ _ h => (by
        split
        · exact h
        · exact Origin.Keeps.andThen (by split; exacts [.ite h.acceptLine h, h]) fun h => h.l2Drop.bump))).same h) fun h => h.same))

theorem Origin.Keeps.snoopLine {hx : Nat} {write : Bool} : s₀.Keeps (s.snoopLine hx line write) := by
  unfold State.snoopLine
  split
  · exact h
  · exact Origin.Keeps.andThen (.ite h.acceptLine h) fun h => .ite h.l2Drop h.l2Set

theorem Origin.Keeps.snoopOthers {write : Bool} : s₀.Keeps (s.snoopOthers k line write) :=
  (h.foldl (fun _ _ h => .ite h h.snoopLine)).andThen fun h => .ite h.same (.ite h.same h)

theorem Origin.Keeps.putLine {ws : List Word} : s₀.Keeps (s.putLine src unit a ws) :=
  h.touchMem.snoopOthers.andThen fun h => .ite h (.ite (h.setMem mwrWs_wf)
      (.ite (h.mergeDone.setMem mwrWs_wf).lineWrite (h.setMem mwrWs_wf).mergePut.mergeFull))

theorem Origin.Keeps.putBy {ws : List Word} : s₀.Keeps (s.putBy src unit fuel a ws) := by
  induction fuel generalizing s a ws with
  | zero => exact h
  | succ fuel ih =>
    cases ws with
    | nil => exact h
    | cons w ws => exact ih h.putLine

theorem Origin.Keeps.memPutBy {ws : List Word} : s₀.Keeps (s.memPutBy src unit a ws) := h.putBy
theorem Origin.Keeps.memPut {ws : List Word} : s₀.Keeps (s.memPut a ws) := h.memPutBy
theorem Origin.Keeps.devLine : s₀.Keeps (s.devLine src unit a) := (h.foldl (fun _ _ h => h.l2Check)).ctlRead

theorem Origin.Keeps.devGet : s₀.Keeps (s.devGet src unit a).1 := by
  unfold State.devGet
  extract_lets
  split
  · exact .iteFst h.devLine.pair h.devLine.busErrLog.pair
  · exact h.devLine.pair

/-! ### `Sys2Proof/Machine/Hbm.lean` -/

theorem Origin.Keeps.execMemoryRead {m : CtlId} {pa : BitVec 46} {req : Requester} {unit : BitVec 6} {found : ReadFinding}
    : Out.Keeps (Machine.execMemoryRead t m pa req unit found s) s₀ :=
  .ite (.next h.at) (.ite (.next h.at.touchMem.busErrLog)
      (h.at.touchMem.mergeDone.awaitPage.wrongWords.andThen fun h => Origin.Keeps.andThen (.ite h.corrected
      (.ite h.corrected.decodeAsk h.corrected.same)) fun h => .next (.ite h h.busErrLog)))

theorem Origin.Keeps.execPageDecode {m : CtlId} {pa : BitVec 46} {req : Requester} {unit : BitVec 6} {oneBurst : Bool}
    : Out.Keeps (Machine.execPageDecode t m pa req unit oneBurst s) s₀ :=
  .ite (.next h.at) (.next (.ite h.at.decodeEnd h.at.decodeEnd.busErrLog))

theorem Origin.Keeps.execMemoryWrite {m : CtlId} {pa : BitVec 46} {mask : BitVec 8} {data : List Word}
    : Out.Keeps (Machine.execMemoryWrite t m pa mask data s) s₀ :=
  .ite (.next h.at.touchMem) (Origin.Keeps.andThen (.ite h.at.touchMem.mergeDone h.at.touchMem)
      fun h => .next (.ite h.putWords.lineWrite h.putWords.mergePut.mergeFull))

theorem Origin.Keeps.execMergeComplete {m : CtlId} {pa : BitVec 46} : Out.Keeps (Machine.execMergeComplete t m pa s) s₀ :=
  .next h.at.mergeDone

theorem Origin.Keeps.execFlipArm {m : CtlId} {v : Word} : Out.Keeps (Machine.execFlipArm t m v s) s₀ := .ite (.next h.at) (.next h.at.setReg)

theorem Origin.Keeps.execPowerOnFill {m : CtlId} {fails : Bool} : Out.Keeps (execPowerOnFill t m fails s) s₀ :=
  .ite (.next h.at) (.ite (.next h.at.setField.setField.memLog) (.next (h.at.setMem swf_filter).setField.setField))

theorem Origin.Keeps.stackFail {cause : Nat} : s₀.Keeps (s.stackFail m cause) := .ite h h.setField.setField.same.memLog

theorem Origin.Keeps.execStackFailure {m : CtlId} {cause : StackCause} : Out.Keeps (Machine.execStackFailure t m cause s) s₀ :=
  .next h.at.stackFail

/-! ### `Sys2Proof/Machine/Cores.lean` -/

theorem Origin.Keeps.l2Alloc {dirty : Bool} : s₀.Keeps (s.l2Alloc k line dirty) := by
  unfold State.l2Alloc
  dsimp only
  split
  · exact .ite h.l2Set.track h.l2Set
  · exact h
  · split
    · exact .ite h.useFree.l2Set.track h.useFree.l2Set
    · exact .ite (.ite h.useFree.l2Set.l1Drop.evictLine.l2Set.track h.useFree.l2Set.l1Drop.evictLine.l2Set)
        (.ite h.useFree.l2Set.l1Drop.l2Set.track h.useFree.l2Set.l1Drop.l2Set)

theorem Origin.Keeps.l2Miss {write : Bool} : s₀.Keeps (s.l2Miss k line write) := h.touchMem.bump.snoopOthers.awaitEvict

theorem Origin.Keeps.l2Read : s₀.Keeps (s.l2Read k line) := by
  unfold State.l2Read
  split
  · split
    · exact h.awaitEvict
    · exact h
  · exact h.l2Miss.l2Alloc

theorem Origin.Keeps.l1Tlb {fetch : Bool} {e : TlbEnt} : s₀.Keeps (s.l1Tlb c fetch e) := h.useFree.setCore
theorem Origin.Keeps.cluTlb {e : TlbEnt} : s₀.Keeps (s.cluTlb k e) := .ite h h.setClu.useFree

theorem Origin.Keeps.walkLevel {level table : Nat} {tr : Nat → Nat → Flt} {spec : Bool}
    : s₀.Keeps (s.walkLevel k w va level table tr spec).1 :=
  .iteFst h (.iteFst h (.iteFst h (.iteFst (.pair (.ite h.probe h.probe.busErrLog)) h.probe.l2Read.pair)))

theorem Origin.Keeps.walkFrom {table : Nat} {tr : Nat → Nat → Flt} {spec : Bool} : s₀.Keeps (s.walkFrom k w va tr spec table a).1 := by
  induction a generalizing s table with
  | zero => exact h
  | succ _ ih =>
    rw [State.walkFrom]
    split
    · exact h.walkLevel.fst.pair
    · exact h.walkLevel.fst.pair
    · exact (ih h.walkLevel.fst)

theorem Origin.Keeps.walk {tr : Nat → Nat → Flt} {spec : Bool} : s₀.Keeps (s.walk k w va tr spec).1 := .iteFst h.bump.pair h.bump.walkFrom

theorem Origin.Keeps.walkFill {tr : Nat → Nat → Flt} {spec : Bool} : s₀.Keeps (s.walkFill k w va tr spec a).1 := by
  induction a generalizing s with
  | zero => exact h
  | succ _ ih =>
    rw [State.walkFill]
    split
    · exact h.walk.fst.pair
    · exact .iteFst h.walk.fst.pair (.iteFst h.walk.fst.pair (ih h.walk.fst.bump))

theorem Origin.Keeps.lookup {acc : Access} {spec : Bool} : s₀.Keeps (s.lookup c w acc va spec).1 := by
  unfold State.lookup
  dsimp only
  split
  · exact h
  · split
    · exact h.spend.l1Tlb.pair
    · split
      · exact h.bump.walkFill.fst.stall.pair
      next he => exact .pair (.ite (.l1Tlb (.cluTlb (.ite (h.bump.walkFill.fst he).spend (h.bump.walkFill.fst he).spend.stall)))
          (.ite (h.bump.walkFill.fst he).spend (h.bump.walkFill.fst he).spend.stall))

theorem Origin.Keeps.translate {sup : Bool} {acc : Access} : s₀.Keeps (s.translate c w sup acc va).1 := by
  unfold State.translate
  split
  · exact h.lookup.fst.pair
  · exact .iteFst h.lookup.fst.pair h.lookup.fst.pair

/-! ### `Sys2Proof/Machine/QueueOps.lean` -/

theorem Origin.Keeps.qPut {ws : List Word} : s₀.Keeps (s.qPut q ws) := h.memPut.setQueue.setField
theorem Origin.Keeps.qDrop : s₀.Keeps (s.qDrop q) := h.setField
theorem Origin.Keeps.qPutOrDrop {ws : List Word} : s₀.Keeps (s.qPutOrDrop q ws) := .ite h (.ite h.qDrop h.qPut)
theorem Origin.Keeps.qBroadcast {ty : Nat} {ws : List Word} : s₀.Keeps (s.qBroadcast ty ws) := h.foldl (fun _ _ h => h.qPutOrDrop)
theorem Origin.Keeps.event {ws : List Word} : s₀.Keeps (s.event code unit ws) := h.qBroadcast
theorem Origin.Keeps.raiseCtx {ctx : Nat} : s₀.Keeps (s.raiseCtx ctx code) := h.same
theorem Origin.Keeps.haPut {j : HaJob} : s₀.Keeps (s.haPut f j) := h.qPut.setHa

theorem Origin.Keeps.haSend {deadline : Option Time} {ws : List Word} : s₀.Keeps (s.haSend f op unit deadline ws) :=
  .ite h.setHa.setHa (.ite h.setHa.haPut h.setHa.setHa)

theorem Origin.Keeps.haForget {p : HaJob → Bool} : s₀.Keeps (s.haForget f p) := h.setHa
theorem Origin.Keeps.cqTake : s₀.Keeps (s.cqTake f) := .ite h.setQueue.setField h
theorem Origin.Keeps.haDone {job : Nat} : s₀.Keeps (s.haDone f job) := h.setHa
theorem Origin.Keeps.haStale : s₀.Keeps s.haStale := h.bump

/-! ### `Sys2Proof/Machine/Port.lean` -/

theorem Origin.Keeps.toRow {stream cycles : Nat} {x : RowIn} : s₀.Keeps (s.toRow r stream cycles x) := h.setRow
theorem Origin.Keeps.portToRow {cycles : Nat} {x : RowIn} : s₀.Keeps (s.portToRow p cycles x) := h.toRow

theorem Origin.Keeps.placeCmd {rank arg : Nat} {teff : Int} {soft : Bool} : s₀.Keeps (State.placeCmd fuel s p rank teff code arg soft) := by
  induction fuel generalizing s rank teff code arg soft with
  | zero => exact h
  | succ _ ih =>
    rw [State.placeCmd]
    split
    · exact h.bump.err
    · exact h.setPort.foldl (fun _ _ h => (ih h))

theorem Origin.Keeps.sendCmd {rank arg : Nat} {teff : Int} {soft : Bool} : s₀.Keeps (s.sendCmd p rank teff code arg soft) :=
  .ite h.placeCmd h.bump

theorem Origin.Keeps.emptyBuf : s₀.Keeps (s.emptyBuf p) := (h.foldl (fun _ _ h => .ite h.bump h.bump)).setPort
theorem Origin.Keeps.portReef : s₀.Keeps (s.portReef p) := h.sticky.setField
theorem Origin.Keeps.closeStitch : s₀.Keeps (s.closeStitch p) := h.setPort.bumpN.portToRow

theorem Origin.Keeps.departUp {quiet : Bool} : s₀.Keeps (s.departUp p quiet) :=
  .ite (by
        split
        · exact .ite h.bump.errWith h.bump
        · exact h.bump) (Origin.Keeps.andThen (.ite (Origin.Keeps.andThen (.ite h.bump h.bump.portReef.portToRow) fun h => .ite h h.err)
      h.bump) fun h => h.setPort.emptyBuf)

theorem Origin.Keeps.discardCmds {l : Link} : s₀.Keeps (s.discardCmds p l) := h.setPort.bumpN
theorem Origin.Keeps.calBegin : s₀.Keeps (s.calBegin p) := h.setPort.setField
theorem Origin.Keeps.portEvent : s₀.Keeps (s.portEvent p) := h.event

theorem Origin.Keeps.enter {l : Link} {quiet : Bool} : s₀.Keeps (s.enter p l quiet) :=
  Origin.Keeps.andThen (.ite h.departUp h) fun h => Origin.Keeps.andThen (.ite h.discardCmds.setPort.calBegin h.discardCmds.setPort)
      fun h => h.portEvent

theorem Origin.Keeps.reshow : s₀.Keeps (s.reshow p) := h.setField.setField
theorem Origin.Keeps.showMode : s₀.Keeps (s.showMode p) := .reshow (.ite h.err h)
theorem Origin.Keeps.tryLeaveOff : s₀.Keeps (s.tryLeaveOff p) := .ite (.ite h.showMode.enter h.showMode.enter) (.ite h.showMode h)

theorem Origin.Keeps.stitchFail : s₀.Keeps (s.stitchFail p) :=
  Origin.Keeps.andThen (.ite h.err.setPort.portReef h.err.setPort) fun h => .ite h h.enter

theorem Origin.Keeps.bufPut {e : Elastic} : s₀.Keeps (s.bufPut p e) := .ite h.setPort (.ite h.setPort (.ite h.bump h.bump.setPort.err))

theorem Origin.Keeps.entryStage {e : Elastic} : s₀.Keeps (s.entryStage p e) :=
  .ite h.bufPut (.ite (by split; exacts [h.bump, h.bump, .ite h h.bufPut]) h)

theorem Origin.Keeps.raiseChan {g : Nat} : s₀.Keeps (s.raiseChan g) := h.same

theorem Origin.Keeps.channelStage {chan val tf cycles : Nat} : s₀.Keeps (s.channelStage p chan val tf cycles) :=
  .ite h.bump (.ite h.setChan (Origin.Keeps.andThen (.ite h.err h) fun h => Origin.Keeps.andThen (.ite h.raiseChan h)
      fun h => .ite h.setChan (.ite h.setChan h.setChan.bump.portToRow)))

theorem Origin.Keeps.advance {t : Int} : s₀.Keeps (s.advance p t) := h.setPort

theorem Origin.Keeps.reportTime {cycles : Nat} : s₀.Keeps (s.reportTime p cycles) := by
  unfold State.reportTime
  split
  · exact h.portToRow
  · exact h

theorem Origin.Keeps.closeByTime {cycles : Nat} {e : Elastic} : s₀.Keeps (s.closeByTime p e cycles) := h.setPort.portToRow

theorem Origin.Keeps.oneHit {e : Elastic} {second : Bool} : s₀.Keeps (s.oneHit p e second).1 := by
  unfold State.oneHit
  extract_lets
  split
  · exact h.bump.pair
  · exact h.bump.pair
  · exact h
  · exact h.advance.channelStage.pair

theorem Origin.Keeps.pipeline {e : Elastic} : s₀.Keeps (s.pipeline p e) := by
  unfold State.pipeline
  refine .ite ?_ ?_
  · have one : s₀.Keeps (if e.hit2 then (s, false) else s.oneHit p e false).1 := .iteFst h h.oneHit
    generalize (if e.hit2 then (s, false) else s.oneHit p e false) = a at one ⊢
    obtain ⟨s1, shut⟩ := a
    have two : s₀.Keeps (if e.hit2 || hit2Present (s1.descA p) (s1.descB p) e.block then s1.oneHit p e true else (s1, false)).1 :=
      .iteFst one.oneHit one
    refine .ite one.closeByTime ?_
    dsimp only
    generalize (if e.hit2 || hit2Present (s1.descA p) (s1.descB p) e.block then s1.oneHit p e true else (s1, false)) = b at two ⊢
    exact .ite two.reportTime.closeByTime two.setPort.reportTime
  · dsimp only
    split
    · exact h.bump.setPort
    · exact h.bump.setPort
    · exact h.closeByTime
    · exact h.advance.setPort.reportTime

theorem Origin.Keeps.calEvent : s₀.Keeps (s.calEvent p) := h.event

theorem Origin.Keeps.calSuccess {rtts : List Int} : s₀.Keeps (s.calSuccess p rtts) :=
  h.setReg.setField.setPort.andThen fun h => Origin.Keeps.andThen (.ite h.haSend h.setField) fun h => .ite h.calEvent.enter h.calEvent

theorem Origin.Keeps.calMissing : s₀.Keeps (s.calMissing p) :=
  .ite h.setPort (h.setField.setField.setPort.andThen fun h => .ite h.err.calEvent.enter h.err.calEvent)

theorem Origin.Keeps.sendSync {eff : Nat} : s₀.Keeps (s.sendSync p eff) := h.setPort.sendCmd

theorem Origin.Keeps.feFaultIn : s₀.Keeps (s.feFaultIn p) :=
  Origin.Keeps.andThen (.ite h.portReef h.portReef.setPort.err) fun h => .ite h.closeStitch h

/-! ### `Sys2Proof/Machine/Row.lean` -/

theorem Origin.Keeps.rowTick : s₀.Keeps (s.rowTick r) := h.setRow.bumpN
theorem Origin.Keeps.streamTime : s₀.Keeps (s.streamTime r i k) := .ite h.setRow.rowTick h
theorem Origin.Keeps.streamClose : s₀.Keeps (s.streamClose r i) := h.setRow.rowTick
theorem Origin.Keeps.rowNow : s₀.Keeps (s.rowNow r) := h.foldl (fun _ _ h => .ite h.streamTime h)
theorem Origin.Keeps.buildClasses : s₀.Keeps (s.buildClasses r) := .ite h.setRow.err h.setRow

theorem Origin.Keeps.fanoutBuild : s₀.Keeps s.fanoutBuild := by
  unfold State.fanoutBuild
  dsimp only
  split
  · exact h.forN fun _ _ h => h.setRow
  · exact .err (h.forN fun _ _ h => h.setRow)

theorem Origin.Keeps.histIndex : s₀.Keeps (s.histIndex r a b n) := h.foldl (fun _ _ h => h.memPutBy)

theorem Origin.Keeps.writeLine {last stop : Bool} : s₀.Keeps (s.writeLine r last stop) := by
  unfold State.writeLine
  dsimp only
  split
  · exact h
  · exact .setRow (.ite h.memPutBy.histIndex.setField h)

theorem Origin.Keeps.fullLines : s₀.Keeps (s.fullLines r a) := by
  induction a generalizing s with
  | zero => exact h
  | succ _ ih =>
    exact .ite (ih h.writeLine) h

theorem Origin.Keeps.endLines {stop : Bool} : s₀.Keeps (s.endLines r stop a) := by
  induction a generalizing s with
  | zero => exact h
  | succ _ ih =>
    exact .ite (ih h.writeLine) (Origin.Keeps.andThen (.ite h.writeLine.histIndex h.writeLine) fun h => h.setRow)

theorem Origin.Keeps.histEnd {stop : Bool} : s₀.Keeps (s.histEnd r stop) := h.endLines
theorem Origin.Keeps.lineAdd {hx : RowHit} : s₀.Keeps (s.lineAdd r hx) := h.fullLines.setRow
theorem Origin.Keeps.emit {hx : RowHit} : s₀.Keeps (s.emit r hx) := h.bump.lineAdd
theorem Origin.Keeps.rowEof {stop : Bool} : s₀.Keeps (s.rowEof r stop) := h.setRow.histEnd
theorem Origin.Keeps.laneOff : s₀.Keeps (s.laneOff r i) := h.setRow.bump.err

theorem Origin.Keeps.rowStop {after : Bool} : s₀.Keeps (s.rowStop r after) :=
  Origin.Keeps.andThen (.ite h.bumpN.setRow h.bumpN.setRow.rowEof) fun h => h.errWith.sticky

theorem Origin.Keeps.lateHit {stream : Nat} : s₀.Keeps (s.lateHit r stream) := .ite h.bump h.bump

theorem Origin.Keeps.rowHit {stream region : Nat} {word : Word} : s₀.Keeps (s.rowHit r stream word region) :=
  .ite h.bump (.ite h.lateHit (.ite (.ite h.setRow.bump.slotRep h.setRow.bump.slotRep.setRow.err) (.ite h.setRow.bump.emit h.setRow)))

theorem Origin.Keeps.select : s₀.Keeps (s.select r a) := by
  induction a generalizing s with
  | zero => exact h
  | succ _ ih =>
    rw [State.select]
    split
    · exact h
    · exact .ite (ih h.setRow.emit) h

theorem Origin.Keeps.formCopies : s₀.Keeps (s.formCopies r a) := by
  induction a generalizing s with
  | zero => exact h
  | succ _ ih =>
    rw [State.formCopies]
    split
    · exact h
    · exact .ite (Origin.Keeps.andThen (.ite h h.bump) fun h => (ih h.setRow)) h

theorem Origin.Keeps.eofStep : s₀.Keeps (s.eofStep r) := .ite h.rowEof h.setRow

theorem Origin.Keeps.moveCopies : s₀.Keeps (s.moveCopies r a) := by
  induction a generalizing s with
  | zero => exact h
  | succ _ ih =>
    rw [State.moveCopies]
    split
    · exact h
    · exact .ite (ih h.setRow.bump) h

theorem Origin.Keeps.grant : s₀.Keeps (s.grant c a) := by
  induction a generalizing s with
  | zero => exact h
  | succ _ ih =>
    rw [State.grant]
    split
    · exact h
    · extract_lets
      split
      · exact h
      · exact (ih h.setRow.same)

theorem Origin.Keeps.execRowHitArrival {r : RowId} : Out.Keeps (Machine.execRowHitArrival t r s) s₀ := by
  unfold Machine.execRowHitArrival
  extract_lets
  split
  · exact .next h.at.rowNow
  · exact .ite (.next h.at.rowNow) (by
        extract_lets
        split
        · exact .ite (.next h.at.rowNow.setRow.haSend) (.next h.at.rowNow.setRow.rowHit)
        · exact h.at.rowNow.setRow.streamTime.andThen fun h => .next (.ite h.haSend h)
        · exact .next h.at.rowNow.setRow.streamClose)

theorem Origin.Keeps.execRowMergeSelect {r : RowId} {differ : BitVec 3} {voters : Bool}
    : Out.Keeps (Machine.execRowMergeSelect t r differ voters s) s₀ :=
  .ite (.next h.at.rowNow) (.ite (.next h.at.rowNow.setRow.rowStop) (.ite (.next (.ite h.at.rowNow h.at.rowNow.select))
      (.ite (.next (.ite h.at.rowNow.setRow.laneOff h.at.rowNow.setRow.laneOff.select)) (.next h.at.rowNow.rowStop))))

theorem Origin.Keeps.execRowFlush {r : RowId} : Out.Keeps (Machine.execRowFlush t r s) s₀ :=
  .ite (.next h.at.rowNow.setRow.eofStep) (.next h.at.rowNow)

theorem Origin.Keeps.execCopyStage {r : RowId} : Out.Keeps (Machine.execCopyStage t r s) s₀ := .next h.at.formCopies.moveCopies.eofStep
theorem Origin.Keeps.execCrossbarGrant {c : ClusterId} : Out.Keeps (Machine.execCrossbarGrant t c s) s₀ := .next h.at.grant

theorem Origin.Keeps.execWatermarkMessage {r : RowId} {c : ClusterId} : Out.Keeps (Machine.execWatermarkMessage t r c s) s₀ :=
  .next h.at.rowNow.same

theorem Origin.Keeps.execStreamStall {r : RowId} {i : Fin 16} : Out.Keeps (Machine.execStreamStall t r i s) s₀ :=
  .ite (.next h.at.closeStitch.portReef.bump.err) (.next h.at)

theorem Origin.Keeps.execHistoryLineWrite {r : RowId} : Out.Keeps (Machine.execHistoryLineWrite t r s) s₀ := .next (.ite h.at.writeLine h.at)

theorem Origin.Keeps.execDmapDataAccess {r : RowId} {data1 write : Bool} {v : Word}
    : Out.Keeps (Machine.execDmapDataAccess t r data1 write v s) s₀ :=
  Origin.Keeps.andThen (.ite h.at.same.tabPend h.at.same) fun h => .next (.ite h.setField h)

theorem Origin.Keeps.execOrderingReply {reply : List Word} : Out.Keeps (Machine.execOrderingReply t reply s) s₀ := by
  unfold Machine.execOrderingReply
  extract_lets
  split
  · exact .next h.at.cqTake.haStale
  · exact .ite (.next h.at.cqTake.haDone.setRow) (.next (h.at.cqTake.haDone.foldl (fun _ _ h => .ite h.setRow.emit h)))

/-! ### `Sys2Proof/Machine/CoreOps.lean` -/

theorem Origin.Keeps.setFlow {f : Machine.Flow} : s₀.Keeps (s.setFlow c f) := h.setCore
theorem Origin.Keeps.setSt {w : Word} : s₀.Keeps (s.setSt c w) := h.setCore
theorem Origin.Keeps.setSpec {p : SpecSt} : s₀.Keeps (s.setSpec c p) := h.setCore
theorem Origin.Keeps.setMe {y : CtxSt} : s₀.Keeps (s.setMe c y) := h.setCore
theorem Origin.Keeps.rput {v : Word} : s₀.Keeps (s.rput c k v) := h.setCore

theorem Origin.Keeps.rset {v : Word} : s₀.Keeps (s.rset c r v) := by
  unfold State.rset
  split
  · exact h.rput
  · exact h

theorem Origin.Keeps.showLoads : s₀.Keeps (s.showLoads c) := (h.foldl (fun _ _ h => h.rput)).setFlow

theorem Origin.Keeps.multDue : s₀.Keeps (s.multDue c) := by
  unfold State.multDue
  extract_lets
  split
  · exact h
  · exact h.setMe

theorem Origin.Keeps.await {uses : List Reg5} : s₀.Keeps (s.await c uses) := .ite h h.spend
theorem Origin.Keeps.saveMicro {r : MicroRec} : s₀.Keeps (s.saveMicro c r) := .ite h.bump (.ite h.setMe.useFree h.setMe)

theorem Origin.Keeps.stopRun : s₀.Keeps (s.stopRun c) := by
  unfold State.stopRun
  extract_lets
  split
  · exact h
  · exact h.setFlow.saveMicro

theorem Origin.Keeps.setRun {r : Option MicroRec} : s₀.Keeps (s.setRun c r) := h.setFlow

theorem Origin.Keeps.multOf : s₀.Keeps (s.multOf c j) := by
  unfold State.multOf
  extract_lets
  split
  · exact h
  · exact h.setCtx

theorem Origin.Keeps.multAll : s₀.Keeps (s.multAll c) := h.multOf

theorem Origin.Keeps.storeOut {w : Word} : s₀.Keeps (s.storeOut c pa w) := by
  unfold State.storeOut
  extract_lets k line s1 s2 s3 s4
  have h1 : s₀.Keeps s1 := h.awaitEvict.snoopOthers
  have h2 : s₀.Keeps s2 := h1.l2Miss.ctlRead
  clear_value s1 s2
  have h4 : s₀.Keeps s4 := .l1Drop (.ite h1.l2Read (.ite h2 h2.l2Alloc))
  clear_value s4
  split
  · exact h4.l2Set.setMem mwrW_wf
  · exact .ite (h4.setMem mwrW_wf) (.ite h4 (h4.setMem mwrW_wf).mergePut.mergeFull)

theorem Origin.Keeps.release1 : s₀.Keeps (s.release1 c j) := by
  unfold State.release1
  extract_lets
  split
  · exact h
  · exact .ite h h.setCtx.storeOut

theorem Origin.Keeps.drainQ : s₀.Keeps (s.drainQ c j) := h.foldl (fun _ _ h => h.release1)
theorem Origin.Keeps.setSlice {x : Slice} : s₀.Keeps (s.setSlice k x) := h.setClu
theorem Origin.Keeps.switchTo : s₀.Keeps (s.switchTo c j) := h.multAll.stopRun.setCore.spend
theorem Origin.Keeps.schedule : s₀.Keeps (s.schedule c) := .ite h (by split; exacts [h, h.switchTo])
theorem Origin.Keeps.stopCtx {state waits : Nat} : s₀.Keeps (s.stopCtx c j state waits) := .ite h.setCtx.setCore.schedule h.setCtx
theorem Origin.Keeps.forgetJobs : s₀.Keeps (s.forgetJobs c j) := h.haForget.haForget.haForget
theorem Origin.Keeps.shadowEmpty : s₀.Keeps (s.shadowEmpty c j) := h.setCtx.setField

theorem Origin.Keeps.dropSlice {key : SliceKey} : s₀.Keeps (s.dropSlice c j key) :=
  .ite h.setCtx.forgetJobs.shadowEmpty.setCtx.stopCtx (.ite h.setCtx.stopCtx h.setCtx)

theorem Origin.Keeps.sliceGone {x : Slice} {committed : Bool} : s₀.Keeps (s.sliceGone k x committed) := by
  unfold State.sliceGone
  extract_lets
  split
  · exact h.setClu.dropSlice
  · exact h.setClu

theorem Origin.Keeps.lostReports {x : Slice} : s₀.Keeps (s.lostReports k x) := .ite (h.foldl (fun _ _ h => h.slotRep)) h
theorem Origin.Keeps.giveUp {x : Slice} : s₀.Keeps (s.giveUp k x) := h.lostReports.bump.sliceGone
theorem Origin.Keeps.abandon {x : Slice} : s₀.Keeps (s.abandon k x) := h.lostReports.bump.sliceGone

theorem Origin.Keeps.shadowPush {w : Word} : ∀ u, s.shadowPush c w = .inl u → s₀.Keeps u := by
  intro u
  unfold State.shadowPush
  extract_lets
  split
  · rintro ⟨⟩; exact h.setMe
  · split
    · rintro ⟨⟩
    · rintro ⟨⟩; exact h.memPutBy.setField.setMe.spend

theorem Origin.Keeps.shadowRefill : s₀.Keeps (s.shadowRefill c).1 := by
  unfold State.shadowRefill
  refine .iteFst h ?_
  dsimp only
  split
  · exact .pair (.busErrLog (h.foldl fun _ _ h => h.probe))
  · exact .pair (.spend (.setField (.setMe (h.foldl fun _ _ h => h.probe))))

theorem Origin.Keeps.coverage : s₀.Keeps (s.coverage k) := .ite h (by split; exacts [h, .ite h.sticky h.sticky.setClu.err])

theorem Origin.Keeps.coreLost : s₀.Keeps (s.coreLost c) :=
  (h.foldl (fun _ _ h => h.drainQ.forgetJobs.shadowEmpty)).setCore.foldl (fun _ _ h => .ite h.setSlice h.giveUp)

theorem Origin.Keeps.tripleFault : s₀.Keeps (s.tripleFault c) := h.errWith.useFree.coreLost.coverage
theorem Origin.Keeps.leaveWord : s₀.Keeps (s.leaveWord c) := h.showLoads.setRun
theorem Origin.Keeps.doubleFault {flags : Nat} {e : ExcSt} {f : Flt} : s₀.Keeps (s.doubleFault c e f flags w) := h.setCore.rput.rput.spend
theorem Origin.Keeps.bankFault {cls cause : Nat} : s₀.Keeps (s.bankFault c cls cause) := h.setCore.raiseBit.errWith

theorem Origin.Keeps.framePut {v : Word} : s₀.Keeps (s.framePut c w a v).1 :=
  .iteFst h (by
        split
        · exact h.translate.fst.pair
        · exact .iteFst h.translate.fst.pair (.iteFst h.translate.fst.setMe.pair h.translate.fst.storeOut.pair))

theorem Origin.Keeps.frameWrite {l : List Word} : s₀.Keeps (s.frameWrite c w a l).1 := by
  induction l generalizing s a with
  | nil => exact h
  | cons _ _ ih =>
    rw [State.frameWrite]
    split
    · exact h.framePut.fst
    · exact ih h.framePut.fst

theorem Origin.Keeps.swapSsp : s₀.Keeps (s.swapSsp c j w) := h.rput.setField

theorem Origin.Keeps.enterExc {epc flags : Nat} {f : Flt} : s₀.Keeps (s.enterExc c f epc flags) := by
  generalize hF : @State.enterExc = F
  delta State.enterExc at hF
  subst hF
  beta_reduce
  extract_lets s1 j y at_ st w e s2 s3 sp frame
  have h3 : s₀.Keeps s3 := .ite h.multAll.leaveWord.drainQ.swapSsp h.multAll.leaveWord.drainQ
  clear_value s3 e sp frame
  split
  · exact h3.frameWrite.fst.doubleFault
  · exact h3.frameWrite.fst.rput.setCore.spend

theorem Origin.Keeps.raiseAt {epc flags : Nat} {f : Flt} : s₀.Keeps (s.raiseAt c f epc flags) :=
  .ite h.leaveWord.bankFault (by
        split
        · exact .ite h.leaveWord.tripleFault h.leaveWord.doubleFault
        · exact .ite h.leaveWord.setMe.doubleFault h.leaveWord.enterExc)

theorem Origin.Keeps.raise {f : Flt} {ply split : Bool} : s₀.Keeps (s.raise c f ply split) := h.raiseAt

theorem Origin.Keeps.windowTrap {kind group world : Nat} : s₀.Keeps (s.windowTrap c kind group world) :=
  h.leaveWord.setCore.rput.andThen fun h => .ite h.doubleFault h.spend

theorem Origin.Keeps.overflowTrap : s₀.Keeps (s.overflowTrap c) := h.windowTrap

theorem Origin.Keeps.underflowTrap : s₀.Keeps (s.underflowTrap c) := by
  unfold State.underflowTrap
  exact h.windowTrap

theorem Origin.Keeps.inSeq {pc : Nat} {f : Machine.Flow} : s₀.Keeps (s.inSeq c pc f) := h.setSpec.setSt.setFlow

theorem Origin.Keeps.callEffects {ra world : Nat} : ∀ u, s.callEffects c ra world = .inl u → s₀.Keeps u := by
  intro u
  unfold State.callEffects
  split
  · rintro ⟨⟩
  · rintro ⟨⟩; exact (h.shadowPush _ ‹_›).setMe

theorem Origin.Keeps.complete {n : Nxt} {loads : List (Nat × Word)} : s₀.Keeps (s.complete c n loads) := by
  unfold State.complete
  extract_lets f loads s1 x s2 st put g
  have h2 : s₀.Keeps s2 := .ite h.setFlow.showLoads h.setFlow.showLoads.setCore
  clear_value s2 st
  have hput : ∀ {s}, s₀.Keeps s → s₀.Keeps (put s) := fun h => by
    unfold put
    cases st
    exacts [h, h.setSt]
  clear_value put g f
  split
  · extract_lets after g2
    clear_value g2 after
    split
    · split
      next hc => exact hput (h2.callEffects _ hc).setFlow
      next => exact h2.setFlow.raise
    · exact hput h2.setFlow
  · split
    · exact h2.setFlow
    · exact h2.setFlow
    · exact h2.setFlow
    · split
      · exact .ite h2.setSpec.inSeq h2.setSpec.setFlow
      · exact hput h2.inSeq

theorem Origin.Keeps.pruneMicro : s₀.Keeps (s.pruneMicro c) := .ite h h.setMe
theorem Origin.Keeps.l1Check : s₀.Keeps (s.l1Check c line) := .ite h.setCore.cacheErr h
theorem Origin.Keeps.l1iFill : s₀.Keeps (s.l1iFill c line) := .ite h.l2Read h.l2Read.setCore.useFree

theorem Origin.Keeps.fetchLine : s₀.Keeps (s.fetchLine c pa).1 := by
  unfold State.fetchLine
  refine .iteFst h.l1Check ?_
  dsimp only
  split
  · exact h.l1Check.probe.busErrLog.pair
  · exact .pair (.l1iFill (.ite h.l1Check.probe.spend h.l1Check.probe.stall))

theorem Origin.Keeps.fetch : s₀.Keeps (s.fetch c).1 := by
  unfold State.fetch
  extract_lets
  split
  · exact h.pruneMicro.translate.fst.pair
  · split
    · exact h.pruneMicro.translate.fst.fetchLine.fst.pair
    · exact h.pruneMicro.translate.fst.fetchLine.fst.pair

theorem Origin.Keeps.raiseMisplaced : s₀.Keeps (s.raiseMisplaced c) := by
  unfold State.raiseMisplaced
  extract_lets
  split
  · exact h.setFlow.raiseAt
  · exact .ite h.raise h.setSpec.setFlow.raiseAt
  · exact h.raise

omit h in
theorem Res.Keeps.act {a : Res} (h : Res.Keeps a s₀) : s₀.Keeps (Machine.act c n a) := by
  unfold Machine.act
  split
  · exact .ite h.spend.complete h
  · exact h.raise
  · exact h

theorem Origin.Keeps.issue {k : Kind} {body : State → Res} (hbody : ∀ s, s₀.Keeps s → Res.Keeps (body s) s₀)
    : s₀.Keeps (s.issue c k n body) :=
  .ite h (.ite (Res.Keeps.act (hbody _ h)) (by
        split
        · exact h.fetch.fst.raise
        · exact h.fetch.fst.await.multDue.andThen fun h => .ite h.raiseMisplaced (.ite h.showLoads.inSeq (.ite h.raise (Res.Keeps.act
            (hbody _ h))))))

theorem Origin.Keeps.asCtx {f : State → State} (hf : ∀ s, s₀.Keeps s → s₀.Keeps (f s)) : s₀.Keeps (s.asCtx c j f) :=
  Origin.Keeps.andThen (hf _ h.spend.setCore) fun h => .ite h.setCore (.ite h.setCore h.setCore.schedule)

/-! ### `Sys2Proof/Machine/CoreRegs.lean` -/

theorem Origin.Keeps.setL2lock : s₀.Keeps (s.setL2lock k mask) := h.setReg.setClu
theorem Origin.Keeps.l2lockWrite {v : Word} : s₀.Keeps (s.l2lockWrite k v) := .ite h h.setL2lock

theorem Origin.Keeps.decAccess {write : Bool} {v : Word} : s₀.Keeps (s.decAccess write v) :=
  Origin.Keeps.andThen (.ite (.ite h h.same.tabPend) h.same) fun h => .ite h.setField h

theorem Origin.Keeps.irqClear {key : Nat} : s₀.Keeps (s.irqClear key code) := h.same
theorem Origin.Keeps.timerWrite {v : Word} : s₀.Keeps (s.timerWrite c j v) := .ite h.setReg.irqClear.irqClear h.setReg.irqClear

/-! ### `Sys2Proof/Machine/PortCmds.lean` -/

theorem Origin.Keeps.heard {train : Bool} : s₀.Keeps (s.heard p train) := .ite h.bump h.bump.setPort

theorem Origin.Keeps.whenHears {f : State → State} (hf : ∀ s, s₀.Keeps s → s₀.Keeps (f s)) : Out.Keeps (Machine.whenHears s p f) s₀ :=
  .next (.ite (hf _ h) h)

theorem Origin.Keeps.misplaced : s₀.Keeps (s.misplaced p) := h.setPort.bump
theorem Origin.Keeps.execUplinkIdle {p : PortId} : Out.Keeps (Machine.execUplinkIdle t p s) s₀ := h.at.whenHears (fun _ h => h.heard)

theorem Origin.Keeps.execUplinkTrain {p : PortId} {feType : BitVec 16} {serial : BitVec 24} {ack : Bool}
    : Out.Keeps (Machine.execUplinkTrain t p feType serial ack s) s₀ :=
  h.at.whenHears (fun _ h => h.heard.setField.setField.andThen fun h => .ite (.ite h.setPort.enter h.setPort) h)

theorem Origin.Keeps.execTick {p : PortId} {raw : BitVec 28} : Out.Keeps (Machine.execTick t p raw s) s₀ :=
  h.at.whenHears (fun _ h => .ite h.misplaced h.heard.entryStage)

theorem Origin.Keeps.execEcho {p : PortId} {ident : BitVec 8} {turnaround : BitVec 24}
    : Out.Keeps (Machine.execEcho t p ident turnaround s) s₀ :=
  h.at.whenHears (fun _ h => .ite h.misplaced (by
        extract_lets
        split
        · exact h.heard
        · exact .ite (.ite h.heard.setPort.calSuccess h.heard.setPort) h.heard))

theorem Origin.Keeps.execStatus {p : PortId} {dlLock synced feFault : Bool} {word : BitVec 32}
    : Out.Keeps (Machine.execStatus t p dlLock synced feFault word s) s₀ :=
  h.at.whenHears (fun _ h => h.heard.setReg.setField.andThen fun h => Origin.Keeps.andThen (.ite h.bump h)
      fun h => Origin.Keeps.andThen (.ite h.feFaultIn h) fun h => .ite h (.ite h.enter (.ite h (.ite h.enter (.ite (by
        split
        · exact .ite h.enter h
        · exact h) h)))))

theorem Origin.Keeps.execScReply {p : PortId} {payload : BitVec 48} : Out.Keeps (Machine.execScReply t p payload s) s₀ :=
  h.at.whenHears (fun _ h => .ite h.misplaced h.heard.setField.raiseBit)

theorem Origin.Keeps.execCredit {p : PortId} {grant : BitVec 16} : Out.Keeps (Machine.execCredit t p grant s) s₀ :=
  h.at.whenHears (fun _ h => .ite h.heard.setPort h.misplaced)

theorem Origin.Keeps.execInvalidUplinkBlock {p : PortId} {sync : BitVec 2} {block : Word}
    : Out.Keeps (Machine.execInvalidUplinkBlock t p sync block s) s₀ :=
  h.at.whenHears (fun _ h => .ite (.ite h.setPort.bump (.ite h h.setPort.bump)) (.ite (.ite h.setPort.bump h) h.setPort.bump))

theorem Origin.Keeps.execHitBlock {p : PortId} {block : Word} : Out.Keeps (Machine.execHitBlock t p block s) s₀ :=
  h.at.whenHears (fun _ h => .ite h.setPort.bump (.ite h.heard.entryStage h.heard))

theorem Origin.Keeps.replyWord {t : Int} {w : Word} : s₀.Keeps (s.replyWord p t w) :=
  .ite (.ite h.bump h.setPort) (by split; exacts [h.bump, h.bump, h.setPort.portToRow.setPort, .ite h.advance h.advance.channelStage])

theorem Origin.Keeps.heldStep {t : Int} {w : Word} : s₀.Keeps (s.heldStep p t w) := .ite h.setPort.replyWord h.setPort.replyWord.reportTime

theorem Origin.Keeps.execStitchPipeline {p : PortId} {fail : Bool} : Out.Keeps (execStitchPipeline t p fail s) s₀ := by
  refine .ite (.next h.at.stitchFail) ?_
  split
  · exact .next (.ite h.at.heldStep h.at)
  · exact .next h.at
  · exact .ite (.ite (.next h.at.setPort.setPort) (.next h.at.setPort.pipeline)) (.next h.at)

theorem Origin.Keeps.execBlockLockGained {p : PortId} : Out.Keeps (Machine.execBlockLockGained t p s) s₀ := .next (.ite h.at.enter h.at)
theorem Origin.Keeps.execBlockLockLost {p : PortId} : Out.Keeps (Machine.execBlockLockLost t p s) s₀ := .next (.ite h.at h.at.enter)
theorem Origin.Keeps.execTrainTimeout {p : PortId} : Out.Keeps (Machine.execTrainTimeout t p s) s₀ := .next (.ite h.at.enter h.at)
theorem Origin.Keeps.execSyncCommand {p : PortId} : Out.Keeps (Machine.execSyncCommand t p s) s₀ := .next (.ite h.at.sendSync h.at)

theorem Origin.Keeps.execSyncTimeout {p : PortId} : Out.Keeps (Machine.execSyncTimeout t p s) s₀ := by
  unfold Machine.execSyncTimeout
  extract_lets
  split
  · exact .next h.at
  · exact .next (.ite (.ite h.at.enter h.at.sendSync) h.at)

theorem Origin.Keeps.execEchoCommand {p : PortId} : Out.Keeps (Machine.execEchoCommand t p s) s₀ := .next (.ite h.at.setPort.sendCmd h.at)
theorem Origin.Keeps.execEchoTimeout {p : PortId} : Out.Keeps (Machine.execEchoTimeout t p s) s₀ := .next (.ite h.at.calMissing h.at)

theorem Origin.Keeps.execPrtEnable {p : PortId} {en : Bool} : Out.Keeps (Machine.execPrtEnable t p en s) s₀ :=
  .next (.ite h.at.setField.tryLeaveOff (.ite h.at.setField h.at.setField.enter))

theorem Origin.Keeps.execPrtForceDead {p : PortId} {set : Bool} : Out.Keeps (Machine.execPrtForceDead t p set s) s₀ :=
  .next (.ite h.at.setField.enter h.at.setField)

theorem Origin.Keeps.execPrtRetrain {p : PortId} : Out.Keeps (Machine.execPrtRetrain t p s) s₀ := .next (.ite h.at h.at.enter)

theorem Origin.Keeps.execCalStart {p : PortId} : Out.Keeps (Machine.execCalStart t p s) s₀ :=
  .next (.ite h.at.setField (.ite h.at (.ite h.at.calBegin h.at.setPort.setField)))

theorem Origin.Keeps.execFcsend {p : PortId} {v : Word} : Out.Keeps (Machine.execFcsend t p v s) s₀ :=
  .ite (.next h.at) (by split; exacts [.next h.at, .next (.ite h.at.bump h.at.sendCmd)])

theorem Origin.Keeps.execSlowControlSend {p : PortId} {v : Word} : Out.Keeps (Machine.execSlowControlSend t p v s) s₀ :=
  .next (.ite h.at.setPort h.at.setPort)

theorem Origin.Keeps.execReadoutRecordSend {p : PortId} {q : QueueId} : Out.Keeps (Machine.execReadoutRecordSend t p q s) s₀ :=
  .ite (.next h.at.setPort.setQueue.setField) (.next h.at)

theorem Origin.Keeps.autoInc : s₀.Keeps (s.autoInc o b) := .ite h.setField h

theorem Origin.Keeps.execRegmapDataAccess {write : Bool} {v : Word} : Out.Keeps (Machine.execRegmapDataAccess t write v s) s₀ :=
  Origin.Keeps.andThen (.ite h.at.same.tabPend h.at.same) fun h => .next h.autoInc

theorem Origin.Keeps.execChcntData1Read : Out.Keeps (Machine.execChcntData1Read t s) s₀ := .next h.at.same.autoInc
theorem Origin.Keeps.execAutomaskClear {v : Word} : Out.Keeps (Machine.execAutomaskClear t v s) s₀ := .next (.ite h.at.setChan h.at)

theorem Origin.Keeps.execFastCommandDeparture {p : PortId} : Out.Keeps (Machine.execFastCommandDeparture t p s) s₀ := by
  unfold Machine.execFastCommandDeparture
  extract_lets
  split
  · exact .next h.at
  · exact .next h.at.setPort

theorem Origin.Keeps.execHitDecodeWork {p : PortId} : Out.Keeps (Machine.execHitDecodeWork t p s) s₀ :=
  .ite (.next h.at.setPort.haSend) (.next h.at)

theorem Origin.Keeps.execHitDecodeReply {reply : List Word} : Out.Keeps (Machine.execHitDecodeReply t reply s) s₀ := by
  unfold Machine.execHitDecodeReply
  extract_lets
  split
  · exact .next h.at.cqTake.haStale
  · exact (h.at.cqTake.haDone.foldl (fun _ _ h => h.replyWord)).andThen fun h => .next (.ite h h.reportTime)

theorem Origin.Keeps.execLinkCalReply {reply : List Word} : Out.Keeps (Machine.execLinkCalReply t reply s) s₀ := by
  unfold Machine.execLinkCalReply
  extract_lets
  split
  · exact .next h.at.cqTake.haStale
  · exact .next h.at.cqTake.haDone.setField

/-! ### `Sys2Proof/Machine/Timing.lean` -/

theorem Origin.Keeps.markNow : s₀.Keeps (s.markNow m) :=
  .ite (.ite h.setField.bump.bump.err (.ite h.setField.bump.same.bump.errWith h.setField.bump.same))
      (.ite h.setField.bump.same h.setField.bump)

theorem Origin.Keeps.markAt : s₀.Keeps (s.markAt m) := .ite h.markNow h

theorem Origin.Keeps.execFrameMark {widthPs : Nat} : Out.Keeps (Machine.execFrameMark t widthPs s) s₀ :=
  .ite (.next h.at.bump) (.ite (.next h.at) (.next h.at.markAt))

theorem Origin.Keeps.execFmsoftWrite {v : Word} : Out.Keeps (Machine.execFmsoftWrite t v s) s₀ := .next (.ite h.at.markAt h.at)
theorem Origin.Keeps.applyStep {d : Int} : s₀.Keeps (s.applyStep d) := h.same.bump.setField.setField
theorem Origin.Keeps.askStep {d : Int} : s₀.Keeps (s.askStep d) := .ite h.applyStep h.same.setField

theorem Origin.Keeps.execSyncEdge {widthPs : Nat} : Out.Keeps (Machine.execSyncEdge t widthPs s) s₀ :=
  .ite (.next h.at.bump) (.ite (.next h.at.setField.askStep) (.next (.ite h.at.setField.setField.err h.at.setField.setField)))

theorem Origin.Keeps.sourceTake : s₀.Keeps s.sourceTake := .ite h.setField (.ite h.setField h)
theorem Origin.Keeps.execSourceLost : Out.Keeps (Machine.execSourceLost t s) s₀ := .next (.ite h.at.setField.bump.err h.at)
theorem Origin.Keeps.execTimeLocked : Out.Keeps (Machine.execTimeLocked t s) s₀ := .next (.ite h.at.setField h.at)
theorem Origin.Keeps.execSourceRestored : Out.Keeps (Machine.execSourceRestored t s) s₀ := .next (.ite h.at.setField h.at)
theorem Origin.Keeps.spikeWait : s₀.Keeps (s.spikeWait i t) := .ite h.setSpike h.bump
theorem Origin.Keeps.spikeEdge : s₀.Keeps (s.spikeEdge i t) := .ite h.bump (.ite h.setSpike.toRow.spikeWait h.bump.toRow)

theorem Origin.Keeps.execSpikeEdge {i : SpikeId} : Out.Keeps (Machine.execSpikeEdge t i s) s₀ :=
  .ite (.next h.at) (.ite (.next h.at.bump) (.ite (.next h.at.setSpike.bump)
      (.ite (h.at.setSpike.setSpike.bump.andThen fun h => .next (.ite h h.setSpike.err))
      (.next (.ite h.at.setSpike.setSpike.spikeWait h.at.setSpike.setSpike.spikeEdge)))))

theorem Origin.Keeps.tdcBegin : s₀.Keeps s.tdcBegin := h.same.setField

theorem Origin.Keeps.execTdcCalStart : Out.Keeps (Machine.execTdcCalStart t s) s₀ :=
  .next (.ite h.at (.ite h.at.same.setField h.at.tdcBegin))

theorem Origin.Keeps.execTdcCalDone {missing : List SpikeId} : Out.Keeps (Machine.execTdcCalDone t missing s) s₀ := by
  unfold Machine.execTdcCalDone
  extract_lets
  split
  · exact .next h.at
  · exact .ite (.next h.at) (.ite (.next h.at.same.setField) (.next (h.at.same.setField.foldl (fun _ _ h => h.err))))

/-! ### `Sys2Proof/Machine/Ring.lean` -/

theorem Origin.Keeps.setRport {x : RingPortSt} : s₀.Keeps (s.setRport i x) := h.same
theorem Origin.Keeps.putOut {m : RingMsg} : s₀.Keeps (s.putOut i m) := h.setRport
theorem Origin.Keeps.sendOn {m : RingMsg} : s₀.Keeps (s.sendOn i m) := .ite h (.ite h.putOut (.ite h.setRport.putOut h.setRport))

theorem Origin.Keeps.originate {m : RingMsg} : s₀.Keeps (s.originate m) :=
  .ite h (.ite (by split; exacts [h.sendOn, h]) (h.foldl (fun _ _ h => .ite h.sendOn h)))

theorem Origin.Keeps.joinEnded : s₀.Keeps s.joinEnded := .ite h.setField h

theorem Origin.Keeps.closeBypasses : s₀.Keeps s.closeBypasses :=
  (h.setField.setField.forN (fun _ _ h => .ite h.setRport h.setRport.setField.setField.setField)).same.joinEnded

theorem Origin.Keeps.ringEvent : s₀.Keeps (s.ringEvent i) := h.event
theorem Origin.Keeps.configBad : s₀.Keeps s.configBad := h.setField.closeBypasses.err
theorem Origin.Keeps.decKeep {m : RingMsg} : s₀.Keeps (s.decKeep i m) := .ite h.setRport h
theorem Origin.Keeps.owe {cls blocks : Nat} : s₀.Keeps (s.owe i cls blocks) := .ite h h.setRport

theorem Origin.Keeps.receive {cls typ : Nat} {m : RingMsg} {f : State → State} (hf : ∀ s, s₀.Keeps s → s₀.Keeps (f s))
    : s₀.Keeps (s.receive i cls typ m f) :=
  .ite h (.ite h.bump.owe.bump (.ite h.bump.owe.bump (.ite (hf _ h.bump.owe)
      (.ite (Origin.Keeps.andThen (.ite h.bump.owe.bump h.bump.owe.bump.err) fun h => h.originate) (.ite (.ite h.bump.owe.bump (by
        split
        · exact hf _ h.bump.owe
        · exact .ite h.bump.owe.decKeep.sendOn h.bump.owe)) (Origin.Keeps.andThen (.ite h.bump.owe.decKeep.sendOn h.bump.owe.decKeep)
      fun h => hf _ (.ite (h.foldl (fun _ _ h => .ite h.sendOn h)) h)))))))

theorem Origin.Keeps.execFecCodeword {i : RingPort} {w : Codeword} : Out.Keeps (Machine.execFecCodeword t i w s) s₀ :=
  .next (.ite (.ite h.at h.at.bump) h.at.bumpN)

theorem Origin.Keeps.release : s₀.Keeps (s.release i) := h.setRport.foldl (fun _ _ h => h.sendOn)
theorem Origin.Keeps.alignIn : s₀.Keeps (s.alignIn i) := h.setRport

theorem Origin.Keeps.execRingIdle {i : RingPort} {hx : BlockHead} {credits : Nat} : Out.Keeps (Machine.execRingIdle t i hx credits s) s₀ :=
  .next (.ite h.at.setRport.release (.ite h.at.alignIn h.at.bump))

theorem Origin.Keeps.execAlignBlock {i : RingPort} : Out.Keeps (Machine.execAlignBlock t i s) s₀ := .next h.at.alignIn

theorem Origin.Keeps.execTsyncSend {i : RingPort} : Out.Keeps (Machine.execTsyncSend t i s) s₀ :=
  .ite (.next h.at.setRport.sendOn) (.next h.at)

theorem Origin.Keeps.offset {off2 : Int} : s₀.Keeps (s.offset i off2) :=
  Origin.Keeps.andThen (.ite h.setReg.setField.same.err h.setReg.setField) fun h => .ite (.ite h.setField.askStep h.setField) h

theorem Origin.Keeps.execTsync {i : RingPort} {m : RingMsg} : Out.Keeps (Machine.execTsync t i m s) s₀ :=
  .next (h.at.receive (fun _ h => (by split; exacts [h, h.setReg.offset])))

theorem Origin.Keeps.execFcrel {i : RingPort} {m : RingMsg} : Out.Keeps (Machine.execFcrel t i m s) s₀ :=
  .next (h.at.receive (fun _ h => (by extract_lets; split; exacts [h.bump, h.foldl (fun _ _ h => .ite (.ite h.bump h.sendCmd) h)])))

theorem Origin.Keeps.execHello {i : RingPort} {m : RingMsg} : Out.Keeps (Machine.execHello t i m s) s₀ :=
  .next (h.at.receive (fun _ h => .ite h.setField h.setField.configBad))

theorem Origin.Keeps.execLeave {i : RingPort} {m : RingMsg} : Out.Keeps (Machine.execLeave t i m s) s₀ :=
  .next (h.at.receive (fun _ h => h.setRport))

theorem Origin.Keeps.execProbe {i : RingPort} {m : RingMsg} : Out.Keeps (Machine.execProbe t i m s) s₀ := .next (h.at.receive (fun _ h => h))

theorem Origin.Keeps.execConflict {i : RingPort} {m : RingMsg} : Out.Keeps (Machine.execConflict t i m s) s₀ :=
  .next (h.at.receive (fun _ h => .ite h.closeBypasses.setField h))

theorem Origin.Keeps.execRingLossOfSignal {i : RingPort} {partly : Bool} : Out.Keeps (Machine.execRingLossOfSignal t i partly s) s₀ :=
  .ite (h.at.setRport.bumpN.bump.setField.raiseBit.andThen fun h => .next (.ringEvent (.ite h.setField.setField h.setField.setField.err)))
      (.next h.at)

theorem Origin.Keeps.execRingPortTrained {i : RingPort} : Out.Keeps (Machine.execRingPortTrained t i s) s₀ :=
  .ite (.next h.at) (.ite (.next h.at.setField.setField.ringEvent)
      (.ite (.next h.at.setField.setField.same.setRport.sendOn.release.ringEvent) (.next h.at)))

theorem Origin.Keeps.join : s₀.Keeps s.join :=
  .ite h (.ite h.setField (.ite (Origin.Keeps.andThen (.ite h.setField.setField h.setField)
      fun h => Origin.Keeps.andThen (.ite h.setField h) fun h => h.forN (fun _ _ h => .ite h.setField.setRport.ringEvent h)) h))

theorem Origin.Keeps.execJoin : Out.Keeps (Machine.execJoin t s) s₀ := .next h.at.join

theorem Origin.Keeps.execJoinComplete : Out.Keeps (Machine.execJoinComplete t s) s₀ :=
  .ite (.next h.at) (by split; exacts [.ite (.next h.at.same.originate) (.next h.at), .next (.ite h.at.setField.joinEnded h.at)])

theorem Origin.Keeps.leave : s₀.Keeps s.leave := .ite (h.setField.same.forN (fun _ _ h => h.sendOn)) h
theorem Origin.Keeps.execLeaveRequest : Out.Keeps (Machine.execLeaveRequest t s) s₀ := .next h.at.leave

theorem Origin.Keeps.execBypassClose : Out.Keeps (Machine.execBypassClose t s) s₀ := by
  unfold Machine.execBypassClose
  extract_lets
  split
  · exact .next h.at
  · exact .next (.ite h.at.closeBypasses h.at)

/-! ### `Sys2Proof/Machine/Masthead.lean` -/

theorem Origin.Keeps.decToPorts {dec typ : Nat} : s₀.Keeps (s.decToPorts k dec typ) :=
  h.foldl (fun _ _ h => .ite (by split; exacts [h.sendCmd, h]) h)

theorem Origin.Keeps.roFlush : s₀.Keeps (State.roFlush fuel s q) := by
  induction fuel generalizing s with
  | zero => exact h
  | succ _ ih =>
    rw [State.roFlush]
    split
    · exact h
    · exact .ite (ih h.same.qPut) h

theorem Origin.Keeps.roDrain : s₀.Keeps (s.roDrain q) := h.roFlush

theorem Origin.Keeps.toReadout {dec : Nat} {rcd : List Word} : s₀.Keeps (s.toReadout k rcd dec) :=
  (h.foldl (fun _ _ h => .ite h.qPutOrDrop h)).andThen fun h => .ite h.same h

theorem Origin.Keeps.deliver {rcd : List Word} : s₀.Keeps (s.deliver k rcd) :=
  Origin.Keeps.andThen (.ite h.bump.bump h.bump) fun h => Origin.Keeps.andThen (.ite h.bump h) fun h => Origin.Keeps.andThen (.ite h.bump h)
      fun h => Origin.Keeps.andThen (.ite h.bump h)
      fun h => ((h.foldl (fun _ _ h => h.bump)).foldl (fun _ _ h => h.bump)).decToPorts.toReadout.same

theorem Origin.Keeps.mastFail : s₀.Keeps s.mastFail := .ite h h.same.err
theorem Origin.Keeps.mastActivate : s₀.Keeps s.mastActivate := h.same.tabActivated

theorem Origin.Keeps.mastSwapDue : s₀.Keeps (s.mastSwapDue k) := by
  unfold State.mastSwapDue
  split
  · exact .ite h.mastActivate h
  · exact h

theorem Origin.Keeps.mismatchSlot {v : Verdict} {system : Bool} : s₀.Keeps (s.mismatchSlot k v system) :=
  h.bump.setField.errWith.andThen fun h => .ite h.same.deliver h.same.deliver.mastFail

theorem Origin.Keeps.decideSlot {differ system : Bool} : s₀.Keeps (s.decideSlot k differ system) :=
  .ite h.deliver (.ite h.deliver (.ite h.mismatchSlot h.same.deliver))

theorem Origin.Keeps.candMsg {len typ : Nat} {body : List Word} : s₀.Keeps (s.candMsg len typ body) := .ite h h.same.originate
theorem Origin.Keeps.reefIn : s₀.Keeps (s.reefIn b n) := Origin.Keeps.andThen (.ite h.same h.same.bump) fun h => .ite h.candMsg h
theorem Origin.Keeps.cutPasses : s₀.Keeps (s.cutPasses n) := .ite h (h.same.forN (fun _ _ h => .ite h.reefIn h))
theorem Origin.Keeps.ask3 : s₀.Keeps (s.ask3 k) := .ite h.same.haSend h

theorem Origin.Keeps.execSlotCutoff {slot : BitVec 32} {differ : Bool} : Out.Keeps (Machine.execSlotCutoff t slot differ s) s₀ :=
  .ite (.next h.at) (.ite (.next h.at.cutPasses.ask3) (h.at.cutPasses.ask3.mastSwapDue.andThen fun h => .ite (by
        split
        · exact .next h.bump.deliver
        · exact .next h.deliver) (.next h.decideSlot)))

theorem Origin.Keeps.execSystemCutoff {slot : BitVec 32} {differ : Bool} : Out.Keeps (Machine.execSystemCutoff t slot differ s) s₀ :=
  .ite (.next h.at) (.ite (.next h.at.cutPasses.ask3) (.next h.at.cutPasses.ask3.mastSwapDue.decideSlot.originate))

theorem Origin.Keeps.execCombineReply {reply : List Word} : Out.Keeps (Machine.execCombineReply t reply s) s₀ := by
  unfold Machine.execCombineReply
  extract_lets
  split
  · exact .next h.at.cqTake.haStale
  · exact .ite (.next h.at.cqTake.haDone) (.ite (.next h.at.cqTake.haDone.haStale) (.next h.at.cqTake.haDone.same))

theorem Origin.Keeps.execMastheadActivation : Out.Keeps (Machine.execMastheadActivation t s) s₀ := .next h.at.mastSwapDue
theorem Origin.Keeps.fifoPut {x : FifoItem} : s₀.Keeps (s.fifoPut i x) := h.same
theorem Origin.Keeps.ringDones : s₀.Keeps s.ringDones := h.same

theorem Origin.Keeps.popDone : s₀.Keeps (State.popDone fuel s i) := by
  induction fuel generalizing s with
  | zero => exact h
  | succ _ ih =>
    rw [State.popDone]
    split
    · exact (ih h.same)
    · exact (ih h.same.ringDones)
    · exact h

theorem Origin.Keeps.tellReef : s₀.Keeps s.tellReef := (h.foldl (fun _ _ h => h.candMsg)).same
theorem Origin.Keeps.lateCand : s₀.Keeps (s.lateCand k i) := .ite h.bump h.bump.same.errWith
theorem Origin.Keeps.dropOld : s₀.Keeps s.dropOld := h.same.foldl (fun _ _ h => h.foldl (fun _ _ h => by split; exacts [h.lateCand, h]))

theorem Origin.Keeps.take {frame : Nat} {ws : List Word} : s₀.Keeps (s.take i ws frame) :=
  .ite h.bump.lateCand (.ite (.ite h.bump.bump h.bump.bump.same.errWith) (.ite h.bump.candMsg (.ite h.bump.same.haSend h.bump.same)))

theorem Origin.Keeps.takeN : s₀.Keeps (s.takeN a) := by
  induction a generalizing s with
  | zero => exact h
  | succ _ ih =>
    rw [State.takeN]
    split
    · exact h.foldl (fun _ _ h => h.popDone)
    · exact (h.foldl (fun _ _ h => h.popDone)).same.andThen fun h => Origin.Keeps.andThen (.ite h.owe h) fun h => (ih h.take)

theorem Origin.Keeps.execCandidateTake : Out.Keeps (Machine.execCandidateTake t s) s₀ :=
  Origin.Keeps.andThen (.ite h.at h.at.bump) fun h => .next (h.takeN.foldl (fun _ _ h => h.popDone))

theorem Origin.Keeps.execCandidateTransfer {c : ClusterId} : Out.Keeps (Machine.execCandidateTransfer t c s) s₀ := by
  unfold Machine.execCandidateTransfer
  extract_lets
  split
  · exact .next h.at
  · exact .next (.ite h.at.same.fifoPut h.at)

theorem Origin.Keeps.execSlotReport {unit : Fin 64} {slot : BitVec 32} : Out.Keeps (Machine.execSlotReport t unit slot s) s₀ :=
  .ite (.next h.at.same.reefIn) (.next h.at)

theorem Origin.Keeps.contribHeard {seq : Nat} {done : Option Nat} : s₀.Keeps (s.contribHeard k seq done) :=
  Origin.Keeps.andThen (by split; exacts [h.same, h]) fun h => h.same

theorem Origin.Keeps.asCombiner {m : RingMsg} {f : State → Nat → State} (hf : ∀ s x, s₀.Keeps s → s₀.Keeps (f s x))
    : s₀.Keeps (s.asCombiner i m f) :=
  .ite h.bump (by split; exacts [h.bump, .ite h (hf _ _ h)])

theorem Origin.Keeps.execCand {i : RingPort} {m : RingMsg} : Out.Keeps (Machine.execCand t i m s) s₀ := by
  refine .next (h.at.receive fun _ h => h.asCombiner fun _ _ h => ?_)
  dsimp only
  split
  · exact .fifoPut (.fifoPut (.ite h.contribHeard h.contribHeard.setRport))
  · exact .fifoPut (.ite h.contribHeard h.contribHeard.setRport)

theorem Origin.Keeps.execDone {i : RingPort} {m : RingMsg} : Out.Keeps (Machine.execDone t i m s) s₀ := by
  refine .next (h.at.receive fun _ h => h.asCombiner fun _ _ h => ?_)
  dsimp only
  split
  · exact h.contribHeard.fifoPut
  · exact h.contribHeard

theorem Origin.Keeps.execLoss {i : RingPort} {m : RingMsg} : Out.Keeps (Machine.execLoss t i m s) s₀ :=
  .next (h.at.receive (fun _ h => h.asCombiner (fun _ _ h => .ite h.contribHeard.same h.contribHeard.same)))

theorem Origin.Keeps.execDecision {i : RingPort} {m : RingMsg} : Out.Keeps (Machine.execDecision t i m s) s₀ :=
  .next (h.at.receive (fun _ h => .ite h.same h))

theorem Origin.Keeps.execDoneSend : Out.Keeps (Machine.execDoneSend t s) s₀ :=
  .ite (.next h.at) (.next (.ite h.at.tellReef.candMsg.same h.at.tellReef))

theorem Origin.Keeps.execContributorAbsent {k : Fin 64} : Out.Keeps (Machine.execContributorAbsent t k s) s₀ :=
  .ite (.next h.at.same.ringDones.err) (.next h.at)

theorem Origin.Keeps.execMstTabAccess {data1 write : Bool} {v : Word} : Out.Keeps (Machine.execMstTabAccess t data1 write v s) s₀ :=
  Origin.Keeps.andThen (.ite (.ite h.at h.at.same) (.ite h.at.same.tabPend (.ite h.at.same h.at.same))) fun h => .next (.ite h.setField h)

theorem Origin.Keeps.histLine : s₀.Keeps (s.histLine a).1 := by
  unfold State.histLine
  extract_lets
  split
  · exact h.devLine.busErrLog.pair
  · exact h.devLine.pair

theorem Origin.Keeps.gatherRow {lo hi : Nat} : s₀.Keeps (s.gatherRow r lo hi).1 := by
  obtain ⟨K, hK⟩ : ∃ K : State × Gathered → Prop, ∀ p, K p ↔ s₀.Keeps p.1 := ⟨_, fun _ => .rfl⟩
  refine (hK _).1 ?_
  generalize hF : @State.gatherRow = F
  delta State.gatherRow at hF
  subst hF
  beta_reduce
  extract_lets +onlyGivenNames x head b g0
  split
  · exact (hK _).2 h
  extract_lets +onlyGivenNames ia
  split
  next s1 lost e1 =>
  have h1 : s₀.Keeps s1 := h.devGet.fst
  split
  · exact (hK _).2 h1
  extract_lets +onlyGivenNames n0 gone count
  refine List.foldlRecOn _ _ ((hK _).2 h1) fun p hp i _ => ?_
  split
  next u g =>
  extract_lets +onlyGivenNames n a
  have hv := Origin.Keeps.histLine ((hK _).1 hp) (a := a)
  split
  next v lost ev =>
  have hv : s₀.Keeps v := hv.fst
  split
  · exact (hK _).2 hv
  extract_lets +onlyGivenNames ws hd
  split
  · exact (hK _).2 hv
  · exact (hK _).2 hv

theorem Origin.Keeps.roRecords {j : RoJob} {late : Bool} : s₀.Keeps (s.roRecords j mask late).1 := by
  unfold State.roRecords
  dsimp only
  exact .foldlFst h.pair fun p r hp => hp.gatherRow

theorem Origin.Keeps.execReadoutGather {slot : BitVec 32} : Out.Keeps (Machine.execReadoutGather t slot s) s₀ := by
  unfold Machine.execReadoutGather
  extract_lets
  split
  · exact .next h.at
  · exact .ite (.next h.at) (.next (h.at.same.foldl (fun _ _ h => by split; exacts [h.roRecords.fst.same.roDrain])))

/-! ### `Sys2Proof/Machine/Regs.lean` -/

theorem Origin.Keeps.regWrite {loader : Bool} {v : Word} : s₀.Keeps (s.regWrite loader o v) := .ite h h.setReg

theorem Origin.Keeps.loseRegs {lost : Nat → Bool} : s₀.Keeps (s.loseRegs lost) := by
  unfold State.loseRegs
  extract_lets keep
  have hk : ∀ e f, keep e = some f → f = e ∨ f.1 = e.1 ∧ f.2 ≠ regReset e.1 := by
    intro e f hf
    unfold keep at hf
    split at hf
    · cases hf; exact .inl rfl
    · split at hf
      · cases hf
      next ha => cases hf; exact .inr ⟨rfl, ha⟩
  refine ⟨h.pending, h.mem, fun hr he => ⟨swf_filterMap (fun e f hf => ?_) (fun e f hd hf => ?_) (h.regs hr he).1, (h.regs hr he).2⟩, h.errs⟩
  · exact (hk e f hf).elim (congrArg Prod.fst) And.left
  · exact (hk e f hf).elim (fun e => e ▸ hd) And.right

/-! ### `Sys2Proof/Machine/Power.lean` -/

theorem Origin.Keeps.setPwr {x : PwrSt} : s₀.Keeps (s.setPwr x) := h.same
theorem Origin.Keeps.domRefuse : s₀.Keeps (s.domRefuse d) := h.bump.raiseBit.err
theorem Origin.Keeps.portsOff {first : Nat} : s₀.Keeps (s.portsOff first n) := h.foldl (fun _ _ h => .ite h h.enter)
theorem Origin.Keeps.rowOut : s₀.Keeps (s.rowOut r) := h.portsOff.setRow

theorem Origin.Keeps.domBegin : s₀.Keeps (s.domBegin d v) :=
  Origin.Keeps.andThen (.ite h.settle h)
      fun h => .ite h.setPwr.setField (.ite h.setPwr.setField.portsOff (.ite h.setPwr.setField.rowOut h.setPwr.setField))

theorem Origin.Keeps.domTake : s₀.Keeps (s.domTake d v) := .ite h (.ite h.domRefuse h.domBegin)
theorem Origin.Keeps.domAsk : s₀.Keeps (s.domAsk d v) := .ite h (.ite h.setPwr h.domTake)

theorem Origin.Keeps.domNext {cast : Bool} : s₀.Keeps (s.domNext d cast a) := by
  induction a generalizing s with
  | zero => exact h
  | succ _ ih =>
    rw [State.domNext]
    split
    · exact h
    · exact .ite h (ih h.setPwr.domTake)

theorem Origin.Keeps.clusterOff : s₀.Keeps (s.clusterOff k) := h.loseRegs.setClu.foldl (fun _ _ h => h.setCore)
theorem Origin.Keeps.clusterOn : s₀.Keeps (s.clusterOn k) := h.foldl (fun _ _ h => h.setCore)
theorem Origin.Keeps.writeBack : s₀.Keeps (s.writeBack k) := (h.foldl (fun _ _ h => h.acceptLine)).setClu
theorem Origin.Keeps.stackLost : s₀.Keeps (s.stackLost m) := (h.setMem swf_filter).setField
theorem Origin.Keeps.fillBegin : s₀.Keeps (s.fillBegin m) := .ite h.setField h
theorem Origin.Keeps.lineLost : s₀.Keeps (s.lineLost k line) := (h.foldl fun _ _ h => (h.setMem mwrW_wf).useFree).memLog
theorem Origin.Keeps.crossingCut : s₀.Keeps (s.crossingCut m) := .ite h (h.forN (fun _ _ h => h.setClu.foldl (fun _ _ h => h.lineLost)))

theorem Origin.Keeps.ringPortOff : s₀.Keeps (s.ringPortOff i) := by
  unfold State.ringPortOff
  exact h.setRport.loseRegs

theorem Origin.Keeps.ringCrossing : s₀.Keeps (s.ringCrossing i) := .ite h h.setRport.bumpN

theorem Origin.Keeps.ctlOff : s₀.Keeps (s.ctlOff m) := by
  unfold State.ctlOff
  exact (h.foldl fun _ _ h => h.mergeDone).same.loseRegs

theorem Origin.Keeps.domArrive {old : Nat} : s₀.Keeps (s.domArrive d old v) :=
  .ite (.ite h.clusterOff (Origin.Keeps.andThen (.ite h.clusterOn h) fun h => .ite h.restart h))
      (.ite (.ite h.setRow.loseRegs (.ite (h.forN (fun _ _ h => h.reshow.tryLeaveOff)) h))
      (.ite (.ite (h.forN (fun _ _ h => h.tryLeaveOff)) h) (.ite (.ite (.fillBegin (.ite h.crossingCut h)) (.ite h.ctlOff h))
      (.ite (.ite h.stackLost (.ite h.setField.domBegin h)) (.ite (Origin.Keeps.andThen (.ite h.ringPortOff (.ite h.ringCrossing h))
      fun h => Origin.Keeps.andThen (.ite h.setRport h) fun h => h.setField.setField.ringEvent) h)))))

theorem Origin.Keeps.domDone : s₀.Keeps (s.domDone d) := by
  unfold State.domDone
  split
  · exact h
  · exact h.setPwr.setField.setField.domArrive.domNext

theorem Origin.Keeps.wake : s₀.Keeps (s.wake k) := .ite (.ite h.setField h.setField.setPwr) h.setField.domAsk
theorem Origin.Keeps.wakeCheck : s₀.Keeps (s.wakeCheck k) := .ite h.wake h
theorem Origin.Keeps.stir : s₀.Keeps (s.stir k) := h.setClu

theorem Origin.Keeps.execClusterIdle {c : ClusterId} : Out.Keeps (Machine.execClusterIdle t c s) s₀ :=
  .next (.ite h.at (.ite h.at.setField.setClu.domBegin h.at.setField.domBegin))

theorem Origin.Keeps.execClusterWritebackDone {c : ClusterId} : Out.Keeps (Machine.execClusterWritebackDone t c s) s₀ :=
  .next (.ite h.at.writeBack.domDone h.at)

theorem Origin.Keeps.domainRequest : s₀.Keeps (s.domainRequest d v) := .ite h h.setField.domAsk

theorem Origin.Keeps.execDomainRequest {d : DomainId} {req : BitVec 2} : Out.Keeps (Machine.execDomainRequest t d req s) s₀ :=
  .next h.at.domainRequest

theorem Origin.Keeps.execDomainTransitionDone {d : DomainId} : Out.Keeps (Machine.execDomainTransitionDone t d s) s₀ :=
  .next (.ite h.at h.at.domDone)

theorem Origin.Keeps.execHbmIdle {m : CtlId} : Out.Keeps (Machine.execHbmIdle t m s) s₀ := .next (.ite h.at.setField h.at)

/-! ### `Sys2Proof/Machine/Boot.lean` -/

theorem Origin.Keeps.slotSet {typ st sig len ver : Nat} {dig : List Word} : s₀.Keeps (s.slotSet k typ st sig len ver dig) :=
  h.setReg.setReg.foldl (fun _ _ h => h.setReg)

theorem Origin.Keeps.slotNote : s₀.Keeps (s.slotNote k b) := .ite h.setReg.setField h.setReg

theorem Origin.Keeps.note {at_ : Nat} {given used : Word} : s₀.Keeps (s.note k b at_ given used) :=
  .ite h.slotNote.slotNote h.slotNote.setReg.setReg.setReg.setReg.setField

theorem Origin.Keeps.slotReject {at_ : Nat} {given : Word} : s₀.Keeps (s.slotReject k at_ given) := h.note.setField

theorem Origin.Keeps.readFuses : s₀.Keeps s.readFuses :=
  ((h.setField.foldl (fun _ _ h => h.setReg)).foldl (fun _ _ h => h.setReg)).foldl (fun _ _ h => h.setReg)

theorem Origin.Keeps.loadKeys : s₀.Keeps s.loadKeys := h.same
theorem Origin.Keeps.openSec {x : Sec} : s₀.Keeps (s.openSec x).1 := h.slotSet.pair

theorem Origin.Keeps.loadKeysSec {x : Sec} : s₀.Keeps (s.loadKeysSec x) := by
  unfold State.loadKeysSec
  split
  · split
    · exact h.openSec.fst.slotReject
    · exact h.openSec.fst.foldl (fun _ _ h => .ite h h.note)

theorem Origin.Keeps.loadRegs {hits : Nat → Bool} {put : State → Nat → Word → State} {ws : List Word}
    (hput : ∀ s o v, s₀.Keeps s → s₀.Keeps (put s o v)) : s₀.Keeps (State.loadRegs k hits put fuel ws s) := by
  induction fuel generalizing s ws with
  | zero => exact h
  | succ fuel ih =>
    cases ws with
    | nil => exact h
    | cons w rest => exact .ite h.slotReject (ih (.ite (h.foldl fun _ _ h => hput _ _ _ h) h.note))

theorem Origin.Keeps.domWrite {v : Word} : s₀.Keeps (s.domWrite d v) := Origin.Keeps.andThen (.ite h.setField h) fun h => h.domainRequest

theorem Origin.Keeps.pwrWrite {loader : Bool} {v : Word} : s₀.Keeps (s.pwrWrite loader o v) :=
  .ite h.domWrite (.ite h.settle.regWrite h.regWrite)

theorem Origin.Keeps.loadPolicy {x : Sec} : s₀.Keeps (s.loadPolicy x) := by
  unfold State.loadPolicy
  split
  · exact h.openSec.fst.loadRegs (fun _ _ _ h => h.pwrWrite)

theorem Origin.Keeps.loadWords {base : Nat} {ws : List Word} : s₀.Keeps (s.loadWords base n ws) := h.same

theorem Origin.Keeps.loadPatch {x : Sec} : s₀.Keeps (s.loadPatch x) := by
  unfold State.loadPatch
  split
  · exact h.openSec.fst.setField.setReg.andThen fun h => .ite h.setField.slotReject h.setField.setField.loadWords.same

theorem Origin.Keeps.loadCust {x : Sec} : s₀.Keeps (s.loadCust x) := by
  unfold State.loadCust
  split
  · exact h.openSec.fst.setField.setReg.andThen fun h => .ite h.setField.slotReject h.setField.setField.loadWords.same

theorem Origin.Keeps.codeMap : s₀.Keeps s.codeMap := .ite h (h.forN (fun _ _ h => h.forN (fun _ _ h => h.setReg)))
theorem Origin.Keeps.frameHeap : s₀.Keeps (s.frameHeap w k) := .ite h h.same.note
theorem Origin.Keeps.holdHeap : s₀.Keeps (s.holdHeap w) := .ite h h.same.note

theorem Origin.Keeps.loadWorld {x : Sec} : s₀.Keeps (s.loadWorld x) := by
  unfold State.loadWorld
  split
  · exact .ite h.openSec.fst.slotReject (h.openSec.fst.same.codeMap.andThen fun h => Origin.Keeps.andThen (by
        split
        · exact h.note
        · exact h) fun h => (h.forN (fun _ _ h => h.forN (fun _ _ h => h.frameHeap))).forN (fun _ _ h => h.holdHeap))

theorem Origin.Keeps.loadEarly {x : Sec} : s₀.Keeps (s.loadEarly x) :=
  .ite h.loadKeysSec (.ite h.loadPolicy (.ite h.loadPatch (.ite h.loadCust h.loadWorld)))

theorem Origin.Keeps.setStep : s₀.Keeps (s.setStep n) := h.setField
theorem Origin.Keeps.measureDir : s₀.Keeps s.measureDir := h.foldl (fun _ _ h => by split; exacts [h, .ite h.note (.ite h.slotSet h)])
theorem Origin.Keeps.unbind : s₀.Keeps s.unbind := h.same
theorem Origin.Keeps.raiseMemory : s₀.Keeps s.raiseMemory := h.setStep.forN (fun _ _ h => h.setField.domBegin)
theorem Origin.Keeps.checkChain : s₀.Keeps s.checkChain := .ite h h.note

theorem Origin.Keeps.bootRom : s₀.Keeps s.bootRom :=
  (h.readFuses.sourceTake.foldl (fun _ _ h => h.slotSet)).slotSet.slotSet.slotSet.checkChain

theorem Origin.Keeps.startUp : s₀.Keeps s.startUp := by
  unfold State.startUp
  extract_lets s1 hd b s2 ok s3 named s4 s5 s6 s7
  have h3 : s₀.Keeps s3 := h.bootRom.same.slotSet
  clear_value s3
  have h4 : s₀.Keeps s4 := .ite h3.note h3
  clear_value s4
  have h7 : s₀.Keeps s7 := (h4.measureDir.loadKeys.foldl fun _ _ h => h.loadEarly).foldl fun _ _ h => h.loadEarly
  clear_value s7
  exact .ite h3.unbind.setField.raiseMemory (.raiseMemory (.ite h7 h7.unbind))

theorem Origin.Keeps.cutFuse : s₀.Keeps s.cutFuse := by
  unfold State.cutFuse
  split
  · exact h
  · exact h.same.useFree

theorem Origin.Keeps.switchedLost : s₀.Keeps s.switchedLost :=
  have h := h.cutFuse
  ⟨h.pending, fun hm => swf_filter (h.mem hm), fun hr he =>
    ⟨swf_filterMap (fun _ _ hf => (keptReg_eq_some hf).1) (fun _ _ _ hf => (keptReg_eq_some hf).2) (h.regs hr he).1, rfl⟩, h.errs⟩

theorem Origin.Keeps.deviceReset {cause : Nat} : s₀.Keeps (s.deviceReset cause) := .ite h h.switchedLost.setField.startUp
theorem Origin.Keeps.switchOff : s₀.Keeps s.switchOff := .ite h h.setPwr.switchedLost.setField
theorem Origin.Keeps.switchOn : s₀.Keeps s.switchOn := .ite h (.ite h.setPwr h.setPwr.startUp)

/-! ### `Sys2Proof/Machine/PowerCmds.lean` -/

theorem Origin.Keeps.execAoStart (hs : ¬ s₀.sends) : Out.Keeps (Machine.execAoStart t s) s₀ := by
  unfold Machine.execAoStart
  extract_lets +onlyGivenNames s1
  have h1 : s₀.Keeps s1 := h.at
  refine .ite (.next h1) ?_
  split
  next kept u e =>
  have hu : s₀.Keeps u := by
    split at e
    · cases e; exact h1
    · split at e
      · cases e; exact h1
      · cases e; exact h1.useFree
  refine .ite (.next hu.setPwr) (.next ?_)
  exact ⟨hu.cutFuse.pending, fun hm => swf_filter (hu.cutFuse.mem hm), fun _ _ => ⟨rfl, rfl⟩, fun hx => absurd hx hs⟩

theorem Origin.Keeps.execAoPowerLoss : Out.Keeps (Machine.execAoPowerLoss t s) s₀ := .ite (.next h.at) (.next h.at.switchOff.setPwr)
theorem Origin.Keeps.execUndervoltageRelease : Out.Keeps (Machine.execUndervoltageRelease t s) s₀ := .next (.ite h.at.setPwr.switchOn h.at)
theorem Origin.Keeps.leaveShut : s₀.Keeps s.leaveShut := .ite (.ite h.setPwr.startUp h.setPwr) h
theorem Origin.Keeps.execEnableHigh : Out.Keeps (Machine.execEnableHigh t s) s₀ := .next h.at.setPwr.switchOn.leaveShut
theorem Origin.Keeps.execEnableLow : Out.Keeps (Machine.execEnableLow t s) s₀ := .next (.ite h.at h.at.setPwr.switchOff)
theorem Origin.Keeps.execUndervoltageTrip : Out.Keeps (Machine.execUndervoltageTrip t s) s₀ := .next h.at.setPwr.switchOff
theorem Origin.Keeps.execOvervoltageTrip : Out.Keeps (Machine.execOvervoltageTrip t s) s₀ := .next h.at.setPwr.switchOff
theorem Origin.Keeps.execInputOvercurrent : Out.Keeps (Machine.execInputOvercurrent t s) s₀ := .next (.ite h.at h.at.setPwr.err.switchOff)
theorem Origin.Keeps.execResetN : Out.Keeps (Machine.execResetN t s) s₀ := .next (.ite h.at (.ite h.at.setPwr.leaveShut h.at.deviceReset))
theorem Origin.Keeps.devCtrl {v : Word} : s₀.Keeps (s.devCtrl v) := .ite h.deviceReset h
theorem Origin.Keeps.execDeviceReset {v : Word} : Out.Keeps (Machine.execDeviceReset t v s) s₀ := .next h.at.devCtrl
theorem Origin.Keeps.rowPllLost : s₀.Keeps (s.rowPllLost r) := .ite h (.ite h.setPll (.ite h.setPll.err h.setPll.err.rowStop))

theorem Origin.Keeps.cluPllLost : s₀.Keeps (s.cluPllLost c) :=
  .ite h (.ite h.setPll (h.setPll.err.forN (fun _ _ h => .ite h.coreLost h)).coverage)

theorem Origin.Keeps.opticalPllLost {e : Nat} : s₀.Keeps (s.opticalPllLost e) := .ite h (h.err.forN (fun _ _ h => .ite h.enter h))
theorem Origin.Keeps.mainPllLost : s₀.Keeps (s.mainPllLost d) := .ite h h.err.deviceReset

theorem Origin.Keeps.execPllLockLoss {u : Pll} : Out.Keeps (Machine.execPllLockLoss t u s) s₀ :=
  .next (by
        split
        · exact h.at.rowPllLost
        · exact h.at.cluPllLost
        · exact h.at.opticalPllLost
        · exact .ite h.at h.at.stackFail
        · exact h.at.mainPllLost
        · exact h.at.mainPllLost
        · exact h.at.mainPllLost
        · exact h.at.mainPllLost)

theorem Origin.Keeps.pllGained {u : Nat} : s₀.Keeps (s.pllGained u) := .ite h.setPll h

theorem Origin.Keeps.execPllLockGained {u : Pll} : Out.Keeps (Machine.execPllLockGained t u s) s₀ :=
  .next (by split; exacts [h.at.pllGained, h.at.pllGained, h.at])

theorem Origin.Keeps.execCrossingHold {pairs : List Bool} : Out.Keeps (Machine.execCrossingHold t pairs s) s₀ := .next h.at.bumpN

theorem Origin.Keeps.execCrossingStallTimeout {cls : Fin 6} {d : DomainId} : Out.Keeps (Machine.execCrossingStallTimeout t cls d s) s₀ :=
  .next (.ite h.at h.at.setPwr.err)

theorem Origin.Keeps.sensor {v : BitVec 12} : s₀.Keeps (s.sensor k v) := .ite h.setReg.same.err h.setReg

theorem Origin.Keeps.thermal {j : Int} : s₀.Keeps (s.thermal j) :=
  Origin.Keeps.andThen (.ite h.setPwr.settleAll.setPwr.bump.err h.setPwr) fun h => .ite h.switchedLost.setField.setPwr h.leaveShut

theorem Origin.Keeps.execTemperatureSample {readings : List (BitVec 12)} : Out.Keeps (Machine.execTemperatureSample t readings s) s₀ := by
  unfold Machine.execTemperatureSample
  extract_lets s1 s2
  have h2 : s₀.Keeps s2 := h.at.foldl fun s k h => by
    split
    exacts [.ite h.sensor h, h]
  refine .ite (.next h.at) (.next ?_)
  split
  exacts [h2.thermal, h2]

theorem Origin.Keeps.fuseCmd {v : Word} : s₀.Keeps (s.fuseCmd v) := .ite h h.same.setField
theorem Origin.Keeps.execFuseProgram {v : Word} : Out.Keeps (Machine.execFuseProgram t v s) s₀ := .next h.at.fuseCmd
theorem Origin.Keeps.execFuseRevoke {v : Word} : Out.Keeps (Machine.execFuseRevoke t v s) s₀ := .next h.at.fuseCmd

theorem Origin.Keeps.execFuseDone {readback : List Word} : Out.Keeps (Machine.execFuseDone t readback s) s₀ := by
  unfold Machine.execFuseDone
  extract_lets
  split
  · exact .next h.at
  · exact h.at.same.setField.setField.readFuses.andThen fun h => .next (.ite h.err h)

/-! ### `Sys2Proof/Machine/Queues.lean` -/

theorem Origin.Keeps.pruneFresh : s₀.Keeps (s.pruneFresh q) := h.setQueue
theorem Origin.Keeps.bell : s₀.Keeps (s.bell q v) := .ite h.bump (.ite h.setField.err (.ite h.setField.pruneFresh h.setField))
theorem Origin.Keeps.execDoorbellWrite {q : QueueId} {v : Word} : Out.Keeps (Machine.execDoorbellWrite t q v s) s₀ := .next h.at.bell
theorem Origin.Keeps.armBell : s₀.Keeps (s.armBell q) := h.setField
theorem Origin.Keeps.execDoorbellArm {q : QueueId} : Out.Keeps (Machine.execDoorbellArm t q s) s₀ := .next h.at.armBell

theorem Origin.Keeps.execQueueInterrupt {q : QueueId} : Out.Keeps (Machine.execQueueInterrupt t q s) s₀ :=
  .ite (.next h.at) (Origin.Keeps.andThen (.ite h.at.setField h.at.setField.setQueue) fun h => .next (.ite h.same h.raiseCtx))

theorem Origin.Keeps.enableQ {v : Word} : s₀.Keeps (s.enableQ q v) :=
  .ite h (.ite h.regWrite.setField h.regWrite.setField.setField.setReg.setQueue)

theorem Origin.Keeps.execQueueEnable {q : QueueId} {v : Word} : Out.Keeps (Machine.execQueueEnable t q v s) s₀ := .next h.at.enableQ
theorem Origin.Keeps.ciUp : s₀.Keeps (s.ciUp q) := h.setQueue.setField
theorem Origin.Keeps.jobEnded {idx status : Nat} {result : Word} : s₀.Keeps (s.jobEnded q idx status result) := h.setQueue
theorem Origin.Keeps.dropPend : s₀.Keeps (s.dropPend q) := h.same

theorem Origin.Keeps.jobEnd {status : Nat} {result : Word} : s₀.Keeps (s.jobEnd q status result) := by
  unfold State.jobEnd
  split
  · exact h
  · exact h.setQueue.jobEnded.dropPend.andThen fun h => .ite h h.ciUp

theorem Origin.Keeps.abortAll : s₀.Keeps (s.abortAll q a) := by
  induction a generalizing s with
  | zero => exact h
  | succ _ ih =>
    exact .ite (by split; exacts [.ite h h.jobEnd, h]) (ih (.ciUp (.jobEnded (by split; exacts [.ite h h.jobEnd, h]))))

theorem Origin.Keeps.disableQ : s₀.Keeps (s.disableQ q) :=
  .ite h.setField (Origin.Keeps.andThen (.ite h.abortAll h) fun h => h.setField.setField)

theorem Origin.Keeps.execQueueDisable {q : QueueId} : Out.Keeps (Machine.execQueueDisable t q s) s₀ := .next h.at.disableQ
theorem Origin.Keeps.engineLines : s₀.Keeps (s.engineLines a n) := .ite h (h.foldl (fun _ _ h => h.devLine))

theorem Origin.Keeps.engineRead : s₀.Keeps (s.engineRead a n).1 := by
  unfold State.engineRead
  extract_lets
  split
  · exact h.engineLines.busErrLog.pair
  · exact h.engineLines.pair

theorem Origin.Keeps.engineLine : s₀.Keeps (s.engineLine a n line) := .ite h.mergeDone.lineWrite h.mergePut.mergeFull

theorem Origin.Keeps.engineWrite {bs : List Byte} : s₀.Keeps (s.engineWrite a bs).1 :=
  (h.foldl fun _ _ h => h.touchMem.snoopOthers).andThen fun h => .iteFst (h.setMem mwrBs_wf)
      (.iteFst h ((h.setMem mwrBs_wf).foldl fun _ _ h => h.engineLine))

theorem Origin.Keeps.engineTake : s₀.Keeps (s.engineTake q a) := by
  induction a generalizing s with
  | zero => exact h
  | succ _ ih =>
    exact .ite h (.ite (ih h.setQueue.jobEnded.ciUp) (by
          split
          · exact (ih h.engineRead.fst.jobEnded.ciUp)
          · exact .ite (ih h.engineRead.fst.jobEnded.ciUp) h.engineRead.fst.setQueue))

theorem Origin.Keeps.engineNext : s₀.Keeps (s.engineNext q) := h.engineTake

theorem Origin.Keeps.jobCommit : s₀.Keeps (s.jobCommit q) := by
  unfold State.jobCommit
  split
  · exact h
  · exact .ite h h.setQueue.ciUp

theorem Origin.Keeps.jobStep {f : State → JobSt → State} (hf : ∀ s x, s₀.Keeps s → s₀.Keeps (f s x)) : s₀.Keeps (s.jobStep q op f) := by
  unfold State.jobStep
  split
  · exact h.engineNext
  · exact .ite (hf _ _ h) h

theorem Origin.Keeps.execNorRead {q : QueueId} : Out.Keeps (Machine.execNorRead t q s) s₀ :=
  .next (h.at.jobStep (fun _ _ h => (by split; exacts [h.engineWrite.fst.jobEnd, h.engineWrite.fst.jobCommit.jobEnd])))

theorem Origin.Keeps.execNorErase {q : QueueId} : Out.Keeps (Machine.execNorErase t q s) s₀ :=
  .next (h.at.jobStep (fun _ _ h => h.jobCommit.same.jobEnd))

theorem Origin.Keeps.norByte {b : Byte} : s₀.Keeps (s.norByte a b) := .ite h.same h.same.useFree

theorem Origin.Keeps.norBytes {a2 : List Byte} : s₀.Keeps (s.norBytes a a2) := by
  induction a2 generalizing s a with
  | nil => exact h
  | cons _ _ ih =>
    exact (ih h.norByte)

theorem Origin.Keeps.execNorProgram {q : QueueId} : Out.Keeps (Machine.execNorProgram t q s) s₀ :=
  .next (h.at.jobStep (fun _ _ h => (by split; exacts [h.engineRead.fst.jobEnd, h.engineRead.fst.jobCommit.norBytes.jobEnd])))

theorem Origin.Keeps.request {typ node : Nat} {body : List Word} : s₀.Keeps (s.request q typ node body) :=
  Origin.Keeps.andThen (by split; exacts [h.same.setQueue, h.same]) fun h => h.originate

theorem Origin.Keeps.execRingRd {q : QueueId} : Out.Keeps (Machine.execRingRd t q s) s₀ :=
  .next (h.at.jobStep (fun _ _ h => .ite h h.request))

theorem Origin.Keeps.execRingWr {q : QueueId} : Out.Keeps (Machine.execRingWr t q s) s₀ :=
  .next (h.at.jobStep (fun _ _ h => .ite h (.ite h.request.jobCommit h.request)))

theorem Origin.Keeps.execFcrelJob {q : QueueId} : Out.Keeps (Machine.execFcrelJob t q s) s₀ :=
  .next (h.at.jobStep (fun _ _ h => (by
        split
        · exact h.engineRead.fst.jobEnd
        · exact .ite h.engineRead.fst.jobEnd h.engineRead.fst.originate.jobCommit.jobEnd)))

theorem Origin.Keeps.execBwriteJob {q : QueueId} : Out.Keeps (Machine.execBwriteJob t q s) s₀ :=
  .next (h.at.jobStep (fun _ _ h => .ite h (by
        extract_lets
        split
        · exact h.engineRead.fst.jobEnd
        · exact .ite h.engineRead.fst.jobEnd h.engineRead.fst.originate.jobCommit.setQueue)))

theorem Origin.Keeps.bulkLost : s₀.Keeps (s.bulkLost q) := by
  unfold State.bulkLost
  split
  · exact .ite h.jobEnd h
  · exact h

theorem Origin.Keeps.execJobComplete {q : QueueId} : Out.Keeps (Machine.execJobComplete t q s) s₀ := by
  generalize hF : @Machine.execJobComplete = F
  delta Machine.execJobComplete at hF
  subst hF
  beta_reduce
  extract_lets +onlyGivenNames s1
  have h1 : s₀.Keeps s1 := h.at.bulkLost.engineNext
  clear_value s1
  split
  · exact .next h1
  · exact .ite (.next h1) (.next (.ite h1.setQueue.qPut h1.setQueue))

theorem Origin.Keeps.abortAsk {v : Word} : s₀.Keeps (s.abortAsk v) := .ite h.bump h.setField.setField.setField
theorem Origin.Keeps.execAbortRequest {v : Word} : Out.Keeps (Machine.execAbortRequest t v s) s₀ := .next h.at.abortAsk

theorem Origin.Keeps.execAbortDecide : Out.Keeps (Machine.execAbortDecide t s) s₀ :=
  .ite (.next h.at) (Origin.Keeps.andThen (.ite h.at (.ite h.at.jobEnd h.at.setQueue)) fun h => .next h.setField.setField.raiseBit.event)

/-! ### `Sys2Proof/Machine/Errors.lean` -/

theorem Origin.Keeps.regRecord {ws : List Word} : s₀.Keeps (s.regRecord o ws) := h.foldl (fun _ _ h => h.setReg)

theorem Origin.Keeps.errLog {cls : Nat} {ws : List Word} : s₀.Keeps (s.errLog cls n ws) :=
  h.regRecord.setField.bump.andThen fun h => .ite h.regRecord h

theorem Origin.Keeps.raiseError : s₀.Keeps s.raiseError := h.same

theorem Origin.Keeps.errWrite {e : ErrEv} (hs : ¬ s₀.sends) : s₀.Keeps (s.errWrite e) :=
  have h : s₀.Keeps { s with errs := s.errs.filter fun f => f.num != e.num } := ⟨h.pending, h.mem, h.regs, fun hx => absurd hx hs⟩
  h.errLog.qBroadcast.raiseError

theorem Origin.Keeps.execErrorRecordWrite (hs : ¬ s₀.sends) : Out.Keeps (Machine.execErrorRecordWrite t s) s₀ :=
  .next (by split; exacts [h.at, h.at.errWrite hs])

theorem Origin.Keeps.clearLog : s₀.Keeps s.clearLog := h.filterRegs
theorem Origin.Keeps.execClearLog : Out.Keeps (Machine.execClearLog t s) s₀ := .next h.at.clearLog
theorem Origin.Keeps.clearFirst : s₀.Keeps s.clearFirst := h.regRecord
theorem Origin.Keeps.execClearFirst : Out.Keeps (Machine.execClearFirst t s) s₀ := .next h.at.clearFirst
theorem Origin.Keeps.errCtrl {v : Word} : s₀.Keeps (s.errCtrl v) := Origin.Keeps.andThen (.ite h.clearLog h) fun h => .ite h.clearFirst h
theorem Origin.Keeps.inject {v : Word} : s₀.Keeps (s.inject v) := h.err
theorem Origin.Keeps.execErrInject {v : Word} : Out.Keeps (Machine.execErrInject t v s) s₀ := .next h.at.inject
theorem Origin.Keeps.setExpect : s₀.Keeps s.setExpect := h.setField.setField

theorem Origin.Keeps.activate : s₀.Keeps (s.activate k) :=
  .ite h.same.tabActivated (.ite h.same.tabActivated.fanoutBuild.setExpect (.ite h.mastActivate h.same.tabActivated))

theorem Origin.Keeps.activateSet {ks : List Nat} : s₀.Keeps (s.activateSet ks) :=
  (h.foldl (fun _ _ h => h.activate)).andThen fun h => .ite (h.forN (fun _ _ h => h.buildClasses)) h

theorem Origin.Keeps.swapWait : s₀.Keeps (s.swapWait k) := .ite h (.ite h.setField.same h.setField)
theorem Origin.Keeps.swapWrite {v : Word} : s₀.Keeps (s.swapWrite v) := h.activateSet.foldl (fun _ _ h => h.swapWait)
theorem Origin.Keeps.execSwap {v : Word} : Out.Keeps (Machine.execSwap t v s) s₀ := .next h.at.swapWrite

theorem Origin.Keeps.bistBegin {back : Nat} : s₀.Keeps (s.bistBegin k back) :=
  Origin.Keeps.andThen (.settle (.ite h h.writeBack)) fun h => h.setClu.setField

theorem Origin.Keeps.bistPoll : s₀.Keeps (s.bistPoll k) := .ite h.bistBegin h

theorem Origin.Keeps.bistAsk {drain : Bool} : s₀.Keeps (s.bistAsk k drain) :=
  .ite h.bistPoll (.ite h.setField (.ite h.bistBegin (.ite h.bistBegin (.ite h.setClu.setField h.setField))))

theorem Origin.Keeps.bistWrite {v : Word} : s₀.Keeps (s.bistWrite k v) := .ite h.bistAsk h
theorem Origin.Keeps.execBistStart {c : ClusterId} : Out.Keeps (Machine.execBistStart t c s) s₀ := .next h.at.bistAsk
theorem Origin.Keeps.execBistDrain {c : ClusterId} : Out.Keeps (Machine.execBistDrain t c s) s₀ := .next h.at.bistAsk
theorem Origin.Keeps.cachesEmpty : s₀.Keeps (s.cachesEmpty k) := h.setClu.foldl (fun _ _ h => h.setCore)

theorem Origin.Keeps.bistResult {f : BistFinding} : s₀.Keeps (s.bistResult k f) :=
  (h.setReg.setClu.foldl (fun _ _ h => .ite h.setCore h)).andThen fun h => .ite h.err.coverage h

theorem Origin.Keeps.execBistDone {c : ClusterId} {found : BistFinding} : Out.Keeps (Machine.execBistDone t c found s) s₀ :=
  .ite (.next h.at.bistPoll) (.next h.at.bistPoll.cachesEmpty.bistResult.setClu.restart.setField.domNext.wakeCheck)

/-! ### `Sys2Proof/Machine/Bar.lean` -/

theorem Origin.Keeps.orElse {o : Out} (ho : Out.Keeps o s₀) : s₀.Keeps (Out.orElse o s) := by
  unfold Machine.Out.orElse
  split
  · exact (ho _ rfl)
  · exact h

theorem Origin.Keeps.barRead : s₀.Keeps (s.barRead o) :=
  .ite (h.orElse h.execRegmapDataAccess) (.ite (h.orElse h.execChcntData1Read) (.ite (h.orElse h.execMstTabAccess)
      (.ite (h.orElse h.execMstTabAccess) (.ite h.decAccess (.ite (h.orElse h.execDmapDataAccess) (.ite (h.orElse h.execDmapDataAccess)
      (Origin.Keeps.andThen (.ite h.useFree h) fun h => h.same)))))))

theorem Origin.Keeps.devBlock {v : Word} : s₀.Keeps (s.devBlock o v) := .ite h.devCtrl (.ite h.swapWrite h.regWrite)

theorem Origin.Keeps.fmtBlock {loader : Bool} {v : Word} : s₀.Keeps (s.fmtBlock loader o v) :=
  .ite (h.orElse h.execRegmapDataAccess) (.ite (h.orElse h.execAutomaskClear)
      (.ite (h.regWrite.forN (fun _ _ h => h.showMode.tryLeaveOff)) h.regWrite))

theorem Origin.Keeps.mstBlock {loader : Bool} {v : Word} : s₀.Keeps (s.mstBlock loader o v) :=
  .ite (h.orElse h.execMstTabAccess) (.ite (h.orElse h.execMstTabAccess) h.regWrite)

theorem Origin.Keeps.shrBlock {loader : Bool} {v : Word} : s₀.Keeps (s.shrBlock loader o v) :=
  .ite h.regWrite (Origin.Keeps.andThen (.ite h.regWrite.join h.regWrite) fun h => .ite h.leave h)

theorem Origin.Keeps.tmgBlock {loader : Bool} {v : Word} : s₀.Keeps (s.tmgBlock loader o v) :=
  .ite (h.orElse h.execFmsoftWrite) (.ite (.ite (h.orElse h.execTdcCalStart) h) (.ite h.regWrite.sourceTake h.regWrite))

theorem Origin.Keeps.memBlock {loader : Bool} {v : Word} : s₀.Keeps (s.memBlock loader o v) :=
  .ite h (.ite (h.orElse h.execFlipArm) (.ite h (.ite h.regWrite.logShow h.regWrite)))

theorem Origin.Keeps.prtCtrl {v : Word} : s₀.Keeps (s.prtCtrl p v) :=
  h.regWrite.setField.setField.andThen fun h => Origin.Keeps.andThen (.ite (h.forN (fun _ _ h => h.showMode.tryLeaveOff)) h)
      fun h => .ite h.tryLeaveOff (.ite h.enter (.ite h (.ite h.enter (.ite h.enter h))))

theorem Origin.Keeps.prtBlock {loader : Bool} {v : Word} : s₀.Keeps (s.prtBlock loader o v) :=
  .ite h.prtCtrl (.ite (.ite (h.orElse h.execCalStart) h) (.ite (h.orElse h.execFcsend) (.ite (h.orElse h.execSlowControlSend) h.regWrite)))

theorem Origin.Keeps.rowBlock {loader : Bool} {v : Word} : s₀.Keeps (s.rowBlock loader o v) :=
  .ite (h.orElse h.execDmapDataAccess) (.ite (h.orElse h.execDmapDataAccess) (.ite h.regWrite.setRow h.regWrite))

theorem Origin.Keeps.cluBlock {loader : Bool} {v : Word} : s₀.Keeps (s.cluBlock loader o v) :=
  .ite h.l2lockWrite (.ite h.bistWrite (.ite h.timerWrite h.regWrite))

theorem Origin.Keeps.queBlock {loader : Bool} {v : Word} : s₀.Keeps (s.queBlock loader o v) :=
  .ite h.abortAsk (.ite (.ite h.enableQ (.ite h.disableQ (.ite h h.regWrite))) h.regWrite)

theorem Origin.Keeps.errBlock {v : Word} : s₀.Keeps (s.errBlock o v) := .ite h.errCtrl (.ite h.inject h)

theorem Origin.Keeps.blockWrite {loader : Bool} {v : Word} : s₀.Keeps (s.blockWrite loader o v) :=
  .ite h (.ite h.devBlock (.ite h.pwrWrite (.ite (.ite h.fuseCmd h.regWrite)
      (.ite h.fmtBlock (.ite h.mstBlock (.ite h.shrBlock (.ite h.tmgBlock (.ite h.memBlock (.ite h.decAccess (.ite h.regWrite
      (.ite h.prtBlock (.ite h.rowBlock (.ite h.cluBlock (.ite h.queBlock (.ite h.errBlock h.regWrite)))))))))))))))

theorem Origin.Keeps.barWrite {path : Sys2Proof.Path} {v : Word} : s₀.Keeps (s.barWrite path o v) := .ite h.blockWrite h
theorem Origin.Keeps.bellWrite {v : Word} : s₀.Keeps (s.bellWrite o v) := .ite h.bell (.ite h.armBell h)
theorem Origin.Keeps.bellRead : s₀.Keeps (s.bellRead o) := h.same
theorem Origin.Keeps.badAccess {off : Nat} {write : Bool} : s₀.Keeps (s.badAccess off write) := .err (.ite h h.same)

theorem Origin.Keeps.execRegisterWrite {path : Sys2Proof.Path} {off : BitVec 26} {v : Word}
    : Out.Keeps (Machine.execRegisterWrite t path off v s) s₀ :=
  .next (.ite h.at.badAccess h.at.barWrite)

theorem Origin.Keeps.execMisalignedRegisterAccess {off size : Nat} {write : Bool} {_v : Word}
    : Out.Keeps (Machine.execMisalignedRegisterAccess t off size write _v s) s₀ :=
  .next (.ite h.at h.at.badAccess)

/-! ### `Sys2Proof/Machine/CoreMem.lean` -/

theorem Origin.Keeps.l1dFill : s₀.Keeps (s.l1dFill c line) := .ite h.setCore h.setCore.useFree

theorem Origin.Keeps.unblock : s₀.Keeps (s.unblock c) := by
  unfold State.unblock
  split
  · exact h.l1dFill
  · exact h

theorem Origin.Keeps.sidePut : s₀.Keeps (s.sidePut c line) := .ite h h.setCore
theorem Origin.Keeps.sideFill : s₀.Keeps (s.sideFill c line) := .ite h.probe h.probe.l2Read.sidePut
theorem Origin.Keeps.prefetch : s₀.Keeps (s.prefetch c line) := .ite h h.sideFill

theorem Origin.Keeps.l1dLoad : s₀.Keeps (s.l1dLoad c line) :=
  .ite h (.ite h.l1dFill (Origin.Keeps.andThen (.ite h.spend h.stall) fun h => h.l2Read.prefetch.setCore))

theorem Origin.Keeps.devRead : s₀.Keeps (s.devRead pa).1 := by
  unfold State.devRead
  exact .iteFst (.iteFst h.barRead.pair h.useFree.pair) (.iteFst h.bellRead.pair h.useFree.pair)

theorem Origin.Keeps.devWrite {v : Word} : s₀.Keeps (s.devWrite pa v) := by
  unfold State.devWrite
  exact .ite (.ite h.barWrite h) (.ite h.bellWrite h)

theorem Origin.Keeps.releaseAny : s₀.Keeps (s.releaseAny c j) := by
  unfold State.releaseAny
  extract_lets
  split
  · exact h
  · exact .ite h.setCtx.devWrite h.release1

theorem Origin.Keeps.drainAll : s₀.Keeps (s.drainAll c j) := h.foldl (fun _ _ h => h.releaseAny)

theorem Origin.Keeps.loadAt {sup : Bool} : s₀.Keeps (s.loadAt c sup va).1 := by
  unfold State.loadAt
  split
  · exact h.translate.fst.pair
  next s1 pa e1 =>
    have h1 : s₀.Keeps (s1.unblock c) := h.translate.fst.unblock
    dsimp only
    generalize s1.unblock c = s2 at h1 ⊢
    refine .iteFst h1.drainAll.devRead.pair (.iteFst h1.pair (.iteFst h1.l1Check.l1dLoad.pair ?_))
    split
    · exact h1.l1Check.probe.busErrLog.pair
    · exact h1.l1Check.probe.l1dLoad.pair

theorem Origin.Keeps.load1 : s₀.Keeps (s.load1 c va).1 := h.loadAt

theorem Origin.Keeps.loadFwd : s₀.Keeps (s.loadFwd c va a).1 := by
  induction a generalizing s va with
  | zero => 
    rw [State.loadFwd]
    split
    · exact .iteFst h.load1.fst.pair h.load1.fst.pair
    · exact h.load1
  | succ _ ih =>
    rw [State.loadFwd]
    split
    · exact .iteFst (.iteFst h.load1.fst.pair (ih h.load1.fst.spend)) h.load1.fst.pair
    · exact h.load1

theorem Origin.Keeps.loadW : s₀.Keeps (s.loadW c va).1 := h.loadFwd

theorem Origin.Keeps.header {p : Word} : s₀.Keeps (s.header c p).1 := by
  unfold State.header
  split
  · exact h.loadW.fst.pair
  · exact h.loadW

theorem Origin.Keeps.setChunk {ch : Nat} : s₀.Keeps (s.setChunk c j w ch) := .ite h.setCore h.setCtx

theorem Origin.Keeps.noteTaken {got : List Nat} : s₀.Keeps (s.noteTaken c j w got) :=
  .ite h (h.foldl (fun _ _ h => (by split; exacts [h.setSlice, h])))

theorem Origin.Keeps.allocAt {bytes : Nat} : s₀.Keeps (s.allocAt c j w s6 bytes).1 :=
  .iteFst h (.iteFst h (.iteFst h h.setClu.noteTaken.setChunk.spend.pair))

theorem Origin.Keeps.alloc : s₀.Keeps (s.alloc c n).1 :=
  .iteFst h (.iteFst h (by split; exacts [h.allocAt.fst.pair, h.allocAt.fst.rset.pair]))

theorem Origin.Keeps.putObj {ws : List Word} : s₀.Keeps (s.putObj c va ws) := h.foldl (fun _ _ h => h.storeOut)

theorem Origin.Keeps.coreGet : s₀.Keeps (s.coreGet c pa va).1 := by
  unfold State.coreGet
  extract_lets
  split
  · exact h.probe.busErrLog.pair
  · exact h.probe.pair

theorem Origin.Keeps.metaGet : s₀.Keeps (s.metaGet c w o).1 := h.coreGet
theorem Origin.Keeps.metaPut {v : Word} : s₀.Keeps (s.metaPut c w o v) := h.storeOut
theorem Origin.Keeps.setBlock {st : Nat} : s₀.Keeps (s.setBlock c w b st) := h.metaPut
theorem Origin.Keeps.openAt {bytes : Nat} : s₀.Keeps (s.openAt c w b o bytes) := .ite h.setBlock.metaPut h.setBlock.metaPut

theorem Origin.Keeps.freeFrom : s₀.Keeps (s.freeFrom c w b a).1 := by
  induction a generalizing s b with
  | zero => exact h
  | succ _ ih =>
    rw [State.freeFrom]
    split
    · exact h.metaGet.fst.pair
    · exact .iteFst h.metaGet.fst.pair (ih h.metaGet.fst)

theorem Origin.Keeps.holdAlloc {bytes : Nat} : s₀.Keeps (s.holdAlloc c w bytes).1 := by
  unfold State.holdAlloc
  refine .iteFst h ?_
  split
  · exact h.metaGet.fst
  next s1 op e1 =>
    have h1 : s₀.Keeps s1 := h.metaGet.fst
    dsimp only
    split
    next s2 f e2 => exact .fst (.iteFst h1 h1.metaGet) e2
    next s2 e e2 =>
      have h2 : s₀.Keeps s2 := .fst (.iteFst h1 h1.metaGet) e2
      refine .iteFst h2.openAt ?_
      split
      · exact h2.freeFrom.fst
      · exact h2.freeFrom.fst
      · exact .openAt (.ite h2.freeFrom.fst.setBlock h2.freeFrom.fst)

theorem Origin.Keeps.loadN : s₀.Keeps (s.loadN c va a).1 := by
  induction a generalizing s va with
  | zero => exact h
  | succ _ ih =>
    rw [State.loadN]
    split
    · exact h.load1.fst.pair
    · split
      · exact (ih h.load1.fst).fst.pair
      · exact (ih h.load1.fst).fst.pair

theorem Origin.Keeps.readObj {left : Nat} {p : Word} : s₀.Keeps (s.readObj c p left).1 := by
  unfold State.readObj
  split
  · exact h.load1.fst.pair
  · exact .iteFst h.load1.fst.pair (.iteFst h.load1.fst.pair (.iteFst h.load1.fst.pair (by
        split
        · exact h.load1.fst.loadN.fst.pair
        · exact h.load1.fst.loadN.fst.pair)))

theorem Origin.Keeps.trace {left : Nat} {todo : List Word} {objs : List Obj} {fwds : List (Nat × Nat)}
    : s₀.Keeps (s.trace c fuel todo objs fwds left).1 := by
  induction fuel generalizing s todo objs fwds left with
  | zero => exact h
  | succ _ ih =>
    cases todo with
    | nil => exact h
    | cons p rest =>
      rw [State.trace]
      refine .iteFst (ih h) ?_
      split
      · exact h.readObj.fst
      · exact ih h.readObj.fst
      · exact ih h.readObj.fst

theorem Origin.Keeps.placeAll {l : List Obj} {acc : List (Nat × Nat)} : s₀.Keeps (s.placeAll c w l acc).1 := by
  induction l generalizing s acc with
  | nil => exact h
  | cons _ _ ih =>
    rw [State.placeAll]
    split
    · exact h.holdAlloc.fst
    · exact h.holdAlloc.fst
    · exact ih h.holdAlloc.fst

theorem Origin.Keeps.copyPut {m : List (Nat × Nat)} {f : FwdWord} : s₀.Keeps (s.copyPut c w m f) := h.storeOut

theorem Origin.Keeps.promBegin {ta : Nat} {p : Word} : s₀.Keeps (s.promBegin c p ta pa).1 := by
  unfold State.promBegin
  extract_lets
  split
  · exact h.drainAll.bump.trace.fst.pair
  · split
    · exact h.drainAll.bump.trace.fst.placeAll.fst.pair
    · exact h.drainAll.bump.trace.fst.placeAll.fst.pair
    · exact (h.drainAll.bump.trace.fst.placeAll.fst.foldl (fun _ _ h => h.copyPut)).spend.pair

theorem Origin.Keeps.promWord {p : PromSt} : s₀.Keeps (s.promWord c p).1 := by
  unfold State.promWord
  split
  · exact h
  · split
    · exact h.translate.fst.pair
    · exact .iteFst h.translate.fst.storeOut.pair (.iteFst h.translate.fst.pair h.translate.fst.copyPut.pair)

theorem Origin.Keeps.promWords {p : PromSt} : s₀.Keeps (s.promWords c n p).1 := by
  induction n generalizing s p with
  | zero => exact h
  | succ _ ih =>
    rw [State.promWords]
    split
    · exact h.spend.promWord.fst
    · exact h.spend.promWord.fst
    · exact ih h.spend.promWord.fst

theorem Origin.Keeps.storeHop : s₀.Keeps (s.storeHop c va).1 := by
  unfold State.storeHop
  split
  · exact h.translate.fst.pair
  · exact .iteFst h.translate.fst.pair (.iteFst h.translate.fst.pair (.iteFst (.iteFst h.translate.fst.pair h.translate.fst.pair)
      h.translate.fst.pair))

theorem Origin.Keeps.storeTarget : s₀.Keeps (s.storeTarget c va a).1 := by
  induction a generalizing s va with
  | zero => 
    rw [State.storeTarget]
    split
    · exact h.storeHop.fst.pair
    · exact h.storeHop.fst.pair
    · exact h.storeHop.fst.pair
  | succ _ ih =>
    rw [State.storeTarget]
    split
    · exact h.storeHop.fst.pair
    · exact (ih h.storeHop.fst)
    · exact h.storeHop.fst.pair

theorem Origin.Keeps.suspend {ply : Nat} {ws : List Word} : s₀.Keeps (s.suspend c f op rd ply ws) :=
  .ite h.haSend.setCtx.setCore h.haSend.setCtx.stopCtx

theorem Origin.Keeps.enqueue {w : Word} : s₀.Keeps (s.enqueue c pa w) :=
  .ite h.unblock.drainAll.devWrite (Origin.Keeps.andThen (.ite h.unblock.releaseAny.stall h.unblock) fun h => h.setCtx)

theorem Origin.Keeps.promLeg {p : PromSt} : s₀.Keeps (s.promLeg c n p).1 := by
  unfold State.promLeg
  split
  · exact h.promWords.fst
  · exact .iteFst h.promWords.fst.enqueue h.promWords.fst

theorem Origin.Keeps.storeW {w : Word} : s₀.Keeps (s.storeW c va w).1 := by
  unfold State.storeW
  split
  · exact h.storeTarget.fst.pair
  · exact .iteFst h.storeTarget.fst.pair (.iteFst (.iteFst h.storeTarget.fst.suspend.pair (by
        split
        · exact h.storeTarget.fst.promBegin.fst.pair
        · exact h.storeTarget.fst.promBegin.fst.promLeg)) h.storeTarget.fst.enqueue.pair)

/-! ### `Sys2Proof/Machine/Micro.lean` -/

theorem Origin.Keeps.apply {e : Eff} : s₀.Keeps (s.apply c e) := h.foldl (fun _ _ h => h.rput)

omit h in
theorem Op.Keeps.toRes {a : Op} (h : Op.Keeps a s₀) : Res.Keeps (Op.toRes c a) s₀ := by
  unfold Op.toRes
  split
  · exact .ok h.apply
  · exact .bad h
  · exact .taken h

theorem Origin.Keeps.result {w : Word} : Op.Keeps (s.result c rd w) s₀ := .ok h

theorem Origin.Keeps.issueOp {legal : Bool} {uses : List Reg5} {body : State → Op} (hbody : ∀ s, s₀.Keeps s → Op.Keeps (body s) s₀)
    : s₀.Keeps (s.issueOp c legal uses n body) :=
  h.issue (fun _ h => .ite (Op.Keeps.toRes (hbody _ h)) (.bad h))

theorem Origin.Keeps.resumeHere {ply : Bool} : Resume.Keeps (s.resumeHere c ply) s₀ := by
  unfold State.resumeHere
  split
  · exact .ite (.stands h) (.at_ h.setRun)
  · extract_lets
    split
    · exact .at_ h.setMe.bump
    · exact .fresh

omit h in
theorem Op.Keeps.keepS6 {v : Word} {a : Op} (h : Op.Keeps a s₀) : Op.Keeps (Op.keepS6 c v a) s₀ := by
  unfold Op.keepS6
  split
  · exact .bad h.rset
  · exact .taken h.setRun
  · exact h

omit h in
theorem Leg.Keeps.toOp {r : MicroRec} {a : Leg} (h : Leg.Keeps a s₀) : Op.Keeps (Leg.toOp c r a) s₀ := by
  unfold Leg.toOp
  split
  · exact .taken h.setRun
  · exact h.keepS6

theorem Origin.Keeps.promOn {r : MicroRec} {p : PromSt} : Leg.Keeps (s.promOn c r p) s₀ := by
  unfold State.promOn
  split
  · exact .fin (.ok h.promLeg.fst)
  · exact .fin (.bad h.promLeg.fst)
  · exact .fin (.taken h.promLeg.fst)
  · exact .on h.promLeg.fst

theorem Origin.Keeps.routine {ply : Bool} {ops : List Word} {go : State → MicroRec → Leg} (hgo : ∀ s r, s₀.Keeps s → Leg.Keeps (go s r) s₀)
    : Op.Keeps (s.routine c ply ops go) s₀ := by
  unfold State.routine
  split
  · exact .taken h.resumeHere.of_stands
  · refine Leg.Keeps.toOp ?_
    split
    · exact h.resumeHere.of_at.promOn
    · exact hgo _ _ h.resumeHere.of_at
  · exact Leg.Keeps.toOp (hgo _ _ h.bump)

theorem Origin.Keeps.storing {ply : Bool} {work : State → Op} (hwork : ∀ s, s₀.Keeps s → Op.Keeps (work s) s₀)
    : Op.Keeps (s.storing c ply work) s₀ :=
  .ite (h.routine (fun _ _ h => .fin (hwork _ h))) (hwork _ h)

theorem Origin.Keeps.paid {r : MicroRec} {cost : State → State × (Flt ⊕ Nat)} {work : State → Op}
    (hcost : ∀ s, s₀.Keeps s → s₀.Keeps (cost s).1) (hwork : ∀ x, (s₀.Keeps x) → Op.Keeps (work x) s₀)
    : Leg.Keeps (s.paid c r cost work) s₀ :=
  .ite (by
        split
        · exact .fin (.bad (.fst (hcost _ h)))
        · exact .ite (.fin (hwork _ (.spend (.fst (hcost _ h))))) (.on (.spend (.fst (hcost _ h))))) (.ite (.on h.spend)
      (.fin (hwork _ h.spend)))

theorem Origin.Keeps.loadWs : s₀.Keeps (s.loadWs c va a).1 := by
  induction a generalizing s va with
  | zero => exact h
  | succ _ ih =>
    rw [State.loadWs]
    split
    · exact h.loadW.fst.pair
    · split
      · exact (ih h.loadW.fst).fst.pair
      · exact (ih h.loadW.fst).fst.pair

theorem Origin.Keeps.readNum {w : Word} : s₀.Keeps (s.readNum c w).1 :=
  .iteFst h (.iteFst h (by
        split
        · exact h.header.fst.pair
        · split
          · exact h.header.fst.loadWs.fst.pair
          · exact .iteFst h.header.fst.loadWs.fst.pair h.header.fst.loadWs.fst.pair))

theorem Origin.Keeps.newObj {tag : Nat} {ws : List Word} : s₀.Keeps (s.newObj c tag ws).1 := by
  unfold State.newObj
  split
  · exact h.alloc.fst.pair
  · exact h.alloc.fst.putObj.pair

theorem Origin.Keeps.bits64 {v : FVal} : s₀.Keeps (s.bits64 v).1 := .iteFst h.useFree.pair h
theorem Origin.Keeps.sfltW {v : FVal} : s₀.Keeps (s.sfltW v).1 := h.bits64.pair
theorem Origin.Keeps.bigWords {i : Int} : s₀.Keeps (s.bigWords i).1 := .iteFst h h.same.pair

theorem Origin.Keeps.numWord {r : NumRes} : s₀.Keeps (s.numWord c r).1 := by
  unfold State.numWord
  split
  · exact .iteFst h h.bigWords.newObj
  · exact h.sfltW.pair
  · exact h.bits64.newObj

theorem Origin.Keeps.seqFault : Op.Keeps (s.seqFault code m) s₀ := .bad h.bump
theorem Origin.Keeps.numResult {a b : Word} {x y : Machine.Num} : s₀.Keeps (s.numResult c op a b x y).1 := .iteFst h.numWord h

omit h in
theorem Origin.Keeps.opOf {r : State × (Flt ⊕ Word)} (h : s₀.Keeps r.1) : Op.Keeps (Machine.opOf c rd r) s₀ := by
  unfold Machine.opOf
  split
  · exact .bad h
  · exact Origin.Keeps.result h

theorem Origin.Keeps.convert {x : Machine.Num} : s₀.Keeps (s.convert c op x).1 :=
  .iteFst h.numWord (by split; exacts [h, (by split; exacts [h, h.numWord])])

theorem Origin.Keeps.slowOps {a b : Word} : s₀.Keeps (s.slowOps c op a b).1 := by
  unfold State.slowOps
  split
  · exact h.readNum.fst
  · refine .iteFst h.readNum.fst ?_
    split
    · exact h.readNum.fst.readNum.fst
    · exact h.readNum.fst.readNum.fst

theorem Origin.Keeps.slowCycles {a b : Word} : s₀.Keeps (s.slowCycles c op a b).1 := by
  unfold State.slowCycles
  split
  · exact h.slowOps.fst.pair
  · exact .iteFst h.slowOps.fst.pair (by split; exacts [h.slowOps.fst.pair, .iteFst h.slowOps.fst.useFree.pair h.slowOps.fst.pair])

theorem Origin.Keeps.slowWork {a b : Word} : Op.Keeps (s.slowWork c op rd a b) s₀ := by
  unfold State.slowWork
  split
  · exact .bad h.slowOps.fst
  · exact Origin.Keeps.opOf (.iteFst h.slowOps.fst.convert h.slowOps.fst.numResult)

theorem Origin.Keeps.slowRoutine {ply : Bool} {a b : Word} : Op.Keeps (s.slowRoutine c op rd ply a b) s₀ :=
  h.routine (fun _ _ h => h.paid (fun _ h => h.slowCycles) (fun _ h => h.slowWork))

theorem Origin.Keeps.slowPath {ply : Nat} {a b : Word} : Op.Keeps (s.slowPath c op rd ply a b) s₀ := .ite (.taken h.suspend) h.slowRoutine
theorem Origin.Keeps.pickFree : s₀.Keeps (s.pickFree n).1 := h.useFree.pair

theorem Origin.Keeps.microReturn {x : MicroAt} : MicroStep.Keeps (s.microReturn x) s₀ := by
  unfold State.microReturn
  split
  · exact .on h
  · exact .on h.pickFree

theorem Origin.Keeps.microNext {x : MicroAt} : MicroStep.Keeps (s.microNext x) s₀ := .ite (.on h) (.on h.pickFree)

theorem Origin.Keeps.microGo {x : MicroAt} {call : Bool} : MicroStep.Keeps (s.microGo x t call) s₀ :=
  .ite (.on h) (.ite (.stop h.seqFault) (.on h))

theorem Origin.Keeps.svcGeneric {a b : Word} : Op.Keeps (s.svcGeneric c op a b) s₀ := by
  unfold State.svcGeneric
  split
  · exact .bad h
  · exact .ite (by split; exacts [.bad h.slowCycles.fst, h.slowCycles.fst.spend.slowWork]) (by split; exacts [.ok h, .bad h])

theorem Origin.Keeps.svcReturn {x : MicroAt} : MicroStep.Keeps (s.svcReturn c rd x) s₀ :=
  .ite (.stop (.bad h.useFree.spend)) (by split; exacts [.on h.useFree.spend, .stop h.useFree.spend.result])

theorem Origin.Keeps.svcFault {f : Word} : Op.Keeps (s.svcFault f) s₀ := .bad h.useFree

theorem Origin.Keeps.svcStore {r : MicroRec} {a b : Word} {x : MicroAt} : MicroStep.Keeps (s.svcStore c r a b x) s₀ := by
  unfold State.svcStore
  split
  · exact .stop (.bad h)
  · split
    · exact .stop (.bad h)
    · dsimp only
      split
      · exact .stop (.bad h.storeW.fst)
      · exact h.storeW.fst.microReturn
      · split
        · exact .stop (.taken h.storeW.fst.microReturn.of_on.setCtx)
        · exact h.storeW.fst.microReturn
      · split
        · exact .stop (.taken h.storeW.fst.microReturn.of_on.setRun)
        · exact h.storeW.fst.microReturn

theorem Origin.Keeps.service {r : MicroRec} {x : MicroAt} : MicroStep.Keeps (s.service c rd r x) s₀ := by
  unfold State.service
  extract_lets a b n s1
  have h1 : s₀.Keeps s1 := h.useFree.useFree.useFree.spend
  clear_value s1
  refine .ite h.svcReturn (.ite (.stop h.svcFault) (.ite ?_ (.ite ?_ (.ite h1.svcStore ?_))))
  · split
    · split
      · exact .stop (.bad h1)
      · exact .ite (.stop h1.seqFault) (.on h1.spend)
    · split
      · exact h1.svcGeneric.of_ok.microReturn
      · exact .stop h1.svcGeneric
  · split
    · exact .stop (.bad h1.spend.alloc.fst)
    · exact h1.spend.alloc.fst.microReturn
  · split
    · exact .stop (.bad h1)
    · split
      · exact .stop (.bad h1.loadW.fst)
      · exact h1.loadW.fst.microReturn

theorem Origin.Keeps.microword1 {r : MicroRec} {stand : Bool} {x : MicroAt} : MicroStep.Keeps (s.microword1 c r stand x) s₀ := by
  unfold State.microword1
  split
  · exact .stop h.seqFault
  · exact .ite (.stop h.seqFault) (.ite (.stop (.taken h.setRun)) (.ite (.stop h.seqFault)
      (.ite h.pickFree.spend.microNext (.ite h.pickFree.spend.microReturn h.pickFree.spend.microGo))))

theorem Origin.Keeps.microRun {r : MicroRec} {skip : Bool} {x : MicroAt} : Op.Keeps (State.microRun fuel s c rd r skip x) s₀ := by
  induction fuel generalizing s skip x with
  | zero => exact .taken h.setRun
  | succ _ ih =>
    rw [State.microRun]
    split
    · exact (MicroStep.Keeps.ite h.service h.microword1).of_stop
    · exact ih (MicroStep.Keeps.ite h.service h.microword1).of_on

theorem Origin.Keeps.microFrom {r : MicroRec} {skip : Bool} : Op.Keeps (s.microFrom c rd r skip) s₀ := h.microRun

theorem Origin.Keeps.customer {cost : Nat} {ply : Bool} {ops : List Word} : Op.Keeps (s.customer c rd m cost ply ops) s₀ := by
  unfold State.customer
  split
  · exact .taken h.resumeHere.of_stands
  · refine .keepS6 ?_
    split
    · split
      · exact h.resumeHere.of_at.promLeg.fst.microFrom
      · exact .bad h.resumeHere.of_at.promLeg.fst
      · exact .taken h.resumeHere.of_at.promLeg.fst
      · exact .taken h.resumeHere.of_at.promLeg.fst.setRun
    · exact h.resumeHere.of_at.microFrom
  · exact h.bump.spend.microFrom.keepS6

theorem Origin.Keeps.generic {ply : Nat} {a b : Word} : Op.Keeps (s.generic c op rd ply a b) s₀ :=
  .ite (.ite h.customer h.slowRoutine) (by
        split
        · extract_lets
          split
          · exact .bad h
          · exact h.customer
        · exact .bad h
        · exact .ite (.ite h.slowPath (by
              split
              · exact .bad h.slowOps.fst
              · exact h.slowOps.fst.numResult.opOf)) (by split; exacts [h.result, .bad h]))

/-! ### `Sys2Proof/Machine/Arith.lean` -/

theorem Origin.Keeps.checked {l : List ((Word → Bool) × Word)} {k : Op} (hk : Op.Keeps k s₀) : Op.Keeps (Machine.checked s l k) s₀ := by
  unfold Machine.checked
  split
  · exact .bad h
  · exact hk

theorem Origin.Keeps.opLogic {a b : Word} : Op.Keeps (s.opLogic c k rd a b) s₀ := h.checked h.result
theorem Origin.Keeps.opShift {a b : Word} : Op.Keeps (s.opShift c k rd a b) s₀ := .ite (.bad h) (h.checked h.result)
theorem Origin.Keeps.opShiftImm {a : Word} : Op.Keeps (s.opShiftImm c k rd a n) s₀ := h.checked h.result

theorem Origin.Keeps.opEq {a b : Word} : Op.Keeps (s.opEq c rd a b) s₀ := by
  unfold State.opEq
  split
  · exact .bad h
  · exact h.result

theorem Origin.Keeps.opRetag {a b : Word} : Op.Keeps (s.opRetag c rd a b) s₀ := .ite (.bad h) (.ite (.bad h) (h.checked h.result))

theorem Origin.Keeps.opConvert {a : Word} : Op.Keeps (s.opConvert c op rd a) s₀ :=
  .ite h.slowRoutine (h.checked (.ite h.slowPath h.spend.slowWork))

theorem Origin.Keeps.opFld {sel : Nat} {a : Word} : Op.Keeps (s.opFld c rd sel a) s₀ := by
  unfold State.opFld
  split
  · exact .bad h
  · exact h.checked h.result

theorem Origin.Keeps.gen3 {hw : Nat} {rd ra rb : Reg5} : s₀.Keeps (s.gen3 c op hw rd ra rb) := h.issueOp (fun _ h => h.generic)

theorem Origin.Keeps.op3 {rd ra rb : Reg5} {f : State → Word → Word → Op} (hf : ∀ s x y, s₀.Keeps s → Op.Keeps (f s x y) s₀)
    : s₀.Keeps (s.op3 c rd ra rb f) :=
  h.issueOp (fun _ h => hf _ _ _ h)

theorem Origin.Keeps.op2 {legal : Bool} {rd ra : Reg5} {f : State → Word → Op} (hf : ∀ s x, s₀.Keeps s → Op.Keeps (f s x) s₀)
    : s₀.Keeps (s.op2 c legal rd ra f) :=
  h.issueOp (fun _ h => hf _ _ h)

theorem Origin.Keeps.execAdd {core : CoreId} {rd ra rb : Reg5} : Out.Keeps (Machine.execAdd core rd ra rb s) s₀ := .next h.gen3
theorem Origin.Keeps.execSub {core : CoreId} {rd ra rb : Reg5} : Out.Keeps (Machine.execSub core rd ra rb s) s₀ := .next h.gen3
theorem Origin.Keeps.execMul {core : CoreId} {rd ra rb : Reg5} : Out.Keeps (Machine.execMul core rd ra rb s) s₀ := .next h.gen3
theorem Origin.Keeps.execCmp {core : CoreId} {rd ra rb : Reg5} : Out.Keeps (Machine.execCmp core rd ra rb s) s₀ := .next h.gen3
theorem Origin.Keeps.execMin {core : CoreId} {rd ra rb : Reg5} : Out.Keeps (Machine.execMin core rd ra rb s) s₀ := .next h.gen3
theorem Origin.Keeps.execMax {core : CoreId} {rd ra rb : Reg5} : Out.Keeps (Machine.execMax core rd ra rb s) s₀ := .next h.gen3

theorem Origin.Keeps.execAddi {core : CoreId} {rd ra : Reg5} {imm : BitVec 15} : Out.Keeps (Machine.execAddi core rd ra imm s) s₀ :=
  .next (h.issueOp (fun _ h => h.generic))

theorem Origin.Keeps.execAndR {core : CoreId} {rd ra rb : Reg5} : Out.Keeps (Machine.execAndR core rd ra rb s) s₀ :=
  .next (h.op3 (fun _ _ _ h => h.opLogic))

theorem Origin.Keeps.execOrR {core : CoreId} {rd ra rb : Reg5} : Out.Keeps (Machine.execOrR core rd ra rb s) s₀ :=
  .next (h.op3 (fun _ _ _ h => h.opLogic))

theorem Origin.Keeps.execXorR {core : CoreId} {rd ra rb : Reg5} : Out.Keeps (Machine.execXorR core rd ra rb s) s₀ :=
  .next (h.op3 (fun _ _ _ h => h.opLogic))

theorem Origin.Keeps.execAndi {core : CoreId} {rd ra : Reg5} {imm : BitVec 15} : Out.Keeps (Machine.execAndi core rd ra imm s) s₀ :=
  .next (h.op2 (fun _ _ h => h.opLogic))

theorem Origin.Keeps.execOri {core : CoreId} {rd ra : Reg5} {imm : BitVec 15} : Out.Keeps (Machine.execOri core rd ra imm s) s₀ :=
  .next (h.op2 (fun _ _ h => h.opLogic))

theorem Origin.Keeps.execXori {core : CoreId} {rd ra : Reg5} {imm : BitVec 15} : Out.Keeps (Machine.execXori core rd ra imm s) s₀ :=
  .next (h.op2 (fun _ _ h => h.opLogic))

theorem Origin.Keeps.execShl {core : CoreId} {rd ra rb : Reg5} : Out.Keeps (Machine.execShl core rd ra rb s) s₀ :=
  .next (h.op3 (fun _ _ _ h => h.opShift))

theorem Origin.Keeps.execShr {core : CoreId} {rd ra rb : Reg5} : Out.Keeps (Machine.execShr core rd ra rb s) s₀ :=
  .next (h.op3 (fun _ _ _ h => h.opShift))

theorem Origin.Keeps.execShru {core : CoreId} {rd ra rb : Reg5} : Out.Keeps (Machine.execShru core rd ra rb s) s₀ :=
  .next (h.op3 (fun _ _ _ h => h.opShift))

theorem Origin.Keeps.execShli {core : CoreId} {rd ra : Reg5} {imm : BitVec 15} : Out.Keeps (Machine.execShli core rd ra imm s) s₀ :=
  .next (h.op2 (fun _ _ h => h.opShiftImm))

theorem Origin.Keeps.execShri {core : CoreId} {rd ra : Reg5} {imm : BitVec 15} : Out.Keeps (Machine.execShri core rd ra imm s) s₀ :=
  .next (h.op2 (fun _ _ h => h.opShiftImm))

theorem Origin.Keeps.execMovi {core : CoreId} {rd : Reg5} {imm : BitVec 15} : Out.Keeps (Machine.execMovi core rd imm s) s₀ :=
  .next (h.issueOp (fun _ h => h.result))

theorem Origin.Keeps.execMov {core : CoreId} {rd ra : Reg5} : Out.Keeps (Machine.execMov core rd ra s) s₀ :=
  .next (h.op2 (fun _ _ h => h.result))

theorem Origin.Keeps.execTag {core : CoreId} {rd ra : Reg5} : Out.Keeps (Machine.execTag core rd ra s) s₀ :=
  .next (h.op2 (fun _ _ h => h.result))

theorem Origin.Keeps.execEqR {core : CoreId} {rd ra rb : Reg5} : Out.Keeps (Machine.execEqR core rd ra rb s) s₀ :=
  .next (h.op3 (fun _ _ _ h => h.opEq))

theorem Origin.Keeps.execRetag {core : CoreId} {rd ra rb : Reg5} : Out.Keeps (Machine.execRetag core rd ra rb s) s₀ :=
  .next (h.op3 (fun _ _ _ h => h.opRetag))

theorem Origin.Keeps.execCvtf {core : CoreId} {rd ra : Reg5} : Out.Keeps (Machine.execCvtf core rd ra s) s₀ :=
  .next (h.issueOp (fun _ h => h.opConvert))

theorem Origin.Keeps.execCvti {core : CoreId} {rd ra : Reg5} : Out.Keeps (Machine.execCvti core rd ra s) s₀ :=
  .next (h.issueOp (fun _ h => h.opConvert))

theorem Origin.Keeps.execTchk {core : CoreId} {rd ra : Reg5} {imm : BitVec 15} : Out.Keeps (Machine.execTchk core rd ra imm s) s₀ :=
  .next (h.op2 (fun _ _ h => h.result))

theorem Origin.Keeps.execFld {core : CoreId} {rd ra : Reg5} {sel : BitVec 15} : Out.Keeps (Machine.execFld core rd ra sel s) s₀ :=
  .next (h.op2 (fun _ _ h => h.opFld))

theorem Origin.Keeps.execNopS {core : CoreId} : Out.Keeps (Machine.execNopS core s) s₀ := .next (h.issue (fun _ h => .ok h))

/-! ### `Sys2Proof/Machine/LoadStore.lean` -/

theorem Origin.Keeps.loadTo {also : List (Nat × Word)} : Op.Keeps (s.loadTo c rd va also) s₀ := by
  unfold State.loadTo
  split
  · exact .bad (.fst (.iteFst h.load1 h.loadW))
  · exact .ok (.fst (.iteFst h.load1 h.loadW))

theorem Origin.Keeps.suspNote {key ply : Nat} {also : List (Nat × Word)} : s₀.Keeps (s.suspNote c key ply also) := h.setCtx

theorem Origin.Keeps.storeTo {ply : Nat} {w : Word} {also : List (Nat × Word)} : Op.Keeps (s.storeTo c va ply w also) s₀ := by
  unfold State.storeTo
  extract_lets
  split
  · exact .ok h.storeW.fst
  · exact .bad h.storeW.fst
  · exact .taken h.storeW.fst.suspNote
  · exact .taken h.storeW.fst.setRun

theorem Origin.Keeps.objAddr {st : Bool} {p : Word} {k : Int} : s₀.Keeps (s.objAddr c st p k).1 :=
  .iteFst h (by split; exacts [h.header.fst.pair, h.header.fst.pair])

theorem Origin.Keeps.memAddr {st post : Bool} {b : Word} {ofs : Int} : s₀.Keeps (s.memAddr c st post b ofs).1 :=
  .iteFst h (by
        split
        · exact h
        · exact .iteFst (by extract_lets; split; exacts [h, h]) (by split; exacts [h.objAddr.fst.pair, h.objAddr.fst.pair]))

theorem Origin.Keeps.opLd {base : Nat} {post : Bool} {ofs : Int} : Op.Keeps (s.opLd c rd base post ofs) s₀ := by
  unfold State.opLd
  split
  · exact .bad h.memAddr.fst
  · exact h.memAddr.fst.loadTo

theorem Origin.Keeps.opSt {base : Nat} {post : Bool} {ofs : Int} : Op.Keeps (s.opSt c src base post ofs) s₀ :=
  h.storing (fun _ h => .ite (.bad h) (by split; exacts [.bad h, (by split; exacts [.bad h.memAddr.fst, h.memAddr.fst.storeTo])]))

theorem Origin.Keeps.opLdp {ra : Nat} : Op.Keeps (s.opLdp c rd ra) s₀ := h.checked (by split; exacts [.bad h, h.loadTo])

theorem Origin.Keeps.opStp {ra ply : Nat} : Op.Keeps (s.opStp c src ra ply) s₀ :=
  h.storing (fun _ h => (by extract_lets; split; exacts [.bad h, h.checked (by split; exacts [.bad h, h.storeTo])]))

theorem Origin.Keeps.opCar {a : Word} : Op.Keeps (s.opCar c k rd a) s₀ := h.checked (.ite (.ok h) h.loadTo)

theorem Origin.Keeps.opSetCar {rb : Nat} {a : Word} : Op.Keeps (s.opSetCar c k rb a) s₀ :=
  h.storing (fun _ h => h.checked (by split; exacts [.bad h, h.storeTo]))

theorem Origin.Keeps.vecElem {a i : Word} : s₀.Keeps (s.vecElem c a i).1 := by
  unfold State.vecElem
  split
  · exact h
  · split
    · exact h.header.fst.pair
    · split
      · exact h.header.fst.pair
      · exact h.header.fst.pair

theorem Origin.Keeps.opVld {a i : Word} : Op.Keeps (s.opVld c rd a i) s₀ := by
  unfold State.opVld
  split
  · exact .bad h.vecElem.fst
  · exact h.vecElem.fst.loadTo

theorem Origin.Keeps.opVst {a i : Word} : Op.Keeps (s.opVst c src a i) s₀ :=
  h.storing (fun _ h => (by split; exacts [.bad h, (by split; exacts [.bad h.vecElem.fst, h.vecElem.fst.storeTo])]))

theorem Origin.Keeps.opVlen {a : Word} : Op.Keeps (s.opVlen c rd a) s₀ := h.checked (by split; exacts [.bad h.header.fst, .ok h.header.fst])

theorem Origin.Keeps.opCons {a b : Word} : Op.Keeps (s.opCons c rd a b) s₀ :=
  h.checked (by split; exacts [.bad h.newObj.fst, h.newObj.fst.result])

theorem Origin.Keeps.opAllocv {a : Word} : Op.Keeps (s.opAllocv c rd a) s₀ :=
  h.checked (.ite (.bad h) (by split; exacts [.bad h.alloc.fst, h.alloc.fst.putObj.result]))

theorem Origin.Keeps.execLd {core : CoreId} {rd base : Reg5} {post : Bool} {ofs : BitVec 14}
    : Out.Keeps (Machine.execLd core rd base post ofs s) s₀ :=
  .next (h.issueOp (fun _ h => h.opLd))

theorem Origin.Keeps.execSt {core : CoreId} {src base : Reg5} {post : Bool} {ofs : BitVec 14}
    : Out.Keeps (Machine.execSt core src base post ofs s) s₀ :=
  .next (h.issueOp (fun _ h => h.opSt))

theorem Origin.Keeps.execLda {core : CoreId} {rd : Reg5} {abs : BitVec 20} : Out.Keeps (Machine.execLda core rd abs s) s₀ :=
  .next (h.issueOp (fun _ h => (by split; exacts [.bad h, h.loadTo])))

theorem Origin.Keeps.execSta {core : CoreId} {src : Reg5} {abs : BitVec 20} : Out.Keeps (Machine.execSta core src abs s) s₀ :=
  .next (h.issueOp (fun _ h => h.storing (fun _ h => (by split; exacts [.bad h, .bad h, h.storeTo]))))

theorem Origin.Keeps.execCar {core : CoreId} {rd ra : Reg5} : Out.Keeps (Machine.execCar core rd ra s) s₀ :=
  .next (h.op2 (fun _ _ h => h.opCar))

theorem Origin.Keeps.execCdr {core : CoreId} {rd ra : Reg5} : Out.Keeps (Machine.execCdr core rd ra s) s₀ :=
  .next (h.op2 (fun _ _ h => h.opCar))

theorem Origin.Keeps.execLdp {core : CoreId} {rd ra : Reg5} : Out.Keeps (Machine.execLdp core rd ra s) s₀ :=
  .next (h.op2 (fun _ _ h => h.opLdp))

theorem Origin.Keeps.execStp {core : CoreId} {src ra : Reg5} : Out.Keeps (Machine.execStp core src ra s) s₀ :=
  .next (h.issueOp (fun _ h => h.opStp))

theorem Origin.Keeps.execSetcar {core : CoreId} {ra rb : Reg5} : Out.Keeps (Machine.execSetcar core ra rb s) s₀ :=
  .next (h.issueOp (fun _ h => h.opSetCar))

theorem Origin.Keeps.execSetcdr {core : CoreId} {ra rb : Reg5} : Out.Keeps (Machine.execSetcdr core ra rb s) s₀ :=
  .next (h.issueOp (fun _ h => h.opSetCar))

theorem Origin.Keeps.execVld {core : CoreId} {rd ra rb : Reg5} : Out.Keeps (Machine.execVld core rd ra rb s) s₀ :=
  .next (h.issueOp (fun _ h => h.opVld))

theorem Origin.Keeps.execVst {core : CoreId} {src ra rb : Reg5} : Out.Keeps (Machine.execVst core src ra rb s) s₀ :=
  .next (h.issueOp (fun _ h => h.opVst))

theorem Origin.Keeps.execVlen {core : CoreId} {rd ra : Reg5} : Out.Keeps (Machine.execVlen core rd ra s) s₀ :=
  .next (h.op2 (fun _ _ h => h.opVlen))

theorem Origin.Keeps.execCons {core : CoreId} {rd ra rb : Reg5} : Out.Keeps (Machine.execCons core rd ra rb s) s₀ :=
  .next (h.op3 (fun _ _ _ h => h.opCons))

theorem Origin.Keeps.execAllocv {core : CoreId} {rd ra : Reg5} : Out.Keeps (Machine.execAllocv core rd ra s) s₀ :=
  .next (h.op2 (fun _ _ h => h.opAllocv))

theorem Origin.Keeps.execPageWalk {core : CoreId} {acc : Access} {va : Word} {speculative : Bool}
    : Out.Keeps (Machine.execPageWalk core acc va speculative s) s₀ :=
  .next (.ite h (by split; exacts [h.lookup.fst, .ite h.lookup.fst h.lookup.fst.raise]))

theorem Origin.Keeps.execLineFill {core : CoreId} {kind : L1Kind} {pa : BitVec 46} : Out.Keeps (Machine.execLineFill core kind pa s) s₀ :=
  .next (by split; exacts [.ite h.l2Read.l1dFill h, .ite h h.fetchLine, .ite h h.sideFill])

theorem Origin.Keeps.execStoreRelease {core : CoreId} {ctx : CtxId} : Out.Keeps (Machine.execStoreRelease core ctx s) s₀ :=
  .next h.releaseAny

/-! ### `Sys2Proof/Machine/Plies.lean` -/

theorem Origin.Keeps.plyOp {p : Ply} : Op.Keeps (s.plyOp c n p) s₀ := by
  unfold State.plyOp
  extract_lets
  split
  · exact h.generic
  · exact .ite (.ok h) (.ite h.result (.ite h.result (.ite h.opLogic (.ite h.opShiftImm (.ite h.opShiftImm (.ite h.result (.ite h.opCar
      (.ite h.opCar (.ite h.opLdp h.opStp)))))))))

theorem Origin.Keeps.paired {a b : Ply} : Res.Keeps (s.paired c a b) s₀ := by
  unfold State.paired
  split
  · exact .bad h.plyOp.of_bad
  · exact .taken h.plyOp.of_taken
  · split
    · exact .taken (.raise (.ite h.plyOp.of_ok.plyOp.of_bad h))
    · exact .taken h.plyOp.of_ok.plyOp.of_taken
    · exact .ok h.plyOp.of_ok.plyOp.of_ok.apply.apply.spend

theorem Origin.Keeps.plyADone {loads : List (Nat × Word)} : s₀.Keeps (s.plyADone c loads) := h.setFlow

theorem Origin.Keeps.onlyB {b : Ply} : Res.Keeps (s.onlyB c b) s₀ := by
  unfold State.onlyB
  split
  · exact .taken h.plyOp.of_bad.raise
  · exact .taken h.plyOp.of_taken
  · exact .ok h.plyOp.of_ok.apply

theorem Origin.Keeps.split {a b : Ply} : Res.Keeps (s.split c a b) s₀ := by
  unfold State.split
  extract_lets s1
  have h1 : s₀.Keeps s1 := .ite h h.spend
  split
  · exact .bad h1.plyOp.of_bad
  · exact .taken h1.plyOp.of_taken
  · exact h1.plyOp.of_ok.apply.plyADone.onlyB

theorem Origin.Keeps.execTwoPlyWord {core : CoreId} {w : BitVec 32} : Out.Keeps (Machine.execTwoPlyWord core w s) s₀ :=
  .next (h.issue (fun _ h => .ite (.bad h) (.ite (.bad h) (.ite h.onlyB (.ite h.split h.paired)))))

theorem Origin.Keeps.execIllegalInstruction {core : CoreId} {w : BitVec 32} : Out.Keeps (Machine.execIllegalInstruction core w s) s₀ :=
  .next (.ite h (h.issue (fun _ h => .bad h)))

/-! ### `Sys2Proof/Machine/Routines.lean` -/

theorem Origin.Keeps.listOp {legal : Bool} {uses : List Reg5} {ops : State → List Word} {pre : State → List Word → Option Flt}
    {go : State → MicroRec → Leg} (hgo : ∀ s x, s₀.Keeps s → Leg.Keeps (go s x) s₀) : s₀.Keeps (s.listOp c legal uses ops pre go) :=
  h.issueOp (fun _ h => (by split; exacts [.bad h, h.routine hgo]))

theorem Origin.Keeps.walkCells {visit : Visit} {p : Word} {keep : List Word} (hv : ∀ s p keep, s₀.Keeps s → s₀.Keeps (visit s p keep).1)
    : s₀.Keeps (Machine.walkCells visit fuel s p n keep).1 := by
  induction fuel generalizing s p n keep with
  | zero =>
    rw [Machine.walkCells]
    exact .iteFst h (.iteFst h h)
  | succ _ ih =>
    rw [Machine.walkCells]
    refine .iteFst h (.iteFst h ?_)
    split
    · exact (hv _ _ _ h).fst
    · exact (hv _ _ _ h).fst
    · exact ih (hv _ _ _ h).fst

theorem Origin.Keeps.walkFromCell {per : Nat} {r : MicroRec} {visit : Visit} {p : Word} {keep : List Word} {fin : State → Walk → Op}
    (hv : ∀ s p keep, s₀.Keeps s → s₀.Keeps (visit s p keep).1) (hfin : ∀ s w, s₀.Keeps s → Op.Keeps (fin s w) s₀)
    : Leg.Keeps (s.walkFromCell c per r visit p n keep fin) s₀ := by
  unfold State.walkFromCell
  split
  · exact .fin (.bad (h.walkCells hv).fst)
  · exact .on (h.walkCells hv).fst.spend
  · exact .fin (hfin _ _ (h.walkCells hv).fst.spend)
  · exact .fin (hfin _ _ (h.walkCells hv).fst.spend)

theorem Origin.Keeps.walkLeg {per : Nat} {r : MicroRec} {visit : Visit} {fin : State → Walk → Op}
    {first : State → (Word → List Word → State → Leg) → Leg} (hvisit : ∀ s p keep, s₀.Keeps s → s₀.Keeps (visit s p keep).1)
    (hfin : ∀ s w, s₀.Keeps s → Op.Keeps (fin s w) s₀)
    (hfirst : ∀ s k, s₀.Keeps s → (∀ p keep s, s₀.Keeps s → Leg.Keeps (k p keep s) s₀) → Leg.Keeps (first s k) s₀)
    : Leg.Keeps (s.walkLeg c per r visit fin first) s₀ :=
  .ite (hfirst _ _ h (fun _ _ _ h => h.walkFromCell hvisit hfin)) (h.walkFromCell hvisit hfin)

theorem Origin.Keeps.visitCopy {a : Word} {a3 : List Word} : s₀.Keeps (Machine.visitCopy c s a a3).1 := by
  unfold Machine.visitCopy
  split
  · exact h.loadW.fst.pair
  · split
    · exact h.loadW.fst.loadW.fst.pair
    · split
      · exact h.loadW.fst.loadW.fst.alloc.fst.pair
      · exact h.loadW.fst.loadW.fst.alloc.fst.putObj.andThen fun h => Origin.Keeps.andThen (by split; exacts [h.putObj, h]) fun h => h.pair

theorem Origin.Keeps.cpylLeg {r : MicroRec} : Leg.Keeps (s.cpylLeg c rd r) s₀ :=
  h.walkLeg (fun _ _ _ h => h.visitCopy) (fun _ _ h => (by
        split
        · exact h.result
        · exact h.result
        · exact h.result)) (fun _ _ h hk3 => hk3 _ _ _ h.spend)

theorem Origin.Keeps.visitPair {key : List Word → Word} {a : Word} {a4 : List Word} : s₀.Keeps (Machine.visitPair c key s a a4).1 := by
  unfold Machine.visitPair
  split
  · exact h.loadW.fst.pair
  · split
    · exact h.loadW.fst.pair
    · split
      · exact h.loadW.fst.loadW.fst.pair
      · exact .iteFst h.loadW.fst.loadW.fst.pair (by
            split
            · exact h.loadW.fst.loadW.fst.loadW.fst.pair
            · exact h.loadW.fst.loadW.fst.loadW.fst.pair)

theorem Origin.Keeps.assocLeg {r : MicroRec} : Leg.Keeps (s.assocLeg c rd r) s₀ :=
  h.walkLeg (fun _ _ _ h => h.visitPair) (fun _ _ h => h.result) (fun _ _ h hk3 => hk3 _ _ _ h.spend)

theorem Origin.Keeps.visitCount {a : Word} {a3 : List Word} : s₀.Keeps (Machine.visitCount c s a a3).1 := by
  unfold Machine.visitCount
  split
  · exact h.loadW.fst.pair
  · exact h.loadW.fst.pair

theorem Origin.Keeps.llenLeg {r : MicroRec} : Leg.Keeps (s.llenLeg c rd r) s₀ :=
  h.walkLeg (fun _ _ _ h => h.visitCount) (fun _ _ h => (by
        split
        · exact h.result
        · exact h.result
        · exact h.result)) (fun _ _ h hk3 => hk3 _ _ _ h.spend)

theorem Origin.Keeps.bucket {t hx key : Word} : s₀.Keeps (s.bucket c t hx key).1 := by
  unfold State.bucket
  extract_lets
  split
  · exact h.loadW.fst.pair
  · split
    · exact h.loadW.fst.pair
    · exact h.loadW.fst.pair

theorem Origin.Keeps.tableOps {t b : Word} {ok : Word → Bool} : s₀.Keeps (s.tableOps c t ok b).1 := by
  unfold State.tableOps
  split
  · exact h.header.fst.pair
  · split
    · exact h.header.fst.pair
    · exact h.header.fst.pair

theorem Origin.Keeps.hlookLeg {r : MicroRec} : Leg.Keeps (s.hlookLeg c rd r) s₀ := by
  unfold State.hlookLeg
  extract_lets
  refine Origin.Keeps.walkLeg h ?_ ?_ ?_
  · exact fun _ _ _ h => Origin.Keeps.visitPair h
  · exact fun _ _ h => Origin.Keeps.result h
  · intro s k h hk
    split
    · exact .fin (.bad h.tableOps.fst)
    · refine .ite (.fin h.tableOps.fst.spend.result) ?_
      split
      · exact .fin (.bad h.tableOps.fst.spend.bucket.fst)
      · exact hk _ _ _ h.tableOps.fst.spend.bucket.fst

theorem Origin.Keeps.routineStore {w s6 : Word} {also : List (Nat × Word)} : Op.Keeps (s.routineStore c va w s6 also) s₀ := by
  unfold State.routineStore
  extract_lets
  split
  · exact .taken h.storeTo.of_taken.setCtx
  · exact h.storeTo

theorem Origin.Keeps.pushBucket {old pair s6 : Word} : Op.Keeps (s.pushBucket c rd va old pair s6) s₀ := by
  unfold State.pushBucket
  split
  · exact .bad h.newObj.fst
  · exact h.newObj.fst.routineStore

theorem Origin.Keeps.updatePair {e pair s6 : Word} : Op.Keeps (s.updatePair c rd e pair s6) s₀ := by
  unfold State.updatePair
  split
  · exact .bad h.loadW.fst
  · split
    · exact .bad h.loadW.fst
    · exact h.loadW.fst.routineStore

theorem Origin.Keeps.hsetLeg {update : Bool} {r : MicroRec} : Leg.Keeps (s.hsetLeg c rd update r) s₀ := by
  unfold State.hsetLeg
  extract_lets
  refine Origin.Keeps.walkLeg h ?_ ?_ ?_
  · exact fun _ _ _ h => Origin.Keeps.visitPair h
  · intro s w h
    cases w with
    | found => exact h.updatePair
    | ended => exact h.pushBucket
    | more => exact h.pushBucket
  · intro s k h hk
    split
    · exact .fin (.bad h.tableOps.fst)
    · refine .ite (.fin (.bad h.tableOps.fst)) ?_
      split
      · exact .fin (.bad h.tableOps.fst.loadW.fst)
      · split
        · exact .fin (.bad h.tableOps.fst.loadW.fst.bucket.fst)
        · exact .ite (hk _ _ _ h.tableOps.fst.loadW.fst.bucket.fst.spend) (.fin h.tableOps.fst.loadW.fst.bucket.fst.spend.pushBucket)

theorem Origin.Keeps.opHalloc {cons : Bool} {a : Word} : Op.Keeps (s.opHalloc c rd cons a) s₀ :=
  .ite (.bad h.spend) (.ite h.spend.result (by
        split
        · exact .bad h.spend.drainAll.holdAlloc.fst
        · exact h.spend.drainAll.holdAlloc.fst.result
        · exact .ite h.spend.drainAll.holdAlloc.fst.result h.spend.drainAll.holdAlloc.fst.storeOut.result))

theorem Origin.Keeps.epoch : s₀.Keeps (s.epoch c w).1 := .iteFst h.useFree.pair (by split; exacts [h.metaGet.fst.pair, h.metaGet.fst.pair])

theorem Origin.Keeps.opHgc : Op.Keeps (s.opHgc c rd) s₀ :=
  .ite (.bad h.spend) (by split; exacts [.bad h.spend.epoch.fst, h.spend.epoch.fst.same.result])

theorem Origin.Keeps.execCpyl {core : CoreId} {rd ra : Reg5} : Out.Keeps (Machine.execCpyl core rd ra s) s₀ :=
  .next (h.listOp (fun _ _ h => h.cpylLeg))

theorem Origin.Keeps.execAssoc {core : CoreId} {rd ra rb : Reg5} : Out.Keeps (Machine.execAssoc core rd ra rb s) s₀ :=
  .next (h.listOp (fun _ _ h => h.assocLeg))

theorem Origin.Keeps.execHlook {core : CoreId} {rd ra rb : Reg5} : Out.Keeps (Machine.execHlook core rd ra rb s) s₀ :=
  .next (h.listOp (fun _ _ h => h.hlookLeg))

theorem Origin.Keeps.execHset {core : CoreId} {rd ra rb : Reg5} {mode : BitVec 4} : Out.Keeps (Machine.execHset core rd ra rb mode s) s₀ :=
  .next (h.listOp (fun _ _ h => h.hsetLeg))

theorem Origin.Keeps.execLlen {core : CoreId} {rd ra : Reg5} : Out.Keeps (Machine.execLlen core rd ra s) s₀ :=
  .next (h.listOp (fun _ _ h => h.llenLeg))

theorem Origin.Keeps.execHalloc {core : CoreId} {rd ra : Reg5} {mode : BitVec 4} : Out.Keeps (Machine.execHalloc core rd ra mode s) s₀ :=
  .next (h.listOp (fun _ _ h => .fin h.opHalloc))

theorem Origin.Keeps.execHgc {core : CoreId} {rd : Reg5} : Out.Keeps (Machine.execHgc core rd s) s₀ :=
  .next (h.listOp (fun _ _ h => .fin h.opHgc))

theorem Origin.Keeps.locGet {a : Loc} : s₀.Keeps (s.locGet c a).1 := by
  unfold State.locGet
  split
  · exact h
  · exact h.coreGet

theorem Origin.Keeps.locPut {l : Loc} {v : Word} : s₀.Keeps (s.locPut c l v) := by
  unfold State.locPut
  split
  · exact h.rput
  · exact h.storeOut

theorem Origin.Keeps.objRead : s₀.Keeps (s.objRead c va pa a).1 := by
  induction a generalizing s va pa with
  | zero => exact h
  | succ _ ih =>
    rw [State.objRead]
    split
    · exact h.coreGet.fst.pair
    · split
      · exact (ih h.coreGet.fst).fst.pair
      · exact (ih h.coreGet.fst).fst.pair

theorem Origin.Keeps.evacuate {t : Traced} {l : Loc} {p : Word} : s₀.Keeps (s.evacuate c w t l p pa n).1 := by
  unfold State.evacuate
  split
  · exact h.holdAlloc.fst.pair
  · exact h.holdAlloc.fst.pair
  · split
    · exact h.holdAlloc.fst.objRead.fst.pair
    · exact ((h.holdAlloc.fst.objRead.fst.foldl (fun _ _ h => h.storeOut)).foldl (fun _ _ h => h.storeOut)).locPut.pair

theorem Origin.Keeps.visit {t : Traced} {l : Loc} : s₀.Keeps (s.visit c w t l).1 := by
  unfold State.visit
  split
  · exact h.locGet.fst.pair
  · exact .iteFst h.locGet.fst.pair (by
        split
        · exact h.locGet.fst.pair
        · split
          · exact h.locGet.fst.coreGet.fst.pair
          · exact .iteFst h.locGet.fst.coreGet.fst.locPut.pair (.iteFst (by
                split
                · exact h.locGet.fst.coreGet.fst.metaGet.fst.pair
                · exact .iteFst h.locGet.fst.coreGet.fst.metaGet.fst.evacuate h.locGet.fst.coreGet.fst.metaGet.fst.pair)
              h.locGet.fst.coreGet.fst.pair))

theorem Origin.Keeps.traceAll {t : Traced} {todo : List Loc} : s₀.Keeps (s.traceAll c w fuel t todo).1 := by
  induction fuel generalizing s t todo with
  | zero => exact h
  | succ _ ih =>
    cases todo with
    | nil => exact h
    | cons l rest =>
      rw [State.traceAll]
      split
      · exact h.visit.fst
      · exact ih h.visit.fst

theorem Origin.Keeps.gcBlocks {t : Traced} : s₀.Keeps (s.gcBlocks c w t b a).1 := by
  induction a generalizing s b with
  | zero => exact h
  | succ _ ih =>
    rw [State.gcBlocks]
    split
    · exact h.metaGet.fst.pair
    · exact (ih (.ite h.metaGet.fst h.metaGet.fst.metaPut))

theorem Origin.Keeps.gcEnd {t : Traced} : s₀.Keeps (s.gcEnd c w t).1 := by
  unfold State.gcEnd
  split
  · exact h.gcBlocks.fst.pair
  · exact h.gcBlocks.fst.metaPut.metaPut.same.pair

theorem Origin.Keeps.gcRun : s₀.Keeps (s.gcRun c w fuel).1 := by
  unfold State.gcRun
  split
  · exact h.metaGet.fst.pair
  · extract_lets
    split
    · exact h.metaGet.fst.traceAll.fst.pair
    · exact h.metaGet.fst.traceAll.fst.gcEnd
    · exact h.metaGet.fst.traceAll.fst.pair

theorem Origin.Keeps.execCollectionCycle {core : CoreId} {ctx : CtxId} : Out.Keeps (Machine.execCollectionCycle t core ctx s) s₀ :=
  .next (.ite h.at (Origin.Keeps.andThen (.ite h.at.metaPut h.at) fun h => (by
        extract_lets
        split
        · exact h.metaPut.useFree.gcRun.fst
        · exact h.metaPut.useFree.gcRun.fst.same.asCtx (fun _ h => h.raise))))

theorem Origin.Keeps.gcSuspend : s₀.Keeps s.gcSuspend := h.foldl (fun _ _ h => .ite h.memPutBy h)

/-! ### `Sys2Proof/Machine/Control.lean` -/

theorem Origin.Keeps.predict {right : Nat} : s₀.Keeps (s.predict c right) := .useFree (.ite h.spend h.spend)

theorem Origin.Keeps.go : Res.Keeps (s.go t) s₀ := by
  unfold State.go
  split
  · exact .bad h
  · exact .ok h

theorem Origin.Keeps.execB {core : CoreId} {ofs : BitVec 25} : Out.Keeps (Machine.execB core ofs s) s₀ :=
  .next (h.issue (fun _ h => h.predict.go))

theorem Origin.Keeps.execBS {core : CoreId} {ofs : BitVec 25} : Out.Keeps (Machine.execBS core ofs s) s₀ :=
  .next (h.issue (fun _ h => (by split; exacts [.bad h, .ok h.predict])))

theorem Origin.Keeps.cond {rt : Reg5} {cond : BitVec 4} {k : Bool → Res} (hk : ∀ s, Res.Keeps (k s) s₀)
    : Res.Keeps (s.cond c rt cond k) s₀ :=
  .ite (.bad h) (by split; exacts [.bad h, hk _])

theorem Origin.Keeps.execBc {core : CoreId} {rt : Reg5} {cond : BitVec 4} {ofs : BitVec 16}
    : Out.Keeps (Machine.execBc core rt cond ofs s) s₀ :=
  .next (h.issue (fun _ h => h.cond (fun _ => .ite h.predict.go (.ok h.predict))))

theorem Origin.Keeps.execBcS {core : CoreId} {rt : Reg5} {cond : BitVec 4} {ofs : BitVec 16}
    : Out.Keeps (Machine.execBcS core rt cond ofs s) s₀ :=
  .next (h.issue (fun _ h => h.cond (fun _ => (by extract_lets; split; exacts [.bad h, .ok h.predict]))))

theorem Origin.Keeps.callBars {entry : Word} : ∀ u, s.callBars c entry = some u → u.Keeps s₀ := by
  intro u
  unfold State.callBars
  split
  · rintro ⟨⟩; exact .bad h
  · split
    · rintro ⟨⟩; exact .bad h
    · split
      · rintro ⟨⟩; exact .taken h.overflowTrap
      · rintro ⟨⟩

theorem Origin.Keeps.callWith {entry : Word} {k : State → Res} (hk : ∀ s, s₀.Keeps s → Res.Keeps (k s) s₀)
    : Res.Keeps (s.callWith c entry k) s₀ := by
  unfold State.callWith
  split
  · exact (h.callBars _ ‹_›)
  · exact hk _ h

theorem Origin.Keeps.pushed {entry : Word} : s₀.Keeps (s.pushed c entry) := by
  unfold State.pushed
  split
  · exact (h.shadowPush _ ‹_›)
  · exact h

theorem Origin.Keeps.linkShift {ra world : Nat} : s₀.Keeps (s.linkShift c ra world) := h.setMe

theorem Origin.Keeps.execCall {core : CoreId} {ofs : BitVec 25} : Out.Keeps (Machine.execCall core ofs s) s₀ :=
  .next (h.issue (fun _ h => h.callWith (fun _ h => (by split; exacts [.bad h, .ok h.pushed.linkShift.predict]))))

theorem Origin.Keeps.execCallS {core : CoreId} {ofs : BitVec 25} : Out.Keeps (Machine.execCallS core ofs s) s₀ :=
  .next (h.issue (fun _ h => h.callWith (fun _ h => (by split; exacts [.bad h, .ok h.predict]))))

theorem Origin.Keeps.loadPair : s₀.Keeps (s.loadPair c va).1 := by
  unfold State.loadPair
  split
  · exact h.loadW.fst.pair
  · split
    · exact h.loadW.fst.loadW.fst.pair
    · exact h.loadW.fst.loadW.fst.pair

theorem Origin.Keeps.execCallr {core : CoreId} {ra : Reg5} : Out.Keeps (Machine.execCallr core ra s) s₀ :=
  .next (h.issue (fun _ h => .ite (.bad h) (.ite (.bad h) (by
        split
        · exact .bad h
        · split
          · exact .ite (.bad h.header.fst) (h.header.fst.callWith (fun _ h => .bad h))
          · exact h.header.fst.callWith (fun _ h => (by
                split
                · exact .bad h.loadPair.fst
                · extract_lets
                  split
                  · exact .bad h.loadPair.fst
                  · exact .ok h.loadPair.fst.pushed.linkShift.rset))))))

theorem Origin.Keeps.execJ {core : CoreId} {ra : Reg5} : Out.Keeps (Machine.execJ core ra s) s₀ :=
  .next (h.issue (fun _ h => .ite (.bad h) (by split; exacts [.bad h, h.go])))

theorem Origin.Keeps.programEnd : s₀.Keeps (s.programEnd c) := by
  unfold State.programEnd
  refine .stopCtx (.setCtx (.shadowEmpty (.forgetJobs ?_)))
  split
  · exact h.showLoads
  · split
    · exact h.showLoads
    · exact h.showLoads.setSlice

theorem Origin.Keeps.execRet {core : CoreId} : Out.Keeps (Machine.execRet core s) s₀ := by
  refine .next (h.issue fun s h => .ite (.bad h) ?_)
  dsimp only
  split
  · exact .bad h.shadowRefill.fst
  · split
    · exact .bad h.shadowRefill.fst
    · exact .ite (.bad h.shadowRefill.fst) (.ite (.bad h.shadowRefill.fst) (.ite (.taken h.shadowRefill.fst.spend.programEnd)
        (.ite (.taken h.shadowRefill.fst.underflowTrap) h.shadowRefill.fst.setMe.spend.go)))

theorem Origin.Keeps.wentry {imm : Nat} : s₀.Keeps (s.wentry c imm).1 :=
  .iteFst h (.iteFst h (by split; exacts [h.coreGet.fst.pair, h.coreGet.fst.pair]))

theorem Origin.Keeps.execWcall {core : CoreId} {imm : BitVec 15} : Out.Keeps (Machine.execWcall core imm s) s₀ :=
  .next (h.issue (fun _ h => h.callWith (fun _ h => (by
        split
        · exact .bad h.wentry.fst
        · split
          · exact .bad h.wentry.fst
          · exact .ok h.wentry.fst.pushed.setMe))))

theorem Origin.Keeps.execWret {core : CoreId} : Out.Keeps (Machine.execWret core s) s₀ :=
  .next (h.issue (fun _ h => .ite (.bad h) (by
        split
        · exact .bad h.shadowRefill.fst
        · exact .ite (.taken h.shadowRefill.fst.underflowTrap) (by
              split
              · exact .bad h.shadowRefill.fst
              · exact .ite (.bad h.shadowRefill.fst) h.shadowRefill.fst.setMe.go))))

theorem Origin.Keeps.loop {count : Flt ⊕ Nat} : Res.Keeps (s.loop c n count) s₀ :=
  .ite (.bad h) (by split; exacts [.bad h, .ok h, .ok h.setSpec.setSt])

theorem Origin.Keeps.execLoopr {core : CoreId} {ra : Reg5} {n : BitVec 9} : Out.Keeps (Machine.execLoopr core ra n s) s₀ :=
  .next (h.issue (fun _ h => .ite (.bad h) h.loop))

theorem Origin.Keeps.execLoopi {core : CoreId} {count : BitVec 10} {n : BitVec 9} : Out.Keeps (Machine.execLoopi core count n s) s₀ :=
  .next (h.issue (fun _ h => h.loop))

theorem Origin.Keeps.execLbrk {core : CoreId} : Out.Keeps (Machine.execLbrk core s) s₀ :=
  .next (h.issue (fun _ h => .ite (.bad h) (.ok h.setSpec.setSt)))

theorem Origin.Keeps.repeat_ {count : Flt ⊕ Nat} : Res.Keeps (s.repeat_ c count) s₀ := by
  unfold State.repeat_
  split
  · exact .bad h
  · exact .ok h.setSpec

theorem Origin.Keeps.execRepr {core : CoreId} {ra : Reg5} : Out.Keeps (Machine.execRepr core ra s) s₀ :=
  .next (h.issue (fun _ h => .ite (.bad h) h.repeat_))

theorem Origin.Keeps.execRepi {core : CoreId} {count : BitVec 15} : Out.Keeps (Machine.execRepi core count s) s₀ :=
  .next (h.issue (fun _ h => h.repeat_))

theorem Origin.Keeps.execSys {core : CoreId} {imm : BitVec 15} : Out.Keeps (Machine.execSys core imm s) s₀ :=
  .next (h.issue (fun _ h => .ite (.bad h) (.taken h.setFlow.raise)))

theorem Origin.Keeps.resumeNothing : s₀.Keeps (s.resumeNothing c) := by
  unfold State.resumeNothing
  extract_lets
  split
  · exact h.abandon
  · exact h.setCtx.stopCtx

theorem Origin.Keeps.leaveTrap {t : TrapSt} : s₀.Keeps (s.leaveTrap c t) := h.setField.setCtx.setCore

theorem Origin.Keeps.leaveDouble {t : TrapSt} : Res.Keeps (s.leaveDouble c t) s₀ := by
  unfold State.leaveDouble
  extract_lets
  split
  · exact .bad h
  · exact h.showLoads.spend.setCore.andThen fun h => .taken (.ite h.resumeNothing h)

theorem Origin.Keeps.frameGet : s₀.Keeps (s.frameGet c a).1 := .iteFst h h.loadAt

theorem Origin.Keeps.frameRead {sp : Nat} : s₀.Keeps (s.frameRead c sp).1 := by
  unfold State.frameRead
  split
  · exact h.frameGet.fst.pair
  · split
    · exact h.frameGet.fst.frameGet.fst.pair
    · split
      · exact h.frameGet.fst.frameGet.fst.frameGet.fst.pair
      · exact h.frameGet.fst.frameGet.fst.frameGet.fst.pair

theorem Origin.Keeps.leaveExc : Res.Keeps (s.leaveExc c) s₀ := by
  unfold State.leaveExc
  extract_lets
  split
  · exact .bad h
  · split
    · exact .bad h.frameRead.fst
    · split
      · exact .bad h.frameRead.fst
      · exact h.frameRead.fst.showLoads.andThen fun h => Origin.Keeps.andThen (.ite h.setMe.rput.swapSsp h.setMe.rput)
          fun h => .taken (.ite h.spend.resumeNothing h.spend)

theorem Origin.Keeps.execEret {core : CoreId} : Out.Keeps (Machine.execEret core s) s₀ :=
  .next (h.issue (fun _ h => .ite (.bad h) (.ite (.taken h.showLoads.spend.setCore) (by
        split
        · exact .ite h.leaveDouble (.taken h.showLoads.spend.leaveTrap)
        · exact h.leaveExc))))

/-! ### `Sys2Proof/Machine/System.lean` -/

theorem Origin.Keeps.specPut {v : Word} : s₀.Keeps (s.specPut c n v) :=
  .ite h.setSpec (.ite h.setSpec (.ite h.setSpec (.ite h.setSpec (.ite h.setMe (.ite h.setMe (.ite h.setMe (.ite h.setMe
      (.ite h.setSpec h.setSpec))))))))

theorem Origin.Keeps.execMfs {core : CoreId} {rd : Reg5} {spec : BitVec 5} : Out.Keeps (Machine.execMfs core rd spec s) s₀ :=
  .next (h.issueOp (fun _ h => .ite (.bad h) h.result))

theorem Origin.Keeps.execMts {core : CoreId} {spec : BitVec 5} {ra : Reg5} : Out.Keeps (Machine.execMts core spec ra s) s₀ :=
  .next (h.issue (fun _ h => .ite (.bad h) (.ite (.bad h) (.ite (.bad h) (by split; exacts [.bad h, .ite (.ok h) (.ok h.specPut)])))))

theorem Origin.Keeps.mulRes {acc : Option (Word × Word)} {a b : Word} : s₀.Keeps (s.mulRes acc a b).1 := .iteFst h h.sfltW.pair

theorem Origin.Keeps.mulOp {fma : Bool} {ra rb : Reg5} : s₀.Keeps (s.mulOp c fma ra rb) :=
  h.issueOp (fun _ h => (by extract_lets; split; exacts [.bad h, .ok h.mulRes.setMe]))

theorem Origin.Keeps.execXmul {core : CoreId} {ra rb : Reg5} : Out.Keeps (Machine.execXmul core ra rb s) s₀ := .next h.mulOp
theorem Origin.Keeps.execXfma {core : CoreId} {ra rb : Reg5} : Out.Keeps (Machine.execXfma core ra rb s) s₀ := .next h.mulOp

theorem Origin.Keeps.execFence {core : CoreId} : Out.Keeps (Machine.execFence core s) s₀ :=
  .next (h.issueOp (fun _ h => .ok (.ite h.unblock h.unblock.drainAll.stall)))

theorem Origin.Keeps.execDsync {core : CoreId} : Out.Keeps (Machine.execDsync core s) s₀ := .next (h.issueOp (fun _ h => .ok h.setCore))

theorem Origin.Keeps.tlbi {p : TlbEnt → Bool} : s₀.Keeps (s.tlbi p) :=
  (h.foldl (fun _ _ h => .ite h.setCore h)).foldl (fun _ _ h => h.setClu)

theorem Origin.Keeps.tlbiOp {legal : Bool} {uses : List Reg5} {src : Option Word} {check : Word → Bool} {p : Word → Nat → TlbEnt → Bool}
    : s₀.Keeps (s.tlbiOp c legal uses src check p) :=
  h.issueOp (fun _ h => .ite (.bad h) (.ite (.bad h) (by split; exacts [.bad h, .ok h.spend.useFree.tlbi])))

theorem Origin.Keeps.execTlbiA {core : CoreId} {ra : Reg5} : Out.Keeps (Machine.execTlbiA core ra s) s₀ := .next h.tlbiOp
theorem Origin.Keeps.execTlbiW {core : CoreId} {ra : Reg5} : Out.Keeps (Machine.execTlbiW core ra s) s₀ := .next h.tlbiOp
theorem Origin.Keeps.execTlbiAll {core : CoreId} : Out.Keeps (Machine.execTlbiAll core s) s₀ := .next h.tlbiOp

theorem Origin.Keeps.lockEntry : Op.Keeps (s.lockEntry c w va) s₀ := by
  unfold State.lockEntry
  extract_lets k p
  have hp : s₀.Keeps p.1 := by
    unfold p
    split
    · exact h
    · split
      · exact h.bump.walkFill.fst
      · exact .pair (.ite h.bump.walkFill.fst.cluTlb h.bump.walkFill.fst)
  clear_value p
  split
  · exact .bad hp
  · dsimp only
    split
    · exact .ok hp
    · exact .ite (.ok hp) (.ite (.bad hp) (.ok hp.setClu))

theorem Origin.Keeps.execTlblk {core : CoreId} {ra : Reg5} : Out.Keeps (Machine.execTlblk core ra s) s₀ :=
  .next (h.issueOp (fun _ h => .ite (.bad h) (.ite (.bad h) (by split; exacts [.bad h, h.stall.lockEntry]))))

theorem Origin.Keeps.execTlbul {core : CoreId} {ra : Reg5} : Out.Keeps (Machine.execTlbul core ra s) s₀ :=
  .next (h.issueOp (fun _ h => .ite (.bad h) (by split; exacts [.bad h, .ok h.setClu])))

theorem Origin.Keeps.preloadLine {way : Nat} : s₀.Keeps (s.preloadLine k line way).1 := by
  unfold State.preloadLine
  split
  · exact .iteFst h.l2Set.pair h
  · extract_lets
    split
    · exact .pair (.ite h.l2Miss.l2Set.track h.l2Miss.l2Set)
    · exact .pair (.ite (h.l2Miss.l2Set.l1Drop.evictLine.l2Set.andThen fun h => .ite h.track h)
        (h.l2Miss.l2Set.l1Drop.l2Set.andThen fun h => .ite h.track h))

theorem Origin.Keeps.execPreload {core : CoreId} {rd ra rb : Reg5} : Out.Keeps (Machine.execPreload core rd ra rb s) s₀ :=
  .next (h.issueOp (fun _ h => .ite (.bad h) (.ite (.bad h) (by
        split
        · exact .bad h
        · split
          · exact .bad h.translate.fst
          · exact .ite h.translate.fst.result (by
                split
                · exact .bad h.translate.fst.coreGet.fst
                · exact h.translate.fst.coreGet.fst.stall.preloadLine.result)))))

theorem Origin.Keeps.execL2lock {core : CoreId} {ra : Reg5} : Out.Keeps (Machine.execL2lock core ra s) s₀ :=
  .next (h.issueOp (fun _ h => .ite (.bad h) (.ite (.bad h) (by split; exacts [.bad h, .ok h.setL2lock]))))

theorem Origin.Keeps.execCluL2lockWrite {c : ClusterId} {v : Word} : Out.Keeps (Machine.execCluL2lockWrite t c v s) s₀ :=
  .next h.at.l2lockWrite

theorem Origin.Keeps.execEvictionAccept {c : ClusterId} {bank : Fin 8} : Out.Keeps (Machine.execEvictionAccept t c bank s) s₀ :=
  .next (by split; exacts [h.at, .ite h.at h.at.evictAccept])

theorem Origin.Keeps.execSnoop {holder : ClusterId} {by_ : Snooper} {pa : BitVec 46} {write : Bool}
    : Out.Keeps (Machine.execSnoop t holder by_ pa write s) s₀ :=
  .next (by split; exacts [h.at.snoopLine, .ite h.at.snoopLine.l1Drop.same.track h.at.snoopLine.l1Drop])

theorem Origin.Keeps.execStage {core : CoreId} {ra : Reg5} : Out.Keeps (Machine.execStage core ra s) s₀ :=
  .next (h.issueOp (fun _ h => (by
        extract_lets
        split
        · exact .bad h
        · exact .ite (.bad h) (h.checked (by
              split
              · exact .bad h.header.fst
              · exact .ite (.bad h.header.fst) (by
                    split
                    · exact .bad h.header.fst.loadWs.fst
                    · split
                      · exact .ok h.header.fst.loadWs.fst
                      · exact .ok h.header.fst.loadWs.fst.setSlice))))))

theorem Origin.Keeps.execCx {core : CoreId} {slot : BitVec 5} {rd ra rb : Reg5} {mode : BitVec 4}
    : Out.Keeps (Machine.execCx core slot rd ra rb mode s) s₀ :=
  .next (h.issueOp (fun _ h => .ite h.customer (by split; exacts [.bad h, h.customer])))

theorem Origin.Keeps.execSafePointOverrun {core : CoreId} {slot : BitVec 5} {maddr : BitVec 15}
    : Out.Keeps (Machine.execSafePointOverrun core slot maddr s) s₀ :=
  .next (h.issueOp (fun _ h => (by extract_lets; split; exacts [.bad h, h.spend.seqFault.keepS6])))

theorem Origin.Keeps.execDecodeTableAccess {write : Bool} {v : Word} : Out.Keeps (Machine.execDecodeTableAccess t write v s) s₀ :=
  .next h.at.decAccess

/-! ### `Sys2Proof/Machine/Contexts.lean` -/

theorem Origin.Keeps.execContextSwitch {core : CoreId} : Out.Keeps (Machine.execContextSwitch core s) s₀ :=
  .next (.ite (.ite h h.schedule) (.ite h (by split; exacts [h, h.switchTo])))

theorem Origin.Keeps.execCtxTimerExpiry {core : CoreId} {ctx : CtxId} : Out.Keeps (Machine.execCtxTimerExpiry core ctx s) s₀ :=
  .next (.ite h (.ite h.raiseCtx h.raiseCtx.schedule))

theorem Origin.Keeps.execCtxTimerWrite {core : CoreId} {ctx : CtxId} {v : Word} : Out.Keeps (Machine.execCtxTimerWrite t core ctx v s) s₀ :=
  .next h.at.timerWrite

theorem Origin.Keeps.irqTake : s₀.Keeps (s.irqTake c j code) := .ite h.irqClear (.ite h.setCtx (.ite h.setCtx h.setCtx))

theorem Origin.Keeps.execInterruptTaken {core : CoreId} : Out.Keeps (Machine.execInterruptTaken core s) s₀ :=
  .next (.ite h (by extract_lets; split; exacts [h, h.irqTake.stopRun.enterExc]))

theorem Origin.Keeps.bankTake : s₀.Keeps (s.bankTake c code) := .ite h.irqClear (.ite h.setCore (.ite h.setCore h.setCore))

theorem Origin.Keeps.execFiqEntry {core : CoreId} : Out.Keeps (Machine.execFiqEntry core s) s₀ :=
  .next (.ite h h.bankTake.stopRun.setCore.spend)

theorem Origin.Keeps.execHoldOverrun {core : CoreId} : Out.Keeps (Machine.execHoldOverrun core s) s₀ :=
  .next (.ite h (.ite h.stopRun.showLoads.bankFault (by
        split
        · exact .ite h.stopRun.showLoads.tripleFault h.stopRun.showLoads.doubleFault
        · exact h.stopRun.showLoads.enterExc)))

theorem Origin.Keeps.execProvClear {core : CoreId} {ctx : CtxId} : Out.Keeps (Machine.execProvClear core ctx s) s₀ := .next (.ite h.setCtx h)

/-! ### `Sys2Proof/Machine/Slices.lean` -/

theorem Origin.Keeps.progRead {g : Nat} : s₀.Keeps (s.progRead k g) := by
  unfold State.progRead
  refine .ite h ?_
  extract_lets +onlyGivenNames a s1 z
  have h1 : s₀.Keeps s1 := h.devLine
  clear_value s1 z
  split
  · exact h1.setClu
  · refine .err (.setClu ?_)
    split
    · exact h1.busErrLog
    · exact h1

theorem Origin.Keeps.sliceMove {x : Slice} : s₀.Keeps (s.sliceMove k x) := .ite h.setSlice (.ite h.setSlice h)
theorem Origin.Keeps.slicesMove : s₀.Keeps (s.slicesMove k) := h.foldl (fun _ _ h => h.sliceMove)
theorem Origin.Keeps.pruneCopies : s₀.Keeps (s.pruneCopies k) := h.setClu
theorem Origin.Keeps.storeCopy {g : Nat} {d : DispWord} : s₀.Keeps (s.storeCopy k g d) := h.setClu
theorem Origin.Keeps.reportSlots {key : SliceKey} : s₀.Keeps (s.reportSlots k key) := h.foldl (fun _ _ h => h.slotRep)
theorem Origin.Keeps.descFull {key : SliceKey} : s₀.Keeps (s.descFull k key) := .ite h.bump.reportSlots h.bump.reportSlots.setClu.err
theorem Origin.Keeps.lateCommit {g : Nat} : s₀.Keeps (s.lateCommit k g) := h.bump.err

theorem Origin.Keeps.copyToSlice {d : DispWord} {key : SliceKey} : s₀.Keeps (s.copyToSlice k d key).1 := by
  unfold State.copyToSlice
  split
  · exact .iteFst h.lateCommit.pair (.iteFst h.setSlice.pair (.iteFst h.setSlice.pair h))
  · split
    · exact .iteFst h.lateCommit.pair h.bump.pair
    · exact .iteFst h (.iteFst h.descFull.pair h.setClu.pair)

theorem Origin.Keeps.copyIn {d : DispWord} : s₀.Keeps (s.copyIn k d) :=
  .ite h.progRead.bump (.ite h.progRead.copyToSlice.storeCopy.pruneCopies.wakeCheck h.progRead.copyToSlice)

theorem Origin.Keeps.execDispatchWordArrival {c : ClusterId} : Out.Keeps (Machine.execDispatchWordArrival t c s) s₀ := by
  unfold Machine.execDispatchWordArrival
  extract_lets
  split
  · exact .next h.at
  · exact .ite (.next h.at) (.next (.ite h.at.same.setClu h.at.same.copyIn.stir))

theorem Origin.Keeps.execWatermarkReceive {c : ClusterId} : Out.Keeps (Machine.execWatermarkReceive t c s) s₀ := by
  unfold Machine.execWatermarkReceive
  extract_lets
  split
  · exact .next h.at
  · exact .ite (.next h.at) (.next h.at.same.setClu.slicesMove.pruneCopies.wakeCheck)

theorem Origin.Keeps.fixS6 : s₀.Keeps (s.fixS6 c j w) := .ite h h.rput.setChunk
theorem Origin.Keeps.giveTo {x : Slice} {hx : Nat × Nat} : s₀.Keeps (s.giveTo k x hx) := h.fixS6.multOf.setCtx.setSlice.stir

theorem Origin.Keeps.dispatchFirst {l : List Slice} : s₀.Keeps (s.dispatchFirst k l) := by
  induction l with
  | nil => exact h
  | cons x l ih =>
    rw [State.dispatchFirst]
    split
    · exact h.giveTo
    · exact ih

theorem Origin.Keeps.execSliceDispatch {c : ClusterId} : Out.Keeps (Machine.execSliceDispatch t c s) s₀ :=
  .next (.ite h.at (.ite h.at.coverage h.at.coverage.dispatchFirst))

theorem Origin.Keeps.allocCells : s₀.Keeps (s.allocCells c j w s6 a).1 := by
  induction a generalizing s s6 with
  | zero => exact h
  | succ _ ih =>
    rw [State.allocCells]
    split
    · exact h.allocAt.fst.pair
    · split
      · exact (ih h.allocAt.fst).fst.pair
      · exact (ih h.allocAt.fst).fst.pair

theorem Origin.Keeps.putCells {last : Word} {l : List (Nat × Word)} : s₀.Keeps (s.putCells c w last l) := by
  induction l generalizing s with
  | nil => exact h
  | cons e l ih => exact ih h.storeOut.storeOut

theorem Origin.Keeps.putList {l : List DispWord} : s₀.Keeps (s.putList c j w s6 l).1 := by
  unfold State.putList
  extract_lets cut l s1
  have h1 : s₀.Keeps s1 := .ite h.bump h
  split
  · exact h1.allocCells.fst
  · exact h1.allocCells.fst.putCells.spend

theorem Origin.Keeps.entryOf {p : Word} : s₀.Keeps (s.entryOf c w p).1 := by
  unfold State.entryOf
  extract_lets get
  have hget : ∀ s va, s₀.Keeps s → s₀.Keeps (get s va).1 := by
    intro s va h
    unfold get
    split
    · exact h.translate.fst
    · exact h.translate.fst.coreGet
  clear_value get
  split
  · exact (hget _ _ h).fst
  · split
    · exact (hget _ _ (hget _ _ h).fst).fst
    · exact (hget _ _ (hget _ _ h).fst).fst

theorem Origin.Keeps.entryRegs {key : SliceKey} {own ctx : Word} : s₀.Keeps (s.entryRegs k c j w key own ctx s6) :=
  h.foldl (fun _ _ h => h.rput)

theorem Origin.Keeps.begin {x : Slice} : s₀.Keeps (s.begin k x) := Origin.Keeps.andThen (.ite h.bump.bump h.bump) fun h => h.setSlice

theorem Origin.Keeps.startProg {entry : Nat} {key : SliceKey} {own ctx : Word} {prov : Bool}
    : s₀.Keeps (s.startProg k c j w key own ctx s6 entry prov) := by
  unfold State.startProg
  exact h.entryRegs.setCtx.setField.setField.setField.setCtx.spend.schedule

theorem Origin.Keeps.sendEval {key : SliceKey} {own ctx : Word} : s₀.Keeps (s.sendEval k c j w key own ctx s6) := h.rput.haSend.setCtx
theorem Origin.Keeps.listsFail {x : Slice} : s₀.Keeps (s.listsFail k x) := h.abandon.err

theorem Origin.Keeps.listsDone {key : SliceKey} {own ctx : Word} : s₀.Keeps (s.listsDone k c j w key own ctx s6) := by
  unfold State.listsDone
  split
  · exact h
  · exact .ite h.begin.sendEval (by split; exacts [h.entryOf.fst.abandon, h.entryOf.fst.begin.startProg])

theorem Origin.Keeps.build {x : Slice} : s₀.Keeps (s.build k c j x) := by
  unfold State.build
  extract_lets
  split
  · exact h.drainAll.putList.fst.listsFail
  · split
    · exact h.drainAll.putList.fst.putList.fst.listsFail
    · exact h.drainAll.putList.fst.putList.fst.listsDone

theorem Origin.Keeps.execSliceStart {c : ClusterId} {k : SliceKey} : Out.Keeps (Machine.execSliceStart t c k s) s₀ := by
  unfold Machine.execSliceStart
  extract_lets
  split
  · exact .next h.at
  · exact .next (by split; exacts [h.at, .ite h.at (.ite h.at.setSlice h.at.build.stir)])

/-! ### `Sys2Proof/Machine/SliceEnd.lean` -/

theorem Origin.Keeps.nextOldest {hx : Nat × Nat} : s₀.Keeps (s.nextOldest k hx) := by
  unfold State.nextOldest
  split
  · exact .ite h.setSlice h
  · exact h

theorem Origin.Keeps.commit {x : Slice} : s₀.Keeps (s.commit k x) :=
  Origin.Keeps.andThen (by split; exacts [h.same.bump.sliceGone.nextOldest, h.same.bump.sliceGone]) fun h => h.pruneCopies.stir

theorem Origin.Keeps.execSliceCommit {c : ClusterId} {k : SliceKey} : Out.Keeps (Machine.execSliceCommit t c k s) s₀ :=
  .next (by split; exacts [h.at, .ite h.at.commit h.at])

theorem Origin.Keeps.missReports {x : Slice} : s₀.Keeps (s.missReports k x) := h.foldl (fun _ _ h => .ite h.reefIn h)

theorem Origin.Keeps.timeOut {x : Slice} : s₀.Keeps (s.timeOut k x) :=
  h.missReports.bump.sliceGone.andThen fun h => Origin.Keeps.andThen (by split; exacts [h.nextOldest, h]) fun h => h.pruneCopies.stir

theorem Origin.Keeps.execSliceTimeout {c : ClusterId} {k : SliceKey} : Out.Keeps (Machine.execSliceTimeout t c k s) s₀ :=
  .next (by split; exacts [h.at, .ite h.at.timeOut h.at])

theorem Origin.Keeps.restore {q : Ckpt} : s₀.Keeps (s.restore c j q) := (h.drainAll.setCtx.foldl (fun _ _ h => h.rput)).setField.setField
theorem Origin.Keeps.requeue {x : Slice} : s₀.Keeps (s.requeue k x n) := h.setSlice

theorem Origin.Keeps.unravel {x : Slice} {q : Ckpt} : s₀.Keeps (s.unravel k c j x q) :=
  (h.forgetJobs.restore.setCtx.bump.requeue.foldl (fun _ _ h => (by split; exacts [h.bump.requeue, h]))).spend.stopCtx.wakeCheck.stir

theorem Origin.Keeps.execUnravel {c : ClusterId} {k : SliceKey} : Out.Keeps (Machine.execUnravel t c k s) s₀ :=
  .next (by split; exacts [h.at, (by split; exacts [.ite h.at.unravel h.at, h.at])])

theorem Origin.Keeps.execDoneTime {c : ClusterId} : Out.Keeps (Machine.execDoneTime t c s) s₀ := .next (.ite h.at h.at.fifoPut)

theorem Origin.Keeps.serve {key : Nat} {f : State → State} (hf : ∀ s, s₀.Keeps s → s₀.Keeps (f s)) : s₀.Keeps (s.serve c key f) :=
  .ite (hf _ h.setCore.spend) (h.asCtx hf)

theorem Origin.Keeps.unsuspend {key : Nat} : s₀.Keeps (s.unsuspend c key) := h.setCtx

theorem Origin.Keeps.answered {key : Nat} {x : SuspSt} {writes : List (Nat × Word)} : s₀.Keeps (s.answered c key x writes) := by
  unfold State.answered
  extract_lets
  split
  · exact h.unsuspend.setRun
  · exact (h.unsuspend.foldl (fun _ _ h => h.rput)).andThen fun h => .ite h.setFlow h.complete

theorem Origin.Keeps.answerFault {key : Nat} {x : SuspSt} {f : Flt} : s₀.Keeps (s.answerFault c key x f) :=
  Origin.Keeps.andThen (by split; exacts [h.unsuspend.rset, h.unsuspend]) fun h => h.raise

theorem Origin.Keeps.reply {reply : List Word} {use : State → HaJob → State} (huse : ∀ s x, s₀.Keeps s → s₀.Keeps (use s x))
    : s₀.Keeps (s.reply f reply use) := by
  unfold State.reply
  split
  · exact h.cqTake.haStale
  · exact .ite h (huse _ _ h.cqTake)

theorem Origin.Keeps.heapKeep {reply : List Word} {hx : HaJob} : s₀.Keeps (s.heapKeep reply hx) := by
  unfold State.heapKeep
  extract_lets
  split
  · exact h.haStale
  · exact .ite h.haStale (h.haDone.serve (fun _ h => .ite h.answered h.answerFault))

theorem Origin.Keeps.execHeapKeepReply {reply : List Word} : Out.Keeps (Machine.execHeapKeepReply t reply s) s₀ :=
  .next (h.at.reply (fun _ _ h => h.heapKeep))

theorem Origin.Keeps.partsDone {x : SuspSt} {ws : List Word} : s₀.Keeps (s.partsDone c j x ws) := by
  unfold State.partsDone
  split
  · exact h.newObj.fst.answerFault
  · exact h.newObj.fst.answered

theorem Origin.Keeps.slowReply {reply : List Word} {hx : HaJob} : s₀.Keeps (s.slowReply reply hx) := by
  unfold State.slowReply
  extract_lets
  split
  · exact h.haStale
  · exact .ite h.haStale (.ite (h.haDone.serve (fun _ h => h.answerFault)) (.ite (h.haDone.serve (fun _ h => h.answered)) (.ite (by
        extract_lets
        split
        · exact h.setCtx
        · exact h.haDone.serve (fun _ h => h.partsDone)) h.haStale)))

theorem Origin.Keeps.execSlowPathReply {reply : List Word} : Out.Keeps (Machine.execSlowPathReply t reply s) s₀ :=
  .next (h.at.reply (fun _ _ h => h.slowReply))

theorem Origin.Keeps.evalReply {reply : List Word} {hx : HaJob} : s₀.Keeps (s.evalReply reply hx) := by
  unfold State.evalReply
  extract_lets
  split
  · exact h.haStale
  · exact .ite (.ite h h.setSlice) h.haDone.setSlice.shadowEmpty.setCtx

theorem Origin.Keeps.execRuleEvalReply {reply : List Word} : Out.Keeps (Machine.execRuleEvalReply t reply s) s₀ :=
  .next (h.at.reply (fun _ _ h => h.evalReply))

theorem Origin.Keeps.haLost0 : s₀.Keeps (s.haLost0 p) := .ite h.closeStitch.portReef.err h

theorem Origin.Keeps.haLostCtx {hx : HaJob} : s₀.Keeps (s.haLostCtx f hx) := by
  unfold State.haLostCtx
  extract_lets
  split
  · exact h
  · exact h.serve (fun _ h => h.answerFault)

theorem Origin.Keeps.haLost {hx : HaJob} : s₀.Keeps (s.haLost f hx) :=
  .ite h.haLost0 (.ite (.ite h h.rowStop) (.ite (by split; exacts [h.timeOut, h]) (.ite h.haLostCtx h)))

theorem Origin.Keeps.execHaTimeout {f : Fin 8} {job : BitVec 24} : Out.Keeps (Machine.execHaTimeout t f job s) s₀ :=
  .next (by split; exacts [h.at, .ite h.at h.at.haForget.haLost])

/-! ### `Sys2Proof/Machine/Start.lean` -/

theorem Origin.Keeps.putEach {a2 : List Word} : s₀.Keeps (s.putEach a a2) := by
  induction a2 generalizing s a with
  | nil => exact h
  | cons _ _ ih =>
    exact (ih h.memPut)

theorem Origin.Keeps.putFix : s₀.Keeps (s.putFix a v) := h.memPut
theorem Origin.Keeps.holdBlock {st : Nat} : s₀.Keeps (s.holdBlock w b st) := h.putFix

theorem Origin.Keeps.holdInit : s₀.Keeps (s.holdInit w) :=
  .ite h (((h.putFix.putFix.foldl (fun _ _ h => h.putFix)).forN (fun _ _ h => h.putFix)).forN (fun _ _ h => h.holdBlock))

theorem Origin.Keeps.holdTouch : s₀.Keeps (s.holdTouch w pa n) := h.foldl (fun _ _ h => .ite h h.holdBlock)

theorem Origin.Keeps.loadMem {hits : Nat → Nat → Bool} {after : State → Nat → Nat → State} {ws : List Word}
    (ha : ∀ s a n, s₀.Keeps s → s₀.Keeps (after s a n)) : s₀.Keeps (State.loadMem k hits after fuel ws s) := by
  induction fuel generalizing s ws with
  | zero => exact h
  | succ fuel ih =>
    match ws with
    | [] => exact h
    | [w] => exact h.slotReject
    | w0 :: w1 :: rest => exact .ite h.slotReject (ih (.ite (ha _ _ _ h.putEach) h.note))

theorem Origin.Keeps.loadProgs {x : Sec} : s₀.Keeps (s.loadProgs w x) := by
  unfold State.loadProgs
  split
  · exact h.openSec.fst.loadMem (fun _ _ _ h => h)

theorem Origin.Keeps.loadHold {x : Sec} : s₀.Keeps (s.loadHold w x) := by
  unfold State.loadHold
  split
  · exact .ite h.openSec.fst.setField (.ite h.openSec.fst.slotReject (h.openSec.fst.putFix.loadMem (fun _ _ _ h => h.holdTouch)))

theorem Origin.Keeps.loadMemory {x : Sec} : s₀.Keeps (s.loadMemory x) := .ite h.loadProgs (.ite h.loadProgs (.ite h.loadHold h.loadHold))
theorem Origin.Keeps.loadUnknown {x : Sec} : s₀.Keeps (s.loadUnknown x) := h.same

theorem Origin.Keeps.loadReg {x : Sec} : s₀.Keeps (s.loadReg x) :=
  .ite h.loadUnknown (by split; exacts [h.openSec.fst.loadRegs (fun _ _ _ h => h.blockWrite)])

theorem Origin.Keeps.raiseEngines : s₀.Keeps s.raiseEngines := h.forN (fun _ _ h => .ite h.domainRequest h)
theorem Origin.Keeps.stepSeven : s₀.Keeps s.stepSeven := (h.foldl (fun _ _ h => h.loadReg)).tdcBegin.raiseEngines

theorem Origin.Keeps.stepSix : s₀.Keeps s.stepSix :=
  (h.forN (fun _ _ h => .ite h.note h)).andThen fun h => .ite h.setStep ((h.forN (fun _ _ h => h.holdInit)).foldl (fun _ _ h =>
      h.loadMemory)).setStep.stepSeven

theorem Origin.Keeps.execFillDone : Out.Keeps (Machine.execFillDone t s) s₀ := .next (.ite h.at.same.stepSix h.at.same)

theorem Origin.Keeps.execLaserWarmupDone : Out.Keeps (Machine.execLaserWarmupDone t s) s₀ :=
  .next (.ite (h.at.same.forN (fun _ _ h => h.tryLeaveOff)) h.at)

theorem Origin.Keeps.adjust {v : Word} : s₀.Keeps (s.adjust k o v) := .ite h h.setReg.note
theorem Origin.Keeps.ignored : s₀.Keeps (s.ignored k o) := h.note
theorem Origin.Keeps.adjustAll : s₀.Keeps s.adjustAll := (h.adjust.adjust.adjust.forN (fun _ _ h => h.adjust)).adjust

theorem Origin.Keeps.ignoreAll : s₀.Keeps s.ignoreAll :=
  ((h.forN (fun _ _ h => .ite h h.ignored)).forN (fun _ _ h => .ite h.ignored h)).andThen fun h => Origin.Keeps.andThen (.ite h.ignored h)
      fun h => .ite h.ignored.configBad h

theorem Origin.Keeps.closeSlots : s₀.Keeps s.closeSlots := by
  unfold State.closeSlots
  exact .slotSet (.ite h h.slotSet)

theorem Origin.Keeps.lockAll : s₀.Keeps s.lockAll := h.closeSlots.same.forN (fun _ _ h => h.setField.domAsk)
theorem Origin.Keeps.stepNine : s₀.Keeps s.stepNine := Origin.Keeps.andThen (.ite h.setStep.join h.setStep) fun h => .ite h h.joinEnded

theorem Origin.Keeps.execStartLock : Out.Keeps (Machine.execStartLock t s) s₀ :=
  .next (.ite h.at (.ite h.at.lockAll.setStep (.ite h.at h.at.adjustAll.ignoreAll.lockAll.stepNine)))

theorem Origin.Keeps.execCxlLinkTrained {gts width : Nat} : Out.Keeps (Machine.execCxlLinkTrained t gts width s) s₀ :=
  .ite (.next h.at) (.next (.ite h.at.same.err h.at.same))

theorem Origin.Keeps.jobCut : s₀.Keeps (s.jobCut q) := by
  unfold State.jobCut
  split
  · exact h
  · exact .ite h.jobEnd h

theorem Origin.Keeps.linkDown : s₀.Keeps s.linkDown := .ite h.same (h.same.foldl (fun _ _ h => h.jobCut))
theorem Origin.Keeps.execCxlLinkDown : Out.Keeps (Machine.execCxlLinkDown t s) s₀ := .next h.at.linkDown
theorem Origin.Keeps.execPerstN : Out.Keeps (Machine.execPerstN t s) s₀ := .next (.ite h.at.linkDown h.at)

theorem Origin.Keeps.hostRefused {write : Bool} : s₀.Keeps (s.hostRefused a write) :=
  Origin.Keeps.andThen (.ite h h.useFree.same) fun h => .ite h h.same.err

theorem Origin.Keeps.hostTakes {write : Bool} : s₀.Keeps (s.hostTakes line write) := by
  unfold State.hostTakes
  exact (h.forN fun _ _ h => h.snoopLine).same.track

theorem Origin.Keeps.hostRead : s₀.Keeps (s.hostRead a) :=
  Origin.Keeps.andThen (.ite h.devLine.hostTakes.busErrLog h.devLine.hostTakes) fun h => .ite h.useFree.same h.same

theorem Origin.Keeps.hostWrite {v : Word} : s₀.Keeps (s.hostWrite a v) :=
  h.touchMem.hostTakes.andThen fun h => .ite h (h.setMem mwrW_wf).mergePut.mergeFull

theorem Origin.Keeps.execHostMemoryAccess {dpa : BitVec 46} {write : Bool} {v : Word}
    : Out.Keeps (Machine.execHostMemoryAccess t dpa write v s) s₀ :=
  .next (.ite h.at (.ite h.at.hostRefused (.ite h.at.hostWrite h.at.hostRead)))

theorem Origin.Keeps.setConn {x : Transport} {y : SpdmSt} : s₀.Keeps (s.setConn x y) := h.same
theorem Origin.Keeps.spdmSay {x : Transport} {r : SpdmResp} : s₀.Keeps (s.spdmSay x r) := h.setConn
theorem Origin.Keeps.spdmSend {x : Transport} {r : SpdmResp} {size : Nat} : s₀.Keeps (s.spdmSend x r size) := .ite h.setConn h.spdmSay

theorem Origin.Keeps.spdmDo {f : State → State} (hf : ∀ s, s₀.Keeps s → s₀.Keeps (f s)) : Out.Keeps (s.spdmDo f) s₀ :=
  .next (.ite (hf _ h) h)

theorem Origin.Keeps.afterAlgs {x : Transport} {f : State → Bool → State} (hf : ∀ s x, s₀.Keeps s → s₀.Keeps (f s x))
    : s₀.Keeps (s.afterAlgs x f) := by
  unfold State.afterAlgs
  split
  · exact h.spdmSay
  · exact hf _ _ h

theorem Origin.Keeps.execGetVersion {x : Transport} : Out.Keeps (Machine.execGetVersion x s) s₀ := h.spdmDo (fun _ h => h.setConn)

theorem Origin.Keeps.execGetCapabilities {x : Transport} : Out.Keeps (Machine.execGetCapabilities x s) s₀ :=
  h.spdmDo (fun _ h => .ite h.setConn.spdmSay h.spdmSay)

theorem Origin.Keeps.execNegotiateAlgorithms {x : Transport} {extAsym : Bool} : Out.Keeps (Machine.execNegotiateAlgorithms x extAsym s) s₀ :=
  h.spdmDo (fun _ h => .ite h.setConn.spdmSay h.spdmSay)

theorem Origin.Keeps.execGetDigests {x : Transport} : Out.Keeps (Machine.execGetDigests x s) s₀ :=
  h.spdmDo (fun _ h => h.afterAlgs (fun _ _ h => h.spdmSay))

theorem Origin.Keeps.execGetCertificate {x : Transport} {slot offset length : Nat}
    : Out.Keeps (Machine.execGetCertificate x slot offset length s) s₀ :=
  h.spdmDo (fun _ h => h.afterAlgs (fun _ _ h => .ite h.spdmSay (.ite h.spdmSay h.spdmSend)))

theorem Origin.Keeps.useFree4 : s₀.Keeps s.useFree4 := h.same

theorem Origin.Keeps.execChallenge {x : Transport} {summary : Bool} {_nonce : BitVec 256}
    : Out.Keeps (Machine.execChallenge x summary _nonce s) s₀ :=
  h.spdmDo (fun _ h => .ite h.spdmSay (h.afterAlgs (fun _ _ h => .ite h.spdmSay (Origin.Keeps.andThen (.ite h.useFree4.useFree4 h.useFree4)
      fun h => h.useFree4.spdmSay))))

theorem Origin.Keeps.execGetMeasurements {x : Transport} {index : BitVec 8} {signed : Bool} {_nonce : BitVec 256}
    : Out.Keeps (Machine.execGetMeasurements x index signed _nonce s) s₀ :=
  h.spdmDo (fun _ h => .ite h.spdmSay (h.afterAlgs (fun _ _ h => .ite h.spdmSay (by
        split
        · exact h.spdmSay
        · exact Origin.Keeps.andThen (.ite h.useFree4.useFree4 h.useFree4) fun h => h.spdmSend))))

theorem Origin.Keeps.execChunkGet {x : Transport} {seq : Nat} : Out.Keeps (Machine.execChunkGet x seq s) s₀ :=
  h.spdmDo (fun _ h => (by split; exacts [h.spdmSay, .ite h.spdmSay h.setConn]))

theorem Origin.Keeps.execUnsupportedSpdmRequest {x : Transport} {_code : BitVec 8}
    : Out.Keeps (Machine.execUnsupportedSpdmRequest x _code s) s₀ :=
  h.spdmDo (fun _ h => h.spdmSay)

/-! ### `Sys2Proof/Machine/Frame.lean` -/

theorem Origin.Keeps.frameEnd : s₀.Keeps s.frameEnd := .ite h.same h
theorem Origin.Keeps.execFrameEnd : Out.Keeps (Machine.execFrameEnd t s) s₀ := .next h.at.frameEnd
theorem Origin.Keeps.roDrainAll : s₀.Keeps s.roDrainAll := h.foldl (fun _ _ h => h.roDrain)
theorem Origin.Keeps.rowRetire {lanes : Nat} {voters : Bool} : s₀.Keeps (s.rowRetire r lanes voters) := h.setRow.errWith

theorem Origin.Keeps.laneCheck {chk : DrainChecks} : s₀.Keeps (s.laneCheck chk r) :=
  .ite h ((h.foldl (fun _ _ h => h.laneOff)).andThen fun h => .ite h.rowRetire h.setRow)

theorem Origin.Keeps.stitchCheck {chk : DrainChecks} : s₀.Keeps (s.stitchCheck chk p) := .ite h (.ite h.setPort.err h.setPort)

theorem Origin.Keeps.checks {chk : DrainChecks} : s₀.Keeps (s.checks chk) :=
  ((h.forN (fun _ _ h => h.laneCheck)).foldl (fun _ _ h => h.stitchCheck)).andThen fun h => .ite h.mastFail h

theorem Origin.Keeps.relock : s₀.Keeps s.relock := h.same
theorem Origin.Keeps.ctxClear : s₀.Keeps (s.ctxClear c j) := (h.forN (fun _ _ h => h.rput)).setCtx
theorem Origin.Keeps.coreClear : s₀.Keeps (s.coreClear c) := h.setCore.forN (fun _ _ h => h.ctxClear)
theorem Origin.Keeps.cluClear : s₀.Keeps (s.cluClear k) := h.setClu.forN (fun _ _ h => h.coreClear)
theorem Origin.Keeps.zeroFrame : s₀.Keeps s.zeroFrame := h.filterRegs
theorem Origin.Keeps.haClear : s₀.Keeps s.haClear := h.foldl (fun _ _ h => h.haForget)
theorem Origin.Keeps.calDue : s₀.Keeps (s.calDue p) := .ite h.calBegin h
theorem Origin.Keeps.tdcDue : s₀.Keeps s.tdcDue := .ite h.same.setField h
theorem Origin.Keeps.activateAll : s₀.Keeps s.activateAll := h.activateSet

theorem Origin.Keeps.stepDue : s₀.Keeps s.stepDue := by
  unfold State.stepDue
  split
  · exact h.applyStep
  · exact h

theorem Origin.Keeps.intervalBegin : s₀.Keeps s.intervalBegin := h.same.useFree
theorem Origin.Keeps.pathsClear : s₀.Keeps s.pathsClear := h.same

theorem Origin.Keeps.resetInterval {chk : DrainChecks} : s₀.Keeps (s.resetInterval chk) :=
  (((h.stepDue.intervalBegin.forN (fun _ _ h => h.setRow)).forN (fun _ _ h =>
      h.cluClear)).pathsClear.haClear.checks.relock.activateAll.zeroFrame.foldl (fun _ _ h => h.calDue)).tdcDue.forN (fun _ _ h =>
      h.bistPoll)

theorem Origin.Keeps.execDrainComplete {chk : DrainChecks} : Out.Keeps (Machine.execDrainComplete t chk s) s₀ :=
  h.at.frameEnd.roDrainAll.andThen fun h => .next (.ite h.event.resetInterval h)

theorem Origin.Keeps.rowOverrun : s₀.Keeps (s.rowOverrun r) := .ite h (h.foldl (fun _ _ h => h.lateHit)).setRow.rowEof
theorem Origin.Keeps.sliceOverrun : s₀.Keeps (s.sliceOverrun k) := h.foldl (fun _ _ h => h.abandon)
theorem Origin.Keeps.overrun : s₀.Keeps s.overrun := ((h.errWith.forN (fun _ _ h => h.rowOverrun)).forN (fun _ _ h => h.sliceOverrun)).same

theorem Origin.Keeps.execFrameOverrun {chk : DrainChecks} : Out.Keeps (Machine.execFrameOverrun t chk s) s₀ :=
  h.at.frameEnd.roDrainAll.andThen fun h => .next (.ite h.overrun.resetInterval h)

theorem Origin.Keeps.modeTake : s₀.Keeps (s.modeTake f) := .ite h (.ite h.err h.setField.haForget.event)
theorem Origin.Keeps.chanCast : s₀.Keeps s.chanCast := h.same
theorem Origin.Keeps.rowPll : s₀.Keeps (s.rowPll r) := .ite h.setPll.setRow h

theorem Origin.Keeps.cluCast : s₀.Keeps (s.cluCast k) :=
  Origin.Keeps.andThen (.ite h.setPll.restart h) fun h => h.forN (fun _ _ h => h.setCore.forN (fun _ _ h => h.setCtx))

theorem Origin.Keeps.modeLeave : s₀.Keeps (s.modeLeave p) := .ite h.enter h
theorem Origin.Keeps.portOver : s₀.Keeps (s.portOver p) := .modeLeave (.ite h.closeStitch h)
theorem Origin.Keeps.portFresh : s₀.Keeps (s.portFresh p) := h.setPort.setField

theorem Origin.Keeps.badDesc {seen : List Nat} : s₀.Keeps (s.badDesc p seen) :=
  Origin.Keeps.andThen (.ite h.setField h.setField.err) fun h => .ite h.enter h

theorem Origin.Keeps.portCast {seen : List Nat} : s₀.Keeps (s.portCast p seen).1 :=
  .iteFst (.pair (.ite h.enter h)) (.iteFst (.iteFst h.badDesc.pair (.pair (.ite h.setField.enter h.setField))) h.setField.pair)

theorem Origin.Keeps.portsCast : s₀.Keeps s.portsCast :=
  (h.foldl (fun _ _ h => h.portFresh)).andThen fun h => ((h.forN (fun _ _ h => h.showMode)).pair.foldlFst (fun _ _ h => h.portCast)).forN
      (fun _ _ h => h.tryLeaveOff)

theorem Origin.Keeps.stitchCast : s₀.Keeps (s.stitchCast p) := .ite h.setPort h

theorem Origin.Keeps.rowCast : s₀.Keeps (s.rowCast r) :=
  .ite h.setRow ((h.forN (fun _ _ h => h.stitchCast)).andThen fun h => .ite h.setRow.rowEof.sticky h.setRow.rowTick)

theorem Origin.Keeps.inboxLate : s₀.Keeps (s.inboxLate r) := h.foldl (fun _ _ h => by split; exacts [.ite h.bump h.lateHit, h])
theorem Origin.Keeps.spikeCast : s₀.Keeps (s.spikeCast i) := .ite (h.setSpike.foldl (fun _ _ h => .ite h.spikeWait h.spikeEdge)) h.setSpike
theorem Origin.Keeps.faultCast : s₀.Keeps (s.faultCast p) := .ite h.feFaultIn h
theorem Origin.Keeps.ringCast : s₀.Keeps s.ringCast := h.same.ringDones

theorem Origin.Keeps.tdcCast : s₀.Keeps s.tdcCast := by
  unfold State.tdcCast
  split
  · exact .ite h.same.setField h
  · exact h

theorem Origin.Keeps.onceCast : s₀.Keeps s.onceCast := h.same
theorem Origin.Keeps.frameBegin {start : Nat} : s₀.Keeps (s.frameBegin start) := h.same
theorem Origin.Keeps.effCast : s₀.Keeps s.effCast := h.castRegs.forN fun _ _ h => .ite h h.buildClasses
theorem Origin.Keeps.frameOver : s₀.Keeps s.frameOver := ((h.forN (fun _ _ h => h.inboxLate)).foldl (fun _ _ h => h.portOver)).zeroFrame

theorem Origin.Keeps.unitsCast : s₀.Keeps s.unitsCast :=
  (((h.forN (fun _ _ h => h.modeTake)).frameOver.effCast.chanCast.forN (fun _ _ h => h.domNext.rowPll)).forN (fun _ _ h =>
      h.cluClear.cluCast)).pathsClear.tdcCast.onceCast.setExpect.portsCast

theorem Origin.Keeps.castOnNow {start : Nat} : s₀.Keeps (s.castOnNow start) :=
  Origin.Keeps.andThen (.ite h.settleAll.activateAll h.settleAll)
      fun h => h.gcSuspend.unitsCast.setField.frameBegin.andThen fun h => ((((h.setField.same.dropOld.forN (fun _ _ h =>
      h.rowCast)).ringCast.forN (fun _ _ h => h.coverage)).forN (fun _ _ h => h.spikeCast)).foldl (fun _ _ h => h.faultCast)).setStep.event

theorem Origin.Keeps.execCastOn : Out.Keeps (Machine.execCastOn t s) s₀ := .next (by split; exacts [h.at, .ite h.at h.at.castOnNow])

/-! ### `Sys2Proof/Machine/RingMgmt.lean` -/

theorem Origin.Keeps.answer {m : RingMsg} {status : Nat} {data : Word} : s₀.Keeps (s.answer m status data) := h.originate
theorem Origin.Keeps.served {m : RingMsg} {status : Nat} {data : Word} : s₀.Keeps (s.served m status data) := h.same.answer

theorem Origin.Keeps.serveRd {m : RingMsg} : s₀.Keeps (s.serveRd m) := by
  unfold State.serveRd
  extract_lets
  split
  · exact h.answer
  · exact .ite h.served (.ite h.useFree.served (Origin.Keeps.andThen (.ite h.barRead h.badAccess) fun h => h.served))

theorem Origin.Keeps.execRd {i : RingPort} {m : RingMsg} : Out.Keeps (Machine.execRd t i m s) s₀ :=
  .next (h.at.receive (fun _ h => h.serveRd))

theorem Origin.Keeps.serveWr {m : RingMsg} : s₀.Keeps (s.serveWr m) := by
  unfold State.serveWr
  extract_lets
  split
  · exact h.answer
  · exact .ite h.answer (.ite h.served (.ite h.badAccess.served h.barWrite.served))

theorem Origin.Keeps.execWr {i : RingPort} {m : RingMsg} : Out.Keeps (Machine.execWr t i m s) s₀ :=
  .next (h.at.receive (fun _ h => h.serveWr))

theorem Origin.Keeps.ackIn {m : RingMsg} : s₀.Keeps (s.ackIn m) := by
  unfold State.ackIn
  split
  · exact h
  · exact h.jobCommit.jobEnd

theorem Origin.Keeps.execAck {i : RingPort} {m : RingMsg} : Out.Keeps (Machine.execAck t i m s) s₀ :=
  .next (h.at.receive (fun _ h => h.ackIn))

theorem Origin.Keeps.execMgmtRetransmit {seq : BitVec 32} : Out.Keeps (Machine.execMgmtRetransmit t seq s) s₀ := by
  unfold Machine.execMgmtRetransmit
  extract_lets
  split
  · exact .next h.at
  · exact .ite (.next h.at.jobEnd) (.next (.ite h.at.same.originate.jobCommit h.at.same.originate))

theorem Origin.Keeps.bulkIn {m : RingMsg} : s₀.Keeps (s.bulkIn m) :=
  .ite h.originate (by split; exacts [h.engineWrite.fst.originate, h.engineWrite.fst.originate])

theorem Origin.Keeps.execBwrite {i : RingPort} {m : RingMsg} : Out.Keeps (Machine.execBwrite t i m s) s₀ :=
  .next (h.at.receive (fun _ h => h.bulkIn))

theorem Origin.Keeps.bulkDone {m : RingMsg} : s₀.Keeps (s.bulkDone m) := by
  unfold State.bulkDone
  split
  · exact h
  · split
    · exact h
    · exact .ite h.setQueue h.setQueue.jobEnd

theorem Origin.Keeps.execBdone {i : RingPort} {m : RingMsg} : Out.Keeps (Machine.execBdone t i m s) s₀ :=
  .next (h.at.receive (fun _ h => h.bulkDone))

/-! ### `Sys2Proof/Machine/Dispatch.lean` -/

theorem Origin.Keeps.exec {i : Instr} (hs : ¬ s₀.sends) : Out.Keeps (Machine.exec i s) s₀ := by
  unfold Machine.exec
  split
  · exact h.execRegisterWrite
  · exact h.execMisalignedRegisterAccess
  · exact h.execFrameMark
  · exact h.execFmsoftWrite
  · exact h.execFrameEnd
  · exact h.execDrainComplete
  · exact h.execCastOn
  · exact h.execFrameOverrun
  · exact h.execUplinkIdle
  · exact h.execUplinkTrain
  · exact h.execTick
  · exact h.execEcho
  · exact h.execStatus
  · exact h.execScReply
  · exact h.execCredit
  · exact h.execInvalidUplinkBlock
  · exact h.execHitBlock
  · exact h.execStitchPipeline
  · exact h.execBlockLockGained
  · exact h.execBlockLockLost
  · exact h.execTrainTimeout
  · exact h.execSyncCommand
  · exact h.execSyncTimeout
  · exact h.execEchoCommand
  · exact h.execEchoTimeout
  · exact h.execPrtEnable
  · exact h.execPrtForceDead
  · exact h.execPrtRetrain
  · exact h.execCalStart
  · exact h.execFcsend
  · exact h.execSlowControlSend
  · exact h.execReadoutRecordSend
  · exact h.execRegmapDataAccess
  · exact h.execChcntData1Read
  · exact h.execAutomaskClear
  · exact h.execRowHitArrival
  · exact h.execRowMergeSelect
  · exact h.execRowFlush
  · exact h.execCopyStage
  · exact h.execCrossbarGrant
  · exact h.execWatermarkMessage
  · exact h.execStreamStall
  · exact h.execHistoryLineWrite
  · exact h.execDmapDataAccess
  · exact h.execDispatchWordArrival
  · exact h.execWatermarkReceive
  · exact h.execSliceDispatch
  · exact h.execSliceStart
  · exact h.execSliceCommit
  · exact h.execSliceTimeout
  · exact h.execUnravel
  · exact h.execProvClear
  · exact h.execCandidateTransfer
  · exact h.execContextSwitch
  · exact h.execCtxTimerExpiry
  · exact h.execCtxTimerWrite
  · exact h.execInterruptTaken
  · exact h.execFiqEntry
  · exact h.execHoldOverrun
  · exact h.execTwoPlyWord
  · exact h.execNopS
  · exact h.execAdd
  · exact h.execSub
  · exact h.execMul
  · exact h.execCmp
  · exact h.execMin
  · exact h.execMax
  · exact h.execAddi
  · exact h.execAndR
  · exact h.execOrR
  · exact h.execXorR
  · exact h.execAndi
  · exact h.execOri
  · exact h.execXori
  · exact h.execShl
  · exact h.execShr
  · exact h.execShru
  · exact h.execShli
  · exact h.execShri
  · exact h.execMovi
  · exact h.execMov
  · exact h.execTag
  · exact h.execEqR
  · exact h.execRetag
  · exact h.execCvtf
  · exact h.execCvti
  · exact h.execTchk
  · exact h.execFld
  · exact h.execLd
  · exact h.execPageWalk
  · exact h.execLineFill
  · exact h.execSt
  · exact h.execStoreRelease
  · exact h.execLda
  · exact h.execSta
  · exact h.execCar
  · exact h.execCdr
  · exact h.execLdp
  · exact h.execStp
  · exact h.execSetcar
  · exact h.execSetcdr
  · exact h.execVld
  · exact h.execVst
  · exact h.execVlen
  · exact h.execCons
  · exact h.execAllocv
  · exact h.execCpyl
  · exact h.execAssoc
  · exact h.execHlook
  · exact h.execHset
  · exact h.execLlen
  · exact h.execHalloc
  · exact h.execHgc
  · exact h.execCollectionCycle
  · exact h.execB
  · exact h.execBS
  · exact h.execCall
  · exact h.execCallS
  · exact h.execBc
  · exact h.execBcS
  · exact h.execRet
  · exact h.execJ
  · exact h.execCallr
  · exact h.execEret
  · exact h.execLbrk
  · exact h.execWret
  · exact h.execWcall
  · exact h.execLoopr
  · exact h.execLoopi
  · exact h.execRepr
  · exact h.execRepi
  · exact h.execSys
  · exact h.execMfs
  · exact h.execMts
  · exact h.execXmul
  · exact h.execXfma
  · exact h.execFence
  · exact h.execDsync
  · exact h.execTlbiA
  · exact h.execTlbiW
  · exact h.execTlbiAll
  · exact h.execTlblk
  · exact h.execTlbul
  · exact h.execPreload
  · exact h.execL2lock
  · exact h.execStage
  · exact h.execCx
  · exact h.execSafePointOverrun
  · exact h.execDecodeTableAccess
  · exact h.execCluL2lockWrite
  · exact h.execEvictionAccept
  · exact h.execSnoop
  · exact h.execMemoryRead
  · exact h.execPageDecode
  · exact h.execMemoryWrite
  · exact h.execMergeComplete
  · exact h.execFlipArm
  · exact h.execPowerOnFill
  · exact h.execFillDone
  · exact h.execStackFailure
  · exact h.execCandidateTake
  · exact h.execDoneTime
  · exact h.execSlotReport
  · exact h.execSlotCutoff
  · exact h.execSystemCutoff
  · exact h.execReadoutGather
  · exact h.execMstTabAccess
  · exact h.execMastheadActivation
  · exact h.execSwap
  · exact h.execFecCodeword
  · exact h.execRingIdle
  · exact h.execTsyncSend
  · exact h.execTsync
  · exact h.execDecision
  · exact h.execCand
  · exact h.execDone
  · exact h.execDoneSend
  · exact h.execLoss
  · exact h.execContributorAbsent
  · exact h.execFcrel
  · exact h.execHello
  · exact h.execLeave
  · exact h.execProbe
  · exact h.execConflict
  · exact h.execRd
  · exact h.execWr
  · exact h.execAck
  · exact h.execMgmtRetransmit
  · exact h.execBwrite
  · exact h.execBdone
  · exact h.execRingLossOfSignal
  · exact h.execRingPortTrained
  · exact h.execJoin
  · exact h.execJoinComplete
  · exact h.execLeaveRequest
  · exact h.execBypassClose
  · exact h.execDoorbellWrite
  · exact h.execDoorbellArm
  · exact h.execQueueInterrupt
  · exact h.execQueueEnable
  · exact h.execQueueDisable
  · exact h.execAbortRequest
  · exact h.execAbortDecide
  · exact h.execNorRead
  · exact h.execNorErase
  · exact h.execNorProgram
  · exact h.execRingRd
  · exact h.execRingWr
  · exact h.execFcrelJob
  · exact h.execBwriteJob
  · exact h.execJobComplete
  · exact h.execHitDecodeWork
  · exact h.execHitDecodeReply
  · exact h.execOrderingReply
  · exact h.execRuleEvalReply
  · exact h.execCombineReply
  · exact h.execHeapKeepReply
  · exact h.execLinkCalReply
  · exact h.execSlowPathReply
  · exact h.execHaTimeout
  · exact h.execHostMemoryAccess
  · exact h.execCxlLinkTrained
  · exact h.execErrorRecordWrite hs
  · exact h.execClearLog
  · exact h.execClearFirst
  · exact h.execErrInject
  · exact h.execDeviceReset
  · exact h.execUndervoltageRelease
  · exact h.execEnableHigh
  · exact h.execEnableLow
  · exact h.execUndervoltageTrip
  · exact h.execOvervoltageTrip
  · exact h.execAoStart hs
  · exact h.execAoPowerLoss
  · exact h.execInputOvercurrent
  · exact h.execResetN
  · exact h.execPerstN
  · exact h.execLaserWarmupDone
  · exact h.execStartLock
  · exact h.execGetVersion
  · exact h.execGetCapabilities
  · exact h.execNegotiateAlgorithms
  · exact h.execGetDigests
  · exact h.execGetCertificate
  · exact h.execChallenge
  · exact h.execGetMeasurements
  · exact h.execChunkGet
  · exact h.execUnsupportedSpdmRequest
  · exact h.execFuseProgram
  · exact h.execFuseRevoke
  · exact h.execFuseDone
  · exact h.execDomainRequest
  · exact h.execDomainTransitionDone
  · exact h.execClusterIdle
  · exact h.execClusterWritebackDone
  · exact h.execHbmIdle
  · exact h.execPllLockLoss
  · exact h.execCrossingHold
  · exact h.execCrossingStallTimeout
  · exact h.execTemperatureSample
  · exact h.execSyncEdge
  · exact h.execSourceLost
  · exact h.execTimeLocked
  · exact h.execSourceRestored
  · exact h.execSpikeEdge
  · exact h.execTdcCalStart
  · exact h.execTdcCalDone
  · exact h.execBistStart
  · exact h.execBistDrain
  · exact h.execBistDone
  · exact h.execFastCommandDeparture
  · exact h.execPllLockGained
  · exact h.execCxlLinkDown
  · exact h.execAlignBlock
  · exact h.execIllegalInstruction

end

/-- A state keeps what it has. -/
theorem Origin.Keeps.rfl {s : State} {b : Prop} : (Origin.mk s b).Keeps s := ⟨.refl _, id, fun hr he => ⟨hr, he⟩, fun _ => List.prefix_refl _⟩

/-- One step from `s` keeps everything but the waiting command that it takes. -/
theorem step_keeps {s u : State} (h : step s = .next u) : Origin.Keeps ⟨{ s with pending := s.pending.tail }, False⟩ u := by
  unfold step at h
  split at h
  next hp =>
    cases h
    exact ⟨by rw [hp]; rfl, id, fun hr he => ⟨hr, he⟩, False.elim⟩
  next i rest hp =>
    have h₀ : Origin.Keeps ⟨{ s with pending := s.pending.tail }, False⟩ { s with pending := rest } :=
      ⟨by rw [hp]; rfl, id, fun hr he => ⟨hr, he⟩, False.elim⟩
    exact h₀.exec id u h

/-- Settles O5: the register table and its copy are canonical after every command, by the rule of each. -/
theorem stepKeepsRegistersCanonical : Obligations.StepKeepsRegistersCanonical := by
  intro s u hr he h
  exact (step_keeps h).regs hr he

end Sys2Proof.Machine
end

section
/-! PROOFS. The reset state (O6), what a write of a register leaves (O7) and accesses that are misaligned (O8). -/

namespace Sys2Proof.Machine

open Sys2Proof.Claims

/-! ### Reset -/

theorem State.reset_reg (o : Nat) : State.reset.reg o = regReset o := rfl

/-- Only the reset values of the four fixed domains have a bit above bit 7 in the PWR block's domain registers (Table 18.12). -/
theorem regReset_domain {d : Nat} (h : d < 96) :
    regReset (oPwr (0x100 + d * 8)) = if 92 ≤ d then 0xA000000000000000 else 0 := by
  rw [regReset, oPwr, if_neg (by omega), if_pos (by omega), if_neg (by omega)]
  by_cases h92 : 92 ≤ d
  · rw [if_pos h92, if_pos (by omega)]
  · rw [if_neg h92, if_neg (by omega), if_neg (by omega)]

theorem State.reset_domain {d : Nat} (h : d < 96) : State.reset.domain d = if 92 ≤ d then 2 else 0 := by
  rw [State.domain, State.field, State.reset_reg, regReset_domain h]
  split <;> decide

theorem mrd_reset (a : Nat) : mrd a State.reset.mem = memDefault a := rfl

theorem memDefault_of_lt {a i : Nat} (ha : a % 8 = 0) (hi : i < 7) : memDefault (a + i) = 0 := by
  rw [memDefault, if_neg (by omega)]

theorem mrdW_reset {a : Nat} (h8 : a % 8 = 0) (ha : a < 0x300000000000) : mrdW a State.reset.mem = uninit := by
  have h7 : memDefault (a + 7) = 1 := by rw [memDefault, if_pos (by omega)]
  simp only [mrdW, mrd_reset, List.range, List.range.loop, List.foldr, h7, memDefault_of_lt h8 (show 0 < 7 by omega),
    memDefault_of_lt h8 (show 1 < 7 by omega), memDefault_of_lt h8 (show 2 < 7 by omega), memDefault_of_lt h8 (show 3 < 7 by omega),
    memDefault_of_lt h8 (show 4 < 7 by omega), memDefault_of_lt h8 (show 5 < 7 by omega), memDefault_of_lt h8 (show 6 < 7 by omega)]
  decide

/-- Settles O6: an unlisted register, unit or byte reads as its reset value. -/
theorem resetState : Obligations.ResetState := by
  refine ⟨rfl, rfl, State.reset_reg, fun _ => rfl, fun d hd => ?_, fun d hd hd' => ?_, fun _ => rfl, fun _ => mrdW_reset⟩
  · rw [State.reset_domain (by omega), if_neg (by omega)]
  · rw [State.reset_domain hd', if_pos hd]

/-! ### Misaligned accesses -/

theorem State.badAccess_errs (s : State) (off : Nat) (write : Bool) :
    ∃ e, (s.badAccess off write).errs = s.errs ++ [e] ∧ e.cls = 1 ∧ e.src = 11 ∧ e.unit = 0 ∧ e.code = 1 := by
  cases write <;> exact ⟨_, rfl, rfl, rfl, rfl, rfl⟩

theorem State.badAccess_sentError (s : State) (off : Nat) (write : Bool) : SentError (s.badAccess off write) 1 11 0 1 := by
  obtain ⟨e, he, h⟩ := s.badAccess_errs off write
  exact ⟨e, by rw [he, List.getLast?_concat], h⟩

@[simp] theorem State.badAccess_regs (s : State) (off : Nat) (write : Bool) : (s.badAccess off write).regs = s.regs := by
  cases write <;> rfl

@[simp] theorem State.badAccess_mem (s : State) (off : Nat) (write : Bool) : (s.badAccess off write).mem = s.mem := by
  cases write <;> rfl

theorem State.badAccess_errs_length (s : State) (off : Nat) (write : Bool) :
    (s.badAccess off write).errs.length = s.errs.length + 1 := by
  obtain ⟨e, he, -⟩ := s.badAccess_errs off write
  rw [he, List.length_append, List.length_singleton]

/-- Settles O8: the access ends in `State.badAccess`. -/
theorem misalignedAccessHasNoEffect : Obligations.MisalignedAccessHasNoEffect := by
  constructor
  · intro t off size write v s h
    refine ⟨(s.at t).badAccess off write, ?_, ?_⟩
    · show execMisalignedRegisterAccess t off size write v s = _
      rw [execMisalignedRegisterAccess, if_neg h]
    · refine ⟨by simp, by simp, (s.at t).badAccess_sentError off write, (s.at t).badAccess_errs_length off write, ?_, ?_⟩
      · rintro rfl; rfl
      · rintro rfl; rfl
  · intro t path off v s h
    refine ⟨(s.at t).badAccess off.toNat true, ?_, by simp, (s.at t).badAccess_sentError off.toNat true⟩
    show execRegisterWrite t path off v s = _
    rw [execRegisterWrite, if_pos h]

/-! ### Fields of a register -/

/-- The fields lie in the word, and no two share a bit. -/
def apart : List Field → Bool
  | [] => true
  | f :: l => decide (f.lo ≤ f.hi ∧ f.hi < 64) && l.all (fun g => decide (g.hi < f.lo ∨ f.hi < g.lo)) && apart l

theorem apart_cons {f : Field} {l : List Field} :
    apart (f :: l) = true ↔ (f.lo ≤ f.hi ∧ f.hi < 64) ∧ (∀ g ∈ l, g.hi < f.lo ∨ f.hi < g.lo) ∧ apart l = true := by
  simp [apart, and_assoc]

/-- A table of registers whose fields are apart, whatever the offset. -/
theorem apart_ite {c : Prop} [Decidable c] {l m : List Field} (hl : apart l = true) (hm : apart m = true) :
    apart (if c then l else m) = true := by split <;> assumption

theorem apart_fieldsOf (o : Nat) : apart (fieldsOf o) = true := by
  unfold fieldsOf fieldsDev fieldsPwr fieldsSec fieldsFmt fieldsMst fieldsShr fieldsTmg fieldsMem fieldsUcs fieldsPrt fieldsRow
    fieldsClu fieldsCore fieldsQue fieldsMsix
  repeat' apply apart_ite
  all_goals rfl

/-- What a write of software leaves in a field, by its access code (R10, R13). -/
def Field.left (f : Field) (old n : Nat) : Nat :=
  match f.acc with
  | .rw => if f.ok n then n else old
  | .rw1c => old &&& (2 ^ (f.hi + 1 - f.lo) - 1 - n)
  | .rw1s => old ||| n
  | .ro => old
  | .wo => old
  | .lck => old

theorem Field.left_lt (f : Field) {old n : Nat} (ho : old < 2 ^ (f.hi + 1 - f.lo)) (hn : n < 2 ^ (f.hi + 1 - f.lo)) :
    f.left old n < 2 ^ (f.hi + 1 - f.lo) := by
  unfold Field.left
  split
  · split <;> assumption
  · exact Nat.and_lt_two_pow _ (by omega)
  · exact Nat.or_lt_two_pow ho hn
  all_goals exact ho

/-- A field written with what it holds. -/
theorem setBf_bf (w : Word) {hi lo : Nat} (h : lo ≤ hi) : setBf w hi lo (bf w hi lo) = w := by
  have hs := word_split w h
  rw [Nat.mul_add] at hs
  refine BitVec.eq_of_toNat_eq ?_
  rw [setBf, Nat.mod_eq_of_lt (bf_lt ..), BitVec.toNat_ofNat, Nat.shiftLeft_eq, Nat.mul_comm, Nat.sub_add_cancel (by omega),
    Nat.mod_eq_of_lt w.isLt]

/-- A write of one field sets its bits to what its access code leaves. -/
theorem Field.write_eq (f : Field) (old v : Word) (h : f.lo ≤ f.hi) :
    f.write false old v = setBf old f.hi f.lo (f.left (bf old f.hi f.lo) (bf v f.hi f.lo)) := by
  have same := (setBf_bf old h).symm
  unfold Field.write Field.left
  cases f.acc with
  | ro => exact same
  | wo => exact same
  | lck => simpa using same
  | rw =>
    dsimp only
    split
    · rfl
    · exact same
  | rw1c => rfl
  | rw1s => rfl

theorem Field.bf_write_self {f : Field} (old v : Word) (h : f.lo ≤ f.hi) (h64 : f.hi < 64) :
    bf (f.write false old v) f.hi f.lo = f.left (bf old f.hi f.lo) (bf v f.hi f.lo) := by
  rw [f.write_eq old v h, bf_setBf_self _ _ h h64, Nat.mod_eq_of_lt (f.left_lt (bf_lt ..) (bf_lt ..))]

theorem Field.testBit_write {f : Field} (old v : Word) (h : f.lo ≤ f.hi) (h64 : f.hi < 64) {i : Nat} (hi : i < f.lo ∨ f.hi < i) :
    (f.write false old v).toNat.testBit i = old.toNat.testBit i := by
  rw [f.write_eq old v h, setBf_testBit _ _ _ h h64, if_neg (by omega)]

/-- Bits of none of the fields keep their values. -/
theorem testBit_foldl_write {l : List Field} (hl : apart l = true) (old v : Word) {i : Nat} (hi : ∀ f ∈ l, i < f.lo ∨ f.hi < i) :
    (l.foldl (fun w f => f.write false w v) old).toNat.testBit i = old.toNat.testBit i := by
  induction l generalizing old with
  | nil => rfl
  | cons f l ih =>
    obtain ⟨⟨h, h64⟩, -, hl⟩ := apart_cons.1 hl
    rw [List.foldl_cons, ih hl _ fun g hg => hi g (by simp [hg]), f.testBit_write old v h h64 (hi f (by simp))]

theorem bf_foldl_write_other {l : List Field} (hl : apart l = true) (old v : Word) {hi lo : Nat}
    (hd : ∀ f ∈ l, f.hi < lo ∨ hi < f.lo) : bf (l.foldl (fun w f => f.write false w v) old) hi lo = bf old hi lo := by
  refine Nat.eq_of_testBit_eq fun k => ?_
  rw [bf_testBit, bf_testBit]
  by_cases hk : k < hi + 1 - lo
  · rw [testBit_foldl_write hl old v fun f hf => by have := hd f hf; omega]
  · simp [hk]

/-- Each field holds what its access code leaves. -/
theorem bf_foldl_write {l : List Field} (hl : apart l = true) (old v : Word) {f : Field} (hf : f ∈ l) :
    bf (l.foldl (fun w f => f.write false w v) old) f.hi f.lo = f.left (bf old f.hi f.lo) (bf v f.hi f.lo) := by
  induction l generalizing old with
  | nil => cases hf
  | cons g l ih =>
    obtain ⟨⟨h, h64⟩, hd, hl'⟩ := apart_cons.1 hl
    rw [List.foldl_cons]
    rcases List.mem_cons.1 hf with rfl | hf
    · rw [bf_foldl_write_other hl' _ v hd, f.bf_write_self old v h h64]
    · rw [ih hl' _ hf]
      congr 1
      rw [g.write_eq old v h, bf_setBf_disjoint _ _ h h64 (hd f hf)]

/-! ### Plain registers -/

/-- A register with no RW1C field takes the value as written. -/
theorem State.keepRaised_eq (s : State) (o : Nat) (v : Word) (h : ∀ f ∈ fieldsOf o, f.acc ≠ .rw1c) : s.keepRaised o v = v := by
  unfold State.keepRaised
  refine List.foldlRecOn _ _ (motive := fun w => w = v) rfl fun w hw f hf => ?_
  split
  next hc => exact absurd hc (h f hf)
  next => exact hw

theorem State.regWrite_of_plain (s : State) {o : Nat} (v : Word) (h : ∀ f ∈ fieldsOf o, f.acc ≠ .rw1c) (hp : o ≠ oPwr 0)
    (hm : o < 0x80000 ∨ 0x90000 ≤ o) : s.regWrite false o v = s.setReg o (regWritten false o (s.reg o) v) := by
  have hb : pwrCtrlBad o v = false := by simp [pwrCtrlBad, hp]
  have ha : s.memAbsent o = false := by simp only [State.memAbsent, decide_eq_false_iff_not]; omega
  rw [State.regWrite, s.keepRaised_eq o v h, if_neg (by simp [hb, ha])]

/-- No field of the list is RW1C. -/
def noClear (l : List Field) : Bool := l.all fun f => f.acc != .rw1c

theorem noClear_ite {c : Prop} [Decidable c] {l m : List Field} (hl : noClear l = true) (hm : noClear m = true) :
    noClear (if c then l else m) = true := by split <;> assumption

theorem noClear_fieldsOf_of_plain {o : Nat} (h : plainReg o) : noClear (fieldsOf o) = true := by
  obtain ⟨h8, rfl | ⟨h1, h2, -⟩ | ⟨h1, h2, h3⟩ | ⟨h1, h2⟩⟩ := h
  · rfl
  · simp only [oTmg] at h1 h2
    unfold fieldsOf fieldsTmg
    iterate 7 rw [if_neg (by omega)]
    rw [if_pos (by omega)]
    repeat' apply noClear_ite
    all_goals rfl
  · unfold fieldsOf fieldsRow
    iterate 14 rw [if_neg (by omega)]
    rw [if_pos (by omega)]
    repeat' apply noClear_ite
    all_goals rfl
  · unfold fieldsOf fieldsMsix
    iterate 20 rw [if_neg (by omega)]
    rw [if_pos (by omega)]
    exact noClear_ite rfl rfl

theorem plainReg_no_rw1c {o : Nat} (h : plainReg o) : ∀ f ∈ fieldsOf o, f.acc ≠ .rw1c := by
  simpa [noClear] using noClear_fieldsOf_of_plain h

theorem State.blockWrite_of_plain (s : State) {o : Nat} (v : Word) (h : plainReg o) :
    s.blockWrite false o v = s.setReg o (regWritten false o (s.reg o) v) := by
  have hw := s.regWrite_of_plain v (plainReg_no_rw1c h)
  obtain ⟨h8, rfl | ⟨h1, h2, h3, h4⟩ | ⟨h1, h2, h3⟩ | ⟨h1, h2⟩⟩ := h
  · exact hw (by decide) (by decide)
  · rw [State.blockWrite, State.tmgBlock, if_neg h3, if_neg h4, if_neg (Nat.ne_of_gt h1)]
    simp only [oTmg] at h1 h2
    iterate 7 rw [if_neg (by omega)]
    rw [if_pos (by omega)]
    exact hw (by rw [oPwr]; omega) (by omega)
  · have hd : o ≠ oUcs 0x20 := by rw [oUcs]; omega
    rw [State.blockWrite, State.rowBlock, if_neg hd]
    iterate 11 rw [if_neg (by omega)]
    rw [if_pos (by omega)]
    iterate 3 rw [if_neg (by omega)]
    exact hw (by rw [oPwr]; omega) (by omega)
  · have hd : o ≠ oUcs 0x20 := by rw [oUcs]; omega
    rw [State.blockWrite, if_neg hd]
    iterate 15 rw [if_neg (by omega)]
    exact hw (by rw [oPwr]; omega) (by omega)

/-- Settles O7: the fields of a register share no bit, so each shows what its own write left. -/
theorem registerWritesFollowAccessCodes : Obligations.RegisterWritesFollowAccessCodes := by
  refine ⟨fun o old v => ⟨fun f hf => bf_foldl_write (apart_fieldsOf o) old v hf, fun i hi hf => ?_⟩, fun t off v s hp hm hl => ?_⟩
  · exact testBit_foldl_write (apart_fieldsOf o) old v hf
  · show execRegisterWrite t .host off v s = _
    have ho : (s.at t).writeOpen .host off.toNat = true := by simp [State.writeOpen, hm, hl]
    rw [execRegisterWrite, if_neg (by simpa using hp.1), State.barWrite, if_pos ho, State.blockWrite_of_plain _ _ hp]
    rfl

end Sys2Proof.Machine
end

section
/-! PROOFS. Frames: a frame ends in its drain, and the drain in the reset interval with the empty state (O9). -/

namespace Sys2Proof.Machine

open Sys2Proof.Claims

/-! ### Work aside from the frame

Memory control, error events, live tables, checks and calibrations write neither memory nor the time, the frame, the clusters, the cores and
what is on its way between rows and clusters. -/

structure State.Aside (s₀ s : State) : Prop where
  mem : s.mem = s₀.mem
  now : s.now = s₀.now
  frame : s.frame = s₀.frame
  clus : s.clus = s₀.clus
  cores : s.cores = s₀.cores
  cluIn : s.cluIn = s₀.cluIn
  wmIn : s.wmIn = s₀.wmIn

section
variable {s₀ s u : State} {α : Type}

theorem State.Aside.refl (s : State) : s.Aside s := ⟨rfl, rfl, rfl, rfl, rfl, rfl, rfl⟩

theorem State.Aside.same (h : s₀.Aside s)
    {pending free small rdata regs eff raised errs errNum ports chans regionS regionA dmapS dmapA rows wms xbar spikes time reports
    queues ha lastMsi irqErr irqCast irqBind irqs outqs ring mast mastS mastA bad suspect decodes flips merges filter hostLines
    world ucode gc flash memActive pwr fuses boot spdm cxl} :
    s₀.Aside { s with
      pending, free, small, rdata, regs, eff, raised, errs, errNum, ports, chans, regionS, regionA, dmapS, dmapA, rows, wms, xbar,
      spikes, time, reports, queues, ha, lastMsi, irqErr, irqCast, irqBind, irqs, outqs, ring, mast, mastS, mastA, bad, suspect,
      decodes, flips, merges, filter, hostLines, world, ucode, gc, flash, memActive, pwr, fuses, boot, spdm, cxl } :=
  ⟨h.mem, h.now, h.frame, h.clus, h.cores, h.cluIn, h.wmIn⟩

theorem State.Aside.setReg {o : Nat} {v : Word} (h : s₀.Aside s) : s₀.Aside (s.setReg o v) := h.same

theorem State.Aside.andThen {P : Prop} (h : s₀.Aside s) (f : s₀.Aside s → P) : P := f h

theorem State.Aside.ite {c : Prop} {_ : Decidable c} {a b : State} (ha : s₀.Aside a) (hb : s₀.Aside b) :
    s₀.Aside (if c then a else b) := by split <;> assumption

theorem State.Aside.iteFst {c : Prop} {_ : Decidable c} {a b : State × α} (ha : s₀.Aside a.1) (hb : s₀.Aside b.1) :
    s₀.Aside (if c then a else b).1 := by split <;> assumption

theorem State.Aside.pair {x : α} (h : s₀.Aside s) : s₀.Aside (s, x).1 := h

theorem State.Aside.foldl {f : State → α → State} {l : List α} (h : s₀.Aside s) (hf : ∀ s a, s₀.Aside s → s₀.Aside (f s a)) :
    s₀.Aside (l.foldl f s) := by
  induction l generalizing s with
  | nil => exact h
  | cons a l ih => exact ih (hf s a h)

end

section
variable {s₀ s : State} {b code f i k line m mask n o p pa r src unit v : Nat} (h : s₀.Aside s)
include h

theorem State.Aside.useFree : s₀.Aside s.useFree := h.same
theorem State.Aside.setPort {x : PortSt} : s₀.Aside (s.setPort p x) := h.same
theorem State.Aside.setRow {x : RowSt} : s₀.Aside (s.setRow r x) := h.same
theorem State.Aside.setHa {x : HaSt} : s₀.Aside (s.setHa f x) := h.same

theorem State.Aside.forN {f : State → Nat → State} (hf : ∀ s x, s₀.Aside s → s₀.Aside (f s x)) : s₀.Aside (Machine.forN n f s) :=
  h.foldl hf

theorem State.Aside.setField {hi lo : Nat} : s₀.Aside (s.setField o hi lo v) := h.setReg
theorem State.Aside.raiseBit : s₀.Aside (s.raiseBit o b) := h.setField.same
theorem State.Aside.bumpN : s₀.Aside (s.bumpN o n) := h.setReg
theorem State.Aside.bump : s₀.Aside (s.bump o) := h.bumpN

theorem State.Aside.errWith {cls slot d4 d5 d6 d7 : Nat} {cause : Option Nat}
    : s₀.Aside (s.errWith cls src unit code slot d4 d5 d6 d7 cause) := h.same

theorem State.Aside.err {cls d4 : Nat} : s₀.Aside (s.err cls src unit code d4) := h.errWith
theorem State.Aside.tabActivated : s₀.Aside (s.tabActivated k) := h.setField.setField.setField
theorem State.Aside.touchMem : s₀.Aside (s.touchMem pa) := .ite h (.ite h.same.setField h.same)
theorem State.Aside.logShow {newest : Nat} : s₀.Aside (s.logShow m newest) := h.setField.setField
theorem State.Aside.logErr {kind cause : Nat} : s₀.Aside (s.logErr m kind pa cause) := .ite (.ite h.err h) h.errWith
theorem State.Aside.logMerge : s₀.Aside (s.logMerge m i mask) := h.setField.setField.setField.logShow

theorem State.Aside.logCreate {kind : Nat} : s₀.Aside (s.logCreate m i kind pa mask src unit) :=
  h.setReg.raiseBit.setReg.setReg.useFree.setReg.logShow

theorem State.Aside.memLog {kind cause : Nat} : s₀.Aside (s.memLog m kind pa mask src unit cause) :=
  .ite h (by split; exacts [h.logMerge, (by split; exacts [h.setField.logErr, h.logCreate.logErr])])

theorem State.Aside.wrongWords : s₀.Aside (s.wrongWords line).1 := .iteFst h (.iteFst h (.iteFst (.iteFst h.useFree.pair h.useFree.pair) h))
theorem State.Aside.corrected : s₀.Aside (s.corrected m pa mask src unit) := .ite h h.same.bumpN.memLog
theorem State.Aside.decodeAsk : s₀.Aside (s.decodeAsk m pa mask) := .ite h.same h.same.same

theorem State.Aside.decodeEnd {fits : Bool} : s₀.Aside (s.decodeEnd m pa fits src unit) :=
  h.same.bump.wrongWords.corrected.andThen fun h => .ite h.same.bump.memLog h.same

theorem State.Aside.awaitPage : s₀.Aside (s.awaitPage pa) := .ite h.decodeEnd.useFree h

theorem State.Aside.scan : s₀.Aside (s.scan pa src unit) :=
  h.awaitPage.wrongWords.corrected.andThen fun h => .ite h (.ite h.decodeAsk.decodeEnd.useFree h.same)

theorem State.Aside.flipHook : s₀.Aside (s.flipHook m pa) := .ite h.same.setField h
theorem State.Aside.checkFold : s₀.Aside (s.checkFold pa src unit) := .ite h.wrongWords.corrected h.wrongWords.corrected.same.bump.memLog

theorem State.Aside.lineWrite : s₀.Aside (s.lineWrite pa mask src unit) :=
  State.Aside.andThen (.ite h.awaitPage.scan h.awaitPage) fun h => State.Aside.andThen (.ite h.same.checkFold h.same)
      fun h => State.Aside.andThen (.ite h (.ite (.ite h.same h.same.memLog) (State.Aside.andThen (.ite h.same h.same.memLog)
      fun h => .ite h.bump.memLog h))) fun h => h.flipHook

theorem State.Aside.mergeDone : s₀.Aside (s.mergeDone m line) := by
  unfold State.mergeDone
  extract_lets
  split
  · exact h
  · exact State.Aside.andThen (.ite h.same h.same.bump) fun h => h.lineWrite

theorem State.Aside.acceptLine {x : L2Line} : s₀.Aside (s.acceptLine x) :=
  .ite h (h.touchMem.mergeDone.lineWrite.andThen fun h => .ite h h.same.memLog)

theorem State.Aside.haForget {p : HaJob → Bool} : s₀.Aside (s.haForget f p) := h.setHa
theorem State.Aside.calBegin : s₀.Aside (s.calBegin p) := h.setPort.setField
theorem State.Aside.buildClasses : s₀.Aside (s.buildClasses r) := .ite h.setRow.err h.setRow

theorem State.Aside.fanoutBuild : s₀.Aside s.fanoutBuild := by
  unfold State.fanoutBuild
  dsimp only
  split
  · exact h.forN fun _ _ h => h.setRow
  · exact .err (h.forN fun _ _ h => h.setRow)

theorem State.Aside.laneOff : s₀.Aside (s.laneOff r i) := h.setRow.bump.err
theorem State.Aside.mastFail : s₀.Aside s.mastFail := .ite h h.same.err
theorem State.Aside.mastActivate : s₀.Aside s.mastActivate := h.same.tabActivated
theorem State.Aside.setExpect : s₀.Aside s.setExpect := h.setField.setField

theorem State.Aside.activate : s₀.Aside (s.activate k) :=
  .ite h.same.tabActivated (.ite h.same.tabActivated.fanoutBuild.setExpect (.ite h.mastActivate h.same.tabActivated))

theorem State.Aside.activateSet {ks : List Nat} : s₀.Aside (s.activateSet ks) :=
  (h.foldl (fun _ _ h => h.activate)).andThen fun h => .ite (h.forN (fun _ _ h => h.buildClasses)) h

theorem State.Aside.rowRetire {lanes : Nat} {voters : Bool} : s₀.Aside (s.rowRetire r lanes voters) := h.setRow.errWith

theorem State.Aside.laneCheck {chk : DrainChecks} : s₀.Aside (s.laneCheck chk r) :=
  .ite h ((h.foldl (fun _ _ h => h.laneOff)).andThen fun h => .ite h.rowRetire h.setRow)

theorem State.Aside.stitchCheck {chk : DrainChecks} : s₀.Aside (s.stitchCheck chk p) := .ite h (.ite h.setPort.err h.setPort)

theorem State.Aside.checks {chk : DrainChecks} : s₀.Aside (s.checks chk) :=
  ((h.forN (fun _ _ h => h.laneCheck)).foldl (fun _ _ h => h.stitchCheck)).andThen fun h => .ite h.mastFail h

theorem State.Aside.relock : s₀.Aside s.relock := h.same
theorem State.Aside.zeroFrame : s₀.Aside s.zeroFrame := h.same
theorem State.Aside.haClear : s₀.Aside s.haClear := h.foldl (fun _ _ h => h.haForget)
theorem State.Aside.calDue : s₀.Aside (s.calDue p) := .ite h.calBegin h
theorem State.Aside.tdcDue : s₀.Aside s.tdcDue := .ite h.same.setField h
theorem State.Aside.activateAll : s₀.Aside s.activateAll := h.activateSet

end

/-! ### Traffic to memory

A unit's access to memory, with the work of the caches and controllers it meets, writes neither time nor frame, ports, rows or ring, nor a
register of the blocks SEC, FMT, MST, SHR and TMG. -/

structure State.Traffic (s₀ s : State) : Prop where
  now : s.now = s₀.now
  frame : s.frame = s₀.frame
  time : s.time = s₀.time
  ports : s.ports = s₀.ports
  rows : s.rows = s₀.rows
  ring : s.ring = s₀.ring
  reg : ∀ o, 0x30000 ≤ o → o < 0x80000 → s.reg o = s₀.reg o

section
variable {s₀ s : State} {α : Type}

theorem State.Traffic.refl (s : State) : s.Traffic s := ⟨rfl, rfl, rfl, rfl, rfl, rfl, fun _ _ _ => rfl⟩

theorem State.Traffic.same (h : s₀.Traffic s)
    {pending free small rdata eff raised errs errNum chans regionS regionA dmapS dmapA wms xbar spikes reports queues ha lastMsi
    irqErr irqCast irqBind irqs outqs mast mastS mastA bad suspect decodes flips merges filter hostLines world ucode gc flash
    memActive pwr fuses boot spdm cxl cluIn wmIn clus cores mem} :
    s₀.Traffic { s with
      pending, free, small, rdata, eff, raised, errs, errNum, chans, regionS, regionA, dmapS, dmapA, wms, xbar, spikes, reports,
      queues, ha, lastMsi, irqErr, irqCast, irqBind, irqs, outqs, mast, mastS, mastA, bad, suspect, decodes, flips, merges, filter,
      hostLines, world, ucode, gc, flash, memActive, pwr, fuses, boot, spdm, cxl, cluIn, wmIn, clus, cores, mem } :=
  ⟨h.now, h.frame, h.time, h.ports, h.rows, h.ring, h.reg⟩

theorem State.Traffic.andThen {P : Prop} (h : s₀.Traffic s) (f : s₀.Traffic s → P) : P := f h

theorem State.Traffic.ite {c : Prop} {_ : Decidable c} {a b : State} (ha : s₀.Traffic a) (hb : s₀.Traffic b) :
    s₀.Traffic (if c then a else b) := by split <;> assumption

theorem State.Traffic.iteFst {c : Prop} {_ : Decidable c} {a b : State × α} (ha : s₀.Traffic a.1) (hb : s₀.Traffic b.1) :
    s₀.Traffic (if c then a else b).1 := by split <;> assumption

theorem State.Traffic.pair {x : α} (h : s₀.Traffic s) : s₀.Traffic (s, x).1 := h

theorem State.Traffic.foldl {f : State → α → State} {l : List α} (h : s₀.Traffic s) (hf : ∀ s a, s₀.Traffic s → s₀.Traffic (f s a)) :
    s₀.Traffic (l.foldl f s) := by
  induction l generalizing s with
  | nil => exact h
  | cons a l ih => exact ih (hf s a h)

end

section
variable {s₀ s : State} {a b code fuel i k line m mask n o p pa q src unit v w : Nat} (h : s₀.Traffic s)
include h

/-- A register outside the five blocks; by default one of a controller, a queue or a cluster. -/
theorem State.Traffic.setReg (ho : o < 0x30000 ∨ 0x80000 ≤ o := by simp only [oLog, oMem, oQidx, oQue, oCnt, oClu]; omega) {v : Word} :
    s₀.Traffic (s.setReg o v) :=
  ⟨h.now, h.frame, h.time, h.ports, h.rows, h.ring, fun j h1 h2 => by
    rw [State.reg_setReg, if_neg (by omega), h.reg j h1 h2]⟩

theorem State.Traffic.setField (ho : o < 0x30000 ∨ 0x80000 ≤ o := by simp only [oLog, oMem, oQidx, oQue, oCnt, oClu]; omega) {hi lo : Nat} :
    s₀.Traffic (s.setField o hi lo v) := h.setReg ho

theorem State.Traffic.bumpN (ho : o < 0x30000 ∨ 0x80000 ≤ o := by simp only [oLog, oMem, oQidx, oQue, oCnt, oClu]; omega) :
    s₀.Traffic (s.bumpN o n) := h.setReg ho

theorem State.Traffic.bump (ho : o < 0x30000 ∨ 0x80000 ≤ o := by simp only [oLog, oMem, oQidx, oQue, oCnt, oClu]; omega) :
    s₀.Traffic (s.bump o) := h.bumpN ho

theorem State.Traffic.raiseBit (ho : o < 0x30000 ∨ 0x80000 ≤ o := by simp only [oLog, oMem, oQidx, oQue, oCnt, oClu]; omega) :
    s₀.Traffic (s.raiseBit o b) := (h.setField ho).same

theorem State.Traffic.useFree : s₀.Traffic s.useFree := h.same
theorem State.Traffic.setQueue {x : QSt} : s₀.Traffic (s.setQueue q x) := h.same

theorem State.Traffic.forN {f : State → Nat → State} (hf : ∀ s x, s₀.Traffic s → s₀.Traffic (f s x)) : s₀.Traffic (Machine.forN n f s) :=
  h.foldl hf


theorem State.Traffic.errWith {cls slot d4 d5 d6 d7 : Nat} {cause : Option Nat}
    : s₀.Traffic (s.errWith cls src unit code slot d4 d5 d6 d7 cause) := h.same

theorem State.Traffic.err {cls d4 : Nat} : s₀.Traffic (s.err cls src unit code d4) := h.errWith

theorem State.Traffic.touchMem : s₀.Traffic (s.touchMem pa) := by
  unfold State.touchMem
  split
  · exact h
  next hpa =>
    have ho : oPwr (0x100 + (80 + ctlOf pa) * 8) < 0x30000 := by simp only [oPwr, ctlOf, stackSize]; omega
    exact .ite (h.same.setField (.inl ho)) h.same

theorem State.Traffic.setCore {x : CoreSt} : s₀.Traffic (s.setCore c x) := h.same
theorem State.Traffic.setClu {x : CluSt} : s₀.Traffic (s.setClu k x) := h.same
theorem State.Traffic.l2Set {x : Option L2Line} : s₀.Traffic (s.l2Set k line w x) := h.setClu
theorem State.Traffic.l1Drop {keep : Option Nat} : s₀.Traffic (s.l1Drop k line keep) := h.foldl (fun _ _ h => h.setCore)
theorem State.Traffic.logShow {newest : Nat} : s₀.Traffic (s.logShow m newest) := h.setField.setField
theorem State.Traffic.logErr {kind cause : Nat} : s₀.Traffic (s.logErr m kind pa cause) := .ite (.ite h.err h) h.errWith
theorem State.Traffic.logMerge : s₀.Traffic (s.logMerge m i mask) := h.setField.setField.setField.logShow

theorem State.Traffic.logCreate {kind : Nat} : s₀.Traffic (s.logCreate m i kind pa mask src unit) :=
  h.setReg.raiseBit.setReg.setReg.useFree.setReg.logShow

theorem State.Traffic.memLog {kind cause : Nat} : s₀.Traffic (s.memLog m kind pa mask src unit cause) :=
  .ite h (by split; exacts [h.logMerge, (by split; exacts [h.setField.logErr, h.logCreate.logErr])])

theorem State.Traffic.wrongWords : s₀.Traffic (s.wrongWords line).1 := .iteFst h (.iteFst h (.iteFst (.iteFst h.useFree.pair h.useFree.pair) h))
theorem State.Traffic.corrected : s₀.Traffic (s.corrected m pa mask src unit) := .ite h h.same.bumpN.memLog
theorem State.Traffic.decodeAsk : s₀.Traffic (s.decodeAsk m pa mask) := .ite h.same h.same.same

theorem State.Traffic.decodeEnd {fits : Bool} : s₀.Traffic (s.decodeEnd m pa fits src unit) :=
  h.same.bump.wrongWords.corrected.andThen fun h => .ite h.same.bump.memLog h.same

theorem State.Traffic.awaitPage : s₀.Traffic (s.awaitPage pa) := .ite h.decodeEnd.useFree h

theorem State.Traffic.scan : s₀.Traffic (s.scan pa src unit) :=
  h.awaitPage.wrongWords.corrected.andThen fun h => .ite h (.ite h.decodeAsk.decodeEnd.useFree h.same)

theorem State.Traffic.flipHook : s₀.Traffic (s.flipHook m pa) := .ite h.same.setField h
theorem State.Traffic.checkFold : s₀.Traffic (s.checkFold pa src unit) := .ite h.wrongWords.corrected h.wrongWords.corrected.same.bump.memLog

theorem State.Traffic.lineWrite : s₀.Traffic (s.lineWrite pa mask src unit) :=
  State.Traffic.andThen (.ite h.awaitPage.scan h.awaitPage) fun h => State.Traffic.andThen (.ite h.same.checkFold h.same)
      fun h => State.Traffic.andThen (.ite h (.ite (.ite h.same h.same.memLog) (State.Traffic.andThen (.ite h.same h.same.memLog)
      fun h => .ite h.bump.memLog h))) fun h => h.flipHook

theorem State.Traffic.mergeDone : s₀.Traffic (s.mergeDone m line) := by
  unfold State.mergeDone
  extract_lets
  split
  · exact h
  · exact State.Traffic.andThen (.ite h.same h.same.bump) fun h => h.lineWrite

theorem State.Traffic.mergeFull : s₀.Traffic (s.mergeFull m line) := .ite h.mergeDone h

theorem State.Traffic.mergePut : s₀.Traffic (s.mergePut m line mask) := by
  unfold State.mergePut
  extract_lets
  split
  · exact h.awaitPage.same
  · exact State.Traffic.andThen (.ite h.awaitPage.mergeDone h.awaitPage) fun h => h.same

theorem State.Traffic.acceptLine {x : L2Line} : s₀.Traffic (s.acceptLine x) :=
  .ite h (h.touchMem.mergeDone.lineWrite.andThen fun h => .ite h h.same.memLog)

theorem State.Traffic.l2Drop {store : Bool} : s₀.Traffic (s.l2Drop k line store) := by
  unfold State.l2Drop
  split
  · exact h
  · exact State.Traffic.andThen (.ite h.bump h) fun h => h.l2Set.l1Drop

theorem State.Traffic.snoopLine {hx : Nat} {write : Bool} : s₀.Traffic (s.snoopLine hx line write) := by
  unfold State.snoopLine
  split
  · exact h
  · exact State.Traffic.andThen (.ite h.acceptLine h) fun h => .ite h.l2Drop h.l2Set

theorem State.Traffic.snoopOthers {write : Bool} : s₀.Traffic (s.snoopOthers k line write) :=
  (h.foldl (fun _ _ h => .ite h h.snoopLine)).andThen fun h => .ite h.same (.ite h.same h)

theorem State.Traffic.putLine {ws : List Word} : s₀.Traffic (s.putLine src unit a ws) :=
  h.touchMem.snoopOthers.andThen fun h => .ite h (.ite h.same
      (.ite h.mergeDone.same.lineWrite h.same.mergePut.mergeFull))

theorem State.Traffic.putBy {ws : List Word} : s₀.Traffic (s.putBy src unit fuel a ws) := by
  induction fuel generalizing s a ws with
  | zero => exact h
  | succ fuel ih =>
    cases ws with
    | nil => exact h
    | cons w ws => exact ih h.putLine

theorem State.Traffic.memPutBy {ws : List Word} : s₀.Traffic (s.memPutBy src unit a ws) := h.putBy
theorem State.Traffic.memPut {ws : List Word} : s₀.Traffic (s.memPut a ws) := h.memPutBy
theorem State.Traffic.qPut {ws : List Word} : s₀.Traffic (s.qPut q ws) := h.memPut.setQueue.setField

theorem State.Traffic.roFlush : s₀.Traffic (State.roFlush fuel s q) := by
  induction fuel generalizing s with
  | zero => exact h
  | succ _ ih =>
    rw [State.roFlush]
    split
    · exact h
    · exact .ite (ih h.same.qPut) h

theorem State.Traffic.roDrain : s₀.Traffic (s.roDrain q) := h.roFlush
theorem State.Traffic.roDrainAll : s₀.Traffic s.roDrainAll := h.foldl (fun _ _ h => h.roDrain)

end

/-! ### The empty state -/

def CluEmpty (x : CluSt) : Prop := x.slices = [] ∧ x.copies = [] ∧ x.chunk = [] ∧ ∀ e ∈ x.tlb, e.2.locked = true

def CtxEmpty (y : CtxSt) : Prop := y.slices = [] ∧ y.prog = none

def CoreEmpty (x : CoreSt) : Prop := x.itlb = [] ∧ x.dtlb = [] ∧ ∀ j, j < 4 → CtxEmpty (x.ctx j)

/-- The reset interval has begun. -/
def InInterval (s : State) : Prop := s.frame.phase = .resetting ∧ s.frame.clear ≤ devUnits s.now + 2048000

/-- A repetition whose step `i` brings about `Q i`, and keeps what the steps before it brought about. -/
theorem forN_all {Q : Nat → State → Prop} {f : State → Nat → State} (n : Nat) (s : State) (new : ∀ s i, Q i (f s i))
    (old : ∀ s i j, Q j s → Q j (f s i)) : ∀ i, i < n → Q i (forN n f s) := by
  induction n with
  | zero => intro i hi; cases hi
  | succ n ih =>
    intro i hi
    have e : forN (n + 1) f s = f (forN n f s) n := by simp [forN, List.range_succ]
    rw [e]
    rcases Nat.lt_succ_iff_lt_or_eq.1 hi with hi | rfl
    · exact old _ _ _ (ih i hi)
    · exact new _ _

/-- A register file is written: of all cores nothing else changes. -/
theorem State.core_rput (s : State) (c k : Nat) (v : Word) (d : Nat) :
    ((s.rput c k v).core d).itlb = (s.core d).itlb ∧ ((s.rput c k v).core d).dtlb = (s.core d).dtlb ∧
    ((s.rput c k v).core d).ctxs = (s.core d).ctxs := by
  rw [State.rput, State.core_setCore]
  split
  next h => subst h; exact ⟨rfl, rfl, rfl⟩
  next => exact ⟨rfl, rfl, rfl⟩

/-- A context is cleared: of the core `c` it keeps the TLBs and the other contexts, and of the other cores what `CoreEmpty` speaks of. -/
theorem State.core_ctxClear (s : State) (c j d : Nat) :
    ((s.ctxClear c j).core d).itlb = (s.core d).itlb ∧ ((s.ctxClear c j).core d).dtlb = (s.core d).dtlb ∧
    (d = c → CtxEmpty (((s.ctxClear c j).core d).ctx j)) ∧
    ∀ i, d ≠ c ∨ i ≠ j → ((s.ctxClear c j).core d).ctx i = (s.core d).ctx i := by
  unfold State.ctxClear
  extract_lets u
  obtain ⟨hi, hd, hx⟩ : (u.core d).itlb = (s.core d).itlb ∧ (u.core d).dtlb = (s.core d).dtlb ∧ (u.core d).ctxs = (s.core d).ctxs :=
    forN_keeps (P := fun u => (u.core d).itlb = (s.core d).itlb ∧ (u.core d).dtlb = (s.core d).dtlb ∧ (u.core d).ctxs = (s.core d).ctxs)
      2 (fun v w hv => by
        obtain ⟨ei, ed, ex⟩ := v.core_rput c (globKey j w 6) (fixN (frameVa (cluOf c))) d
        rwa [ei, ed, ex]) ⟨rfl, rfl, rfl⟩
  clear_value u
  rw [State.setCtx, State.core_setCore]
  split
  next h =>
    subst h
    refine ⟨hi, hd, fun _ => ?_, fun i hij => ?_⟩
    · simp [CoreSt.ctx, CoreSt.setCtx, CtxEmpty]
    · have hij : i ≠ j := hij.resolve_left (absurd rfl)
      simp only [CoreSt.ctx, CoreSt.setCtx, sget_sset_ne _ _ hij, hx]
  next h => exact ⟨hi, hd, fun e => absurd e h, fun i _ => by simp only [CoreSt.ctx, hx]⟩

/-- Cores alone change. -/
def CoresOnly (s u : State) : Prop := ∃ l, u = { s with cores := l }

theorem CoresOnly.trans {s u v : State} (h : CoresOnly s u) (h' : CoresOnly u v) : CoresOnly s v := by
  obtain ⟨l, rfl⟩ := h
  obtain ⟨k, rfl⟩ := h'
  exact ⟨k, rfl⟩

theorem CoresOnly.forN {s : State} {f : State → Nat → State} (n : Nat) (h : ∀ s i, CoresOnly s (f s i)) : CoresOnly s (forN n f s) :=
  forN_keeps (P := CoresOnly s) n (fun u i hu => hu.trans (h u i)) ⟨s.cores, rfl⟩

theorem CoresOnly.ctxClear (s : State) (c j : Nat) : CoresOnly s (s.ctxClear c j) :=
  .trans (.forN 2 fun _ _ => ⟨_, rfl⟩) ⟨_, rfl⟩

theorem CoresOnly.coreClear (s : State) (c : Nat) : CoresOnly s (s.coreClear c) :=
  .trans ⟨_, rfl⟩ (.forN 4 fun s j => .ctxClear s c j)

theorem State.coreEmpty_coreClear (s : State) (c : Nat) : CoreEmpty ((s.coreClear c).core c) := by
  have tlbs := forN_keeps (P := fun u => (u.core c).itlb = [] ∧ (u.core c).dtlb = []) (f := fun s j => s.ctxClear c j) 4
    (s := s.setCore c { s.core c with itlb := [], dtlb := [], bankChunk := [] })
    (fun u j hu => by
      obtain ⟨hi, hd, -⟩ := u.core_ctxClear c j c
      rwa [hi, hd])
    (by simp)
  refine ⟨tlbs.1, tlbs.2, forN_all (Q := fun j u => CtxEmpty ((u.core c).ctx j)) 4 _ (fun u j => ?_) (fun u j i hu => ?_)⟩
  · obtain ⟨-, -, h, -⟩ := u.core_ctxClear c j c
    exact h rfl
  · obtain ⟨-, -, h, h'⟩ := u.core_ctxClear c j c
    rcases eq_or_ne i j with rfl | e
    · exact h rfl
    · rw [h' i (.inr e)]; exact hu

/-- Another core that holds nothing of the frame. -/
theorem State.coreEmpty_coreClear_of (s : State) (c d : Nat) (h : CoreEmpty (s.core d)) : CoreEmpty ((s.coreClear c).core d) := by
  rcases eq_or_ne d c with rfl | e
  · exact s.coreEmpty_coreClear d
  · unfold State.coreClear
    extract_lets x u
    have hu : CoreEmpty (u.core d) := by rw [State.core_setCore, if_neg e]; exact h
    clear_value u
    refine forN_keeps (P := fun u => CoreEmpty (u.core d)) 4 (fun u j hu => ?_) hu
    obtain ⟨hi, hd, -, hx⟩ := u.core_ctxClear c j d
    obtain ⟨ui, ud, ux⟩ := hu
    refine ⟨by rw [hi, ui], by rw [hd, ud], fun i hi => ?_⟩
    rw [hx i (.inl e)]
    exact ux i hi

theorem cluEmpty_clear (x : CluSt) : CluEmpty x.clear := ⟨rfl, rfl, rfl, fun e he => by simpa using (List.mem_filter.1 he).2⟩

/-- A cluster and its cores hold nothing of the frame. -/
def PartEmpty (k : Nat) (s : State) : Prop := CluEmpty (s.clu k) ∧ ∀ i, i < 16 → CoreEmpty (s.core (k * 16 + i))

/-- Clusters and cores alone change. -/
theorem State.cluClear_eq (s : State) (k : Nat) :
    ∃ l, s.cluClear k = { s.setClu k (s.clu k).clear with cores := l } :=
  CoresOnly.forN (s := s.setClu k (s.clu k).clear) 16 fun s i => .coreClear s (k * 16 + i)

theorem State.clu_cluClear (s : State) (k j : Nat) : (s.cluClear k).clu j = if j = k then (s.clu k).clear else s.clu j := by
  obtain ⟨l, e⟩ := s.cluClear_eq k
  rw [e]; exact s.clu_setClu k j _

theorem State.partEmpty_cluClear (s : State) (k : Nat) : PartEmpty k (s.cluClear k) := by
  refine ⟨by rw [s.clu_cluClear, if_pos rfl]; exact cluEmpty_clear _, ?_⟩
  exact forN_all (Q := fun i u => CoreEmpty (u.core (k * 16 + i))) 16 _ (fun u i => u.coreEmpty_coreClear _)
    (fun u i j hu => u.coreEmpty_coreClear_of _ _ hu)

theorem State.partEmpty_cluClear_of (s : State) (k j : Nat) (h : PartEmpty j s) : PartEmpty j (s.cluClear k) := by
  obtain ⟨hc, hk⟩ := h
  refine ⟨?_, fun i hi => ?_⟩
  · rw [s.clu_cluClear]
    split
    · exact cluEmpty_clear _
    · exact hc
  · exact forN_keeps (P := fun u => CoreEmpty (u.core (j * 16 + i))) 16 (fun u i' hu => u.coreEmpty_coreClear_of _ _ hu) (hk i hi)

theorem InInterval.aside {s u : State} (h : InInterval s) (ha : s.Aside u) : InInterval u := by
  rw [InInterval, ha.frame, ha.now]; exact h

theorem InInterval.cluClear {s : State} (h : InInterval s) (k : Nat) : InInterval (s.cluClear k) := by
  obtain ⟨l, e⟩ := s.cluClear_eq k
  rw [e]; exact h

theorem State.inInterval_intervalBegin (s : State) : InInterval s.intervalBegin := by
  refine ⟨rfl, Nat.add_le_add_left ?_ _⟩
  exact Nat.le_of_lt_succ (Nat.mod_lt _ (by decide))

theorem emptyState_of_parts {s : State} (hi : InInterval s) (hp : ∀ k, k < 32 → PartEmpty k s) : EmptyState s.pathsClear := by
  refine ⟨hi.1, hi.2, fun k hk => (hp k hk).1, fun c hc => ?_, rfl, rfl⟩
  have h := (hp (c / 16) (by omega)).2 (c % 16) (by omega)
  rw [Nat.div_add_mod' c 16] at h
  exact h

theorem emptyState_aside {s u : State} (h : EmptyState s) (ha : s.Aside u) : EmptyState u := by
  have hc : u.core = s.core := by unfold State.core; rw [ha.cores]
  have hk : u.clu = s.clu := by unfold State.clu; rw [ha.clus]
  unfold EmptyState State.ctx
  rw [hc, hk, ha.frame, ha.now, ha.cluIn, ha.wmIn]
  exact h

/-- A core that changes its clocks alone. -/
theorem emptyState_spend {s : State} (h : EmptyState s) (c n : Nat) : EmptyState (s.spend c n) := by
  obtain ⟨hp, ht, hk, hx, hi, hw⟩ := h
  refine ⟨hp, ht, hk, fun d hd => ?_, hi, hw⟩
  have e := State.core_setCore s c d { s.core c with
    tick := ((s.core c).tick + s.idleCycles c + n) % 2 ^ 56, sync := (s.core c).sync + (s.idleCycles c + n) * s.cycleU (cluOf c) }
  unfold State.ctx
  rw [State.spend, e]
  split
  next hdc => subst hdc; exact hx d hd
  next => exact hx d hd

theorem emptyState_setClu {s : State} (h : EmptyState s) (k : Nat) {x : CluSt} (hx : k < 32 → CluEmpty x) : EmptyState (s.setClu k x) := by
  obtain ⟨hp, ht, hk, hc, hi, hw⟩ := h
  refine ⟨hp, ht, fun j hj => ?_, hc, hi, hw⟩
  rw [State.clu_setClu]
  split
  next e => exact hx (e ▸ hj)
  next => exact hk j hj

theorem emptyState_settle {s : State} (h : EmptyState s) (k : Nat) : EmptyState (s.settle k) :=
  List.foldlRecOn _ _ (motive := EmptyState) h fun u hu i _ => by
    split
    · exact emptyState_spend hu _ _
    · exact hu

theorem emptyState_writeBack {s : State} (h : EmptyState s) (k : Nat) : EmptyState (s.writeBack k) := by
  unfold State.writeBack
  extract_lets lines held u x
  have hu : EmptyState u := emptyState_aside h ((State.Aside.refl s).foldl fun _ _ h => h.acceptLine)
  clear_value u
  exact emptyState_setClu hu k fun hk => hu.2.2.1 k hk

theorem emptyState_bistBegin {s : State} (h : EmptyState s) (k back : Nat) : EmptyState (s.bistBegin k back) := by
  unfold State.bistBegin
  extract_lets u
  have hu : EmptyState u := emptyState_settle (by split; exacts [h, emptyState_writeBack h k]) k
  clear_value u
  refine emptyState_aside (emptyState_setClu hu k ?_) (State.Aside.refl _).setField
  exact fun hk => hu.2.2.1 k hk

theorem emptyState_bistPoll {s : State} (h : EmptyState s) (k : Nat) : EmptyState (s.bistPoll k) := by
  unfold State.bistPoll
  split
  exacts [emptyState_bistBegin h k 1, h]

/-- The reset interval leaves the empty state (R24, R32). -/
theorem State.emptyState_resetInterval (s : State) (chk : DrainChecks) : EmptyState (s.resetInterval chk) := by
  unfold State.resetInterval
  extract_lets s1 s2 s3 s4 s5
  have h2 : InInterval s2 := s.stepDue.inInterval_intervalBegin.aside ((State.Aside.refl _).forN fun _ _ h => h.setRow)
  have h3 : EmptyState s3 := emptyState_aside
    (emptyState_of_parts (forN_keeps (P := InInterval) 32 (fun _ k h => h.cluClear k) h2)
      (forN_all (Q := PartEmpty) 32 _ (fun u k => u.partEmpty_cluClear k) fun u k j h => u.partEmpty_cluClear_of k j h))
    (State.Aside.refl _).haClear
  have h5 : EmptyState s5 := emptyState_aside h3
    (((State.Aside.refl _).checks.relock.activateAll.zeroFrame.foldl fun _ _ h => h.calDue).tdcDue)
  exact forN_keeps (P := EmptyState) 32 (fun _ k h => emptyState_bistPoll h k) h5

/-! ### The record of an overrun -/

theorem State.overrun_errs (s : State) :
    ∃ e, e.cls = 1 ∧ e.src = 8 ∧ e.code = 1 ∧ e.num = s.errNum ∧ ∀ chk, e ∈ (s.overrun.resetInterval chk).errs := by
  unfold State.overrun
  extract_lets n lost u u1 u2
  obtain ⟨e, he, hf⟩ : ∃ e, u.errs = s.errs ++ [e] ∧ e.cls = 1 ∧ e.src = 8 ∧ e.code = 1 ∧ e.num = s.errNum := ⟨_, rfl, rfl, rfl, rfl, rfl⟩
  refine ⟨e, hf.1, hf.2.1, hf.2.2.1, hf.2.2.2, fun chk => ?_⟩
  have hu : Origin.Keeps ⟨u, True⟩ u := .rfl
  have hk : Origin.Keeps ⟨u, True⟩ ({ u2 with mast := { u2.mast with ro := [], roOut := [] } }.resetInterval chk) :=
    ((hu.forN fun _ _ h => h.rowOverrun).forN fun _ _ h => h.sliceOverrun).same.resetInterval
  exact (hk.errs trivial).subset (by simp [he])

theorem execDrainComplete_of_drained {t : Time} {s : State} (chk : DrainChecks)
    (hp : (s.at t).frameEnd.roDrainAll.frame.phase = .draining) (hd : (s.at t).frameEnd.roDrainAll.drained = true) :
    ∃ u : State, execDrainComplete t chk s = .next (u.resetInterval chk) := by
  unfold execDrainComplete
  extract_lets u
  rw [if_pos ⟨hp, hd⟩]
  exact ⟨_, rfl⟩

/-- The end of the drain's time is not moved by what the drain writes. -/
theorem State.Traffic.drainEnd {s u : State} (h : s.Traffic u) : u.endT + u.drainD = s.endT + s.drainD := by
  have h1 : u.field (oTmg 0x18) 28 0 = s.field (oTmg 0x18) 28 0 := by rw [State.field, h.reg _ (by decide) (by decide)]; rfl
  have h2 : u.field (oTmg 0x20) 9 0 = s.field (oTmg 0x20) 9 0 := by rw [State.field, h.reg _ (by decide) (by decide)]; rfl
  have h3 : u.field (oMst 0x10) 42 32 = s.field (oMst 0x10) 42 32 := by rw [State.field, h.reg _ (by decide) (by decide)]; rfl
  simp only [State.endT, State.startT, State.lenL, State.drainD, State.horizon, h.frame, h1, h2, h3]

theorem State.drainEnd_frameEnd (s : State) : s.frameEnd.endT + s.frameEnd.drainD = s.endT + s.drainD := by
  unfold State.frameEnd
  split <;> rfl

theorem execFrameOverrun_of_late {t : Time} {s : State} (chk : DrainChecks)
    (hp : (s.at t).frameEnd.roDrainAll.frame.phase = .draining) (hd : (s.at t).frameEnd.roDrainAll.drained = false)
    (ht : s.endT + s.drainD ≤ t) :
    execFrameOverrun t chk s = .next ((s.at t).frameEnd.roDrainAll.overrun.resetInterval chk) := by
  have he := ((State.Traffic.refl (s.at t).frameEnd).roDrainAll).drainEnd.trans (s.at t).drainEnd_frameEnd
  have ht : (s.at t).frameEnd.roDrainAll.endT + (s.at t).frameEnd.roDrainAll.drainD ≤ t := he ▸ ht
  unfold execFrameOverrun
  extract_lets u
  rw [if_pos ⟨hp, ht, hd⟩]

/-- Settles O9: a drain ends in the reset interval, whose work empties the units one after the other. -/
theorem frameEndsInDrainAndReset : Obligations.FrameEndsInDrainAndReset := by
  refine ⟨fun t s hp ht => ?_, fun t chk s hp hd _ => ?_, fun t chk s hp hd ht _ => ?_⟩
  · show execFrameEnd t s = _
    have he : (s.at t).frame.phase = Phase.running ∧ (s.at t).endT ≤ (s.at t).now := ⟨hp, ht⟩
    rw [execFrameEnd, State.frameEnd, if_pos he]
    rfl
  · obtain ⟨u, e⟩ := execDrainComplete_of_drained chk hp hd
    exact ⟨_, e, u.emptyState_resetInterval chk⟩
  · obtain ⟨e, h1, h2, h3, h4, h5⟩ := (s.at t).frameEnd.roDrainAll.overrun_errs
    exact ⟨_, execFrameOverrun_of_late chk hp hd ht, State.emptyState_resetInterval _ chk, e, h5 chk, h1, h2, h3, h4⟩

end Sys2Proof.Machine
end

section
/-! PROOFS. Frames: CAST_ON and mark times (O10). -/

namespace Sys2Proof.Machine

-- One proof after the other: short ones begun at once would take a thread each and pass the memory limit of the check.
set_option Elab.async false

/-! ### Work that leaves the frame

What the units do at the end of a drain and at a cast-on changes neither the frame nor the registers that time it, raises no CASTON, and
leaves the masthead's next slot. -/

/-- TMG_FRAME, TMG_DRAIN and MST_TIME. -/
def framing (o : Nat) : Prop := o = oTmg 0x18 ∨ o = oTmg 0x20 ∨ o = oMst 0x10

structure State.Steady (s₀ s : State) : Prop where
  frame : s.frame = s₀.frame
  irqCast : s.irqCast = s₀.irqCast
  next : s.mast.next = s₀.mast.next
  reg : ∀ o, framing o → s.reg o = s₀.reg o

section
variable {s₀ s : State} {α β : Type}

theorem sget_filter (d : α) (k : Nat) {p : Nat × α → Bool} (hp : ∀ v, p (k, v) = true) (l : Sparse α) :
    sget d k (l.filter p) = sget d k l := by
  induction l with
  | nil => rfl
  | cons e l ih =>
    obtain ⟨j, v⟩ := e
    by_cases hj : j = k
    · subst hj
      rw [List.filter_cons_of_pos (hp v), sget, sget, if_pos rfl, if_pos rfl]
    · rw [sget, if_neg hj]
      by_cases h : p (j, v) = true
      · rw [List.filter_cons_of_pos h, sget, if_neg hj, ih]
      · rw [List.filter_cons_of_neg h, ih]

theorem frameCounter_of_framing {o : Nat} (h : framing o) : frameCounter o = false := by
  obtain rfl | rfl | rfl := h <;> decide

theorem State.reg_zeroFrame {o : Nat} (h : framing o) : s.zeroFrame.reg o = s.reg o :=
  sget_filter _ _ (fun _ => by simp [frameCounter_of_framing h]) _

theorem State.Steady.refl (s : State) : s.Steady s := ⟨rfl, rfl, rfl, fun _ _ => rfl⟩

/-- An update of fields other than those that `Steady` speaks of. -/
theorem State.Steady.same (h : s₀.Steady s)
    {pending now free small rdata eff raised errs errNum ports chans regionS regionA dmapS dmapA rows wms xbar cluIn wmIn spikes
    time reports queues ha lastMsi irqErr irqBind irqs outqs ring mast mastS mastA bad suspect decodes flips merges cores clus
    filter hostLines world ucode gc flash memActive pwr fuses boot spdm cxl mem}
    (hn : mast.next = s.mast.next := by exact rfl) :
    s₀.Steady { s with
      pending, now, free, small, rdata, eff, raised, errs, errNum, ports, chans, regionS, regionA, dmapS, dmapA, rows, wms, xbar,
      cluIn, wmIn, spikes, time, reports, queues, ha, lastMsi, irqErr, irqBind, irqs, outqs, ring, mast, mastS, mastA, bad, suspect,
      decodes, flips, merges, cores, clus, filter, hostLines, world, ucode, gc, flash, memActive, pwr, fuses, boot, spdm, cxl, mem }
      :=
  ⟨h.frame, h.irqCast, hn.trans h.next, h.reg⟩

theorem State.Steady.setReg {o : Nat} {v : Word} (h : s₀.Steady s)
    (ho : ¬ framing o := by
      simp only [framing, oLog, oMem, oQidx, oQcfg, oQue, oCnt, oClu, oPort, oRow, oDev, oDom, oPwr, oSpk, oMst, oTmg]; omega) : s₀.Steady (s.setReg o v) :=
  ⟨h.frame, h.irqCast, h.next, fun j hj => by
    rw [State.reg_setReg, if_neg (by rintro rfl; exact ho hj), h.reg j hj]⟩

theorem State.Steady.andThen {P : Prop} (h : s₀.Steady s) (f : s₀.Steady s → P) : P := f h

theorem State.Steady.ite {c : Prop} {_ : Decidable c} {a b : State} (ha : s₀.Steady a) (hb : s₀.Steady b) :
    s₀.Steady (if c then a else b) := by split <;> assumption

theorem State.Steady.iteFst {c : Prop} {_ : Decidable c} {a b : State × α} (ha : s₀.Steady a.1) (hb : s₀.Steady b.1) :
    s₀.Steady (if c then a else b).1 := by split <;> assumption

theorem State.Steady.pair {x : α} (h : s₀.Steady s) : s₀.Steady (s, x).1 := h

theorem State.Steady.foldl {f : State → α → State} {l : List α} (h : s₀.Steady s) (hf : ∀ s a, s₀.Steady s → s₀.Steady (f s a)) :
    s₀.Steady (l.foldl f s) := by
  induction l generalizing s with
  | nil => exact h
  | cons a l ih => exact ih (hf s a h)

theorem State.Steady.forNLt {n : Nat} {f : State → Nat → State} (h : s₀.Steady s)
    (hf : ∀ s i, i < n → s₀.Steady s → s₀.Steady (f s i)) : s₀.Steady (Machine.forN n f s) := by
  unfold Machine.forN
  have hl : ∀ i ∈ List.range n, i < n := fun i hi => List.mem_range.1 hi
  generalize List.range n = l at hl
  induction l generalizing s with
  | nil => exact h
  | cons i l ih =>
    exact ih (hf s i (hl i (List.mem_cons_self ..)) h) fun j hj => hl j (List.mem_cons_of_mem _ hj)

theorem State.Steady.foldlFst {f : State × β → α → State × β} {l : List α} {p : State × β} (h : s₀.Steady p.1)
    (hf : ∀ p a, s₀.Steady p.1 → s₀.Steady (f p a).1) : s₀.Steady (l.foldl f p).1 := by
  induction l generalizing p with
  | nil => exact h
  | cons a l ih => exact ih (hf p a h)

end

section
variable {s₀ s : State} {a b c code d f fuel i j k line m mask n o p pa q r src t unit v w : Nat} (h : s₀.Steady s)
include h

theorem State.Steady.setField {hi lo : Nat}
    (ho : ¬ framing o := by
      simp only [framing, oLog, oMem, oQidx, oQcfg, oQue, oCnt, oClu, oPort, oRow, oDev, oDom, oPwr, oSpk, oMst, oTmg]; omega) : s₀.Steady (s.setField o hi lo v) :=
  h.setReg ho

theorem State.Steady.bumpN
    (ho : ¬ framing o := by
      simp only [framing, oLog, oMem, oQidx, oQcfg, oQue, oCnt, oClu, oPort, oRow, oDev, oDom, oPwr, oSpk, oMst, oTmg]; omega) :
    s₀.Steady (s.bumpN o n) := h.setReg ho

theorem State.Steady.bump
    (ho : ¬ framing o := by
      simp only [framing, oLog, oMem, oQidx, oQcfg, oQue, oCnt, oClu, oPort, oRow, oDev, oDom, oPwr, oSpk, oMst, oTmg]; omega) :
    s₀.Steady (s.bump o) := h.bumpN ho

theorem State.Steady.raiseBit
    (ho : ¬ framing o := by
      simp only [framing, oLog, oMem, oQidx, oQcfg, oQue, oCnt, oClu, oPort, oRow, oDev, oDom, oPwr, oSpk, oMst, oTmg]; omega) :
    s₀.Steady (s.raiseBit o b) := (h.setField ho).same

theorem State.Steady.useFree : s₀.Steady s.useFree := h.same
theorem State.Steady.setPort {x : PortSt} : s₀.Steady (s.setPort p x) := h.same
theorem State.Steady.setRow {x : RowSt} : s₀.Steady (s.setRow r x) := h.same
theorem State.Steady.setSpike {x : SpikeSt} : s₀.Steady (s.setSpike i x) := h.same
theorem State.Steady.setQueue {x : QSt} : s₀.Steady (s.setQueue q x) := h.same
theorem State.Steady.setHa {x : HaSt} : s₀.Steady (s.setHa f x) := h.same

theorem State.Steady.forN {f : State → Nat → State} (hf : ∀ s x, s₀.Steady s → s₀.Steady (f s x)) : s₀.Steady (Machine.forN n f s) :=
  h.foldl hf

theorem State.Steady.errWith {cls slot d4 d5 d6 d7 : Nat} {cause : Option Nat}
    : s₀.Steady (s.errWith cls src unit code slot d4 d5 d6 d7 cause) := h.same

theorem State.Steady.err {cls d4 : Nat} : s₀.Steady (s.err cls src unit code d4) := h.errWith
theorem State.Steady.sticky : s₀.Steady (s.sticky b) := h.setReg
theorem State.Steady.tabActivated : s₀.Steady (s.tabActivated k) := h.setField.setField.setField
theorem State.Steady.setPll {u : Nat} {x : PllSt} : s₀.Steady (s.setPll u x) := h.same

theorem State.Steady.touchMem : s₀.Steady (s.touchMem pa) := by
  unfold State.touchMem
  split
  · exact h
  next hpa =>
    have ho : oPwr (0x100 + (80 + ctlOf pa) * 8) < 0x30000 := by simp only [oPwr, ctlOf, stackSize]; omega
    exact .ite (h.same.setField (by simp only [framing, oTmg, oMst]; omega)) h.same

theorem State.Steady.setCore {x : CoreSt} : s₀.Steady (s.setCore c x) := h.same
theorem State.Steady.setCtx {y : CtxSt} : s₀.Steady (s.setCtx c j y) := h.setCore
theorem State.Steady.setClu {x : CluSt} : s₀.Steady (s.setClu k x) := h.same
theorem State.Steady.spend : s₀.Steady (s.spend c n) := h.setCore
theorem State.Steady.settle : s₀.Steady (s.settle k) := h.foldl (fun _ _ h => .ite h.spend h)
theorem State.Steady.settleAll : s₀.Steady s.settleAll := h.forN (fun _ _ h => h.settle)
theorem State.Steady.restart : s₀.Steady (s.restart k) := h.foldl (fun _ _ h => .ite h.setCore h)
theorem State.Steady.l2Set {x : Option L2Line} : s₀.Steady (s.l2Set k line w x) := h.setClu
theorem State.Steady.l1Drop {keep : Option Nat} : s₀.Steady (s.l1Drop k line keep) := h.foldl (fun _ _ h => h.setCore)
theorem State.Steady.logShow {newest : Nat} : s₀.Steady (s.logShow m newest) := h.setField.setField
theorem State.Steady.logErr {kind cause : Nat} : s₀.Steady (s.logErr m kind pa cause) := .ite (.ite h.err h) h.errWith
theorem State.Steady.logMerge : s₀.Steady (s.logMerge m i mask) := h.setField.setField.setField.logShow

theorem State.Steady.logCreate {kind : Nat} : s₀.Steady (s.logCreate m i kind pa mask src unit) :=
  h.setReg.raiseBit.setReg.setReg.useFree.setReg.logShow

theorem State.Steady.memLog {kind cause : Nat} : s₀.Steady (s.memLog m kind pa mask src unit cause) :=
  .ite h (by split; exacts [h.logMerge, (by split; exacts [h.setField.logErr, h.logCreate.logErr])])

theorem State.Steady.wrongWords : s₀.Steady (s.wrongWords line).1 := .iteFst h (.iteFst h (.iteFst (.iteFst h.useFree.pair h.useFree.pair) h))
theorem State.Steady.corrected : s₀.Steady (s.corrected m pa mask src unit) := .ite h h.same.bumpN.memLog
theorem State.Steady.decodeAsk : s₀.Steady (s.decodeAsk m pa mask) := .ite h.same h.same.same

theorem State.Steady.decodeEnd {fits : Bool} : s₀.Steady (s.decodeEnd m pa fits src unit) :=
  h.same.bump.wrongWords.corrected.andThen fun h => .ite h.same.bump.memLog h.same

theorem State.Steady.awaitPage : s₀.Steady (s.awaitPage pa) := .ite h.decodeEnd.useFree h

theorem State.Steady.scan : s₀.Steady (s.scan pa src unit) :=
  h.awaitPage.wrongWords.corrected.andThen fun h => .ite h (.ite h.decodeAsk.decodeEnd.useFree h.same)

theorem State.Steady.flipHook : s₀.Steady (s.flipHook m pa) := .ite h.same.setField h
theorem State.Steady.checkFold : s₀.Steady (s.checkFold pa src unit) := .ite h.wrongWords.corrected h.wrongWords.corrected.same.bump.memLog

theorem State.Steady.lineWrite : s₀.Steady (s.lineWrite pa mask src unit) :=
  State.Steady.andThen (.ite h.awaitPage.scan h.awaitPage) fun h => State.Steady.andThen (.ite h.same.checkFold h.same)
      fun h => State.Steady.andThen (.ite h (.ite (.ite h.same h.same.memLog) (State.Steady.andThen (.ite h.same h.same.memLog)
      fun h => .ite h.bump.memLog h))) fun h => h.flipHook

theorem State.Steady.mergeDone : s₀.Steady (s.mergeDone m line) := by
  unfold State.mergeDone
  extract_lets
  split
  · exact h
  · exact State.Steady.andThen (.ite h.same h.same.bump) fun h => h.lineWrite

theorem State.Steady.mergeFull : s₀.Steady (s.mergeFull m line) := .ite h.mergeDone h

theorem State.Steady.mergePut : s₀.Steady (s.mergePut m line mask) := by
  unfold State.mergePut
  extract_lets
  split
  · exact h.awaitPage.same
  · exact State.Steady.andThen (.ite h.awaitPage.mergeDone h.awaitPage) fun h => h.same

theorem State.Steady.acceptLine {x : L2Line} : s₀.Steady (s.acceptLine x) :=
  .ite h (h.touchMem.mergeDone.lineWrite.andThen fun h => .ite h h.same.memLog)

theorem State.Steady.l2Drop {store : Bool} : s₀.Steady (s.l2Drop k line store) := by
  unfold State.l2Drop
  split
  · exact h
  · exact State.Steady.andThen (.ite h.bump h) fun h => h.l2Set.l1Drop

theorem State.Steady.snoopLine {hx : Nat} {write : Bool} : s₀.Steady (s.snoopLine hx line write) := by
  unfold State.snoopLine
  split
  · exact h
  · exact State.Steady.andThen (.ite h.acceptLine h) fun h => .ite h.l2Drop h.l2Set

theorem State.Steady.snoopOthers {write : Bool} : s₀.Steady (s.snoopOthers k line write) :=
  (h.foldl (fun _ _ h => .ite h h.snoopLine)).andThen fun h => .ite h.same (.ite h.same h)

theorem State.Steady.putLine {ws : List Word} : s₀.Steady (s.putLine src unit a ws) :=
  h.touchMem.snoopOthers.andThen fun h => .ite h (.ite h.same
      (.ite (h.mergeDone.same).lineWrite h.same.mergePut.mergeFull))

theorem State.Steady.putBy {ws : List Word} : s₀.Steady (s.putBy src unit fuel a ws) := by
  induction fuel generalizing s a ws with
  | zero => exact h
  | succ fuel ih =>
    cases ws with
    | nil => exact h
    | cons w ws => exact ih h.putLine

theorem State.Steady.memPutBy {ws : List Word} : s₀.Steady (s.memPutBy src unit a ws) := h.putBy
theorem State.Steady.memPut {ws : List Word} : s₀.Steady (s.memPut a ws) := h.memPutBy
theorem State.Steady.qPut {ws : List Word} : s₀.Steady (s.qPut q ws) := h.memPut.setQueue.setField
theorem State.Steady.qDrop : s₀.Steady (s.qDrop q) := h.setField
theorem State.Steady.qPutOrDrop {ws : List Word} : s₀.Steady (s.qPutOrDrop q ws) := .ite h (.ite h.qDrop h.qPut)
theorem State.Steady.qBroadcast {ty : Nat} {ws : List Word} : s₀.Steady (s.qBroadcast ty ws) := h.foldl (fun _ _ h => h.qPutOrDrop)
theorem State.Steady.event {ws : List Word} : s₀.Steady (s.event code unit ws) := h.qBroadcast
theorem State.Steady.haForget {p : HaJob → Bool} : s₀.Steady (s.haForget f p) := h.setHa
theorem State.Steady.toRow {stream cycles : Nat} {x : RowIn} : s₀.Steady (s.toRow r stream cycles x) := h.setRow
theorem State.Steady.portToRow {cycles : Nat} {x : RowIn} : s₀.Steady (s.portToRow p cycles x) := h.toRow
theorem State.Steady.emptyBuf : s₀.Steady (s.emptyBuf p) := (h.foldl (fun _ _ h => .ite h.bump h.bump)).setPort
theorem State.Steady.portReef : s₀.Steady (s.portReef p) := h.sticky.setField
theorem State.Steady.closeStitch : s₀.Steady (s.closeStitch p) := h.setPort.bumpN.portToRow

theorem State.Steady.departUp {quiet : Bool} : s₀.Steady (s.departUp p quiet) :=
  .ite (by
        split
        · exact .ite h.bump.errWith h.bump
        · exact h.bump) (State.Steady.andThen (.ite (State.Steady.andThen (.ite h.bump h.bump.portReef.portToRow) fun h => .ite h h.err)
      h.bump) fun h => h.setPort.emptyBuf)

theorem State.Steady.discardCmds {l : Link} : s₀.Steady (s.discardCmds p l) := h.setPort.bumpN
theorem State.Steady.calBegin : s₀.Steady (s.calBegin p) := h.setPort.setField
theorem State.Steady.portEvent : s₀.Steady (s.portEvent p) := h.event

theorem State.Steady.enter {l : Link} {quiet : Bool} : s₀.Steady (s.enter p l quiet) :=
  State.Steady.andThen (.ite h.departUp h) fun h => State.Steady.andThen (.ite h.discardCmds.setPort.calBegin h.discardCmds.setPort)
      fun h => h.portEvent

theorem State.Steady.reshow : s₀.Steady (s.reshow p) := h.setField.setField
theorem State.Steady.showMode : s₀.Steady (s.showMode p) := .reshow (.ite h.err h)
theorem State.Steady.tryLeaveOff : s₀.Steady (s.tryLeaveOff p) := .ite (.ite h.showMode.enter h.showMode.enter) (.ite h.showMode h)

theorem State.Steady.feFaultIn : s₀.Steady (s.feFaultIn p) :=
  State.Steady.andThen (.ite h.portReef h.portReef.setPort.err) fun h => .ite h.closeStitch h

theorem State.Steady.rowTick : s₀.Steady (s.rowTick r) := h.setRow.bumpN
theorem State.Steady.buildClasses : s₀.Steady (s.buildClasses r) := .ite h.setRow.err h.setRow

theorem State.Steady.fanoutBuild : s₀.Steady s.fanoutBuild := by
  unfold State.fanoutBuild
  dsimp only
  split
  · exact h.forN fun _ _ h => h.setRow
  · exact .err (h.forN fun _ _ h => h.setRow)

theorem State.Steady.histIndex : s₀.Steady (s.histIndex r a b n) := h.foldl (fun _ _ h => h.memPutBy)

theorem State.Steady.writeLine {last stop : Bool} : s₀.Steady (s.writeLine r last stop) := by
  unfold State.writeLine
  dsimp only
  split
  · exact h
  · exact .setRow (.ite h.memPutBy.histIndex.setField h)

theorem State.Steady.endLines {stop : Bool} : s₀.Steady (s.endLines r stop a) := by
  induction a generalizing s with
  | zero => exact h
  | succ _ ih =>
    exact .ite (ih h.writeLine) (State.Steady.andThen (.ite h.writeLine.histIndex h.writeLine) fun h => h.setRow)

theorem State.Steady.histEnd {stop : Bool} : s₀.Steady (s.histEnd r stop) := h.endLines
theorem State.Steady.rowEof {stop : Bool} : s₀.Steady (s.rowEof r stop) := h.setRow.histEnd
theorem State.Steady.lateHit {stream : Nat} : s₀.Steady (s.lateHit r stream) := .ite h.bump h.bump
theorem State.Steady.rput {v : Word} : s₀.Steady (s.rput c k v) := h.setCore
theorem State.Steady.coverage : s₀.Steady (s.coverage k) := .ite h (by split; exacts [h, .ite h.sticky h.sticky.setClu.err])
theorem State.Steady.spikeWait : s₀.Steady (s.spikeWait i t) := .ite h.setSpike h.bump
theorem State.Steady.spikeEdge : s₀.Steady (s.spikeEdge i t) := .ite h.bump (.ite h.setSpike.toRow.spikeWait h.bump.toRow)

theorem State.Steady.mastActivate : s₀.Steady s.mastActivate := h.same.tabActivated
theorem State.Steady.ringDones : s₀.Steady s.ringDones := h.same
theorem State.Steady.lateCand : s₀.Steady (s.lateCand k i) := .ite h.bump h.bump.same.errWith
theorem State.Steady.dropOld : s₀.Steady s.dropOld := h.same.foldl (fun _ _ h => h.foldl (fun _ _ h => by split; exacts [h.lateCand, h]))
theorem State.Steady.setPwr {x : PwrSt} : s₀.Steady (s.setPwr x) := h.same
theorem State.Steady.domRefuse (hd : d < 64) : s₀.Steady (s.domRefuse d) := h.bump.raiseBit.err
theorem State.Steady.portsOff {first : Nat} : s₀.Steady (s.portsOff first n) := h.foldl (fun _ _ h => .ite h h.enter)
theorem State.Steady.rowOut : s₀.Steady (s.rowOut r) := h.portsOff.setRow

theorem State.Steady.domBegin (hd : d < 64) : s₀.Steady (s.domBegin d v) :=
  State.Steady.andThen (.ite h.settle h)
      fun h => .ite h.setPwr.setField (.ite h.setPwr.setField.portsOff (.ite h.setPwr.setField.rowOut h.setPwr.setField))

theorem State.Steady.domTake (hd : d < 64) : s₀.Steady (s.domTake d v) := .ite h (.ite (h.domRefuse hd) (h.domBegin hd))

theorem State.Steady.domNext {cast : Bool} (hd : d < 64) : s₀.Steady (s.domNext d cast a) := by
  induction a generalizing s with
  | zero => exact h
  | succ _ ih =>
    rw [State.domNext]
    split
    · exact h
    · exact .ite h (ih (h.setPwr.domTake hd))

theorem State.Steady.setStep : s₀.Steady (s.setStep n) := h.setField
theorem State.Steady.setExpect : s₀.Steady s.setExpect := h.setField.setField

theorem State.Steady.activate : s₀.Steady (s.activate k) :=
  .ite h.same.tabActivated (.ite h.same.tabActivated.fanoutBuild.setExpect (.ite h.mastActivate h.same.tabActivated))

theorem State.Steady.activateSet {ks : List Nat} : s₀.Steady (s.activateSet ks) :=
  (h.foldl (fun _ _ h => h.activate)).andThen fun h => .ite (h.forN (fun _ _ h => h.buildClasses)) h

theorem State.Steady.gcSuspend : s₀.Steady s.gcSuspend := h.foldl (fun _ _ h => .ite h.memPutBy h)
theorem State.Steady.ctxClear : s₀.Steady (s.ctxClear c j) := (h.forN (fun _ _ h => h.rput)).setCtx
theorem State.Steady.coreClear : s₀.Steady (s.coreClear c) := h.setCore.forN (fun _ _ h => h.ctxClear)
theorem State.Steady.cluClear : s₀.Steady (s.cluClear k) := h.setClu.forN (fun _ _ h => h.coreClear)

theorem State.Steady.zeroFrame : s₀.Steady s.zeroFrame :=
  ⟨h.frame, h.irqCast, h.next, fun o ho => by rw [State.reg_zeroFrame ho, h.reg o ho]⟩

theorem State.Steady.activateAll : s₀.Steady s.activateAll := h.activateSet
theorem State.Steady.pathsClear : s₀.Steady s.pathsClear := h.same
theorem State.Steady.modeTake : s₀.Steady (s.modeTake f) := .ite h (.ite h.err h.setField.haForget.event)
theorem State.Steady.chanCast : s₀.Steady s.chanCast := h.same
theorem State.Steady.rowPll : s₀.Steady (s.rowPll r) := .ite h.setPll.setRow h

theorem State.Steady.cluCast : s₀.Steady (s.cluCast k) :=
  State.Steady.andThen (.ite h.setPll.restart h) fun h => h.forN (fun _ _ h => h.setCore.forN (fun _ _ h => h.setCtx))

theorem State.Steady.modeLeave : s₀.Steady (s.modeLeave p) := .ite h.enter h
theorem State.Steady.portOver : s₀.Steady (s.portOver p) := .modeLeave (.ite h.closeStitch h)
theorem State.Steady.portFresh : s₀.Steady (s.portFresh p) := h.setPort.setField

theorem State.Steady.badDesc {seen : List Nat} : s₀.Steady (s.badDesc p seen) :=
  State.Steady.andThen (.ite h.setField h.setField.err) fun h => .ite h.enter h

theorem State.Steady.portCast {seen : List Nat} : s₀.Steady (s.portCast p seen).1 :=
  .iteFst (.pair (.ite h.enter h)) (.iteFst (.iteFst h.badDesc.pair (.pair (.ite h.setField.enter h.setField))) h.setField.pair)

theorem State.Steady.portsCast : s₀.Steady s.portsCast :=
  (h.foldl (fun _ _ h => h.portFresh)).andThen fun h => ((h.forN (fun _ _ h => h.showMode)).pair.foldlFst (fun _ _ h => h.portCast)).forN
      (fun _ _ h => h.tryLeaveOff)

theorem State.Steady.stitchCast : s₀.Steady (s.stitchCast p) := .ite h.setPort h

theorem State.Steady.rowCast : s₀.Steady (s.rowCast r) :=
  .ite h.setRow ((h.forN (fun _ _ h => h.stitchCast)).andThen fun h => .ite h.setRow.rowEof.sticky h.setRow.rowTick)

theorem State.Steady.inboxLate : s₀.Steady (s.inboxLate r) := h.foldl (fun _ _ h => by split; exacts [.ite h.bump h.lateHit, h])
theorem State.Steady.spikeCast : s₀.Steady (s.spikeCast i) := .ite (h.setSpike.foldl (fun _ _ h => .ite h.spikeWait h.spikeEdge)) h.setSpike
theorem State.Steady.faultCast : s₀.Steady (s.faultCast p) := .ite h.feFaultIn h
theorem State.Steady.ringCast : s₀.Steady s.ringCast := h.same.ringDones

theorem State.Steady.tdcCast : s₀.Steady s.tdcCast := by
  unfold State.tdcCast
  split
  · exact .ite h.same.setField h
  · exact h

theorem State.Steady.onceCast : s₀.Steady s.onceCast := h.same

theorem State.Steady.effCast : s₀.Steady s.effCast :=
  State.Steady.forN (State.Steady.same h) fun _ _ h => .ite h h.buildClasses

theorem State.Steady.frameOver : s₀.Steady s.frameOver := ((h.forN (fun _ _ h => h.inboxLate)).foldl (fun _ _ h => h.portOver)).zeroFrame

theorem State.Steady.unitsCast : s₀.Steady s.unitsCast :=
  (((h.forN (fun _ _ h => h.modeTake)).frameOver.effCast.chanCast.forNLt (fun _ _ hi h => (h.domNext (by omega)).rowPll)).forN
      (fun _ _ h => h.cluClear.cluCast)).pathsClear.tdcCast.onceCast.setExpect.portsCast

end

/-! ### CAST_ON -/

/-- A cast-on's masthead and source over a state that leaves the frame of another. -/
theorem State.Steady.withCast {s₀ s : State} {m : MastSt} {n : Nat} (h : s₀.Steady s) :
    ({ s₀ with mast := m, irqCast := n } : State).Steady { s with mast := m, irqCast := n } :=
  ⟨h.frame, rfl, rfl, h.reg⟩

/-- The frame of a cast-on begins: the masthead starts anew and CASTON is raised. -/
def State.castBegun (v : State) (start : Nat) : State :=
  let b := v.frameBegin start
  { b with mast := b.mast.cast, irqCast := b.irqCast + 1 }

/-- Rows, masthead reports and spike inputs at a cast-on. -/
theorem State.Steady.castUnits {s₀ s : State} (h : s₀.Steady s) :
    s₀.Steady (Machine.forN 64 (fun s i => s.spikeCast i)
      (Machine.forN 32 (fun s k => s.coverage k) (Machine.forN 32 (fun s r => s.rowCast r) s).ringCast)) :=
  ((h.forN fun _ _ h => h.rowCast).ringCast.forN fun _ _ h => h.coverage).forN fun _ _ h => h.spikeCast

/-- A cast-on: work that leaves the frame, the start of the frame, and more such work. -/
theorem State.castOnNow_steady (s : State) (start : Nat) : ∃ v, s.Steady v ∧ (v.castBegun start).Steady (s.castOnNow start) := by
  have h := State.Steady.refl s
  have h1 : s.Steady (if s.frame.count = 0 then s.settleAll.activateAll else s.settleAll) := .ite h.settleAll.activateAll h.settleAll
  refine ⟨_, h1.gcSuspend.unitsCast.setField (o := oMst 0x30) (v := 0) (hi := 63) (lo := 0), ?_⟩
  unfold State.castOnNow State.castBegun
  extract_lets z a b b' c d e f
  have hz : z = b := rfl
  have hb : b.Steady b' := (State.Steady.refl b).setField
  clear_value z b b'
  subst hz
  have hc : ({ z with mast := z.mast.cast, irqCast := z.irqCast + 1 } : State).Steady c := hb.withCast.dropOld
  exact (hc.castUnits.foldl fun _ _ h => h.faultCast).setStep.event

/-- Registers of the framing read alike, so the frame length, the mode and the gap are alike. -/
theorem State.Steady.framing_eq {s₀ s : State} (h : s₀.Steady s) :
    s.lenL = s₀.lenL ∧ s.markMode = s₀.markMode ∧ s.gapG = s₀.gapG := by
  have h1 : s.reg (oTmg 0x18) = s₀.reg (oTmg 0x18) := h.reg _ (.inl rfl)
  have h2 : s.reg (oTmg 0x20) = s₀.reg (oTmg 0x20) := h.reg _ (.inr (.inl rfl))
  have h3 : s.reg (oMst 0x10) = s₀.reg (oMst 0x10) := h.reg _ (.inr (.inr rfl))
  simp only [State.lenL, State.markMode, State.gapG, State.drainD, State.horizon, State.field, h1, h2, h3, and_self]

/-- The frame of a cast-on. -/
theorem State.castOnNow_frame (s : State) (start : Nat) :
    (s.castOnNow start).frame =
      { phase := .running, count := s.frame.count + 1, start := start, stop := start + s.lenL * 16,
        next := if s.markMode then none else some (start + s.lenL * 16 + s.gapG / unitT), clear := 0 } := by
  obtain ⟨v, hv, hu⟩ := s.castOnNow_steady start
  obtain ⟨hl, hm, hg⟩ := hv.framing_eq
  rw [hu.frame, ← hl, ← hm, ← hg, ← hv.frame]
  rfl

theorem State.castOnNow_irqCast (s : State) (start : Nat) : (s.castOnNow start).irqCast = s.irqCast + 1 := by
  obtain ⟨v, hv, hu⟩ := s.castOnNow_steady start
  rw [hu.irqCast, ← hv.irqCast]
  rfl

theorem State.castOnNow_next (s : State) (start : Nat) : (s.castOnNow start).mast.next = 0 := by
  obtain ⟨v, _, hu⟩ := s.castOnNow_steady start
  exact hu.next

theorem execCastOn_of_start {t : Time} {s : State} {start : Nat} (hn : s.frame.next = some start) (hc : s.castOn = false)
    (ht : start * unitT ≤ t) (hr : s.frame.clear * unitT ≤ t) : execCastOn t s = .next ((s.at t).castOnNow start) := by
  have hb : ¬ ((s.at t).castOn = true ∨ t < start * unitT ∨ t < (s.at t).frame.clear * unitT) := by
    rintro (h | h | h)
    · exact Bool.false_ne_true (hc.symm.trans h)
    · exact Nat.not_lt.2 ht h
    · exact Nat.not_lt.2 hr h
  have hn : (s.at t).frame.next = some start := hn
  simp only [execCastOn, hn, if_neg hb]

/-! ### Mark times -/

/-- A mark time is shown and counted; the frame and the registers of the framing stay. -/
theorem State.markShown_steady (s : State) (m : Nat) : s.Steady ((s.setField (oTmg 0x48) 55 0 m).bump (oTmg 0x600)) :=
  ((State.Steady.refl s).setField (o := oTmg 0x48) (v := m) (hi := 55) (lo := 0)).bump (o := oTmg 0x600)

theorem State.markShown_field (s : State) (m : Nat) :
    ((s.setField (oTmg 0x48) 55 0 m).bump (oTmg 0x600)).field (oTmg 0x48) 55 0 = m % 2 ^ 56 := by
  rw [State.field_bump_ne _ _ _ (by decide), State.field_setField_self _ _ _ (by decide) (by decide)]

/-- A mark time that MARK mode accepts starts the next frame, with or without a warning that it comes too soon. -/
theorem State.markNow_of_accepted {s : State} {m : Nat} (h : Sys2Proof.Claims.MarkAccepted s m) :
    (s.markNow m).frame = { s.frame with next := some m } ∧ (s.markNow m).field (oTmg 0x48) 55 0 = m % 2 ^ 56 ∧
      (s.markNow m).mem = s.mem := by
  obtain ⟨-, hmode, hnext, hlate⟩ := h
  have hst := s.markShown_steady m
  have hf := s.markShown_field m
  have hm : ((s.setField (oTmg 0x48) 55 0 m).bump (oTmg 0x600)).mem = s.mem := rfl
  unfold State.markNow
  extract_lets u f early v need
  change s.Steady u at hst
  change u.field _ _ _ = _ at hf
  change u.mem = _ at hm
  obtain ⟨hl, hmo, -⟩ := hst.framing_eq
  have he : u.endT = s.endT := by simp only [State.endT, State.startT, hst.frame, hl]
  have hearly : early = false := by
    have h1 : (decide (f.count ≠ 0) && decide (m * unitT < u.endT)) = false := by
      show (decide (u.frame.count ≠ 0) && _) = false
      rw [hst.frame, he]
      rcases hlate with h | h
      · simp [h]
      · simp [Nat.not_lt.2 h]
    have h2 : f.next = none := by show u.frame.next = none; rw [hst.frame, hnext]
    show ((decide (f.count ≠ 0) && decide (m * unitT < u.endT)) || _) = false
    rw [h1, h2]
    rfl
  have hv : v.frame = { s.frame with next := some m } ∧ v.field (oTmg 0x48) 55 0 = m % 2 ^ 56 ∧ v.mem = s.mem :=
    ⟨by show ({ u.frame with next := some m } : FrameSt) = _; rw [hst.frame], hf, hm⟩
  rw [if_pos (hmo.trans hmode), hearly, if_neg Bool.false_ne_true]
  clear_value v
  obtain ⟨h1, h2, h3⟩ := hv
  split
  · exact ⟨h1, (State.field_bump_ne _ _ _ (by decide)).trans h2, h3⟩
  · exact ⟨h1, h2, h3⟩

/-- The same of a device that is ready. -/
theorem State.markAt_of_accepted {s : State} {m : Nat} (h : Sys2Proof.Claims.MarkAccepted s m) : s.markAt m = s.markNow m :=
  if_pos h.1

theorem execFrameMark_of_edge {t : Time} {w : Nat} {s : State} (hw : 5000 ≤ w) (hsrc : s.field (oTmg 0) 56 56 = 0) :
    execFrameMark t w s =
      .next ((s.at t).markAt ((devUnits t - s.field (oTmg 0x28) 63 40) / 2 ^ s.markQ * 2 ^ s.markQ)) := by
  have hsrc : ¬ (s.at t).field (oTmg 0) 56 56 = 1 := fun h => Nat.zero_ne_one (hsrc.symm.trans h)
  rw [execFrameMark]
  extract_lets
  rw [if_neg (Nat.not_lt.2 hw), if_neg hsrc]
  rfl

theorem execFrameMark_of_short {t : Time} {w : Nat} {s : State} (hw : w < 5000) :
    execFrameMark t w s = .next ((s.at t).bump (oTmg 0x628)) := if_pos hw

theorem execFmsoftWrite_of_soft {t : Time} {v : Word} {s : State} (hsrc : s.field (oTmg 0) 56 56 = 1) :
    execFmsoftWrite t v s = .next ((s.at t).markAt (bf v 55 0)) :=
  congrArg Host.Outcome.next (if_pos (show (s.at t).field (oTmg 0) 56 56 = 1 from hsrc))

theorem markAccepted_at {s : State} {m : Nat} (t : Time) (h : Sys2Proof.Claims.MarkAccepted s m) :
    Sys2Proof.Claims.MarkAccepted (s.at t) m := h

/-- Settles O10: what a cast-on does before and after it begins the frame leaves the frame and its timing, and an accepted mark is
never early. -/
theorem castOnAndMarks : Obligations.CastOnAndMarks := by
  refine ⟨fun t s start hn hc ht hr => ?_, fun t w s m hw hsrc hm ha => ?_, fun t w s hw => execFrameMark_of_short hw,
    fun t v s hsrc ha => ?_⟩
  · refine ⟨_, execCastOn_of_start hn hc ht hr, ?_⟩
    have hf := (s.at t).castOnNow_frame start
    refine ⟨by rw [hf], by rw [hf]; rfl, by rw [hf], by rw [hf]; rfl, (s.at t).castOnNow_irqCast start,
      (s.at t).castOnNow_next start, by rw [hf]; rfl⟩
  · subst hm
    have ha := markAccepted_at t ha
    exact ⟨_, execFrameMark_of_edge hw hsrc, by rw [State.markAt_of_accepted ha]; exact State.markNow_of_accepted ha⟩
  · have ha := markAccepted_at t ha
    obtain ⟨h1, -, h3⟩ := State.markNow_of_accepted ha
    exact ⟨_, execFmsoftWrite_of_soft hsrc, by rw [State.markAt_of_accepted ha]; exact ⟨h1, h3⟩⟩

end Sys2Proof.Machine
end

section
/-! PROOFS. Windows of the region map, of the channel counters and of the dispatch maps (O19). -/

namespace Sys2Proof.Machine

/-! ### The index of a window advances (R14) -/

@[simp] theorem State.autoInc_rdata (s : State) (o b : Nat) : (s.autoInc o b).rdata = s.rdata := by unfold State.autoInc; split <;> rfl
@[simp] theorem State.autoInc_mem (s : State) (o b : Nat) : (s.autoInc o b).mem = s.mem := by unfold State.autoInc; split <;> rfl
@[simp] theorem State.autoInc_chans (s : State) (o b : Nat) : (s.autoInc o b).chans = s.chans := by unfold State.autoInc; split <;> rfl
@[simp] theorem State.autoInc_regionS (s : State) (o b : Nat) : (s.autoInc o b).regionS = s.regionS := by
  unfold State.autoInc; split <;> rfl
@[simp] theorem State.autoInc_regionA (s : State) (o b : Nat) : (s.autoInc o b).regionA = s.regionA := by
  unfold State.autoInc; split <;> rfl
@[simp] theorem State.autoInc_dmapS (s : State) (o b : Nat) : (s.autoInc o b).dmapS = s.dmapS := by unfold State.autoInc; split <;> rfl
@[simp] theorem State.autoInc_dmapA (s : State) (o b : Nat) : (s.autoInc o b).dmapA = s.dmapA := by unfold State.autoInc; split <;> rfl

/-- Registers other than the window's index. -/
theorem State.reg_autoInc_ne (s : State) {o j : Nat} (b : Nat) (h : j ≠ o) : (s.autoInc o b).reg j = s.reg j := by
  unfold State.autoInc
  split
  · exact (s.reg_setReg o j _).trans (if_neg h)
  · rfl

theorem State.tabPending_autoInc (s : State) {o : Nat} (b k : Nat) (h : oDev 0x20 ≠ o) :
    (s.autoInc o b).tabPending k = s.tabPending k := by
  unfold State.tabPending State.field
  rw [s.reg_autoInc_ne b h]

/-- The index of `b` bits after an access: one more where AUTOINC is set. -/
theorem State.field_autoInc (s : State) (o : Nat) {b : Nat} (hb : 0 < b) (h63 : b ≤ 63) :
    (s.autoInc o b).field o (b - 1) 0 = (s.field o (b - 1) 0 + s.field o 63 63) % 2 ^ b := by
  have hidx : s.field o (b - 1) 0 < 2 ^ b := by
    have h := bf_lt (s.reg o) (b - 1) 0
    rwa [show b - 1 + 1 - 0 = b by omega] at h
  have hauto : s.field o 63 63 < 2 := bf_lt (s.reg o) 63 63
  unfold State.autoInc
  split
  next h =>
    rw [State.field_setField_self _ _ _ (Nat.zero_le _) (by omega), show b - 1 + 1 - 0 = b by omega, Nat.mod_mod, h]
  next h =>
    rw [show s.field o 63 63 = 0 by omega, Nat.add_zero, Nat.mod_eq_of_lt hidx]

/-! ### A table is left pending -/

@[simp] theorem State.tabPending_tabPend (s : State) {k : Nat} (hk : k < 64) : (s.tabPend k).tabPending k = true := by
  have h : (s.tabPend k).field (oDev 0x20) k k = 1 % 2 ^ (k + 1 - k) := State.field_setField_self _ _ _ (Nat.le_refl k) hk
  rw [State.tabPending, h, show k + 1 - k = 1 by omega]
  rfl

theorem State.field_tabPend_ne (s : State) {o : Nat} (k hi lo : Nat) (h : o ≠ oDev 0x20) : (s.tabPend k).field o hi lo = s.field o hi lo :=
  s.field_setField_ne _ _ _ _ _ h

/-! ### The windows -/

/-- A halo count above 8 is no encoding: the entry keeps the count it has. -/
theorem haloN_dmapMerge0_le (old v : Word) : bf (dmapMerge0 old v) 62 59 ≤ max 8 (bf old 62 59) := by
  have hn : bf (dmapMerge0 old v) 62 59 = (if bf v 62 59 ≤ 8 then bf v 62 59 else bf old 62 59) % 2 ^ 4 := by
    unfold dmapMerge0
    rw [bf_setBf_disjoint _ _ (by decide) (by decide) (by decide), bf_setBf_disjoint _ _ (by decide) (by decide) (by decide),
      bf_setBf_self _ _ (by decide) (by decide)]
  rw [hn]
  refine (Nat.mod_le _ _).trans ?_
  split
  next h => exact h.trans (Nat.le_max_left _ _)
  next => exact Nat.le_max_right _ _

/-- A write of the region map's window. -/
theorem execRegmapDataAccess_write (t : Time) (v : Word) (s : State) :
    execRegmapDataAccess t true v s = .next
      ((({ s.at t with
          regionS := sset 0 (s.field (oFmt 0x100) 15 0)
            (setBf (setBf (setBf (setBf 0 31 31 (bf v 31 31)) 30 30 (bf v 30 30)) 27 16 (bf v 27 16)) 11 0 (bf v 11 0)) s.regionS } :
        State).tabPend 0).autoInc (oFmt 0x100) 16) := rfl

/-- A read of the region map's window. -/
theorem execRegmapDataAccess_read (t : Time) (v : Word) (s : State) :
    execRegmapDataAccess t false v s = .next
      (({ s.at t with
          rdata := sget 0 (s.field (oFmt 0x100) 15 0) (if s.field (oFmt 0x100) 62 62 = 1 then s.regionA else s.regionS) } :
        State).autoInc (oFmt 0x100) 16) := rfl

/-- A read of the channel counters' window. -/
theorem execChcntData1Read_eq (t : Time) (s : State) :
    execChcntData1Read t s = .next (({ s.at t with rdata := s.chcnt1 } : State).autoInc (oFmt 0x110) 16) := rfl

/-- A write of the first half of a dispatch-map entry leaves the row's index. -/
theorem execDmapDataAccess_write0 (t : Time) (r : RowId) (v : Word) (s : State) :
    execDmapDataAccess t r false true v s = .next
      (({ s.at t with
          dmapS := sset 0 (s.field (oRow r 0x18) 11 0 * 2) (dmapMerge0 (sget 0 (s.field (oRow r 0x18) 11 0 * 2) s.dmapS) v) s.dmapS } :
        State).tabPend 1) := rfl

theorem oRow_ne_pending (r o : Nat) : oRow r o ≠ oDev 0x20 := by unfold oRow oDev; omega

/-- The index of a row advances from the value that the access used. -/
theorem State.rowIndex_next {s : State} {o g : Nat} (hg : s.field o 11 0 = g) :
    (if true = true ∧ s.field o 63 63 = 1 then s.setField o 11 0 ((g + 1) % 4096) else s) = s.autoInc o 12 := by
  subst hg
  simp only [true_and]
  rfl

/-- A write of the second half of a dispatch-map entry. -/
theorem execDmapDataAccess_write1 (t : Time) (r : RowId) (v : Word) (s : State) :
    execDmapDataAccess t r true true v s = .next
      ((({ s.at t with dmapS := sset 0 (s.field (oRow r 0x18) 11 0 * 2 + 1) (setBf 0 47 0 (bf v 47 0)) s.dmapS } :
        State).tabPend 1).autoInc (oRow r 0x18) 12) :=
  congrArg Host.Outcome.next (State.rowIndex_next (State.field_tabPend_ne _ 1 11 0 (oRow_ne_pending r 0x18)))

/-- A read of a dispatch map's window: after the second half of an entry the index advances. -/
theorem execDmapDataAccess_read (t : Time) (r : RowId) (data1 : Bool) (v : Word) (s : State) (u : State)
    (hu : u = { s.at t with
      rdata := sget 0 (s.field (oRow r 0x18) 11 0 * 2 + b2n data1) (if s.field (oRow r 0x18) 62 62 = 1 then s.dmapA else s.dmapS) }) :
    execDmapDataAccess t r data1 false v s = .next (if data1 then u.autoInc (oRow r 0x18) 12 else u) := by
  subst hu
  cases data1 with
  | false => rfl
  | true => exact congrArg Host.Outcome.next (State.rowIndex_next rfl)

/-- AUTOMASK_CLEAR. -/
theorem execAutomaskClear_eq (t : Time) (v : Word) (s : State) :
    execAutomaskClear t v s = .next
      (if bf v 63 63 = 1 ∧ (s.at t).justRaised (2 ^ 32 + s.field (oFmt 0x110) 15 0) 63 = false then
        (s.at t).setChan (s.field (oFmt 0x110) 15 0) { s.chan (s.field (oFmt 0x110) 15 0) with auto := false, cnt := 0 }
      else s.at t) := rfl

/-- Settles O19: each window is its update of the staged copy or of the answer, and the advance of its index. -/
theorem tableWindows : Obligations.TableWindows := by
  refine ⟨⟨fun t v s => ?_, fun t v s => ?_, fun t s => ?_, fun t v s hv hj => ?_, fun t v s hj => ?_⟩,
    fun t r v s k hk => ?_, fun t r v s k hk => ?_, fun t r data1 v s => ?_⟩
  · refine ⟨_, execRegmapDataAccess_write t v s, ?_, fun c hc => ?_, ?_, ?_, ?_, ?_⟩
    · exact (congrArg _ (State.autoInc_regionS ..)).trans (sget_sset_self ..)
    · exact (congrArg _ (State.autoInc_regionS ..)).trans (sget_sset_ne 0 0 hc ..)
    · exact State.autoInc_regionA ..
    · exact (State.tabPending_autoInc _ _ _ (by decide)).trans (State.tabPending_tabPend _ (by decide))
    · exact State.autoInc_mem ..
    · rw [State.field_autoInc _ _ (by decide) (by decide), State.field_tabPend_ne _ _ _ _ (by decide),
        State.field_tabPend_ne _ _ _ _ (by decide)]
      rfl
  · exact ⟨_, execRegmapDataAccess_read t v s, State.autoInc_rdata .., State.autoInc_regionS .., State.autoInc_regionA ..,
      State.autoInc_mem ..⟩
  · exact ⟨_, execChcntData1Read_eq t s, State.autoInc_rdata .., State.autoInc_chans ..,
      State.field_autoInc _ _ (by decide) (by decide)⟩
  · exact (execAutomaskClear_eq t v s).trans (congrArg _ (if_pos ⟨hv, hj⟩))
  · refine (execAutomaskClear_eq t v s).trans (congrArg _ (if_neg fun h => ?_))
    exact Bool.false_ne_true (h.2.symm.trans hj)
  · subst hk
    refine ⟨_, execDmapDataAccess_write0 t r v s, sget_sset_self .., ?_, rfl, State.tabPending_tabPend _ (by decide), rfl,
      State.field_tabPend_ne _ _ _ _ (oRow_ne_pending r 0x18)⟩
    exact (congrArg (bf · 62 59) (sget_sset_self ..)).trans_le (haloN_dmapMerge0_le _ v)
  · subst hk
    refine ⟨_, execDmapDataAccess_write1 t r v s, ?_, State.autoInc_dmapA .., ?_, State.autoInc_mem .., ?_⟩
    · exact (congrArg _ (State.autoInc_dmapS ..)).trans (sget_sset_self ..)
    · exact (State.tabPending_autoInc _ _ _ (oRow_ne_pending r 0x18).symm).trans (State.tabPending_tabPend _ (by decide))
    · rw [State.field_autoInc _ _ (by decide) (by decide), State.field_tabPend_ne _ _ _ _ (oRow_ne_pending r 0x18),
        State.field_tabPend_ne _ _ _ _ (oRow_ne_pending r 0x18)]
      rfl
  · refine ⟨_, execDmapDataAccess_read t r data1 v s _ rfl, ?_⟩
    cases data1 with
    | false => exact ⟨rfl, rfl, rfl, rfl⟩
    | true => exact ⟨State.autoInc_rdata .., State.autoInc_dmapS .., State.autoInc_dmapA .., State.autoInc_mem ..⟩

end Sys2Proof.Machine
end

section
/-! PROOFS. A controller's repairs, its merge buffer, armed corruptions, the power-on fill and the failure of a stack (O42). -/

namespace Sys2Proof.Machine

open Sys2Proof.Claims

/-! ### What counting and logging leave

Corrections, records bus errors and corruptions of the controller `m` write its log, NEWEST, DROPPED, MEM_FLIPCTL and their counts, and nothing else that it keeps. -/

/-- The registers of a controller's log, of its armed corruption and of its counts. -/
def logReg (o : Nat) : Bool := [0x10, 0x20, 0x100, 0x110, 0x128].contains o || decide (0x2000 ≤ o)

structure State.Logged (s₀ : State) (m : Nat) (s : State) : Prop where
  small : s.small = s₀.small
  bad : s.bad = s₀.bad
  suspect : s.suspect = s₀.suspect
  decodes : s.decodes = s₀.decodes
  merges : s.merges = s₀.merges
  mem : s.mem = s₀.mem
  reg : ∀ o, logReg o = false → s.reg (oMem m o) = s₀.reg (oMem m o)

section
variable {m : Nat} {s₀ s : State}

theorem State.Logged.refl (s : State) : s.Logged m s := ⟨rfl, rfl, rfl, rfl, rfl, rfl, fun _ _ => rfl⟩

theorem State.Logged.same (h : s₀.Logged m s) {free raised errs errNum flips} :
    s₀.Logged m { s with free, raised, errs, errNum, flips } :=
  ⟨h.small, h.bad, h.suspect, h.decodes, h.merges, h.mem, h.reg⟩

theorem State.Logged.setReg {o : Nat} {v : Word} (h : s₀.Logged m s)
    (ho : logReg o = true := by decide) : s₀.Logged m (s.setReg (oMem m o) v) :=
  ⟨h.small, h.bad, h.suspect, h.decodes, h.merges, h.mem, fun j hj => by
    have hne : j ≠ o := by rintro rfl; exact Bool.false_ne_true (hj.symm.trans ho)
    rw [State.reg_setReg, if_neg (by unfold oMem; omega), h.reg j hj]⟩

theorem State.Logged.ite {c : Prop} {_ : Decidable c} {a b : State} (ha : s₀.Logged m a) (hb : s₀.Logged m b) :
    s₀.Logged m (if c then a else b) := by split <;> assumption

theorem State.Logged.iteFst {α : Type} {c : Prop} {_ : Decidable c} {a b : State × α} (ha : s₀.Logged m a.1) (hb : s₀.Logged m b.1) :
    s₀.Logged m (if c then a else b).1 := by split <;> assumption

end

section
variable {m : Nat} {s₀ s : State} {b i kind line mask n o pa src unit cause v hi lo : Nat} (h : s₀.Logged m s)
include h

theorem State.Logged.setField (ho : logReg o = true := by decide) : s₀.Logged m (s.setField (oMem m o) hi lo v) :=
  h.setReg ho

theorem State.Logged.errWith {cls code slot d4 d5 d6 d7 : Nat} {cause : Option Nat} :
    s₀.Logged m (s.errWith cls src unit code slot d4 d5 d6 d7 cause) := h.same

theorem State.Logged.logShow {newest : Nat} : s₀.Logged m (s.logShow m newest) := (h.setField (o := 0x10)).setField (o := 0x10)
theorem State.Logged.logErr : s₀.Logged m (s.logErr m kind pa cause) := .ite (.ite h.errWith h) h.errWith

/-- A register of the log. -/
theorem State.Logged.setLog {w : Nat} {v : Word} : s₀.Logged m (s.setReg (oLog m i w) v) :=
  h.setReg (by unfold logReg; rw [decide_eq_true (by omega), Bool.or_true])

theorem State.Logged.logMerge : s₀.Logged m (s.logMerge m i mask) := h.setLog.setLog.setLog.logShow

theorem State.Logged.logCreate : s₀.Logged m (s.logCreate m i kind pa mask src unit) :=
  have h1 : s₀.Logged m ((s.setReg (oLog m i 0) (s.logWord0 kind mask src unit)).raiseBit (oLog m i 0) 63) := h.setLog.setLog.same
  have h2 := (h1.setLog (i := i) (w := 1) (v := BitVec.ofNat 64 (pa / 64 * 64)))
  (h2.setLog.same).setLog.logShow

theorem State.Logged.memLog : s₀.Logged m (s.memLog m kind pa mask src unit cause) := by
  unfold State.memLog
  split
  · exact h
  · split
    · exact h.logMerge
    · split
      · exact (h.setField (o := 0x10)).logErr
      · exact h.logCreate.logErr

theorem State.Logged.wrongWords : s₀.Logged m (s.wrongWords line).1 := .iteFst h (.iteFst h (.iteFst (.iteFst h.same h.same) h))

theorem State.Logged.corrected : s₀.Logged m (s.corrected m pa mask src unit) := .ite h (h.same.setReg (o := 0x100)).memLog

theorem State.Logged.busErrLog (hm : ctlOf pa = m) : s₀.Logged m (s.busErrLog pa src unit) := by
  subst hm
  have hb : s₀.Logged (ctlOf pa) (s.bump (oMem (ctlOf pa) 0x110)) := h.setReg
  exact .ite h (.ite hb hb.memLog)

theorem State.Logged.checkFold (hm : ctlOf pa = m) : s₀.Logged m (s.checkFold pa src unit) := by
  subst hm
  exact .ite h.wrongWords.corrected (h.wrongWords.corrected.same.setReg (o := 0x128)).memLog

theorem State.Logged.flipHook : s₀.Logged m (s.flipHook m pa) := .ite (h.same.setField (o := 0x20)) h
end

/-! ### Words of lines -/

theorem sget_filter_none {α : Type} (d : α) (k : Nat) {p : Nat × α → Bool} (hp : ∀ v, p (k, v) = false) (l : Sparse α) :
    sget d k (l.filter p) = d := by
  induction l with
  | nil => rfl
  | cons e l ih =>
    obtain ⟨j, v⟩ := e
    by_cases h : p (j, v) = true
    · have hj : j ≠ k := by rintro rfl; exact Bool.false_ne_true ((hp v).symm.trans h)
      rw [List.filter_cons_of_pos h, sget, if_neg hj, ih]
    · rw [List.filter_cons_of_neg h, ih]

/-- What a key reads as is listed, or is the default. -/
theorem sget_mem_or {α : Type} (d : α) (k : Nat) (l : Sparse α) : (k, sget d k l) ∈ l ∨ sget d k l = d := by
  induction l with
  | nil => exact .inr rfl
  | cons e l ih =>
    obtain ⟨j, v⟩ := e
    by_cases hj : j = k
    · subst hj
      exact .inl (by rw [sget, if_pos rfl]; exact List.mem_cons_self ..)
    · rw [sget, if_neg hj]
      exact ih.imp_left (List.mem_cons_of_mem _)

/-- The masks of `l` are joined to those of `b`. -/
def joinMasks (l b : Sparse Nat) : Sparse Nat := l.foldl (fun b e => sset 0 e.1 (sget 0 e.1 b ||| e.2) b) b

theorem joinMasks_cons (e : Nat × Nat) (l b : Sparse Nat) : joinMasks (e :: l) b = joinMasks l (sset 0 e.1 (sget 0 e.1 b ||| e.2) b) := rfl

/-- A line that `l` does not list keeps its mask. -/
theorem sget_joinMasks_of_not_mem {k : Nat} {l : Sparse Nat} (hl : ∀ e ∈ l, e.1 ≠ k) (b : Sparse Nat) :
    sget 0 k (joinMasks l b) = sget 0 k b := by
  induction l generalizing b with
  | nil => rfl
  | cons e l ih =>
    have he : k ≠ e.1 := (hl e (List.mem_cons_self ..)).symm
    rw [joinMasks_cons, ih (fun x hx => hl x (List.mem_cons_of_mem _ hx)), sget_sset_ne 0 0 he]

/-- No bit of a mask is lost. -/
theorem bit_joinMasks_of_bit {k i : Nat} (l : Sparse Nat) {b : Sparse Nat} (h : bit (sget 0 k b) i = true) :
    bit (sget 0 k (joinMasks l b)) i = true := by
  induction l generalizing b with
  | nil => exact h
  | cons e l ih =>
    rw [joinMasks_cons]
    apply ih
    rw [sget_sset]
    split
    next he =>
      subst he
      rw [bit, Nat.testBit_or, show Nat.testBit (sget 0 e.1 b) i = true from h, Bool.true_or]
    next => exact h

/-- Every bit that `l` lists is joined. -/
theorem bit_joinMasks_of_mem {k w i : Nat} {l : Sparse Nat} (hl : (k, w) ∈ l) (hw : bit w i = true) (b : Sparse Nat) :
    bit (sget 0 k (joinMasks l b)) i = true := by
  induction l generalizing b with
  | nil => cases hl
  | cons e l ih =>
    rw [joinMasks_cons]
    rcases List.mem_cons.1 hl with rfl | hl
    · apply bit_joinMasks_of_bit
      rw [sget_sset_self, bit, Nat.testBit_or, show w.testBit i = true from hw, Bool.or_true]
    · exact ih hl _

/-! ### The end of a page decode -/

/-- Words that the code finds beyond repair: none where less than two bits are wrong; on PXZ-5124 some where more are. -/
theorem State.wrongWords_lost_of_lt {s : State} {line : Nat} (h : (sget (0, 0) line s.flips).2 < 2) : (s.wrongWords line).2.2 = 0 := by
  unfold State.wrongWords
  extract_lets fl
  have h : fl.2 < 2 := h
  split
  · rfl
  · rw [if_pos (by omega)]

theorem State.wrongWords_lost_of_ge {s : State} {line : Nat} (hs : s.small = false) (h : 2 ≤ (sget (0, 0) line s.flips).2) :
    (s.wrongWords line).2.2 ≠ 0 := by
  unfold State.wrongWords
  extract_lets fl
  have h : 2 ≤ fl.2 := h
  rw [if_neg (by omega), if_neg (by omega), hs, if_neg Bool.false_ne_true]
  show 1 <<< fl.1 ≠ 0
  rw [Nat.one_shiftLeft]
  exact (Nat.two_pow_pos _).ne'

theorem State.wrongWords_lost_congr {s u : State} {line : Nat} (hf : u.flips = s.flips) (hs : u.small = s.small)
    (hv : u.freeVal = s.freeVal) : (u.wrongWords line).2.2 = (s.wrongWords line).2.2 := by
  unfold State.wrongWords
  extract_lets fl fl'
  have hfl : fl = fl' := congrArg (sget (0, 0) line) hf
  rw [hfl, hs, hv]
  split_ifs <;> rfl

/-- The state as a decode of the page ends, before its words are corrected or lost. -/
def State.decodeOut (s : State) (m page : Nat) : State :=
  { s with decodes := sset [] m ((sget [] m s.decodes).filter fun p => p != page) s.decodes }.bump (oMem m 0x118)

theorem State.decodeOut_count (s : State) (m page : Nat) : (s.decodeOut m page).reg (oMem m 0x118) =
    BitVec.ofNat 64 (min (2 ^ 64 - 1) ((s.reg (oMem m 0x118)).toNat + 1)) := (State.reg_setReg _ _ _ _).trans (if_pos rfl)

/-- What the end of a decode of a page leaves whatever its outcome: the page is neither suspect nor under decode, and the decode is
counted. -/
structure State.DecodeEnds (s : State) (m page : Nat) (u : State) : Prop where
  suspect : u.suspect = s.suspect.filter fun e => e.1 / 64 != page
  decodes : u.decodes = sset [] m ((sget [] m s.decodes).filter fun p => p != page) s.decodes
  merges : u.merges = s.merges
  small : u.small = s.small
  count : u.reg (oMem m 0x118) = BitVec.ofNat 64 (min (2 ^ 64 - 1) ((s.reg (oMem m 0x118)).toNat + 1))

section
variable {m page : Nat} {s w : State}

theorem State.DecodeEnds.of_decodeOut (h : (s.decodeOut m page).Logged m w) {bad flips suspect}
    (hs : suspect = s.suspect.filter fun e => e.1 / 64 != page) : s.DecodeEnds m page { w with bad, flips, suspect } :=
  ⟨hs, h.decodes, h.merges, h.small,
    show w.reg (oMem m 0x118) = _ from
      (h.reg _ rfl).trans (s.decodeOut_count m page)⟩

theorem State.DecodeEnds.logged {u : State} (h : s.DecodeEnds m page w) (hu : w.Logged m u) : s.DecodeEnds m page u :=
  ⟨hu.suspect.trans h.suspect, hu.decodes.trans h.decodes, hu.merges.trans h.merges, hu.small.trans h.small,
    (hu.reg _ rfl).trans h.count⟩

theorem State.DecodeEnds.corrects (h : s.DecodeEnds m page w) : s.DecodeEnds m page (w.bump (oMem m 0x108)) :=
  ⟨h.suspect, h.decodes, h.merges, h.small,
    (State.reg_setReg _ _ _ _).trans ((if_neg (by unfold oMem; omega)).trans h.count)⟩

end

theorem State.decodeEnds_decodeEnd (s : State) (m pa : Nat) (fits : Bool) (src unit : Nat) :
    s.DecodeEnds m (pa / 4096) (s.decodeEnd m pa fits src unit) := by
  unfold State.decodeEnd
  extract_lets page mine mask first o r v rest
  have hv : (s.decodeOut m (pa / 4096)).Logged m v := (State.Logged.refl _).wrongWords.corrected
  have hrest : rest = s.suspect.filter fun e => e.1 / 64 != pa / 4096 := congrArg (List.filter _) hv.suspect
  clear_value v rest
  split
  · exact (State.DecodeEnds.of_decodeOut hv hrest).corrects.logged (State.Logged.refl _).memLog
  · exact .of_decodeOut hv hrest

/-- A correction is counted. -/
theorem State.Logged.corrects {m : Nat} {v u : State} {suspect flips}
    (h : (({ v with suspect, flips } : State).bump (oMem m 0x108)).Logged m u) :
    u.bad = v.bad ∧ u.reg (oMem m 0x108) = BitVec.ofNat 64 (min (2 ^ 64 - 1) ((v.reg (oMem m 0x108)).toNat + 1)) :=
  ⟨h.bad, (h.reg _ rfl).trans ((State.reg_setReg _ _ _ _).trans (if_pos rfl))⟩

/-- A page that the decode corrects loses no word, and the correction is counted. -/
theorem State.decodeEnd_saved {s : State} {m pa : Nat} {fits : Bool} (src unit : Nat) (hf : fits = true)
    (hw : (s.wrongWords (checkBlock pa / 64)).2.2 = 0) :
    (s.decodeEnd m pa fits src unit).bad = s.bad ∧ (s.decodeEnd m pa fits src unit).reg (oMem m 0x108) =
      BitVec.ofNat 64 (min (2 ^ 64 - 1) ((s.reg (oMem m 0x108)).toNat + 1)) := by
  unfold State.decodeEnd
  extract_lets page mine mask first o r v rest
  have hv : (s.decodeOut m (pa / 4096)).Logged m v := (State.Logged.refl _).wrongWords.corrected
  have hr : r.2.2 = 0 := (State.wrongWords_lost_congr (s := s) (u := o) rfl rfl rfl).trans hw
  have hcnt : v.reg (oMem m 0x108) = s.reg (oMem m 0x108) := by
    rw [hv.reg _ rfl]
    exact (State.reg_setReg _ _ _ _).trans (if_neg (by unfold oMem; omega))
  clear_value v
  rw [if_pos ⟨hf, hr⟩, ← hcnt]
  obtain ⟨h1, h2⟩ := State.Logged.corrects (State.Logged.memLog (State.Logged.refl ({ v with
    suspect := rest, flips := v.flips.filter fun e => e.1 / 64 != page }.bump (oMem m 0x108))) (kind := 2) (pa := first * 64)
    (mask := mask) (src := src) (unit := unit) (cause := 0))
  exact ⟨h1.trans hv.bad, h2⟩

/-- A page that the decode does not correct loses its suspect words. -/
theorem State.decodeEnd_lost {s : State} {m pa : Nat} {fits : Bool} (src unit : Nat)
    (hl : fits = false ∨ (s.wrongWords (checkBlock pa / 64)).2.2 ≠ 0) :
    (s.decodeEnd m pa fits src unit).bad = joinMasks (s.suspect.filter fun e => e.1 / 64 == pa / 4096) s.bad := by
  unfold State.decodeEnd
  extract_lets page mine mask first o r v rest
  have hv : (s.decodeOut m (pa / 4096)).Logged m v := (State.Logged.refl _).wrongWords.corrected
  have hr : r.2.2 = (s.wrongWords (checkBlock pa / 64)).2.2 := State.wrongWords_lost_congr (s := s) (u := o) rfl rfl rfl
  clear_value v
  rw [if_neg (by rintro ⟨h1, h2⟩; exact hl.elim (fun h => Bool.false_ne_true (h.symm.trans h1)) fun h => h (hr.symm.trans h2))]
  exact congrArg (joinMasks mine) hv.bad

/-- A page decode of a controller's first four completes: the decode ends, and a word it does not save may return a bus error. -/
theorem execPageDecode_logged {t : Time} {m : CtlId} {pa : BitVec 46} {req : Requester} {unit : BitVec 6} {fits : Bool} {s : State}
    (hm : ctlOf pa.toNat = m.val) (hd : ((sget [] m.val s.decodes).take 4).contains (pa.toNat / 4096) = true) :
    ∃ u, execPageDecode t m pa req unit fits s = .next u ∧
      ((s.at t).decodeEnd m pa.toNat fits (reqCode req) unit.toNat).Logged m u := by
  have hd : ¬ (ctlOf pa.toNat ≠ m.val ∨ ((sget [] m.val (s.at t).decodes).take 4).contains (pa.toNat / 4096) = false) := by
    rintro (h | h)
    · exact h hm
    · exact Bool.false_ne_true (h.symm.trans hd)
  rw [execPageDecode]
  extract_lets
  rw [if_neg hd]
  exact ⟨_, rfl, .ite (.refl _) ((State.Logged.refl _).busErrLog hm)⟩

theorem toNat_count (n : Nat) : (BitVec.ofNat 64 (min (2 ^ 64 - 1) n)).toNat = min (2 ^ 64 - 1) n := by
  rw [BitVec.toNat_ofNat]
  exact Nat.mod_eq_of_lt (by omega)

theorem State.DecodeEnds.not_decoding {s u : State} {m pa : Nat} (h : s.DecodeEnds m (pa / 4096) u) (hm : ctlOf pa = m) :
    u.decoding pa = false := by
  rw [State.decoding, hm, h.decodes, sget_sset_self]
  simp

theorem State.DecodeEnds.not_suspect {s u : State} {m page l : Nat} (h : s.DecodeEnds m page u) (hl : l / 64 = page) :
    sget 0 l u.suspect = 0 := by
  rw [h.suspect]
  exact sget_filter_none 0 l (fun v => by simp [hl]) _

/-- A word of the page that is suspect and not saved is lost. -/
theorem bit_joinMasks_of_suspect {s : State} {page l i : Nat} (hl : l / 64 = page) (hi : bit (sget 0 l s.suspect) i = true) :
    bit (sget 0 l (joinMasks (s.suspect.filter fun e => e.1 / 64 == page) s.bad)) i = true := by
  have hne : sget 0 l s.suspect ≠ 0 := by
    intro h
    rw [h, bit, Nat.zero_testBit] at hi
    exact Bool.false_ne_true hi
  have hmem := (sget_mem_or 0 l s.suspect).resolve_right hne
  exact bit_joinMasks_of_mem (List.mem_filter.2 ⟨hmem, by simp [hl]⟩) hi _

/-- A line of another page, or one without suspect words, keeps its mask. -/
theorem sget_joinMasks_of_unsuspected {s : State} {page l : Nat} (hl : l / 64 ≠ page ∨ s.suspect.all (fun e => e.1 != l) = true) :
    sget 0 l (joinMasks (s.suspect.filter fun e => e.1 / 64 == page) s.bad) = sget 0 l s.bad := by
  refine sget_joinMasks_of_not_mem (fun e he => ?_) _
  obtain ⟨hmem, hpage⟩ := List.mem_filter.1 he
  rintro rfl
  rcases hl with hl | hl
  · exact hl (by simpa using hpage)
  · simpa using List.all_eq_true.1 hl e hmem

/-- A page decode, whatever its outcome, when it corrects the page, and when it does not. -/
theorem pageDecode_repairs (t : Time) (m : CtlId) (pa : BitVec 46) (req : Requester) (unit : BitVec 6) (s : State) (page : Nat)
    (fits : Bool) (hm : ctlOf pa.toNat = m.val) (hp : page = pa.toNat / 4096)
    (hd : ((sget [] m.val s.decodes).take 4).contains page = true) :
    (Completes (.pageDecode t m pa req unit fits) s fun u => u.mem = s.mem ∧ u.decoding pa.toNat = false ∧
      (∀ l, l / 64 = page → sget 0 l u.suspect = 0) ∧
      (u.reg (oMem m 0x118)).toNat = min (2 ^ 64 - 1) ((s.reg (oMem m 0x118)).toNat + 1)) ∧
    ((sget (0, 0) (checkBlock pa.toNat / 64) s.flips).2 < 2 → fits = true → Completes (.pageDecode t m pa req unit fits) s fun u =>
      u.bad = s.bad ∧ (u.reg (oMem m 0x108)).toNat = min (2 ^ 64 - 1) ((s.reg (oMem m 0x108)).toNat + 1)) ∧
    (fits = false ∨ s.small = false ∧ 2 ≤ (sget (0, 0) (checkBlock pa.toNat / 64) s.flips).2 →
      Completes (.pageDecode t m pa req unit fits) s fun u =>
        (∀ l i, l / 64 = page → bit (sget 0 l s.suspect) i = true → bit (sget 0 l u.bad) i = true) ∧
        ∀ l, l / 64 ≠ page ∨ s.suspect.all (fun e => e.1 != l) = true → sget 0 l u.bad = sget 0 l s.bad) := by
  subst hp
  obtain ⟨u, hu, hl⟩ := execPageDecode_logged (t := t) (req := req) (unit := unit) (fits := fits) hm hd
  have he := ((s.at t).decodeEnds_decodeEnd m.val pa.toNat fits (reqCode req) unit.toNat).logged hl
  refine ⟨⟨u, hu, ?_, he.not_decoding hm, fun l h => he.not_suspect h, ?_⟩, fun hf hfit => ⟨u, hu, ?_⟩, fun hlost => ⟨u, hu, ?_⟩⟩
  · exact hl.mem.trans (State.Aside.refl (s.at t)).decodeEnd.mem
  · rw [he.count, toNat_count]
    rfl
  · obtain ⟨hb, hc⟩ := State.decodeEnd_saved (s := s.at t) (m := m.val) (reqCode req) unit.toNat hfit (State.wrongWords_lost_of_lt hf)
    refine ⟨hl.bad.trans hb, ?_⟩
    rw [hl.reg _ rfl, hc, toNat_count]
    rfl
  · have hb := hl.bad.trans (State.decodeEnd_lost (s := s.at t) (m := m.val) (reqCode req) unit.toNat
      (hlost.imp_right fun h => State.wrongWords_lost_of_ge (s := s.at t) h.1 h.2))
    simp only [hb]
    exact ⟨fun l i h hi => bit_joinMasks_of_suspect (s := s.at t) h hi,
      fun l h => sget_joinMasks_of_unsuspected (s := s.at t) h⟩

/-! ### A line write -/

theorem State.awaitPage_of_idle {s : State} {pa : Nat} (h : s.decoding pa = false) : s.awaitPage pa = s := by
  rw [State.awaitPage, h, if_neg Bool.false_ne_true]

theorem State.wrongWords_of_clean {s : State} {line : Nat} (h : (sget (0, 0) line s.flips).2 = 0) : s.wrongWords line = (s, 0, 0) := by
  rw [State.wrongWords]
  exact if_pos h

/-- Reading a line without wrong bits, of a page that no decode holds, changes nothing. -/
theorem State.scan_of_clean {s : State} {pa : Nat} (src unit : Nat) (hd : s.decoding pa = false)
    (hf : (sget (0, 0) (pa / 64) s.flips).2 = 0) : s.scan pa src unit = s := by
  rw [State.scan]
  simp only [State.awaitPage_of_idle hd, State.wrongWords_of_clean hf, State.corrected, if_true]

theorem State.awaitPage_merges (s : State) (pa : Nat) : (s.awaitPage pa).merges = s.merges := by
  unfold State.awaitPage
  split
  · exact (s.decodeEnds_decodeEnd _ _ _ _ _).merges
  · rfl

theorem State.decodeAsk_merges (s : State) (m pa mask : Nat) : (s.decodeAsk m pa mask).merges = s.merges := by
  unfold State.decodeAsk
  extract_lets u
  split <;> rfl

theorem State.scan_merges (s : State) (pa src unit : Nat) : (s.scan pa src unit).merges = s.merges := by
  unfold State.scan
  extract_lets m u r v
  have hv : v.merges = s.merges := ((State.Logged.refl (m := m) u).wrongWords.corrected).merges.trans (s.awaitPage_merges pa)
  clear_value v
  split
  · exact hv
  split
  · exact ((v.decodeAsk m pa _).decodeEnds_decodeEnd m pa _ _ _).merges.trans ((v.decodeAsk_merges _ _ _).trans hv)
  · exact hv

/-- What R343 makes of the words of a line that were bad before `mask` was written. -/
def State.settleBad (s : State) (pa mask was src unit : Nat) : State :=
  if was = 0 then s
  else if s.small then
    if mask = 0xFF then { s with bad := serase (pa / 64) s.bad }
    else ({ s with bad := sset 0 (pa / 64) (0xFF * 256) s.bad }).memLog (ctlOf pa) 4 pa 0xFF src unit 0
  else
    let left := was &&& (0xFF - mask)
    let s := { s with bad := sset 0 (pa / 64) (left * 256) s.bad }
    let s := if left = 0 then s else s.memLog (ctlOf pa) 4 pa left src unit 0
    if s.isPage pa then (s.bump (oMem (ctlOf pa) 0x128)).memLog (ctlOf pa) 5 pa left src unit 0 else s

/-- A line write: reads of the old words, the check block, the bad words, an armed corruption. -/
theorem State.lineWrite_eq (s : State) (pa mask src unit : Nat) :
    s.lineWrite pa mask src unit =
      let u := s.awaitPage pa
      let v := if u.isPage pa ∨ mask ≠ 0xFF then u.scan pa src unit else u
      let w := { v with flips := serase (pa / 64) v.flips, suspect := serase (pa / 64) v.suspect }
      let x := if w.isPage pa then w.checkFold pa src unit else w
      (x.settleBad pa mask (v.badMask pa) src unit).flipHook (ctlOf pa) pa := rfl

/-- The words that stay bad on PXZ-5124 are logged. -/
theorem State.Logged.leftBad {s₀ s : State} {pa left src unit : Nat} (h : s₀.Logged (ctlOf pa) s) :
    s₀.Logged (ctlOf pa)
      (let s := if left = 0 then s else s.memLog (ctlOf pa) 4 pa left src unit 0
      if s.isPage pa then (s.bump (oMem (ctlOf pa) 0x128)).memLog (ctlOf pa) 5 pa left src unit 0 else s) := by
  extract_lets u
  have hu : s₀.Logged (ctlOf pa) u := .ite h h.memLog
  exact .ite (hu.setReg (o := 0x128)).memLog hu

theorem State.settleBad_merges (s : State) (pa mask was src unit : Nat) : (s.settleBad pa mask was src unit).merges = s.merges := by
  unfold State.settleBad
  extract_lets left u
  split
  · rfl
  split
  · split
    · rfl
    · exact ((State.Logged.refl _).memLog).merges
  · exact ((State.Logged.refl u).leftBad).merges

/-- The bad words of a line of which only some were written. -/
theorem State.settleBad_bad (s : State) (pa src unit : Nat) {mask was : Nat} (hm : mask ≠ 0xFF)
    (hw : was = 0 → sget 0 (pa / 64) s.bad = 0) :
    sget 0 (pa / 64) (s.settleBad pa mask was src unit).bad =
      if s.small then (if was = 0 then 0 else 0xFF * 256) else (was &&& (0xFF - mask)) * 256 := by
  unfold State.settleBad
  extract_lets left u
  by_cases h0 : was = 0
  · subst h0
    rw [if_pos rfl, hw rfl]
    split <;> simp
  · rw [if_neg h0]
    split
    next hs =>
      refine (congrArg (sget 0 (pa / 64)) ((State.Logged.refl _).memLog (m := ctlOf pa)).bad).trans ?_
      exact sget_sset_self 0 (pa / 64) (0xFF * 256) s.bad
    next hs =>
      rw [((State.Logged.refl u).leftBad).bad]
      exact sget_sset_self ..

theorem State.lineWrite_merges (s : State) (pa mask src unit : Nat) : (s.lineWrite pa mask src unit).merges = s.merges := by
  rw [State.lineWrite_eq]
  extract_lets u v w x
  have hv : v.merges = s.merges := by
    show (if u.isPage pa ∨ mask ≠ 0xFF then u.scan pa src unit else u).merges = _
    split
    · exact (u.scan_merges pa src unit).trans (s.awaitPage_merges pa)
    · exact s.awaitPage_merges pa
  have hx : w.Logged (ctlOf pa) x := .ite ((State.Logged.refl w).checkFold rfl) (.refl w)
  rw [((State.Logged.refl _).flipHook).merges, State.settleBad_merges, hx.merges]
  exact hv

theorem sget_bad_of_badMask {s : State} {pa : Nat} (h : s.badMask pa = 0) : sget 0 (pa / 64) s.bad = 0 := by
  obtain ⟨h1, h2⟩ := Nat.or_eq_zero_iff.1 h
  omega

theorem State.badMask_congr {s u : State} (h : u.bad = s.bad) (pa : Nat) : u.badMask pa = s.badMask pa := by
  rw [State.badMask, h]
  rfl

/-- A line without wrong bits, some of whose words are written. -/
theorem State.lineWrite_bad (s : State) {pa mask : Nat} (src unit : Nat) (hm : mask ≠ 0xFF) (hd : s.decoding pa = false)
    (hf : (sget (0, 0) (pa / 64) s.flips).2 = 0) :
    sget 0 (pa / 64) (s.lineWrite pa mask src unit).bad =
      if s.small then (if s.badMask pa = 0 then 0 else 0xFF * 256) else (s.badMask pa &&& (0xFF - mask)) * 256 := by
  rw [State.lineWrite_eq, State.awaitPage_of_idle hd]
  extract_lets u v w x
  have hv : v = s := (if_pos (.inr hm)).trans (State.scan_of_clean src unit hd hf)
  have hx : w.Logged (ctlOf pa) x := .ite ((State.Logged.refl w).checkFold rfl) (.refl w)
  have hbad : x.bad = s.bad := hx.bad.trans (show v.bad = s.bad by rw [hv])
  have hsmall : x.small = s.small := hx.small.trans (show v.small = s.small by rw [hv])
  rw [((State.Logged.refl _).flipHook).bad, State.settleBad_bad x pa src unit hm ?_, hsmall, hv]
  rw [hbad, hv]
  exact sget_bad_of_badMask

/-! ### MERGE_COMPLETE -/

theorem State.mergeDone_of_none {s : State} {m line : Nat} (h : (sget [] m s.merges).find? (fun e => e.1 == line) = none) :
    s.mergeDone m line = s := by
  simp only [State.mergeDone, h]

/-- The entry of a line that lacks words leaves the buffer, and the line is written. -/
theorem State.mergeDone_of_some {s : State} {m line mask at_ : Nat}
    (h : (sget [] m s.merges).find? (fun e => e.1 == line) = some (line, mask, at_)) :
    ∃ v : State, s.mergeDone m line = v.lineWrite (line * 64) mask 7 0 ∧
      v.merges = sset [] m ((sget [] m s.merges).filter fun e => e.1 != line) s.merges ∧ v.bad = s.bad ∧ v.small = s.small ∧
      v.decodes = s.decodes ∧ v.flips = s.flips := by
  simp only [State.mergeDone, h]
  refine ⟨_, rfl, ?_⟩
  split <;> exact ⟨rfl, rfl, rfl, rfl, rfl⟩

/-- After MERGE_COMPLETE the buffer holds no entry of the line. -/
theorem State.mergeDone_unlisted (s : State) (m line : Nat) :
    (sget [] m (s.mergeDone m line).merges).all (fun e => e.1 != line) = true := by
  cases h : (sget [] m s.merges).find? (fun e => e.1 == line) with
  | none =>
    rw [State.mergeDone_of_none h, List.all_eq_true]
    intro e he
    have hne := List.find?_eq_none.1 h e he
    simpa using hne
  | some e =>
    obtain ⟨l, mask, at_⟩ := e
    have hl : l = line := by simpa using List.find?_some h
    subst hl
    obtain ⟨v, hv, hm, -⟩ := State.mergeDone_of_some h
    rw [hv, State.lineWrite_merges, hm, sget_sset_self]
    simp

/-- Words that a completed entry did not write stay bad. -/
theorem State.mergeDone_bad {s : State} {m line mask at_ : Nat}
    (h : (sget [] m s.merges).find? (fun e => e.1 == line) = some (line, mask, at_)) (hm : mask < 0xFF)
    (hd : s.decoding (line * 64) = false) (hf : (sget (0, 0) line s.flips).2 = 0) :
    sget 0 line (s.mergeDone m line).bad =
      if s.small then (if s.badMask (line * 64) = 0 then 0 else 0xFF * 256) else (s.badMask (line * 64) &&& (0xFF - mask)) * 256 := by
  obtain ⟨v, hv, -, hbad, hsmall, hdec, hflips⟩ := State.mergeDone_of_some h
  have hline : line * 64 / 64 = line := Nat.mul_div_cancel _ (by decide)
  have hvd : v.decoding (line * 64) = false := by rw [State.decoding, hdec]; exact hd
  have hvf : (sget (0, 0) (line * 64 / 64) v.flips).2 = 0 := by rw [hline, hflips]; exact hf
  have hvb : v.badMask (line * 64) = s.badMask (line * 64) := State.badMask_congr hbad _
  have hw := v.lineWrite_bad 7 0 (Nat.ne_of_lt hm) hvd hvf
  rw [hline, hvb, hsmall] at hw
  rw [hv, hw]

/-! ### Fields of several parts -/

/-- A field in two parts. -/
theorem bf_split (w : Word) {hi mid lo : Nat} (h1 : lo ≤ mid) (h2 : mid ≤ hi) :
    bf w hi lo = bf w mid lo + 2 ^ (mid + 1 - lo) * bf w hi (mid + 1) := by
  have e : (2 : Nat) ^ (hi + 1 - lo) = 2 ^ (mid + 1 - lo) * 2 ^ (hi + 1 - (mid + 1)) := by rw [← Nat.pow_add]; congr 1; omega
  rw [bf, bf, bf, e, Nat.mod_mul, ← Nat.shiftRight_eq_div_pow, ← Nat.shiftRight_add,
    show lo + (mid + 1 - lo) = mid + 1 by omega]

/-! ### FLIP_ARM -/

/-- MEM_FLIPCTL as a write of it leaves it, bit 61 apart (R357). -/
def flipWord (v : Word) (target : Nat) : Word :=
  setBf (setBf (setBf (setBf (setBf (setBf 0 63 63 (bf v 63 63)) 62 62 (bf v 62 62)) 61 61 target) 60 58 (bf v 60 58)) 57 50
    (bf v 57 50)) 45 6 (bf v 45 6)

theorem bf_setBf_of_lt (w : Word) {hi lo x : Nat} (h : lo ≤ hi) (h64 : hi < 64) (hx : x < 2 ^ (hi + 1 - lo)) :
    bf (setBf w hi lo x) hi lo = x :=
  (bf_setBf_self w x h h64).trans (Nat.mod_eq_of_lt hx)

/-- Every part of MEM_FLIPCTL is the one that was written. -/
theorem flipWord_parts (v : Word) {target : Nat} (ht : target < 2) :
    bf (flipWord v target) 63 63 = bf v 63 63 ∧ bf (flipWord v target) 62 62 = bf v 62 62 ∧
      bf (flipWord v target) 60 58 = bf v 60 58 ∧ bf (flipWord v target) 57 50 = bf v 57 50 ∧
      bf (flipWord v target) 45 6 = bf v 45 6 ∧ bf (flipWord v target) 61 61 = target := by
  have ht : target < 2 ^ (61 + 1 - 61) := ht
  refine ⟨?_, ?_, ?_, ?_, ?_, ?_⟩ <;>
    simp only [flipWord, bf_setBf_disjoint, bf_setBf_of_lt, bf_lt, ht, Nat.reduceLeDiff, Nat.reduceLT, or_true, le_refl]

theorem flipWord_arm (v : Word) {target : Nat} (ht : target < 2) : bf (flipWord v target) 63 62 = bf v 63 62 := by
  obtain ⟨h1, h2, -⟩ := flipWord_parts v ht
  rw [bf_split _ (mid := 62) (by decide) (by decide), bf_split v (mid := 62) (by decide) (by decide), h1, h2]

theorem flipWord_words (v : Word) {target : Nat} (ht : target < 2) : bf (flipWord v target) 60 50 = bf v 60 50 := by
  obtain ⟨-, -, h1, h2, -⟩ := flipWord_parts v ht
  rw [bf_split _ (mid := 57) (by decide) (by decide), bf_split v (mid := 57) (by decide) (by decide), h1, h2]

/-- A write of MEM_FLIPCTL that acts. -/
theorem execFlipArm_of_taken {t : Time} {m : CtlId} {v : Word} {s : State} (hm : m.val < s.stacks)
    (hv : s.field (oMem m 0x20) 63 63 = 0 ∨ bf v 63 63 = 0) :
    execFlipArm t m v s = .next ((s.at t).setReg (oMem m 0x20)
      (flipWord v (if s.small ∧ bf v 61 61 = 1 then s.field (oMem m 0x20) 61 61 else bf v 61 61))) := by
  have h : ¬ ((s.at t).stacks ≤ m.val ∨ bf ((s.at t).reg (oMem m 0x20)) 63 63 = 1 ∧ bf v 63 63 = 1) := by
    rintro (h | ⟨h1, h2⟩)
    · exact Nat.not_le.2 hm h
    · exact hv.elim (fun h => Nat.zero_ne_one (h.symm.trans h1)) fun h => Nat.zero_ne_one (h.symm.trans h2)
  rw [execFlipArm]
  extract_lets
  rw [if_neg h]
  rfl

/-- One that does not: no stack is there, or a corruption is armed. -/
theorem execFlipArm_of_barred {t : Time} {m : CtlId} {v : Word} {s : State}
    (h : s.stacks ≤ m.val ∨ s.field (oMem m 0x20) 63 63 = 1 ∧ bf v 63 63 = 1) : execFlipArm t m v s = .next (s.at t) := by
  rw [execFlipArm]
  extract_lets
  exact if_pos h

theorem flipArm_arms (t : Time) (m : CtlId) (v : Word) (s : State) (hm : m.val < s.stacks)
    (hv : s.field (oMem m 0x20) 63 63 = 0 ∨ bf v 63 63 = 0) :
    Completes (.flipArm t m v) s fun u =>
      u.field (oMem m 0x20) 63 62 = bf v 63 62 ∧ u.field (oMem m 0x20) 60 50 = bf v 60 50 ∧
      u.field (oMem m 0x20) 45 6 = bf v 45 6 ∧
      u.field (oMem m 0x20) 61 61 = (if s.small ∧ bf v 61 61 = 1 then s.field (oMem m 0x20) 61 61 else bf v 61 61) ∧
      u.mem = s.mem ∧ SameRegs (· = oMem m 0x20) s u := by
  refine ⟨_, execFlipArm_of_taken hm hv, ?_⟩
  have hbit (w : Word) : bf w 61 61 < 2 := bf_lt w 61 61
  have ht : (if s.small ∧ bf v 61 61 = 1 then s.field (oMem m 0x20) 61 61 else bf v 61 61) < 2 := by
    split
    · exact hbit _
    · exact hbit _
  obtain ⟨-, -, -, -, hline, htarget⟩ := flipWord_parts v ht
  simp only [State.field_setReg, if_true]
  exact ⟨flipWord_arm v ht, flipWord_words v ht, hline, htarget, rfl, fun o ho => (State.reg_setReg _ _ _ _).trans (if_neg ho)⟩

/-! ### The power-on fill and the failure of a stack -/

/-- The stack `m` holds what the power-on fill writes, and no error. -/
def State.stackFilled (s : State) (m : Nat) : State :=
  { s with
    mem := s.mem.filter fun e => !(ctlOf e.1 == m)
    bad := s.bad.filter fun e => !(ctlOf (e.1 * 64) == m)
    suspect := s.suspect.filter fun e => !(ctlOf (e.1 * 64) == m)
    decodes := sset [] m [] s.decodes
    flips := s.flips.filter fun e => !(ctlOf (e.1 * 64) == m)
    merges := sset [] m [] s.merges }

theorem execPowerOnFill_of_filling {t : Time} {m : CtlId} {s : State} (hm : m.val < s.stacks) (hf : s.field (oMem m 8) 61 61 = 1) :
    execPowerOnFill t m false s = .next ((((s.at t).stackFilled m).setField (oMem m 8) 61 61 0).setField (oMem m 8) 62 62 1) ∧
    execPowerOnFill t m true s = .next ((((s.at t).setField (oMem m 8) 61 61 0).setField (oMem m 8) 60 60 1).memLog m 6
      (m.val * stackSize) 0xFF 7 0 0) := by
  have h : ¬ ((s.at t).stacks ≤ m.val ∨ (s.at t).field (oMem m 8) 61 61 = 0) := by
    rintro (h | h)
    · exact Nat.not_le.2 hm h
    · exact Nat.zero_ne_one (h.symm.trans hf)
  constructor
  · rw [execPowerOnFill]
    extract_lets
    rw [if_neg h, if_neg Bool.false_ne_true]
    rfl
  · rw [execPowerOnFill]
    extract_lets
    rw [if_neg h, if_pos rfl]

theorem mrd_stackFilled {s : State} {m a : Nat} (h : ctlOf a = m) : mrd a (s.stackFilled m).mem = memDefault a :=
  sget_filter_none _ _ (fun _ => by simp [h]) _

theorem mrd_stackFilled_ne {s : State} {m a : Nat} (h : ctlOf a ≠ m) : mrd a (s.stackFilled m).mem = mrd a s.mem :=
  sget_filter _ _ (fun _ => by simp [h]) _

theorem ctlOf_line (a : Nat) : ctlOf (a / 64 * 64) = ctlOf a := by unfold ctlOf stackSize; omega

theorem badMask_stackFilled {s : State} {m a : Nat} (h : ctlOf a = m) : (s.stackFilled m).badMask a = 0 := by
  have hb : sget 0 (a / 64) (s.stackFilled m).bad = 0 := sget_filter_none _ _ (fun _ => by simp [ctlOf_line, h]) _
  rw [State.badMask, hb]
  rfl

/-- Two neighbouring bits after each has been written. -/
theorem State.field_setField_pair (s : State) (o b x y : Nat) (hb : b + 1 < 64) (hx : x < 2) (hy : y < 2) :
    ((s.setField o b b x).setField o (b + 1) (b + 1) y).field o (b + 1) b = x + 2 * y ∧
      ((s.setField o (b + 1) (b + 1) y).setField o b b x).field o (b + 1) b = x + 2 * y := by
  have h1 : b + 1 - b = 1 := by omega
  have h2 : b + 1 + 1 - (b + 1) = 1 := by omega
  have self (u : State) (k v : Nat) (hk : k < 64) (hv : v < 2) : (u.setField o k k v).field o k k = v := by
    rw [State.field_setField_self _ _ _ (Nat.le_refl k) hk, show k + 1 - k = 1 by omega]
    exact Nat.mod_eq_of_lt hv
  constructor
  · rw [State.field, bf_split _ (Nat.le_refl b) (Nat.le_succ b), h1]
    have e1 := self (s.setField o b b x) (b + 1) y hb hy
    have e2 := (s.setField o b b x).field_setField_disjoint o (a := b) (b := b) y (Nat.le_refl (b + 1)) hb (.inl (Nat.lt_succ_self b))
    rw [State.field] at e1 e2
    rw [e1, e2]
    exact congrArg (· + _) (self s b x (by omega) hx)
  · rw [State.field, bf_split _ (Nat.le_refl b) (Nat.le_succ b), h1]
    have e1 := self (s.setField o (b + 1) (b + 1) y) b x (by omega) hx
    have e2 := (s.setField o (b + 1) (b + 1) y).field_setField_disjoint o (a := b + 1) (b := b + 1) x (Nat.le_refl b) (by omega)
      (.inr (Nat.lt_succ_self b))
    rw [State.field] at e1 e2
    rw [e1, e2]
    exact congrArg (fun k => x + 2 ^ 1 * k) (self s (b + 1) y hb hy)

theorem powerOnFill_fills (t : Time) (m : CtlId) (s : State) (hm : m.val < s.stacks) (hf : s.field (oMem m 8) 61 61 = 1) :
    (Completes (.powerOnFill t m false) s fun u =>
      (∀ a, ctlOf a = m.val → mrd a u.mem = memDefault a) ∧ (∀ a, ctlOf a ≠ m.val → mrd a u.mem = mrd a s.mem) ∧
      u.field (oMem m 8) 62 61 = 2 ∧ ∀ a, ctlOf a = m.val → u.badMask a = 0) ∧
    (Completes (.powerOnFill t m true) s fun u => u.field (oMem m 8) 61 60 = 1 ∧ u.mem = s.mem) := by
  obtain ⟨h1, h2⟩ := execPowerOnFill_of_filling (t := t) hm hf
  have hmem : ((((s.at t).stackFilled m).setField (oMem m 8) 61 61 0).setField (oMem m 8) 62 62 1).mem = ((s.at t).stackFilled m).mem :=
    (State.setField_mem _ _ _ _ _).trans (State.setField_mem _ _ _ _ _)
  refine ⟨⟨_, h1, fun a ha => ?_, fun a ha => ?_, ?_, fun a ha => ?_⟩, ⟨_, h2, ?_, ?_⟩⟩
  · rw [hmem, mrd_stackFilled ha]
  · rw [hmem, mrd_stackFilled_ne ha]
    rfl
  · exact (State.field_setField_pair _ _ 61 0 1 (by decide) (by decide) (by decide)).1
  · refine (State.badMask_congr (s := (s.at t).stackFilled m) ?_ a).trans (badMask_stackFilled (s := s.at t) ha)
    simp only [State.setField_bad]
  · rw [State.field, ((State.Logged.refl _).memLog).reg 8 rfl]
    exact (State.field_setField_pair _ _ 60 1 0 (by decide) (by decide) (by decide)).2
  · rw [((State.Logged.refl _).memLog).mem]
    rfl

/-- The page decodes of a stack end, and its suspect words with them. -/
def State.dropDecodes (s : State) (m : Nat) : State :=
  { s with suspect := s.suspect.filter fun e => ctlOf (e.1 * 64) != m, decodes := sset [] m [] s.decodes }

theorem State.stackFail_eq {s : State} {m : Nat} (cause : Nat) (hm : m < s.stacks) :
    s.stackFail m cause = (((s.setField (oMem m 8) 60 60 1).setField (oMem m 8) 61 61 0).dropDecodes m).memLog m 6 (m * stackSize) 0xFF
      7 0 cause :=
  if_neg (Nat.not_le.2 hm)

theorem State.dropDecodes_field (s : State) (m o hi lo : Nat) : (s.dropDecodes m).field o hi lo = s.field o hi lo := rfl
theorem State.dropDecodes_mem (s : State) (m : Nat) : (s.dropDecodes m).mem = s.mem := rfl

/-- A stack that fails is logged, and MEM_STATUS shows it. -/
theorem State.stackFail_fails {s : State} {m : Nat} (cause : Nat) (hm : m < s.stacks) :
    (s.stackFail m cause).field (oMem m 8) 61 60 = 1 ∧ (s.stackFail m cause).mem = s.mem := by
  rw [State.stackFail_eq cause hm]
  have hv := (s.field_setField_pair (oMem m 8) 60 1 0 (by decide) (by decide) (by decide)).1
  have hmem := ((s.setField (oMem m 8) 60 60 1).setField_mem (oMem m 8) 61 61 0).trans (s.setField_mem (oMem m 8) 60 60 1)
  generalize (s.setField (oMem m 8) 60 60 1).setField (oMem m 8) 61 61 0 = u at hv hmem
  rw [← u.dropDecodes_field m] at hv
  rw [← u.dropDecodes_mem m] at hmem
  generalize u.dropDecodes m = v at hv hmem
  have hl := (State.Logged.refl v).memLog (m := m) (kind := 6) (pa := m * stackSize) (mask := 0xFF) (src := 7) (unit := 0) (cause := cause)
  rw [State.field, hl.reg 8 rfl]
  exact ⟨hv, hl.mem.trans hmem⟩

/-- No stack answers where MEM_STATUS shows the failure. -/
theorem State.memDead_of_failed {s : State} {m a : Nat} (hf : s.field (oMem m 8) 61 60 = 1) (hm : ctlOf a = m)
    (ha : a < 0x100000000000) : s.memDead a = true := by
  have h := bf_split (s.reg (oMem m 8)) (hi := 61) (mid := 60) (lo := 60) (by decide) (by decide)
  have h60 : s.field (oMem m 8) 60 60 = 1 := by
    have hlt := bf_lt (s.reg (oMem m 8)) 60 60
    rw [State.field] at hf ⊢
    omega
  rw [State.memDead, hm, State.memFailed, h60, decide_eq_true ha]
  simp

theorem stackFailure_fails (t : Time) (m : CtlId) (cause : StackCause) (s : State) (hm : m.val < s.stacks) :
    Completes (.stackFailure t m cause) s fun u =>
      u.field (oMem m 8) 61 60 = 1 ∧ u.mem = s.mem ∧ ∀ a, ctlOf a = m.val → a < 0x100000000000 → u.memDead a = true := by
  refine ⟨_, rfl, ?_⟩
  obtain ⟨h1, h2⟩ := State.stackFail_fails (s := s.at t) (match cause with
    | .pll => 1
    | .phy => 2
    | .supply => 3) hm
  exact ⟨h1, h2, fun a ha hlt => State.memDead_of_failed h1 ha hlt⟩

/-- Settles O42: one theorem for each of the controller's tasks. -/
theorem controllersRepairFillAndFail : Obligations.ControllersRepairFillAndFail := by
  refine ⟨pageDecode_repairs, fun t m pa s line hline => ⟨_, rfl, ?_⟩,
    fun t m v s => ⟨flipArm_arms t m v s, fun h => ⟨_, execFlipArm_of_barred h, rfl, rfl⟩⟩, powerOnFill_fills, stackFailure_fails⟩
  subst hline
  have ha := (State.Aside.refl (s.at t)).mergeDone (m := m) (line := pa.toNat / 64)
  exact ⟨(s.at t).mergeDone_unlisted m _, ha.mem, ha.cores, fun mask at_ h hm hd hf => State.mergeDone_bad (s := s.at t) h hm hd hf⟩

end Sys2Proof.Machine
end

section
/-! PROOFS. Live tables: requests, activations and the window of the masthead tables (O45). -/

namespace Sys2Proof.Machine

open Sys2Proof.Claims

/-! ### What an activation builds

The reverse lists, the watermark classes and the expected sources follow from the active tables; building them writes no table and not
DEV_TAB. -/

structure State.Built (s₀ s : State) : Prop where
  tabs : s.reg (oDev 0x20) = s₀.reg (oDev 0x20)
  regionA : s.regionA = s₀.regionA
  dmapA : s.dmapA = s₀.dmapA
  mastA : s.mastA = s₀.mastA
  decA : s.ucode.decA = s₀.ucode.decA

section
variable {s₀ s : State}

theorem State.Built.refl (s : State) : s.Built s := ⟨rfl, rfl, rfl, rfl, rfl⟩

theorem State.Built.same (h : s₀.Built s) {rows errs errNum} : s₀.Built { s with rows, errs, errNum } :=
  ⟨h.tabs, h.regionA, h.dmapA, h.mastA, h.decA⟩

theorem State.Built.setField (h : s₀.Built s) {o hi lo v : Nat} (ho : oDev 0x20 ≠ o := by decide) :
    s₀.Built (s.setField o hi lo v) :=
  ⟨(State.reg_setReg _ _ _ _).trans ((if_neg ho).trans h.tabs), h.regionA, h.dmapA, h.mastA, h.decA⟩

theorem State.Built.ite {c : Prop} {_ : Decidable c} {a b : State} (ha : s₀.Built a) (hb : s₀.Built b) :
    s₀.Built (if c then a else b) := by split <;> assumption

theorem State.Built.forN {n : Nat} {f : State → Nat → State} (h : s₀.Built s) (hf : ∀ s i, s₀.Built s → s₀.Built (f s i)) :
    s₀.Built (Machine.forN n f s) := forN_keeps n hf h

theorem State.Built.buildClasses (h : s₀.Built s) (r : Nat) : s₀.Built (s.buildClasses r) := .ite h.same h.same

theorem State.Built.fanoutBuild (h : s₀.Built s) : s₀.Built s.fanoutBuild := by
  unfold State.fanoutBuild
  dsimp only
  split
  · exact h.forN fun _ _ h => h.same
  · exact (State.Built.forN h fun _ _ h => h.same).same

theorem State.Built.setExpect (h : s₀.Built s) : s₀.Built s.setExpect := h.setField.setField

end

/-! ### GEN, PENDING and WAIT of a table -/

/-- DEV_TAB as the activation of table `k` leaves it. -/
theorem State.tabActivated_shows (s : State) {k : Nat} (hk : k < 4) :
    gen (s.tabActivated k) k = (gen s k + 1) % 256 ∧ (s.tabActivated k).tabPending k = false ∧
      (s.tabActivated k).tabWaiting k = false := by
  unfold gen State.tabPending State.tabWaiting State.tabActivated
  extract_lets g
  refine ⟨?_, ?_, ?_⟩
  · rw [State.field_setField_disjoint _ _ _ (by omega) (by omega) (by omega),
      State.field_setField_disjoint _ _ _ (by omega) (by omega) (by omega), State.field_setField_self _ _ _ (by omega) (by omega),
      show 39 + 8 * k + 1 - (32 + 8 * k) = 8 by omega]
    exact Nat.mod_mod _ _
  · rw [State.field_setField_disjoint _ _ _ (by omega) (by omega) (by omega), State.field_setField_self _ _ _ (by omega) (by omega),
      Nat.zero_mod]
    rfl
  · rw [State.field_setField_self _ _ _ (by omega) (by omega), Nat.zero_mod]
    rfl

theorem State.Built.shows {s u : State} (h : s.Built u) (k : Nat) :
    gen u k = gen s k ∧ u.tabPending k = s.tabPending k ∧ u.tabWaiting k = s.tabWaiting k := by
  unfold gen State.tabPending State.tabWaiting State.field
  rw [h.tabs]
  exact ⟨rfl, rfl, rfl⟩

/-- What is built from a table that has become active leaves it so. -/
theorem activated_of_built {s u v : State} {k : Nat} (h : Activated s u k) (hv : u.Built v) : Activated s v k := by
  obtain ⟨hg, hp, hw, h0, h1, h2, h3⟩ := h
  obtain ⟨eg, ep, ew⟩ := hv.shows k
  exact ⟨eg.trans hg, ep.trans hp, ew.trans hw, fun e => hv.regionA.trans (h0 e), fun e => hv.dmapA.trans (h1 e),
    fun e => hv.mastA.trans (h2 e), fun e => hv.decA.trans (h3 e)⟩

/-- The activation of table `k` after its staged copy has been taken. -/
theorem activated_of_taken {s v : State} {k : Nat} (hk : k < 4) (hv : v.reg (oDev 0x20) = s.reg (oDev 0x20))
    (h0 : k = 0 → v.regionA = s.regionS) (h1 : k = 1 → v.dmapA = s.dmapS) (h2 : k = 2 → v.mastA = s.mastS)
    (h3 : k = 3 → v.ucode.decA = s.ucode.decS) : Activated s (v.tabActivated k) k := by
  obtain ⟨hg, hp, hw⟩ := v.tabActivated_shows hk
  have hgen : gen v k = gen s k := by rw [gen, gen, State.field, State.field, hv]
  exact ⟨hg.trans (by rw [hgen]), hp, hw, h0, h1, h2, h3⟩

theorem State.activated_mastActivate (s : State) : Activated s s.mastActivate 2 := by
  unfold State.mastActivate
  extract_lets changed counts
  exact activated_of_taken (by decide) rfl nofun nofun (fun _ => rfl) nofun

/-- The activation of a table. -/
theorem State.activated_activate (s : State) (k : Fin 4) : Activated s (s.activate k) k := by
  unfold State.activate
  match k with
  | 0 => exact activated_of_taken (by decide) rfl (fun _ => rfl) nofun nofun nofun
  | 1 =>
    have h : Activated s ({ s with dmapA := s.dmapS }.tabActivated 1) 1 := activated_of_taken (by decide) rfl nofun (fun _ => rfl) nofun nofun
    exact activated_of_built h (State.Built.refl _).fanoutBuild.setExpect
  | 2 => exact s.activated_mastActivate
  | 3 => exact activated_of_taken (by decide) rfl nofun nofun nofun (fun _ => rfl)

/-- A single table is activated, and the classes are built from it. -/
theorem State.activated_activateSet (s : State) (k : Fin 4) : Activated s (s.activateSet [k.val]) k :=
  activated_of_built (s.activated_activate k) (.ite ((State.Built.refl _).forN fun _ r h => h.buildClasses r) (.refl _))

/-! ### Requests -/

/-- The word `2 ^ k` of DEV_SWAP asks for table `k` alone. -/
theorem swap_asks (k j : Fin 4) : (bf (BitVec.ofNat 64 (2 ^ k.val)) j.val j.val == 1) = (j.val == k.val) := by
  revert k j
  decide

theorem filter_range_eq (k : Fin 4) : (List.range 4).filter (fun j => j == k.val) = [k.val] := by
  revert k
  decide

/-- Of the tables only `k` is asked for, and it is pending. -/
theorem State.swap_asked {s : State} {k : Fin 4} (hp : s.tabPending k = true) :
    (List.range 4).filter (fun j => bf (BitVec.ofNat 64 (2 ^ k.val)) j j == 1 && s.tabPending j) = [k.val] := by
  rw [← filter_range_eq k]
  refine List.filter_congr fun j hj => ?_
  rw [swap_asks k ⟨j, List.mem_range.1 hj⟩]
  by_cases h : j = k.val
  · subst h
    simp [hp]
  · simp [h]

/-- A request that acts now. -/
theorem State.swapWrite_of_now {s : State} {k : Fin 4} (hp : s.tabPending k = true) (hk : s.castOn = false ∨ k = 3) :
    s.swapWrite (BitVec.ofNat 64 (2 ^ k.val)) = s.activateSet [k.val] := by
  have hnow : (!s.castOn || k.val == 3) = true := by
    rcases hk with h | rfl
    · rw [h]; rfl
    · exact Bool.or_true _
  have hwait : (s.castOn && k.val != 3) = false := by
    rcases hk with h | rfl
    · rw [h]; rfl
    · exact Bool.and_false _
  simp only [State.swapWrite, State.swap_asked hp, List.filter_cons, hnow, hwait, List.filter_nil, if_true, Bool.false_eq_true,
    if_false, List.foldl_nil]

/-- A request that waits. -/
theorem State.swapWrite_of_wait {s : State} {k : Fin 4} (hp : s.tabPending k = true) (hc : s.castOn = true) (hk : k ≠ 3) :
    s.swapWrite (BitVec.ofNat 64 (2 ^ k.val)) = s.swapWait k := by
  have hne : (k.val == 3) = false := by
    rw [beq_eq_false_iff_ne]
    exact fun h => hk (Fin.ext h)
  have hnow : (!s.castOn || k.val == 3) = false := by rw [hc, hne]; rfl
  have hwait : (s.castOn && k.val != 3) = true := by rw [hc, bne, hne]; rfl
  simp only [State.swapWrite, State.swap_asked hp, List.filter_cons, hnow, hwait, List.filter_nil, if_true, Bool.false_eq_true,
    if_false, List.foldl_cons, List.foldl_nil]
  rfl

/-- A table that waits shows it, and nothing else changes but the time of a masthead request. -/
theorem State.swapWait_waits {s : State} {k : Fin 4} (hw : s.tabWaiting k = false) :
    (s.swapWait k).tabWaiting k = true ∧ gen (s.swapWait k) k = gen s k ∧ (s.swapWait k).regionA = s.regionA ∧
      (s.swapWait k).dmapA = s.dmapA ∧ (s.swapWait k).mastA = s.mastA ∧ (k = 2 → (s.swapWait k).mast.swapAt = some s.now) := by
  have hk := k.isLt
  have hwait : (s.setField (oDev 0x20) (4 + k) (4 + k) 1).tabWaiting k = true := by
    rw [State.tabWaiting, State.field_setField_self _ _ _ (Nat.le_refl _) (by omega), Nat.add_sub_cancel_left]
    rfl
  have hgen : gen (s.setField (oDev 0x20) (4 + k) (4 + k) 1) k = gen s k :=
    State.field_setField_disjoint _ _ _ (Nat.le_refl _) (by omega) (by omega)
  unfold State.swapWait
  extract_lets u
  rw [if_neg (by rw [hw]; exact Bool.false_ne_true)]
  have hrA : u.regionA = s.regionA := State.setField_regionA ..
  have hdA : u.dmapA = s.dmapA := State.setField_dmapA ..
  have hmA : u.mastA = s.mastA := State.setField_mastA ..
  have hnow : u.now = s.now := State.setField_now ..
  change u.tabWaiting k = true at hwait
  change gen u k = gen s k at hgen
  clear_value u
  split
  next => exact ⟨hwait, hgen, hrA, hdA, hmA, fun _ => congrArg some hnow⟩
  next h2 => exact ⟨hwait, hgen, hrA, hdA, hmA, fun h => absurd (congrArg Fin.val h) h2⟩

/-! ### The window of the masthead tables -/

@[simp] theorem State.autoInc_mastS (s : State) (o b : Nat) : (s.autoInc o b).mastS = s.mastS := by unfold State.autoInc; split <;> rfl
@[simp] theorem State.autoInc_mastA (s : State) (o b : Nat) : (s.autoInc o b).mastA = s.mastA := by unfold State.autoInc; split <;> rfl

/-- An access of the window, before its index advances. -/
def State.mstAccess (s : State) (data1 write : Bool) (v : Word) : State :=
  let tab := s.field (oMst 0x38) 17 16
  let e := s.field (oMst 0x38) 7 0
  let key := tab * 512 + e * 2 + b2n data1
  if mtabSize tab ≤ e then (if write then s else { s with rdata := 0 })
  else if write then
    ({ s with mastS := sset 0 key (mtabMerge tab e (b2n data1) (sget 0 key s.mastS) v) s.mastS }).tabPend 2
  else if s.field (oMst 0x38) 62 62 = 1 then
    let w := sget 0 key s.mastA
    { s with rdata := if tab = 2 ∧ data1 = false then setBf w 55 32 (sget 0 e s.mast.counts) else w }
  else { s with rdata := sget 0 key s.mastS }

/-- The access leaves the index of the window. -/
theorem State.mstAccess_index (s : State) (data1 write : Bool) (v : Word) :
    (s.mstAccess data1 write v).reg (oMst 0x38) = s.reg (oMst 0x38) := by
  unfold State.mstAccess
  extract_lets tab e key w
  split
  · split <;> rfl
  split
  · exact (State.reg_setReg _ _ _ _).trans (if_neg (by decide))
  split <;> rfl

theorem execMstTabAccess_eq (t : Time) (data1 write : Bool) (v : Word) (s : State) :
    execMstTabAccess t data1 write v s = .next
      (if data1 then ((s.at t).mstAccess data1 write v).autoInc (oMst 0x38) 8 else (s.at t).mstAccess data1 write v) := by
  have hi := (s.at t).mstAccess_index data1 write v
  show Host.Outcome.next (if data1 = true ∧ ((s.at t).mstAccess data1 write v).field (oMst 0x38) 63 63 = 1 then
    ((s.at t).mstAccess data1 write v).setField (oMst 0x38) 7 0 (((s.at t).field (oMst 0x38) 7 0 + 1) % 256)
    else (s.at t).mstAccess data1 write v) = _
  generalize (s.at t).mstAccess data1 write v = u at hi
  have he : (s.at t).field (oMst 0x38) 7 0 = u.field (oMst 0x38) 7 0 := congrArg (bf · 7 0) hi.symm
  rw [he]
  cases data1 with
  | false => rfl
  | true =>
    rw [State.autoInc, if_pos rfl]
    simp only [true_and]
    rfl

/-- What the advance of the index leaves of an access. -/
theorem State.mstAccess_advanced (u : State) (data1 : Bool) :
    (if data1 then u.autoInc (oMst 0x38) 8 else u).rdata = u.rdata ∧
      (if data1 then u.autoInc (oMst 0x38) 8 else u).mastS = u.mastS ∧ (if data1 then u.autoInc (oMst 0x38) 8 else u).mastA = u.mastA ∧
      (if data1 then u.autoInc (oMst 0x38) 8 else u).tabPending 2 = u.tabPending 2 ∧
      (if data1 then u.autoInc (oMst 0x38) 8 else u).mem = u.mem := by
  cases data1 with
  | false => exact ⟨rfl, rfl, rfl, rfl, rfl⟩
  | true =>
    exact ⟨State.autoInc_rdata .., State.autoInc_mastS .., State.autoInc_mastA .., State.tabPending_autoInc _ _ _ (by decide),
      State.autoInc_mem ..⟩

section
variable {s : State} {data1 : Bool} {v : Word} {tab e key : Nat}

theorem State.mstAccess_write (ht : tab = s.field (oMst 0x38) 17 16) (he : e = s.field (oMst 0x38) 7 0)
    (hk : key = tab * 512 + e * 2 + b2n data1) (hlt : e < mtabSize tab) :
    s.mstAccess data1 true v =
      ({ s with mastS := sset 0 key (mtabMerge tab e (b2n data1) (sget 0 key s.mastS) v) s.mastS } : State).tabPend 2 := by
  subst ht he hk
  rw [State.mstAccess, if_neg (Nat.not_le.2 hlt), if_pos rfl]

/-- A read answers from the copy that ACTIVE_VIEW selects. -/
theorem State.mstAccess_read (ht : tab = s.field (oMst 0x38) 17 16) (he : e = s.field (oMst 0x38) 7 0)
    (hk : key = tab * 512 + e * 2 + b2n data1) (hlt : e < mtabSize tab) :
    s.mstAccess data1 false v = { s with
      rdata := (let w := sget 0 key (if s.field (oMst 0x38) 62 62 = 1 then s.mastA else s.mastS)
        if tab = 2 ∧ data1 = false ∧ s.field (oMst 0x38) 62 62 = 1 then setBf w 55 32 (sget 0 e s.mast.counts) else w) } := by
  subst ht he hk
  rw [State.mstAccess, if_neg (Nat.not_le.2 hlt), if_neg Bool.false_ne_true]
  split
  next h => simp only [h, and_true]
  next h => simp only [h, and_false, if_false]

/-- Beyond the end of a table there is nothing. -/
theorem State.mstAccess_beyond {write : Bool} (h : mtabSize (s.field (oMst 0x38) 17 16) ≤ s.field (oMst 0x38) 7 0) :
    s.mstAccess data1 write v = if write then s else { s with rdata := 0 } := if_pos h

end

/-- Settles O45: a single request activates its table or waits, and the window is its access and the advance of its index. -/
theorem liveTablesAreSwapped : Obligations.LiveTablesAreSwapped := by
  refine ⟨fun t s k hp => ⟨fun hk => ⟨_, rfl, ?_⟩, fun hc hk hw => ⟨_, rfl, ?_⟩⟩, fun t s asked ha hd => ⟨_, rfl, ?_⟩,
    fun t data1 v s tab e key ht he hk hlt => ⟨⟨_, execMstTabAccess_eq .., ?_⟩, ⟨_, execMstTabAccess_eq .., ?_⟩⟩,
    fun t data1 write v s h => ⟨_, execMstTabAccess_eq .., ?_⟩⟩
  · rw [State.swapWrite_of_now (s := s.at t) hp hk]
    exact (s.at t).activated_activateSet k
  · rw [State.swapWrite_of_wait (s := s.at t) hp hc hk]
    exact State.swapWait_waits (s := s.at t) hw
  · have hdue : (s.at t).mastSwapDue (s.at t).mast.next = (s.at t).mastActivate := by
      have ha : (s.at t).mast.swapAt = some asked := ha
      rw [State.mastSwapDue, ha]
      exact if_pos hd
    rw [hdue]
    exact ⟨(s.at t).activated_mastActivate, rfl, rfl⟩
  · have hw := State.mstAccess_write (s := s.at t) (v := v) ht he hk hlt
    obtain ⟨-, hS, hA, hp, hm⟩ := State.mstAccess_advanced ((s.at t).mstAccess data1 true v) data1
    have hS' := hS.trans ((congrArg State.mastS hw).trans (State.setField_mastS ..))
    refine ⟨(congrArg (sget 0 key) hS').trans (sget_sset_self ..),
      fun x hx => (congrArg (sget 0 x) hS').trans (sget_sset_ne 0 0 hx ..),
      hA.trans ((congrArg State.mastA hw).trans (State.setField_mastA ..)), hp.trans ?_,
      hm.trans ((congrArg State.mem hw).trans (State.setField_mem ..))⟩
    rw [hw]
    exact State.tabPending_tabPend _ (by decide)
  · have hr := State.mstAccess_read (s := s.at t) (v := v) ht he hk hlt
    obtain ⟨hd, hS, hA, -, hm⟩ := State.mstAccess_advanced ((s.at t).mstAccess data1 false v) data1
    rw [hr] at hd hS hA hm ⊢
    exact ⟨hd, hS, hA, hm⟩
  · have hb := State.mstAccess_beyond (s := s.at t) (data1 := data1) (v := v) (write := write) h
    obtain ⟨hd, hS, hA, hp, hm⟩ := State.mstAccess_advanced ((s.at t).mstAccess data1 write v) data1
    rw [hb] at hd hS hA hp hm ⊢
    cases write with
    | false => exact ⟨fun _ => hd, hS, hA, hp, hm⟩
    | true => exact ⟨nofun, hS, hA, hp, hm⟩

end Sys2Proof.Machine
end

section
/-! PROOFS. Links of the ring: codewords, control blocks, clock messages, HELLO, LEAVE, PROBE, CONFLICT and a lost signal (O46). -/

namespace Sys2Proof.Machine

open Sys2Proof.Claims

/-! ### Messages pass -/

/-- Only outputs, credits and buffers of the ring ports differ; the times of their ALIGN blocks do not. -/
structure State.PortsOnly (s u : State) : Prop where
  ports : u = { s with ring := { s.ring with ports := u.ring.ports } }
  t2 : ∀ j, (u.rport j).t2 = (s.rport j).t2
  alignAt : ∀ j, (u.rport j).alignAt = (s.rport j).alignAt

section
variable {s₀ s u : State}

theorem State.PortsOnly.refl (s : State) : s.PortsOnly s := ⟨rfl, fun _ => rfl, fun _ => rfl⟩

theorem State.PortsOnly.trans (h : s₀.PortsOnly s) (hu : s.PortsOnly u) : s₀.PortsOnly u := by
  refine ⟨?_, fun j => (hu.t2 j).trans (h.t2 j), fun j => (hu.alignAt j).trans (h.alignAt j)⟩
  have e := h.ports
  rw [hu.ports]
  generalize u.ring.ports = l
  rw [e]

/-- A port's outputs and buffers change. -/
theorem State.PortsOnly.setRport (s : State) {i : Nat} {x : RingPortSt} (ht : x.t2 = (s.rport i).t2)
    (ha : x.alignAt = (s.rport i).alignAt) : s.PortsOnly (s.setRport i x) := by
  refine ⟨rfl, fun j => ?_, fun j => ?_⟩
  · rw [State.rport_setRport]
    split
    next h => rw [ht, h]
    next => rfl
  · rw [State.rport_setRport]
    split
    next h => rw [ha, h]
    next => rfl

theorem State.PortsOnly.afterRport {i : Nat} {x : RingPortSt} (h : (s.setRport i x).PortsOnly u) (ht : x.t2 = (s.rport i).t2)
    (ha : x.alignAt = (s.rport i).alignAt) : s.PortsOnly u := (State.PortsOnly.setRport s ht ha).trans h

theorem State.PortsOnly.ite {c : Prop} {_ : Decidable c} {a b : State} (ha : s₀.PortsOnly a) (hb : s₀.PortsOnly b) :
    s₀.PortsOnly (if c then a else b) := by split <;> assumption

theorem State.PortsOnly.putOut (s : State) (i : Nat) (m : RingMsg) : s.PortsOnly (s.putOut i m) := .setRport s rfl rfl

theorem State.PortsOnly.sendOn (s : State) (i : Nat) (m : RingMsg) : s.PortsOnly (s.sendOn i m) :=
  .ite (.refl s) (.ite (.putOut s i m) (.ite (State.PortsOnly.afterRport (.putOut _ i m) rfl rfl) (.setRport s rfl rfl)))

theorem State.PortsOnly.owe (s : State) (i cls blocks : Nat) : s.PortsOnly (s.owe i cls blocks) := .ite (.refl s) (.setRport s rfl rfl)

theorem State.PortsOnly.decKeep (s : State) (i : Nat) (m : RingMsg) : s.PortsOnly (s.decKeep i m) := .ite (.setRport s rfl rfl) (.refl s)

theorem State.PortsOnly.foldl {α : Type} {f : State → α → State} (hf : ∀ (s : State) a, s.PortsOnly (f s a)) (l : List α) (s : State) :
    s.PortsOnly (l.foldl f s) := by
  induction l generalizing s with
  | nil => exact .refl s
  | cons a l ih => exact (hf s a).trans (ih _)

theorem State.PortsOnly.regs (h : s.PortsOnly u) : u.regs = s.regs := by rw [h.ports]
theorem State.PortsOnly.mem (h : s.PortsOnly u) : u.mem = s.mem := by rw [h.ports]
theorem State.PortsOnly.errs (h : s.PortsOnly u) : u.errs = s.errs := by rw [h.ports]
theorem State.PortsOnly.now (h : s.PortsOnly u) : u.now = s.now := by rw [h.ports]

theorem State.PortsOnly.reg (h : s.PortsOnly u) (o : Nat) : u.reg o = s.reg o := congrArg (sget (regReset o) o) h.regs

theorem State.PortsOnly.release (s : State) (i : Nat) : s.PortsOnly (s.release i) :=
  State.PortsOnly.afterRport (.foldl (fun _ _ => .sendOn _ _ _) _ _) rfl rfl

end

/-! ### Receiving -/

/-- The device's own address is on the way of every port, and has no further route. -/
theorem State.onWay_node (s : State) (i : Nat) : s.onWay i s.node = true := by
  simp [State.onWay, State.posX, State.posY]

theorem State.route_node (s : State) : s.route s.node = none := by
  simp [State.route, State.posX, State.posY]

theorem msgSound_cls {cls typ : Nat} {m : RingMsg} (h : msgSound cls typ m = true) : m.cls.toNat = cls := by
  simp only [msgSound, Bool.and_eq_true, beq_iff_eq] at h
  obtain ⟨⟨⟨⟨hc, -⟩, -⟩, -⟩, -⟩ := h
  exact hc

/-- A message that is heard is counted and delivered, whatever of it is passed on. -/
theorem State.receive_of_heard {s : State} {i : RingPort} {cls typ : Nat} {m : RingMsg} (h : Heard s i cls typ m) (hc : cls ≠ 1)
    (f : State → State) : ∃ u, (s.bump (oRcnt i 0x38)).PortsOnly u ∧ s.receive i cls typ m f = f u := by
  obtain ⟨hp, hs, hsc⟩ := h
  have hcls : m.cls ≠ 1 := by
    intro e
    exact hc ((msgSound_cls hs).symm.trans (congrArg BitVec.toNat e))
  unfold State.receive
  extract_lets +onlyGivenNames v
  have hv : (s.bump (oRcnt i 0x38)).PortsOnly v := .owe _ _ _ _
  have hnode : v.node = s.node := by
    rw [State.node, State.field, hv.reg]
    exact congrArg (bf · 15 0) ((State.reg_setReg _ _ _ _).trans (if_neg (by unfold oShr oRcnt oShr; omega)))
  clear_value v
  rw [if_neg (not_not.2 hp), if_neg (by rw [hs]; exact Bool.noConfusion), if_neg (fun e => hcls e.1)]
  by_cases h3 : m.scope = 3
  · rw [if_pos h3]
    exact ⟨v, hv, rfl⟩
  obtain ⟨hsrc, hdst⟩ := hsc.resolve_left h3
  rw [if_neg h3, if_neg (by rw [hnode]; exact hsrc)]
  by_cases h0 : m.scope = 0
  · have hd : m.dst.toNat = v.node := (hdst h0).trans hnode.symm
    rw [if_pos h0, hd, v.onWay_node, v.route_node, if_neg Bool.noConfusion]
    exact ⟨v, hv, rfl⟩
  · rw [if_neg h0]
    refine ⟨_, ?_, rfl⟩
    have hk := hv.trans (.decKeep v i m)
    generalize v.decKeep i m = w at hk ⊢
    have hw (c : Prop) [Decidable c] (o : Nat) : (s.bump (oRcnt i 0x38)).PortsOnly (if c then w.sendOn o m else w) :=
      .ite (hk.trans (.sendOn w o m)) hk
    exact .ite ((hw _ _).trans (.foldl (fun s o => .ite (.sendOn s o m) (.refl s)) _ _)) (hw _ _)

/-- The registers of a state after a message has passed: only the count of messages differs. -/
theorem State.reg_of_heard {s u : State} {i o : Nat} (h : (s.bump (oRcnt i 0x38)).PortsOnly u) (ho : o ≠ oRcnt i 0x38) :
    u.reg o = s.reg o := (h.reg o).trans ((State.reg_setReg _ _ _ _).trans (if_neg ho))

theorem State.sameRegs_of_heard {s u : State} {i : Nat} (h : (s.bump (oRcnt i 0x38)).PortsOnly u) :
    SameRegs (· = oRcnt i 0x38) s u := fun _ ho => State.reg_of_heard h ho

/-! ### Codewords and control blocks -/

theorem execFecCodeword_counts (t : Time) (i : RingPort) (w : Codeword) (s : State) :
    (w.symbols = 0 → execFecCodeword t i w s = .next (s.at t)) ∧
    (0 < w.symbols → w.symbols ≤ 15 → execFecCodeword t i w s = .next ((s.at t).bump (oRcnt i 0))) ∧
    (15 < w.symbols → execFecCodeword t i w s = .next ((s.at t).bumpN (oRcnt i 8) w.messages)) := by
  refine ⟨fun h => ?_, fun h h15 => ?_, fun h => ?_⟩
  · exact congrArg Host.Outcome.next ((if_pos (h ▸ Nat.zero_le 15)).trans (if_pos h))
  · exact congrArg Host.Outcome.next ((if_pos h15).trans (if_neg (Nat.ne_of_gt h)))
  · exact congrArg Host.Outcome.next (if_neg (Nat.not_le.2 h))

/-- Credits return in an IDLE block; with nothing waiting they stay with the port. -/
theorem State.release_credits {s : State} {i : Nat} (h : (s.rport i).waitq = []) :
    ((s.release i).rport i).credits = (s.rport i).credits := by
  rw [State.release, h, List.foldl_nil, State.rport_setRport, if_pos rfl]

theorem execRingIdle_cases (t : Time) (i : RingPort) (h : BlockHead) (credits : Nat) (s : State) :
    (h.kind = 0 → Completes (.ringIdle t i h credits) s fun u => u.regs = s.regs ∧ u.mem = s.mem ∧
      ((s.rport i).waitq = [] →
        sget 0 h.cls.toNat (u.rport i).credits = sget 0 h.cls.toNat (s.rport i).credits + credits)) ∧
    (h.kind = 0xA5 → execRingIdle t i h credits s = execAlignBlock t i s) ∧
    (h.kind ≠ 0 → h.kind ≠ 0xA5 → execRingIdle t i h credits s = .next ((s.at t).bump (oRcnt i 0x10))) := by
  refine ⟨fun h0 => ?_, fun hA => ?_, fun h0 hA => ?_⟩
  · refine ⟨_, congrArg Host.Outcome.next (if_pos h0), ?_⟩
    have hp := State.PortsOnly.afterRport (.release ((s.at t).setRport i { (s.at t).rport i with
      credits := sset 0 h.cls.toNat (sget 0 h.cls.toNat ((s.at t).rport i).credits + credits) ((s.at t).rport i).credits }) i) rfl rfl
    refine ⟨hp.regs, hp.mem, fun hw => ?_⟩
    rw [State.release_credits (by rw [State.rport_setRport, if_pos rfl]; exact hw), State.rport_setRport, if_pos rfl]
    exact sget_sset_self ..
  · exact congrArg Host.Outcome.next ((if_neg (by rw [hA]; decide)).trans (if_pos hA))
  · exact congrArg Host.Outcome.next ((if_neg h0).trans (if_neg hA))

theorem execAlignBlock_stamps (t : Time) (i : RingPort) (s : State) :
    Completes (.alignBlock t i) s fun u => u.rport i = { s.rport i with t2 := some t } ∧ u.regs = s.regs ∧ u.mem = s.mem :=
  ⟨_, rfl, (State.rport_setRport _ _ _ _).trans (if_pos rfl), rfl, rfl⟩

/-! ### TSYNC -/

/-- A message given to an output is in it, and the port's own times stay. -/
theorem State.putOut_outq (s : State) (i : Nat) (m : RingMsg) :
    (∃ x ∈ ((s.putOut i m).rport i).outq, x.2 = m) ∧ ((s.putOut i m).rport i).lastTsync = (s.rport i).lastTsync := by
  unfold State.putOut
  extract_lets x q t0 first p
  rw [State.rport_setRport, if_pos rfl]
  exact ⟨⟨_, List.mem_append_right _ (List.mem_cons_self ..), rfl⟩, rfl⟩

/-- Messages of the classes 0 and 1 need no credits. -/
theorem State.sendOn_of_low {s : State} {i : Nat} {m : RingMsg} (hp : s.pstate i = 4) (hm : m.cls.toNat < 2) :
    s.sendOn i m = s.putOut i m := (if_neg (not_not.2 hp)).trans (if_pos hm)

theorem State.mkMsg_head (s : State) (cls len typ scope dst seq : Nat) (body : List Word) :
    (s.mkMsg cls len typ scope dst seq body).cls = BitVec.ofNat 3 cls ∧ (s.mkMsg cls len typ scope dst seq body).typ = BitVec.ofNat 6 typ ∧
      (s.mkMsg cls len typ scope dst seq body).scope = BitVec.ofNat 2 scope ∧ (s.mkMsg cls len typ scope dst seq body).body = body :=
  ⟨rfl, rfl, rfl, rfl⟩

/-- A TSYNC leaves at once. -/
theorem State.sendTsync {s u : State} {i : Nat} {body : List Word} (hp : s.pstate i = 4)
    (hu : u = s.sendOn i (s.mkMsg 0 1 0 3 0 0 body)) :
    (u.rport i).lastTsync = (s.rport i).lastTsync ∧ u.regs = s.regs ∧ u.mem = s.mem ∧
      ∃ x ∈ (u.rport i).outq, x.2.cls = 0 ∧ x.2.typ = 0 ∧ x.2.scope = 3 ∧ x.2.body = body := by
  obtain ⟨hc, hy, hs, hb⟩ := s.mkMsg_head 0 1 0 3 0 0 body
  generalize s.mkMsg 0 1 0 3 0 0 body = m at hu hc hy hs hb
  rw [State.sendOn_of_low hp (by rw [hc]; decide)] at hu
  subst hu
  have hq := State.PortsOnly.putOut s i m
  obtain ⟨⟨x, hx, e⟩, hl⟩ := s.putOut_outq i m
  subst e
  exact ⟨hl, hq.regs, hq.mem, x, hx, hc, hy, hs, hb⟩

theorem execTsyncSend_leaves (t a : Time) (i : RingPort) (s : State) (ha : a = (s.at t).lastAlign i) :
    (s.pstate i = 4 → t ≤ a + 163840000 → (s.rport i).lastTsync < a + 1 → Completes (.tsyncSend t i) s fun u =>
      (u.rport i).lastTsync = t + 1 ∧ u.regs = s.regs ∧ u.mem = s.mem ∧
      ∃ x ∈ (u.rport i).outq, x.2.cls = 0 ∧ x.2.typ = 0 ∧ x.2.scope = 3 ∧
        x.2.body = [BitVec.ofNat 64 (devUnits a % 2 ^ 56), BitVec.ofNat 64 (devUnits ((s.rport i).t2.getD 0) % 2 ^ 56)]) ∧
    (s.pstate i ≠ 4 ∨ a + 163840000 < t ∨ a + 1 ≤ (s.rport i).lastTsync → execTsyncSend t i s = .next (s.at t)) := by
  subst ha
  constructor
  · intro hp ht hl
    have h : (s.at t).pstate i = 4 ∧ t ≤ (s.at t).lastAlign i + 163840000 ∧ ((s.at t).rport i).lastTsync < (s.at t).lastAlign i + 1 :=
      ⟨hp, ht, hl⟩
    refine ⟨_, if_pos h, ?_⟩
    obtain ⟨h1, h2, h3, h4⟩ := State.sendTsync (s := (s.at t).setRport i { (s.at t).rport i with lastTsync := t + 1 }) (i := i) hp rfl
    exact ⟨h1.trans (congrArg RingPortSt.lastTsync ((State.rport_setRport _ _ _ _).trans (if_pos rfl))), h2, h3, h4⟩
  · intro h
    refine if_neg fun ⟨hp, ht, hl⟩ => ?_
    rcases h with h | h | h
    · exact h hp
    · exact Nat.not_le.2 h ht
    · exact Nat.not_lt.2 h hl

/-! ### A TSYNC that arrives -/

/-- The correction of the time base: TMG_STATUS and the count of steps are the only registers written. -/
structure State.Corrected (s u : State) : Prop where
  mem : u.mem = s.mem
  reg : ∀ o, o ≠ oTmg 8 → o ≠ oTmg 0x620 → u.reg o = s.reg o

section
variable {s₀ s : State}

theorem State.Corrected.refl (s : State) : s.Corrected s := ⟨rfl, fun _ _ _ => rfl⟩

theorem State.Corrected.same (h : s₀.Corrected s) {now frame time errs errNum} :
    s₀.Corrected { s with now, frame, time, errs, errNum } := ⟨h.mem, h.reg⟩

theorem State.Corrected.setReg (h : s₀.Corrected s) {o : Nat} {v : Word} (ho : o = oTmg 8 ∨ o = oTmg 0x620 := by decide) :
    s₀.Corrected (s.setReg o v) :=
  ⟨h.mem, fun j h8 h620 => by
    rw [State.reg_setReg, if_neg (by rintro rfl; exact ho.elim h8 h620), h.reg j h8 h620]⟩

theorem State.Corrected.setField (h : s₀.Corrected s) {hi lo v : Nat} : s₀.Corrected (s.setField (oTmg 8) hi lo v) := h.setReg

theorem State.Corrected.ite {c : Prop} {_ : Decidable c} {a b : State} (ha : s₀.Corrected a) (hb : s₀.Corrected b) :
    s₀.Corrected (if c then a else b) := by split <;> assumption

theorem State.Corrected.askStep (h : s₀.Corrected s) (d : Int) : s₀.Corrected (s.askStep d) :=
  .ite ((h.same.setReg (o := oTmg 0x620)).setField).setField h.same.setField

end

/-- An offset is stored in picoseconds; what follows corrects the time base. -/
theorem State.offset_corrected (s : State) (i : Nat) (off2 : Int) :
    (s.setReg (oTmg (0x100 + i * 8)) (setBf (setBf 0 63 63 1) 31 0 (lowBits 32 (roundDiv (off2 * 500) 1024)))).Corrected
      (s.offset i off2) := by
  unfold State.offset
  extract_lets ps u lim beyond v z w x
  have hv : u.Corrected v := (State.Corrected.refl u).setField
  change u.Corrected _
  clear_value u v
  have hw : u.Corrected w := .ite hv.same hv
  clear_value w
  exact .ite (.ite (hw.setField.askStep _) hw.setField) hw

theorem lowBits_lt (b : Nat) (x : Int) : lowBits b x < 2 ^ b := by
  unfold lowBits
  have h1 := Int.emod_nonneg x (b := ((2 ^ b : Nat) : Int)) (by exact_mod_cast (Nat.two_pow_pos b).ne')
  have h2 := Int.emod_lt_of_pos x (b := ((2 ^ b : Nat) : Int)) (by exact_mod_cast Nat.two_pow_pos b)
  omega

/-- A valid value in the low bits of a register. -/
theorem validWord_fields (b : Nat) (x : Int) (hb : 0 < b) (h63 : b < 64) :
    bf (setBf (setBf 0 63 63 1) (b - 1) 0 (lowBits b x)) 63 63 = 1 ∧
      bf (setBf (setBf 0 63 63 1) (b - 1) 0 (lowBits b x)) (b - 1) 0 = lowBits b x := by
  constructor
  · rw [bf_setBf_disjoint _ _ (Nat.zero_le _) (by omega) (by omega), bf_setBf_self _ _ (by decide) (by decide)]
    rfl
  · exact bf_setBf_of_lt _ (Nat.zero_le _) (by omega) (by rw [show b - 1 + 1 - 0 = b by omega]; exact lowBits_lt b x)

/-- The delay of a link and the neighbour's offset, as a TSYNC leaves them. -/
theorem State.offset_shows (s : State) (i : RingPort) (delay off2 : Int) (u : State)
    (hu : u = (s.setReg (oShr (0x108 + i.val * 0x20)) (setBf (setBf 0 63 63 1) 23 0 (lowBits 24 (roundDiv (delay * 500) 1024)))).offset i
      off2) :
    u.field (oShr (0x108 + i.val * 0x20)) 63 63 = 1 ∧ u.mem = s.mem ∧
      u.field (oShr (0x108 + i.val * 0x20)) 23 0 = lowBits 24 (roundDiv (delay * 500) 1024) ∧
      u.field (oTmg (0x100 + i.val * 8)) 63 63 = 1 ∧
      u.field (oTmg (0x100 + i.val * 8)) 31 0 = lowBits 32 (roundDiv (off2 * 500) 1024) := by
  have hi := i.isLt
  have hc := State.offset_corrected
    (s.setReg (oShr (0x108 + i.val * 0x20)) (setBf (setBf 0 63 63 1) 23 0 (lowBits 24 (roundDiv (delay * 500) 1024)))) i off2
  rw [← hu] at hc
  have hd := hc.reg (oShr (0x108 + i.val * 0x20)) (by unfold oShr oTmg; omega) (by unfold oShr oTmg; omega)
  have ho := hc.reg (oTmg (0x100 + i.val * 8)) (by unfold oTmg; omega) (by unfold oTmg; omega)
  rw [State.reg_setReg, if_neg (by unfold oShr oTmg; omega), State.reg_setReg, if_pos rfl] at hd
  rw [State.reg_setReg, if_pos rfl] at ho
  obtain ⟨d1, d2⟩ := validWord_fields 24 (roundDiv (delay * 500) 1024) (by decide) (by decide)
  obtain ⟨o1, o2⟩ := validWord_fields 32 (roundDiv (off2 * 500) 1024) (by decide) (by decide)
  simp only [State.field, hd, ho]
  exact ⟨d1, hc.mem, d2, o1, o2⟩

theorem execTsync_measures (t t2 : Time) (i : RingPort) (m : RingMsg) (s : State) (a b c d : Nat) (h : Heard s i 0 0 m)
    (ht : (s.rport i).t2 = some t2) (ha : a = devUnits ((s.at t).lastAlign i)) (hb : b = bf (bodyW m 1) 55 0)
    (hc : c = bf (bodyW m 0) 55 0) (hd : d = devUnits t2) :
    Completes (.tsync t i m) s fun u =>
      u.field (oShr (0x108 + i.val * 0x20)) 63 63 = 1 ∧ u.mem = s.mem ∧
      u.field (oShr (0x108 + i.val * 0x20)) 23 0 = lowBits 24 (roundDiv (linkDelay2 a b c d * 500) 1024) ∧
      u.field (oTmg (0x100 + i.val * 8)) 63 63 = 1 ∧
      u.field (oTmg (0x100 + i.val * 8)) 31 0 = lowBits 32 (roundDiv (linkOffset2 a b c d * 500) 1024) := by
  refine ⟨_, rfl, ?_⟩
  obtain ⟨u, hu, e⟩ := State.receive_of_heard (s := s.at t) h (by decide) _
  rw [e]
  have hut : (u.rport i).t2 = some t2 := (hu.t2 i).trans ht
  have hul : u.lastAlign i = (s.at t).lastAlign i := by
    rw [State.lastAlign, hu.now, hu.alignAt]
    rfl
  subst ha hb hc hd
  rw [hut, hul]
  obtain ⟨h1, h2, h3, h4, h5⟩ := u.offset_shows i (linkDelay2 _ _ _ _) (linkOffset2 _ _ _ _) _ rfl
  exact ⟨h1, h2.trans hu.mem, h3, h4, h5⟩

/-! ### HELLO, LEAVE, PROBE and CONFLICT -/

/-- Closing the bypasses writes SHR_CTRL as R405 says, and besides the ports and DEV_STATUS nothing that is read here. -/
structure State.Closing (s u : State) : Prop where
  mem : u.mem = s.mem
  errs : u.errs = s.errs
  errNum : u.errNum = s.errNum
  status : u.reg (oShr 0x10) = s.reg (oShr 0x10)

section
variable {s₀ s : State}

theorem State.Closing.refl (s : State) : s.Closing s := ⟨rfl, rfl, rfl, rfl⟩

theorem State.Closing.setRing (h : s₀.Closing s) {ring} : s₀.Closing { s with ring } := ⟨h.mem, h.errs, h.errNum, h.status⟩

theorem State.Closing.setField (h : s₀.Closing s) {o hi lo v : Nat} (ho : oShr 0x10 ≠ o) : s₀.Closing (s.setField o hi lo v) :=
  ⟨h.mem, h.errs, h.errNum, (State.reg_setReg _ _ _ _).trans ((if_neg ho).trans h.status)⟩

theorem State.Closing.ite {c : Prop} {_ : Decidable c} {a b : State} (ha : s₀.Closing a) (hb : s₀.Closing b) :
    s₀.Closing (if c then a else b) := by split <;> assumption

theorem State.Closing.setRport (h : s₀.Closing s) {i : Nat} {x : RingPortSt} : s₀.Closing (s.setRport i x) := h.setRing

theorem State.Closing.joinEnded (h : s₀.Closing s) : s₀.Closing s.joinEnded := .ite (h.setField (o := oDev 8) (by decide)) h

/-- A port returns to LOOP. -/
theorem State.Closing.portLoop (h : s₀.Closing s) (i : Nat) :
    s₀.Closing (if s.pstate i = 0 then s
      else ((s.setField (oPstat i) 63 60 1).setField (oPstat i) 58 58 0).setField (oShr (0x108 + i * 0x20)) 63 63 0) :=
  .ite h (((h.setField (by unfold oPstat oShr; omega)).setField (by unfold oPstat oShr; omega)).setField (by unfold oShr; omega))

end

/-- SHR_CTRL with both bypasses closed and RSTATE OUT. -/
theorem State.closeBypasses_status (s : State) :
    ((s.setField (oShr 0x10) 63 62 3).setField (oShr 0x10) 61 60 0).Closing s.closeBypasses := by
  unfold State.closeBypasses
  extract_lets u x v
  have hv : u.Closing v := forN_keeps (P := u.Closing) 4 (fun _ i h => h.setRport.portLoop i) (.refl u)
  clear_value v
  exact hv.setRing.joinEnded

/-- The bypasses are closed and the device is OUT; lower bits of SHR_CTRL stay. -/
theorem State.closeBypasses_fields (s : State) :
    s.closeBypasses.rstate = 0 ∧ s.closeBypasses.field (oShr 0x10) 63 62 = 3 ∧
      (∀ b, b < 60 → s.closeBypasses.field (oShr 0x10) b b = s.field (oShr 0x10) b b) ∧ s.closeBypasses.mem = s.mem := by
  have h := s.closeBypasses_status
  have hmem : s.closeBypasses.mem = s.mem := h.mem.trans ((State.setField_mem _ _ _ _ _).trans (State.setField_mem _ _ _ _ _))
  have hf (hi lo : Nat) : s.closeBypasses.field (oShr 0x10) hi lo =
      ((s.setField (oShr 0x10) 63 62 3).setField (oShr 0x10) 61 60 0).field (oShr 0x10) hi lo := congrArg (bf · hi lo) h.status
  refine ⟨?_, ?_, fun b hb => ?_, hmem⟩
  · rw [State.rstate, hf, State.field_setField_self _ _ _ (by decide) (by decide)]
    rfl
  · rw [hf, State.field_setField_disjoint _ _ _ (by decide) (by decide) (by decide),
      State.field_setField_self _ _ _ (by decide) (by decide)]
    rfl
  · rw [hf, State.field_setField_disjoint _ _ _ (by decide) (by decide) (.inl hb),
      State.field_setField_disjoint _ _ _ (by decide) (by decide) (.inl (by omega))]

theorem State.sentError_err (s : State) (cls src unit code d4 : Nat) : SentError (s.err cls src unit code d4) cls src unit code :=
  ⟨_, List.getLast?_concat, rfl, rfl, rfl, rfl⟩

/-- A bad configuration is shown in SHR_CTRL and sent to the error writer. -/
theorem State.configBad_shows (s : State) :
    s.configBad.rstate = 0 ∧ s.configBad.field (oShr 0x10) 63 62 = 3 ∧ s.configBad.field (oShr 0x10) 58 58 = 1 ∧
      SentError s.configBad 3 6 0 3 ∧ s.configBad.mem = s.mem := by
  obtain ⟨h1, h2, h3, h4⟩ := (s.setField (oShr 0x10) 58 58 1).closeBypasses_fields
  have h58 := (h3 58 (by decide)).trans (s.field_setField_self (oShr 0x10) 1 (Nat.le_refl 58) (by decide))
  have hm := h4.trans (s.setField_mem (oShr 0x10) 58 58 1)
  rw [State.configBad]
  generalize (s.setField (oShr 0x10) 58 58 1).closeBypasses = u at h1 h2 h58 hm
  rw [State.rstate, State.field_err_other, State.field_err_other, State.field_err_other, State.err_mem]
  exact ⟨h1, h2, h58, State.sentError_err .., hm⟩

section
variable {t : Time} {i : RingPort} {m : RingMsg} {s : State}

/-- The neighbour's address of a HELLO is shown. -/
theorem State.field_neighbour (s : State) (i : RingPort) (w : Word) :
    (s.setField (oPstat i) 15 0 (bf w 15 0)).field (oPstat i) 15 0 = bf w 15 0 :=
  (s.field_setField_self _ _ (by decide) (by decide)).trans (Nat.mod_eq_of_lt (bf_lt w 15 0))

/-- A register of the device's own, in a state that a HELLO has reached. -/
theorem State.reg_of_hello {u : State} {o v : Nat} (hu : ((s.at t).bump (oRcnt i 0x38)).PortsOnly u) (ho : o = oShr 8 ∨ o = oShr 0x10) :
    (u.setField (oPstat i) 15 0 v).reg o = s.reg o := by
  have hi := i.isLt
  have h1 : o ≠ oPstat i := by rcases ho with rfl | rfl <;> unfold oPstat oShr <;> omega
  have h2 : o ≠ oRcnt i 0x38 := by rcases ho with rfl | rfl <;> unfold oRcnt oShr <;> omega
  exact (State.reg_setReg _ _ _ _).trans ((if_neg h1).trans (State.reg_of_heard (s := s.at t) hu h2))

/-- HELLO, at the state that its delivery reaches. -/
theorem execHello_of_heard (h : Heard s i 4 0 m) :
    ∃ u : State, ((s.at t).bump (oRcnt i 0x38)).PortsOnly u ∧ execHello t i m s = .next
      (if max 1 (bf (bodyW m 0) 24 16) = s.nx ∧ max 1 (bf (bodyW m 0) 40 32) = s.ny then
        u.setField (oPstat i) 15 0 (bf (bodyW m 0) 15 0)
      else (u.setField (oPstat i) 15 0 (bf (bodyW m 0) 15 0)).configBad) := by
  obtain ⟨u, hu, e⟩ := State.receive_of_heard (s := s.at t) h (by decide) fun s =>
    let w := m.body.getD 0 0
    let s := s.setField (oPstat i) 15 0 (bf w 15 0)
    if max 1 (bf w 24 16) = s.nx ∧ max 1 (bf w 40 32) = s.ny then s else s.configBad
  refine ⟨u, hu, congrArg Host.Outcome.next (e.trans ?_)⟩
  have hnx : (u.setField (oPstat i) 15 0 (bf (bodyW m 0) 15 0)).nx = s.nx :=
    congrArg (fun w => max 1 (bf w 24 16)) (State.reg_of_hello hu (.inl rfl))
  have hny : (u.setField (oPstat i) 15 0 (bf (bodyW m 0) 15 0)).ny = s.ny :=
    congrArg (fun w => max 1 (bf w 40 32)) (State.reg_of_hello hu (.inl rfl))
  rw [← hnx, ← hny]
  rfl

/-- A HELLO of the same ring. -/
theorem execHello_of_same (h : Heard s i 4 0 m) (hx : max 1 (bf (bodyW m 0) 24 16) = s.nx) (hy : max 1 (bf (bodyW m 0) 40 32) = s.ny) :
    Completes (.hello t i m) s fun u =>
      u.field (oPstat i) 15 0 = bf (bodyW m 0) 15 0 ∧ u.rstate = s.rstate ∧ u.errs = s.errs ∧ u.mem = s.mem := by
  obtain ⟨u, hu, e⟩ := execHello_of_heard (t := t) h
  rw [if_pos ⟨hx, hy⟩] at e
  exact ⟨_, e, u.field_neighbour i _, congrArg (bf · 61 60) (State.reg_of_hello hu (.inr rfl)), hu.errs, hu.mem⟩

/-- A HELLO of a ring of another size. -/
theorem execHello_of_other (h : Heard s i 4 0 m) (hn : ¬ (max 1 (bf (bodyW m 0) 24 16) = s.nx ∧ max 1 (bf (bodyW m 0) 40 32) = s.ny)) :
    Completes (.hello t i m) s fun u =>
      u.rstate = 0 ∧ u.field (oShr 0x10) 63 62 = 3 ∧ u.field (oShr 0x10) 58 58 = 1 ∧ SentError u 3 6 0 3 ∧ u.mem = s.mem := by
  obtain ⟨u, hu, e⟩ := execHello_of_heard (t := t) h
  rw [if_neg hn] at e
  obtain ⟨h1, h2, h3, h4, h5⟩ := (u.setField (oPstat i) 15 0 (bf (bodyW m 0) 15 0)).configBad_shows
  exact ⟨_, e, h1, h2, h3, h4, h5.trans ((u.setField_mem _ _ _ _).trans hu.mem)⟩

theorem execLeave_notes (h : Heard s i 4 1 m) :
    Completes (.leave t i m) s fun u => (u.rport i).lastLeave = some t ∧ u.mem = s.mem := by
  refine ⟨_, rfl, ?_⟩
  obtain ⟨u, hu, e⟩ := State.receive_of_heard (s := s.at t) h (by decide) _
  rw [e]
  exact ⟨congrArg RingPortSt.lastLeave ((State.rport_setRport _ _ _ _).trans (if_pos rfl)), hu.mem⟩

/-- A PROBE of another device is passed on. -/
theorem execProbe_of_other (h : Heard s i 4 2 m) :
    Completes (.probe t i m) s fun u => u.rstate = s.rstate ∧ u.errs = s.errs ∧ u.mem = s.mem ∧
      SameRegs (· = oRcnt i 0x38) s u := by
  refine ⟨_, rfl, ?_⟩
  obtain ⟨u, hu, e⟩ := State.receive_of_heard (s := s.at t) h (by decide) _
  rw [e]
  exact ⟨congrArg (bf · 61 60) (State.reg_of_heard (s := s.at t) hu (by unfold oRcnt oShr; omega)), hu.errs, hu.mem, State.sameRegs_of_heard (s := s.at t) hu⟩

/-- A PROBE that carries the device's own address. -/
theorem State.receive_probe_own {s : State} {f : State → State} (hp : s.pstate i = 4) (hs : msgSound 4 2 m = true) (h3 : m.scope ≠ 3)
    (hsrc : m.src.toNat = s.node) : ∃ u x, (s.bump (oRcnt i 0x38)).PortsOnly u ∧
      s.receive i 4 2 m f = (u.bump (oRcnt i 0x30)).originate x := by
  have hcls : m.cls ≠ 1 := by
    intro e
    exact absurd ((msgSound_cls hs).symm.trans (congrArg BitVec.toNat e)) (by decide)
  unfold State.receive
  extract_lets +onlyGivenNames v
  have hv : (s.bump (oRcnt i 0x38)).PortsOnly v := .owe _ _ _ _
  have hnode : v.node = s.node := congrArg (bf · 15 0) (State.reg_of_heard hv (by unfold oRcnt oShr; omega))
  clear_value v
  rw [if_neg (not_not.2 hp), if_neg (by rw [hs]; exact Bool.noConfusion), if_neg (fun e => hcls e.1), if_neg h3,
    if_pos (by rw [hnode]; exact hsrc)]
  exact ⟨v, _, hv, rfl⟩

/-- A PROBE with the own address is counted as a conflict and answered. -/
theorem execProbe_of_own (hp : s.pstate i = 4) (hs : msgSound 4 2 m = true) (h3 : m.scope ≠ 3) (hsrc : m.src.toNat = s.node) :
    Completes (.probe t i m) s fun u => u.mem = s.mem ∧
      (u.reg (oRcnt i 0x30)).toNat = min (2 ^ 64 - 1) ((s.reg (oRcnt i 0x30)).toNat + 1) := by
  obtain ⟨u, x, hu, e⟩ := State.receive_probe_own (s := s.at t) (f := fun s => s) hp hs h3 hsrc
  refine ⟨_, congrArg Host.Outcome.next e, (State.originate_mem _ _).trans ((State.bumpN_mem ..).trans hu.mem), ?_⟩
  have hr : ((u.bump (oRcnt i 0x30)).originate x).reg (oRcnt i 0x30) =
      BitVec.ofNat 64 (min (2 ^ 64 - 1) ((u.reg (oRcnt i 0x30)).toNat + 1)) :=
    (congrArg (sget _ _) (State.originate_regs _ _)).trans ((State.reg_setReg _ _ _ _).trans (if_pos rfl))
  rw [hr, toNat_count, State.reg_of_heard (s := s.at t) hu (by unfold oRcnt oShr; omega)]
  rfl

/-- CONFLICT, at the state that its delivery reaches. -/
theorem execConflict_of_heard (h : Heard s i 4 3 m) :
    ∃ u : State, ((s.at t).bump (oRcnt i 0x38)).PortsOnly u ∧ execConflict t i m s = .next
      (if s.rstate = 1 ∧ bf (bodyW m 0) 15 0 = s.node then u.closeBypasses.setField (oShr 0x10) 59 59 1 else u) := by
  obtain ⟨u, hu, e⟩ := State.receive_of_heard (s := s.at t) h (by decide) fun s =>
    if s.rstate = 1 ∧ bf (m.body.getD 0 0) 15 0 = s.node then (s.closeBypasses).setField (oShr 0x10) 59 59 1 else s
  refine ⟨u, hu, congrArg Host.Outcome.next (e.trans ?_)⟩
  have hr : u.rstate = s.rstate := congrArg (bf · 61 60) (State.reg_of_heard (s := s.at t) hu (by unfold oRcnt oShr; omega))
  have hn : u.node = s.node := congrArg (bf · 15 0) (State.reg_of_heard (s := s.at t) hu (by unfold oRcnt oShr; omega))
  rw [hr, hn]
  rfl

/-- A CONFLICT ends the join of the device that it names. -/
theorem execConflict_of_own (h : Heard s i 4 3 m) (hr : s.rstate = 1) (hn : bf (bodyW m 0) 15 0 = s.node) :
    Completes (.conflict t i m) s fun u =>
      u.rstate = 0 ∧ u.field (oShr 0x10) 63 62 = 3 ∧ u.field (oShr 0x10) 59 59 = 1 ∧ u.mem = s.mem := by
  obtain ⟨u, hu, e⟩ := execConflict_of_heard (t := t) h
  rw [if_pos ⟨hr, hn⟩] at e
  obtain ⟨h1, h2, -, h4⟩ := u.closeBypasses_fields
  refine ⟨_, e, ?_, ?_, ?_, (State.setField_mem ..).trans (h4.trans hu.mem)⟩
  · exact (State.field_setField_disjoint _ _ _ (by decide) (by decide) (by decide)).trans h1
  · exact (State.field_setField_disjoint _ _ _ (by decide) (by decide) (by decide)).trans h2
  · exact State.field_setField_self _ _ _ (by decide) (by decide)

/-- Any other CONFLICT changes nothing. -/
theorem execConflict_of_other (h : Heard s i 4 3 m) (hn : s.rstate ≠ 1 ∨ bf (bodyW m 0) 15 0 ≠ s.node) :
    Completes (.conflict t i m) s fun u => u.mem = s.mem ∧ SameRegs (· = oRcnt i 0x38) s u := by
  obtain ⟨u, hu, e⟩ := execConflict_of_heard (t := t) h
  rw [if_neg (fun h => hn.elim (fun hr => hr h.1) fun hb => hb h.2)] at e
  exact ⟨u, e, hu.mem, State.sameRegs_of_heard (s := s.at t) hu⟩

end

/-! ### A lost signal -/

theorem filterMap_sset {α β : Type} [DecidableEq α] (f : Nat × α → Option β) {k : Nat} (hf : ∀ v, f (k, v) = none) (d v : α) (l : Sparse α) :
    (sset d k v l).filterMap f = l.filterMap f := by
  have he : (serase k l).filterMap f = l.filterMap f := by
    induction l with
    | nil => rfl
    | cons e l ih =>
      obtain ⟨j, w⟩ := e
      by_cases hj : j = k
      · subst hj
        rw [serase, if_pos rfl, ih, List.filterMap_cons_none (hf w)]
      · rw [serase, if_neg hj, List.filterMap_cons, List.filterMap_cons, ih]
  have hi (m : Sparse α) : (sinsert k v m).filterMap f = m.filterMap f := by
    induction m with
    | nil => rw [sinsert, List.filterMap_cons_none (hf v)]
    | cons e m ih =>
      obtain ⟨j, w⟩ := e
      rw [sinsert]
      split
      · rw [List.filterMap_cons_none (hf v)]
      · rw [List.filterMap_cons, List.filterMap_cons, ih]
  rw [sset]
  split
  · exact he
  · rw [hi, he]

/-- A register that is no queue's leaves the queues ACTIVE. -/
theorem State.activeQueues_setReg (s : State) {o : Nat} (v : Word) (ty : Nat) (ho : o < oQue 0x100000) :
    (s.setReg o v).activeQueues ty = s.activeQueues ty :=
  filterMap_sset _ (fun _ => if_neg fun h => Nat.not_le.2 ho h.1) _ _ _

theorem State.raised_regs (s : State) {raised} : ({ s with raised } : State).regs = s.regs := rfl

/-- A raised bit is written as a field is. -/
theorem State.regs_raiseBit (s : State) (o b : Nat) : (s.raiseBit o b).regs = (s.setField o b b 1).regs :=
  State.raised_regs (s.setField o b b 1)

theorem State.reg_raiseBit (s : State) (o b j : Nat) : (s.raiseBit o b).reg j = (s.setField o b b 1).reg j :=
  congrArg (sget (regReset j) j) (s.regs_raiseBit o b)

/-- What a lost signal writes of a port's registers: `n` messages are lost (R406). -/
def State.linkLost (s : State) (i n : Nat) : State :=
  ((((((s.bumpN (oRcnt i 0x20) n).bump (oRcnt i 0x18)).setField (oPstat i) 58 58 0).raiseBit (oPstat i) 59).setField (oPstat i) 63 60
    5).setField (oShr (0x108 + i * 0x20)) 63 63 0)

/-- STATE, CONN and the lost signal of the port. -/
theorem State.linkLost_fields (s : State) (i : RingPort) (n : Nat) :
    (s.linkLost i n).pstate i = 5 ∧ (s.linkLost i n).field (oPstat i) 59 58 = 2 := by
  have hi := i.isLt
  have hne : oPstat i ≠ oShr (0x108 + i.val * 0x20) := by unfold oPstat oShr; omega
  unfold State.linkLost State.pstate
  generalize (s.bumpN (oRcnt i 0x20) n).bump (oRcnt i 0x18) = u
  have hr : ((u.setField (oPstat i) 58 58 0).raiseBit (oPstat i) 59).field (oPstat i) 59 58 =
    ((u.setField (oPstat i) 58 58 0).setField (oPstat i) 59 59 1).field (oPstat i) 59 58 :=
      congrArg (bf · 59 58) (State.reg_raiseBit ..)
  constructor
  · rw [State.field_setField_ne _ _ _ _ _ _ hne, State.field_setField_self _ _ _ (by decide) (by decide)]
    rfl
  · rw [State.field_setField_ne _ _ _ _ _ _ hne, State.field_setField_disjoint _ _ _ (by decide) (by decide) (by decide), hr]
    exact (u.field_setField_pair (oPstat i) 58 0 1 (by decide) (by decide) (by decide)).1

theorem State.linkLost_count (s : State) (i : RingPort) (n : Nat) :
    (s.linkLost i n).reg (oRcnt i 0x18) = BitVec.ofNat 64 (min (2 ^ 64 - 1) ((s.reg (oRcnt i 0x18)).toNat + 1)) := by
  have hi := i.isLt
  have h1 : oRcnt i 0x18 ≠ oShr (0x108 + i.val * 0x20) := by unfold oRcnt oShr; omega
  have h2 : oRcnt i 0x18 ≠ oPstat i := by unfold oRcnt oPstat oShr; omega
  have h3 : oRcnt i 0x18 ≠ oRcnt i 0x20 := by unfold oRcnt oShr; omega
  unfold State.linkLost
  rw [State.reg_setField, if_neg h1, State.reg_setField, if_neg h2, State.reg_raiseBit, State.reg_setField, if_neg h2, State.reg_setField, if_neg h2,
    State.bump, State.reg_bumpN, if_pos rfl, State.reg_bumpN, if_neg h3]

theorem State.linkLost_mem (s : State) (i n : Nat) : (s.linkLost i n).mem = s.mem := by
  rw [State.linkLost, State.setField_mem, State.setField_mem, State.raiseBit_mem, State.setField_mem, State.bump_mem, State.bumpN_mem]

theorem State.linkLost_activeQueues (s : State) (i : RingPort) (n ty : Nat) : (s.linkLost i n).activeQueues ty = s.activeQueues ty := by
  have hi := i.isLt
  have hf (u : State) (hi lo v : Nat) {o : Nat} (ho : o < oQue 0x100000) : (u.setField o hi lo v).activeQueues ty = u.activeQueues ty :=
    u.activeQueues_setReg _ ty ho
  have h1 : oShr (0x108 + i.val * 0x20) < oQue 0x100000 := by unfold oShr oQue; omega
  have h2 : oPstat i < oQue 0x100000 := by unfold oPstat oShr oQue; omega
  have hr (u : State) : (u.raiseBit (oPstat i) 59).activeQueues ty = (u.setField (oPstat i) 59 59 1).activeQueues ty :=
    congrArg (List.filterMap _) (u.regs_raiseBit _ _)
  have hb (u : State) (o n : Nat) (ho : o < 0x100) : (u.bumpN (oRcnt i o) n).activeQueues ty = u.activeQueues ty :=
    u.activeQueues_setReg _ ty (by unfold oRcnt oShr oQue; omega)
  unfold State.linkLost
  rw [hf _ _ _ _ h1, hf _ _ _ _ h2, hr, hf _ _ _ _ h2, hf _ _ _ _ h2, State.bump, hb _ _ _ (by decide), hb _ _ _ (by decide)]

/-- With no queue to tell of it, the event of a lost signal goes nowhere. -/
theorem State.ringEvent_linkLost {s : State} {i : RingPort} (he : noEvents s) (n : Nat) :
    ((s.linkLost i n).err 1 6 i 1 0).ringEvent i = (s.linkLost i n).err 1 6 i 1 0 := by
  refine State.event_none ?_ _ _ _
  rw [State.activeQueues, State.err_regs]
  exact (s.linkLost_activeQueues i n 5).trans he

/-- A signal that is lost without a LEAVE before it, with no queue to tell of it. -/
theorem execRingLossOfSignal_eq {t : Time} {i : RingPort} {s : State} (partly : Bool) (hp : s.pstate i = 4)
    (hl : (s.rport i).lastLeave = none) (he : noEvents s) : ∃ x n,
      execRingLossOfSignal t i partly s = .next ((((s.at t).setRport i x).linkLost i n).err 1 6 i 1 0) := by
  have hl : ((s.at t).rport i).lastLeave = none := hl
  refine ⟨{ (s.at t).rport i with lastLeave := none, outq := [], waitq := ((s.at t).queued i).filter fun m => m.cls == 4, t2 := none },
    (((s.at t).queued i).filter fun m => m.cls != 4).length + b2n partly, (if_pos hp).trans ?_⟩
  rw [hl, ← State.ringEvent_linkLost (s := (s.at t).setRport i _) he]
  rfl

/-- A lost signal takes the port to LOS and is counted and recorded. -/
theorem execRingLossOfSignal_loses (t : Time) (i : RingPort) (partly : Bool) (s : State) (hp : s.pstate i = 4)
    (hl : (s.rport i).lastLeave = none) (he : noEvents s) :
    Completes (.ringLossOfSignal t i partly) s fun u =>
      u.pstate i = 5 ∧ u.field (oPstat i) 59 58 = 2 ∧ SentError u 1 6 i 1 ∧ u.mem = s.mem ∧
      (u.reg (oRcnt i 0x18)).toNat = min (2 ^ 64 - 1) ((s.reg (oRcnt i 0x18)).toNat + 1) := by
  obtain ⟨x, n, e⟩ := execRingLossOfSignal_eq (t := t) partly hp hl he
  refine ⟨_, e, ?_⟩
  obtain ⟨h5, h2⟩ := ((s.at t).setRport i x).linkLost_fields i n
  have hc := ((s.at t).setRport i x).linkLost_count i n
  have hm := ((s.at t).setRport i x).linkLost_mem i n
  rw [State.pstate, State.field_err_other, State.field_err_other, State.err_mem, State.reg_err_other, hc, toNat_count]
  exact ⟨h5, h2, State.sentError_err .., hm, rfl⟩

/-- Settles O46: one theorem for each command of the links. -/
theorem ringLinks : Obligations.RingLinks := by
  refine ⟨fun t i w h credits s => ?_, fun t a i s ha => execTsyncSend_leaves t a i s ha, execTsync_measures, fun t i m s => ?_,
    execRingLossOfSignal_loses⟩
  · obtain ⟨h1, h2, h3⟩ := execFecCodeword_counts t i w s
    obtain ⟨h4, h5, h6⟩ := execRingIdle_cases t i h credits s
    exact ⟨h1, h2, h3, h4, h5, h6, execAlignBlock_stamps t i s⟩
  · exact ⟨execHello_of_same, execHello_of_other, execLeave_notes, execProbe_of_other, execProbe_of_own, execConflict_of_own,
      execConflict_of_other⟩

end Sys2Proof.Machine
end

section
/-! PROOFS. Copies and watermarks at a cluster: what they do to its slices (O20). -/

namespace Sys2Proof.Machine

open Sys2Proof.Claims

/-! ### A cluster asks for HOT

The request of a cluster for its own domain (R504) counts the cycles of its cores and moves its domain: units other than the cores and the
supply, other registers and other domains stay. -/

structure State.Asking (k : Nat) (s₀ s : State) : Prop where
  only : ∃ regs cores pwr, s = { s₀ with regs, cores, pwr }
  reg : ∀ o, o ≠ oDom k → s.reg o = s₀.reg o
  moving : ∀ d, d ≠ k → s.moving d = s₀.moving d

section
variable {k : Nat} {s₀ s u : State}

theorem State.Asking.refl (k : Nat) (s : State) : State.Asking k s s := ⟨⟨s.regs, s.cores, s.pwr, rfl⟩, fun _ _ => rfl, fun _ _ => rfl⟩

theorem State.Asking.setCore (h : State.Asking k s₀ s) {c : Nat} {x : CoreSt} : State.Asking k s₀ (s.setCore c x) := by
  obtain ⟨⟨regs, cores, pwr, rfl⟩, hr, hm⟩ := h
  exact ⟨⟨_, _, _, rfl⟩, hr, hm⟩

theorem State.Asking.setDom (h : State.Asking k s₀ s) {hi lo v : Nat} : State.Asking k s₀ (s.setField (oDom k) hi lo v) := by
  obtain ⟨⟨regs, cores, pwr, rfl⟩, hr, hm⟩ := h
  exact ⟨⟨_, _, _, rfl⟩, fun o ho => by rw [State.reg_setField, if_neg ho]; exact hr o ho, hm⟩

theorem State.Asking.setPwr (h : State.Asking k s₀ s) {x : PwrSt} (hx : ∀ d, d ≠ k → sget none d x.going = s.moving d) :
    State.Asking k s₀ (s.setPwr x) := by
  obtain ⟨⟨regs, cores, pwr, rfl⟩, hr, hm⟩ := h
  exact ⟨⟨_, _, _, rfl⟩, hr, fun d hd => (hx d hd).trans (hm d hd)⟩

theorem State.Asking.setWaitq (h : State.Asking k s₀ s) {l : Sparse (List Nat)} :
    State.Asking k s₀ (s.setPwr { s.pwr with waitq := l }) := h.setPwr fun _ _ => rfl

theorem State.Asking.setGoing (h : State.Asking k s₀ s) {v : Option Nat} :
    State.Asking k s₀ (s.setPwr { s.pwr with going := sset none k v s.pwr.going }) := h.setPwr fun _ hd => sget_sset_ne _ _ hd _ _

theorem State.Asking.ite {c : Prop} {_ : Decidable c} {a b : State} (ha : State.Asking k s₀ a) (hb : State.Asking k s₀ b) :
    State.Asking k s₀ (if c then a else b) := by split <;> assumption

theorem State.Asking.settle (h : State.Asking k s₀ s) : State.Asking k s₀ (s.settle k) :=
  List.foldlRecOn _ _ (motive := State.Asking k s₀) h fun _ hu _ _ => .ite hu.setCore hu

/-- A cluster's own domain has no precondition (R502, R503). -/
theorem State.domBarred_cluster (s : State) {v : Nat} (hk : k < 32) : s.domBarred k v = false := by
  have h80 : ¬ 80 ≤ k := by omega
  have h84 : ¬ 84 ≤ k := by omega
  have h88 : ¬ 88 ≤ k := by omega
  simp [State.domBarred, h80, h84, h88]

theorem State.Asking.domAsk (h : State.Asking k s₀ s) (hk : k < 32) : State.Asking k s₀ (s.domAsk k 2) := by
  have hb : State.Asking k s₀ (s.domBegin k 2) := by
    rw [State.domBegin, if_pos hk, if_pos rfl]
    exact h.settle.setGoing.setDom
  have ht : State.Asking k s₀ (s.domTake k 2) := by
    rw [State.domTake, s.domBarred_cluster hk, if_neg Bool.false_ne_true]
    exact .ite h hb
  exact .ite h (.ite h.setWaitq ht)

theorem State.asking_wakeCheck (s : State) (hk : k < 32) : State.Asking k s (s.wakeCheck k) := by
  have h : State.Asking k s (s.setField (oDom k) 63 62 2) := (State.Asking.refl k s).setDom
  unfold State.wakeCheck State.wake
  exact .ite (.ite (.ite h h.setWaitq) (h.domAsk hk)) (.refl k s)

theorem State.Asking.clu (h : State.Asking k s u) (j : Nat) : u.clu j = s.clu j := by obtain ⟨⟨_, _, _, rfl⟩, _⟩ := h; rfl
theorem State.Asking.mem (h : State.Asking k s u) : u.mem = s.mem := by obtain ⟨⟨_, _, _, rfl⟩, _⟩ := h; rfl
theorem State.Asking.cluIn (h : State.Asking k s u) : u.cluIn = s.cluIn := by obtain ⟨⟨_, _, _, rfl⟩, _⟩ := h; rfl
theorem State.Asking.rows (h : State.Asking k s u) : u.rows = s.rows := by obtain ⟨⟨_, _, _, rfl⟩, _⟩ := h; rfl

/-- A row is in service as before. -/
theorem State.Asking.rowIn (h : State.Asking k s u) (hk : k < 32) (r : Nat) : u.rowIn r = s.rowIn r := by
  have hd : oPwr (0x100 + (32 + r) * 8) ≠ oDom k := by simp only [oDom, oPwr]; omega
  simp only [State.rowIn, State.inService, State.hot, State.domain, State.field, h.reg _ hd, h.moving (32 + r) (by omega)]

end

/-! ### The firm condition -/

/-- The firm condition reads the cluster's programs and firm watermarks, the rows in service, and the registers of times (R100, R289). -/
theorem State.firm_congr {s u : State} {k : Nat} (hp : (u.clu k).progs = (s.clu k).progs) (hf : (u.clu k).fw = (s.clu k).fw)
    (hr : u.rows = s.rows) (hi : ∀ r, u.rowIn r = s.rowIn r) (hw : u.reg (oMst 0x10) = s.reg (oMst 0x10))
    (hl : u.reg (oTmg 0x18) = s.reg (oTmg 0x18)) (key : SliceKey) : u.firm k key = s.firm k key := by
  have hrow (r : Nat) : u.row r = s.row r := congrArg (sget RowSt.reset r) hr
  have hs (g : Nat) : u.serving g = s.serving g := by simp only [State.serving, hi, hrow]
  have he : u.sliceE k key = s.sliceE k key := by
    simp only [State.sliceE, State.sliceK, State.progWord, State.slotW, State.lenL, State.field, hp, hw, hl]
  have hg : u.regionFw k key.region = s.regionFw k key.region := by
    simp only [State.regionFw, State.lenL, State.field, hf, hl, hs]
  rw [State.firm, State.firm, he, hg]

/-! ### A copy arrives -/

/-- An entry that is in use is not read again (R277). -/
theorem State.progRead_of_inUse {s : State} {k g : Nat} (h : sget [] g (s.clu k).progs ≠ []) : s.progRead k g = s :=
  if_pos (.inr h)

/-- Whether a cluster runs a region that is in use, its table alone says. -/
theorem State.runsRegion_congr {s u : State} {k g : Nat} (hc : u.clu k = s.clu k) (h : sget [] g (s.clu k).progs ≠ []) :
    u.runsRegion k g = s.runsRegion k g := by
  have e : u.progNow k g = s.progNow k g := by
    unfold State.progNow
    rw [hc]
    split
    · rfl
    · split
      · contradiction
      · rfl
  rw [State.runsRegion, State.runsRegion, e]

/-- An own hit of an interval without a descriptor makes one (R280). -/
theorem State.copyToSlice_of_new {s : State} {k : Nat} {d : DispWord} {key : SliceKey} (hh : d.halo = false)
    (hn : s.slice k key = none) (hg : (s.clu k).gone.all (fun e => e.1 != key) = true) (hl : (s.clu k).slices.length < 8192) :
    s.copyToSlice k d key = (s.setClu k { s.clu k with
      slices := (s.clu k).slices ++ [{ newSlice key with st := s.waitState k (newSlice key) }] }, true) := by
  have hg : (s.clu k).gone.find? (fun e => e.1 == key) = none := List.find?_eq_none.2 fun e he => by
    simpa using List.all_eq_true.1 hg e he
  simp [State.copyToSlice, hn, hg, hh, Nat.not_le.2 hl]

theorem State.waitState_cases (s : State) (k : Nat) (x : Slice) : s.waitState k x = .waiting ∨ s.waitState k x = .queued := by
  unfold State.waitState
  split
  exacts [.inr rfl, .inl rfl]

/-- A copy of an own hit, of a region in use and of an interval without a descriptor, is kept behind the new descriptor. -/
theorem State.copyIn_of_new {s : State} {k : Nat} {d : DispWord} (hp : sget [] d.target (s.clu k).progs ≠ [])
    (hr : s.runsRegion k d.target = true) (hh : d.halo = false) (hn : s.slice k (s.keyOf k d.target d) = none)
    (hg : (s.clu k).gone.all (fun e => e.1 != s.keyOf k d.target d) = true) (hl : (s.clu k).slices.length < 8192) :
    s.copyIn k d = (((s.setClu k { s.clu k with slices := (s.clu k).slices ++
      [{ newSlice (s.keyOf k d.target d) with st := s.waitState k (newSlice (s.keyOf k d.target d)) }] }).storeCopy k d.target d).pruneCopies
        k).wakeCheck k := by
  simp only [State.copyIn, State.progRead_of_inUse hp, hr, State.copyToSlice_of_new hh hn hg hl, Bool.true_eq_false, if_false, if_true]

/-- A copy that is kept changes the cluster's hit queue, and the cluster may ask for HOT. -/
theorem State.kept_copy {s u : State} {k g : Nat} {d : DispWord} (hk : k < 32)
    (hu : u = (((s.storeCopy k g d).pruneCopies k).wakeCheck k).stir k) :
    (u.clu k).slices = (s.clu k).slices ∧ u.cluIn = s.cluIn ∧ u.mem = s.mem := by
  have h := ((s.storeCopy k g d).pruneCopies k).asking_wakeCheck hk
  subst hu
  rw [State.stir, State.setClu_cluIn, State.setClu_mem, State.clu_setClu, if_pos rfl, h.clu, h.cluIn, h.mem]
  simp [State.pruneCopies, State.storeCopy]

/-- A word of the row that reaches the dispatcher has left the path. -/
theorem execDispatchWordArrival_eq {t : Time} {c : ClusterId} {s u : State} {d : DispWord} {rest : List DispWord}
    (hq : sget [] c.val s.cluIn = d :: rest) (hd : d.due ≤ t) (hu : u = { s.at t with cluIn := sset [] c.val rest s.cluIn }) :
    exec (.dispatchWordArrival t c) s = .next (if d.eof then u.setClu c { u.clu c with eofs := d.row :: (u.clu c).eofs }
      else (u.copyIn c d).stir c) := by
  subst hu
  show execDispatchWordArrival t c s = _
  unfold execDispatchWordArrival
  extract_lets v k
  have hq : sget [] k v.cluIn = d :: rest := hq
  rw [hq]
  exact if_neg (Nat.not_lt.2 hd)

theorem dispatchWordArrival_makes {t : Time} {c : ClusterId} {s : State} {d : DispWord} {rest : List DispWord}
    (hq : sget [] c.val s.cluIn = d :: rest) (hd : d.due ≤ t) (he : d.eof = false) (hp : progInUse s c d.target)
    (hh : d.halo = false) (hn : s.slice c (s.keyOf c d.target d) = none)
    (hg : (s.clu c).gone.all (fun e => e.1 != s.keyOf c d.target d) = true) (hl : (s.clu c).slices.length < 8192) :
    Completes (.dispatchWordArrival t c) s fun u =>
      u.mem = s.mem ∧ sget [] c.val u.cluIn = rest ∧ (u.clu c).slices.length = (s.clu c).slices.length + 1 ∧
      ∃ x, (u.clu c).slices.getLast? = some x ∧ x.key = s.keyOf c d.target d ∧ (x.st = .waiting ∨ x.st = .queued) ∧
        x.holder = none := by
  obtain ⟨-, hp, hr⟩ := hp
  have hx := execDispatchWordArrival_eq hq hd rfl
  generalize hv : ({ s.at t with cluIn := sset [] c.val rest s.cluIn } : State) = v at hx
  have hc : v.clu c = s.clu c := by rw [← hv]; rfl
  have hkey : v.keyOf c d.target d = s.keyOf c d.target d := by rw [← hv]; rfl
  have hslice : v.slice c (v.keyOf c d.target d) = none := by rw [State.slice, hc, hkey]; exact hn
  have hcopy := State.copyIn_of_new (s := v) (k := c) (d := d) (by rw [hc]; exact hp)
    ((State.runsRegion_congr hc hp).trans hr) hh hslice (by rw [hc, hkey]; exact hg) (by rw [hc]; exact hl)
  rw [he, if_neg Bool.false_ne_true, hcopy, hkey, hc] at hx
  obtain ⟨hs, hi, hm⟩ := State.kept_copy c.isLt rfl
  refine ⟨_, hx, hm.trans (by rw [← hv]; rfl), ?_, ?_, ?_⟩
  · rw [hi, State.setClu_cluIn, ← hv]
    exact sget_sset_self ..
  · rw [hs, State.clu_setClu, if_pos rfl, List.length_append]
    rfl
  · rw [hs, State.clu_setClu, if_pos rfl]
    exact ⟨_, List.getLast?_concat, rfl, v.waitState_cases c _, rfl⟩

theorem dispatchWordArrival_marks {t : Time} {c : ClusterId} {s : State} {d : DispWord} {rest : List DispWord}
    (hq : sget [] c.val s.cluIn = d :: rest) (hd : d.due ≤ t) (he : d.eof = true) :
    Completes (.dispatchWordArrival t c) s fun u =>
      d.row ∈ (u.clu c).eofs ∧ (u.clu c).slices = (s.clu c).slices ∧ sget [] c.val u.cluIn = rest ∧ u.regs = s.regs ∧ u.mem = s.mem := by
  have hx := execDispatchWordArrival_eq hq hd rfl
  rw [he, if_pos rfl] at hx
  refine ⟨_, hx, ?_, ?_, sget_sset_self .., rfl, rfl⟩
  · rw [State.clu_setClu, if_pos rfl]
    exact List.mem_cons_self ..
  · rw [State.clu_setClu, if_pos rfl]
    rfl

/-! ### A watermark arrives -/

/-- Work on the slices of cluster `k` and on its hit queue: its watermarks and its programs stay, and so does all but the clusters. -/
structure State.Judging (k : Nat) (s₀ s : State) : Prop where
  only : ∃ clus, s = { s₀ with clus }
  pw : (s.clu k).pw = (s₀.clu k).pw
  fw : (s.clu k).fw = (s₀.clu k).fw
  progs : (s.clu k).progs = (s₀.clu k).progs

theorem State.Judging.refl (k : Nat) (s : State) : State.Judging k s s := ⟨⟨s.clus, rfl⟩, rfl, rfl, rfl⟩

theorem State.Judging.setClu {k : Nat} {s₀ s : State} (h : State.Judging k s₀ s) {x : CluSt} (hp : x.pw = (s.clu k).pw)
    (hf : x.fw = (s.clu k).fw) (hg : x.progs = (s.clu k).progs) : State.Judging k s₀ (s.setClu k x) := by
  obtain ⟨⟨clus, rfl⟩, h1, h2, h3⟩ := h
  refine ⟨⟨_, rfl⟩, ?_, ?_, ?_⟩ <;> rw [State.clu_setClu, if_pos rfl]
  exacts [hp.trans h1, hf.trans h2, hg.trans h3]

theorem State.Judging.setSlice {k : Nat} {s₀ s : State} (h : State.Judging k s₀ s) (x : Slice) : State.Judging k s₀ (s.setSlice k x) :=
  h.setClu rfl rfl rfl

theorem State.Judging.sliceMove {k : Nat} {s₀ s : State} (h : State.Judging k s₀ s) (x : Slice) : State.Judging k s₀ (s.sliceMove k x) := by
  unfold State.sliceMove
  split
  · exact h.setSlice _
  · split
    · exact h.setSlice _
    · exact h

theorem State.judging_slicesMove (s : State) (k : Nat) : State.Judging k s ((s.slicesMove k).pruneCopies k) :=
  (List.foldlRecOn _ _ (motive := State.Judging k s) (.refl k s) fun _ h x _ => h.sliceMove x).setClu rfl rfl rfl

/-- What a cluster's only slice is after a change of its descriptor. -/
theorem State.slices_setSlice {s : State} {k : Nat} {x y : Slice} (h : (s.clu k).slices = [x]) (hy : x.key = y.key) :
    ((s.setSlice k y).clu k).slices = [y] := by
  rw [State.setSlice, State.clu_setClu, if_pos rfl, h, List.map_cons, if_pos hy, List.map_nil]

/-- The only slice of a cluster runs provisionally and is firm by what the cluster has received (R289). -/
theorem State.slicesMove_firm {s : State} {k : Nat} {x : Slice} (h : (s.clu k).slices = [x]) (hs : x.st = .provRun)
    (hl : x.late = false) (hf : s.firm k x.key = true) :
    ∃ y, ((s.slicesMove k).clu k).slices = [y] ∧ y.key = x.key ∧ y.st = .firmRun := by
  have hw : ¬ (x.st = .waiting ∧ s.canDispatch k x) := by simp [hs]
  rw [State.slicesMove, h, List.foldl_cons, List.foldl_nil, State.sliceMove, if_neg hw, if_pos ⟨hs, hl, hf⟩]
  exact ⟨_, State.slices_setSlice h rfl, rfl, rfl⟩

/-- The cluster's state with a watermark message taken. -/
def State.watermarked (s : State) (k : Nat) (m : WmMsg) (rest : List WmMsg) : State :=
  { s with wmIn := sset [] k rest s.wmIn }.setClu k
    { s.clu k with pw := sset 0 m.row m.pw (s.clu k).pw, fw := sset 0 (m.row * 64 + m.cls) m.fw (s.clu k).fw }

theorem execWatermarkReceive_eq {t : Time} {c : ClusterId} {s : State} {m : WmMsg} {rest : List WmMsg}
    (hq : sget [] c.val s.wmIn = m :: rest) (hd : m.due ≤ t) (hm : m.cls < 64) :
    exec (.watermarkReceive t c) s =
      .next (((((s.at t).watermarked c m rest).slicesMove c).pruneCopies c).wakeCheck c) := by
  show execWatermarkReceive t c s = _
  unfold execWatermarkReceive
  extract_lets v k
  have hq : sget [] k v.wmIn = m :: rest := hq
  rw [hq]
  dsimp only
  rw [if_neg (Nat.not_lt.2 hd), if_pos hm]
  rfl

theorem watermarkReceive_moves {t : Time} {c : ClusterId} {s : State} {m : WmMsg} {rest : List WmMsg}
    (hq : sget [] c.val s.wmIn = m :: rest) (hd : m.due ≤ t) (hm : m.cls < 64) :
    Completes (.watermarkReceive t c) s fun u =>
      sget 0 m.row (u.clu c).pw = m.pw ∧ sget 0 (m.row * 64 + m.cls) (u.clu c).fw = m.fw ∧ u.mem = s.mem ∧
      ∀ x, (s.clu c).slices = [x] → x.st = .provRun → x.late = false → u.firm c x.key = true →
        ∃ y, (u.clu c).slices = [y] ∧ y.key = x.key ∧ y.st = .firmRun := by
  refine ⟨_, execWatermarkReceive_eq hq hd hm, ?_⟩
  have hclu : ((s.at t).watermarked c m rest).clu c =
      { s.clu c with pw := sset 0 m.row m.pw (s.clu c).pw, fw := sset 0 (m.row * 64 + m.cls) m.fw (s.clu c).fw } := by
    rw [State.watermarked, State.clu_setClu, if_pos rfl]
    rfl
  have hmem : ((s.at t).watermarked c m rest).mem = s.mem := rfl
  generalize (s.at t).watermarked c m rest = v at *
  have hj := v.judging_slicesMove c
  have ha := ((v.slicesMove c).pruneCopies c).asking_wakeCheck c.isLt
  have hslices : (((v.slicesMove c).pruneCopies c).clu c).slices = ((v.slicesMove c).clu c).slices := by
    rw [State.pruneCopies, State.clu_setClu, if_pos rfl]
  generalize (v.slicesMove c).pruneCopies c = w at *
  generalize w.wakeCheck c = u at *
  refine ⟨?_, ?_, ?_, fun x hx hs hl hf => ?_⟩
  · rw [ha.clu, hj.pw, hclu]
    exact sget_sset_self ..
  · rw [ha.clu, hj.fw, hclu]
    exact sget_sset_self ..
  · obtain ⟨⟨clus, rfl⟩, _⟩ := hj
    exact ha.mem.trans hmem
  · have hfirm : u.firm c x.key = v.firm c x.key := by
      refine State.firm_congr (by rw [ha.clu, hj.progs]) (by rw [ha.clu, hj.fw]) ?_ ?_ ?_ ?_ x.key
      all_goals obtain ⟨⟨clus, rfl⟩, _⟩ := hj
      · exact ha.rows
      · exact ha.rowIn c.isLt
      · exact ha.reg _ (by simp only [oMst, oDom, oPwr]; omega)
      · exact ha.reg _ (by simp only [oTmg, oDom, oPwr]; omega)
    rw [ha.clu, hslices]
    exact State.slicesMove_firm (by rw [hclu]; exact hx) hs hl (hfirm.symm.trans hf)

/-- Settles O20: a copy that is kept stands behind its slice's new descriptor, and a watermark that a cluster takes decides on its slices. -/
theorem copiesAndWatermarksMoveSlices : Obligations.CopiesAndWatermarksMoveSlices :=
  ⟨fun _ _ _ _ _ hq hd => ⟨dispatchWordArrival_makes hq hd, dispatchWordArrival_marks hq hd⟩,
    fun _ _ _ _ _ hq hd hm => watermarkReceive_moves hq hd hm⟩

end Sys2Proof.Machine
end

section
/-! PROOFS. A slice whose holder is no context of any core, and the count of its commit (O22). -/

namespace Sys2Proof.Machine

/-- The shadow register of a context 5642 of core 0 would lie on the counter of cluster 1's commits: CTX_SHADOW is placed by the number
of its context, and only the numbers 0 to 3 keep it among the registers of its core. -/
theorem oShadow_eq_commitCount : oShadow 0 5642 = oCnt 1 0x3110 := by decide

def strayKey : SliceKey := { region := 0, idx := 0 }

/-- A slice that has ended, held by a context that core 0 does not have. -/
def straySlice : Slice := { newSlice strayKey with ended := true, holder := some (0, 5642) }

/-- Cluster 1 has counted 2^43 commits and holds the slice, whose program the context runs. -/
def strayState : State :=
  ({ State.reset with regs := [(oCnt 1 0x3110, BitVec.ofNat 64 (2 ^ 43))] }.setClu 1 { CluSt.reset with slices := [straySlice] }).setCtx
    0 5642 { CtxSt.reset with slices := [strayKey], prog := some strayKey }

/-- The count of cluster 1's commits after a command. -/
def commitsAfter : Out → Nat
  | .next u => (u.reg (oCnt 1 0x3110)).toNat
  | _ => 0

theorem canCommit_stray : strayState.canCommit 1 straySlice = true := by decide +kernel

/-- The commit empties the shadow stack of the holder (R264) after it has been counted: bits [55:43] of the count are cleared. -/
theorem commitsAfter_stray : commitsAfter (exec (.sliceCommit 0 1 strayKey) strayState) = 1 := by decide +kernel

/-- Refutes O22: the statement takes every holder, and that of `strayState` is context 5642 of core 0. Its commit clears the top of the
count that the statement has raised to 2^43 + 1. -/
theorem not_slicesEndOrUnravel : ¬ Obligations.SlicesEndOrUnravel := by
  intro h
  obtain ⟨ends, -⟩ := h
  obtain ⟨commits, -⟩ := ends 0 1 strayState straySlice rfl
  obtain ⟨u, e, -, -, -, -, counted⟩ := commits canCommit_stray
  have cleared : (u.reg (oCnt 1 0x3110)).toNat = 1 := by
    have h1 := commitsAfter_stray
    rw [show exec (.sliceCommit 0 1 strayKey) strayState = .next u from e] at h1
    exact h1
  have raised : min (2 ^ 64 - 1) ((strayState.reg (oCnt 1 0x3110)).toNat + 1) = 2 ^ 43 + 1 := by decide
  rw [show (u.reg (oCnt ((1 : ClusterId) : Nat) 0x3110)).toNat = 1 from cleared] at counted
  exact absurd (counted.trans raised) (by decide)

end Sys2Proof.Machine
end

section
/-! PROOFS. The elastic buffer and the pipeline of a stitch, and a stitch that fails its check (O13). -/

namespace Sys2Proof.Machine

open Sys2Proof.Claims

/-! ### What the times of a stitch depend on

The kind of a port and the corrected times of its blocks read the format descriptors, the registers as of the last cast-on, the frame and
PRT_CTL (R51, R58): counters and what the port holds do not reach them. -/

structure State.SameTimes (p : Nat) (s u : State) : Prop where
  eff : u.eff = s.eff
  frame : u.frame = s.frame
  ctl : u.reg (oPort p 0) = s.reg (oPort p 0)
  reg : ∀ o, o < 0x200000 → u.reg o = s.reg o

section
variable {p : Nat} {s u : State}

theorem State.SameTimes.refl (p : Nat) (s : State) : State.SameTimes p s s := ⟨rfl, rfl, rfl, fun _ _ => rfl⟩

theorem State.SameTimes.at (h : State.SameTimes p s u) (t : Time) : State.SameTimes p s (u.at t) := ⟨h.eff, h.frame, h.ctl, h.reg⟩

theorem State.SameTimes.setPort (h : State.SameTimes p s u) (q : Nat) (x : PortSt) : State.SameTimes p s (u.setPort q x) :=
  ⟨h.eff, h.frame, h.ctl, h.reg⟩

/-- A counter of the port (Table 2.18). -/
theorem State.SameTimes.bump (h : State.SameTimes p s u) {n : Nat} (hn : n ≠ 0) : State.SameTimes p s (u.bump (oPort p n)) := by
  refine ⟨h.eff, h.frame, ?_, fun o ho => ?_⟩
  · rw [State.bump, State.reg_bumpN, if_neg (by unfold oPort; omega), h.ctl]
  · rw [State.bump, State.reg_bumpN, if_neg (by unfold oPort; omega), h.reg o ho]

theorem State.SameTimes.effNow (h : State.SameTimes p s u) {o : Nat} (ho : u.reg o = s.reg o) : u.effNow o = s.effNow o := by
  rw [State.effNow, State.effNow, State.effReg, State.effReg, h.eff, h.frame, ho]

theorem State.SameTimes.descA (h : State.SameTimes p s u) : u.descA p = s.descA p := by
  have hb := bf_lt (s.effNow (oPort p 0)) 11 8
  rw [State.descA, State.descA, h.effNow h.ctl, h.effNow (h.reg _ (by unfold oFmt; omega))]

theorem State.SameTimes.descB (h : State.SameTimes p s u) : u.descB p = s.descB p := by
  have hb := bf_lt (s.effNow (oPort p 0)) 11 8
  rw [State.descB, State.descB, h.effNow h.ctl, h.effNow (h.reg _ (by unfold oFmt; omega))]

theorem State.SameTimes.isHit (h : State.SameTimes p s u) : u.isHit p = s.isHit p := by rw [State.isHit, State.isHit, h.descA]

theorem State.SameTimes.isReadout (h : State.SameTimes p s u) : u.isReadout p = s.isReadout p := by
  rw [State.isReadout, State.isReadout, h.descA]

theorem State.SameTimes.entryTime (h : State.SameTimes p s u) (e : Elastic) : u.entryTime p e = s.entryTime p e := by
  have hc : u.corr p = s.corr p := by
    have he (o : Nat) : u.effReg o = s.effReg o := congrArg (sget (regReset o) o) h.eff
    rw [State.corr, State.corr, he, he, h.descB]
  simp only [State.entryTime, h.descA, h.descB, hc]

theorem State.SameTimes.startFine (h : State.SameTimes p s u) : u.startFine = s.startFine := by
  rw [State.startFine, State.startFine, h.frame]

theorem State.SameTimes.stopFine (h : State.SameTimes p s u) : u.stopFine = s.stopFine := by
  rw [State.stopFine, State.stopFine, h.startFine, State.lenL, State.lenL, State.field, State.field, h.reg _ (by decide)]

theorem State.SameTimes.judge (h : State.SameTimes p s u) (e : Elastic) : u.judge p e = s.judge p e := by
  rw [State.judge, State.judge, h.entryTime, h.stopFine, h.frame]

theorem State.SameTimes.classify (h : State.SameTimes p s u) (hp : (u.port p).portTime = (s.port p).portTime) (t : Int) :
    u.classify p t = s.classify p t := by
  rw [State.classify, State.classify, hp, h.startFine, h.stopFine]

end

/-! ### The elastic buffer (R36, R66, R68) -/

/-- A TICK behind a TICK takes its place. -/
theorem State.bufPut_of_tick {s : State} {p : Nat} {e old : Elastic} {l : List Elastic} (he : e.data = false)
    (hb : (s.port p).buf = l ++ [old]) (ho : old.data = false) :
    s.bufPut p e = s.setPort p { s.port p with buf := l ++ [e] } := by
  simp [State.bufPut, hb, he, ho]

/-- A block that takes no other's place joins the buffer, or is counted where the buffer is full. -/
theorem State.bufPut_of_other {s : State} {p : Nat} {e : Elastic} (h : e.data = true ∨ ¬ tickNewest (s.port p).buf) :
    s.bufPut p e =
      if (s.port p).buf.length < 3125 then s.setPort p { s.port p with buf := (s.port p).buf ++ [e] }
      else if (s.port p).ovfRec then s.bump (oPort p 0x148)
      else ((s.bump (oPort p 0x148)).setPort p { s.port p with ovfRec := true }).err 1 0 p 3 0 := by
  unfold State.bufPut
  extract_lets x tickLast u
  have ht : (!e.data && tickLast) = false := by
    rcases h with he | hn
    · rw [he]; rfl
    · have hlast : tickLast = false := by
        by_contra hc
        unfold tickLast at hc
        split at hc
        next old hl =>
          obtain ⟨m, hm⟩ := List.getLast?_eq_some_iff.1 hl
          exact hn ⟨m, old, hm, by simpa using hc⟩
        next => exact hc rfl
      rw [hlast, Bool.and_false]
  rw [ht, if_neg Bool.false_ne_true]
  rfl

theorem State.bufPut_of_room {s : State} {p : Nat} {e : Elastic} (h : e.data = true ∨ ¬ tickNewest (s.port p).buf)
    (hl : (s.port p).buf.length < 3125) : s.bufPut p e = s.setPort p { s.port p with buf := (s.port p).buf ++ [e] } := by
  rw [State.bufPut_of_other h, if_pos hl]

/-- A full buffer keeps what it holds, and the block is counted. -/
theorem State.bufPut_of_full {s : State} {p : Nat} {e : Elastic} (h : e.data = true ∨ ¬ tickNewest (s.port p).buf)
    (hl : 3125 ≤ (s.port p).buf.length) : ((s.bufPut p e).port p).buf = (s.port p).buf ∧
      ((s.bufPut p e).reg (oPort p 0x148)).toNat = min (2 ^ 64 - 1) ((s.reg (oPort p 0x148)).toNat + 1) := by
  rw [State.bufPut_of_other h, if_neg (Nat.not_lt.2 hl)]
  split
  · exact ⟨rfl, by rw [State.bump, State.reg_bumpN, if_pos rfl, toNat_count]⟩
  · exact ⟨by simp, by rw [State.reg_err_other, State.reg_setPort_other, State.bump, State.reg_bumpN, if_pos rfl, toNat_count]⟩

/-- The buffer is the port's own. -/
theorem State.bufPut_frame (s : State) (p : Nat) (e : Elastic) :
    (s.bufPut p e).mem = s.mem ∧ ∀ q : Nat, q ≠ p → (s.bufPut p e).port q = s.port q := by
  have hb : (s.bump (oPort p 0x148)).mem = s.mem ∧ ∀ q : Nat, q ≠ p → (s.bump (oPort p 0x148)).port q = s.port q :=
    ⟨State.bump_mem .., fun q _ => State.port_bump_other ..⟩
  unfold State.bufPut
  extract_lets x tickLast u
  split
  · exact ⟨rfl, fun q hq => by rw [State.port_setPort, if_neg hq]⟩
  · split
    · exact ⟨rfl, fun q hq => by rw [State.port_setPort, if_neg hq]⟩
    · split
      · exact hb
      · refine ⟨by rw [State.err_mem, State.setPort_mem, hb.1], fun q hq => ?_⟩
        rw [State.port_err_other, State.port_setPort, if_neg hq, hb.2 q hq]

/-! ### Blocks at the entry stage -/

/-- A valid block other than TRAIN has been counted. -/
def State.heardBlock (s : State) (t : Time) (p : Nat) : State := (s.at t).heard p false

theorem State.heardBlock_port (s : State) (t : Time) (p q : Nat) :
    (s.heardBlock t p).port q = if q = p then { s.port p with trainRx := 0, trainAck := 0 } else s.port q :=
  ((s.at t).bump (oPort p 0x100)).port_setPort p q _

theorem State.heardBlock_reg (s : State) (t : Time) (p : Nat) {o : Nat} (ho : o ≠ oPort p 0x100) :
    (s.heardBlock t p).reg o = s.reg o := ((s.at t).reg_bumpN (oPort p 0x100) o 1).trans (if_neg ho)

theorem State.sameTimes_heardBlock (s : State) (t : Time) (p : Nat) : State.SameTimes p s (s.heardBlock t p) :=
  (((State.SameTimes.refl p s).at t).bump (by decide)).setPort p _

theorem execHitBlock_eq {t : Time} {p : PortId} {block : Word} {s : State} (hh : (s.port p).hears = true) (hi : s.isHit p = true)
    (hc : dCheck (s.descA p) = 1 → crc8 block = bf block 7 0) :
    exec (.hitBlock t p block) s = .next ((s.heardBlock t p).entryStage p (dataEntry t block)) := by
  have hok : ¬ (dCheck ((s.at t).descA p) = 1 ∧ crc8 block ≠ bf block 7 0) := fun h => h.2 (hc h.1)
  have hi : ((s.at t).heard p false).isHit p = true := (s.sameTimes_heardBlock t p).isHit.trans hi
  show execHitBlock t p block s = _
  rw [execHitBlock, whenHears, if_pos (show ((s.at t).port p).hears = true from hh), if_neg hok]
  dsimp only
  rw [if_pos hi]
  rfl

theorem execTick_eq {t : Time} {p : PortId} {raw : BitVec 28} {s : State} (hh : (s.port p).hears = true) (hr : s.isReadout p = false) :
    exec (.tick t p raw) s = .next ((s.heardBlock t p).entryStage p (tickEntry t raw)) := by
  have hr : (s.at t).isReadout p = false := hr
  show execTick t p raw s = _
  rw [execTick, whenHears, if_pos (show ((s.at t).port p).hears = true from hh)]
  rw [hr]
  rfl

theorem PortSt.hears_of_link {x : PortSt} (h : x.link = .ready ∨ x.link = .up) : x.hears = true := by
  obtain h | h := h <;> simp [PortSt.hears, h]

/-- The open stitch of an UP port stores what reaches it. -/
theorem State.entryStage_of_open {s : State} {p : Nat} (e : Elastic) (hl : (s.port p).link = .up) (ho : (s.port p).closed = false) :
    s.entryStage p e = s.bufPut p e := if_pos ⟨hl, ho⟩

/-- What the judgement of a block calls for (R67). -/
def State.judged (s : State) (p : Nat) (e : Elastic) : Judge → State
  | .late => s.bump (oPort p 0x140)
  | .gap => s.bump (oPort p 0x138)
  | .store => s.bufPut p e

/-- A closed stitch, or one in READY, judges it (R67). -/
theorem State.entryStage_of_shut {s : State} {p : Nat} (e : Elastic)
    (h : (s.port p).link = .ready ∨ (s.port p).link = .up ∧ (s.port p).closed = true) :
    s.entryStage p e = s.judged p e (s.judge p e) := by
  have hn : ¬ ((s.port p).link = .up ∧ (s.port p).closed = false) := by
    rintro ⟨hu, hc⟩
    obtain hr | ⟨-, hc'⟩ := h
    · rw [hr] at hu; cases hu
    · rw [hc] at hc'; cases hc'
  have hs : (s.port p).link = .up ∨ (s.port p).link = .ready ∨ (s.port p).link = .dead := by
    obtain hr | ⟨hu, -⟩ := h
    exacts [.inr (.inl hr), .inl hu]
  have hd : (s.port p).link ≠ .dead := by
    obtain hr | ⟨hu, -⟩ := h <;> simp [*]
  unfold State.entryStage
  extract_lets x
  rw [if_neg hn, if_pos hs]
  cases s.judge p e with
  | late => rfl
  | gap => rfl
  | store => exact if_neg hd

/-- A block that has been counted and takes no other's place. -/
theorem State.heardBlock_bufPut (s : State) (t : Time) (p : Nat) {e : Elastic} (h : e.data = true ∨ ¬ tickNewest (s.port p).buf) :
    ((s.port p).buf.length < 3125 → (((s.heardBlock t p).bufPut p e).port p).buf = (s.port p).buf ++ [e] ∧
      SameRegs (· = oPort p 0x100) s ((s.heardBlock t p).bufPut p e)) ∧
    (3125 ≤ (s.port p).buf.length → (((s.heardBlock t p).bufPut p e).port p).buf = (s.port p).buf ∧
      (((s.heardBlock t p).bufPut p e).reg (oPort p 0x148)).toNat = min (2 ^ 64 - 1) ((s.reg (oPort p 0x148)).toNat + 1)) := by
  have hb : ((s.heardBlock t p).port p).buf = (s.port p).buf := by rw [s.heardBlock_port, if_pos rfl]
  rw [← hb] at h ⊢
  refine ⟨fun hl => ?_, fun hl => ?_⟩
  · rw [State.bufPut_of_room h hl]
    refine ⟨by rw [State.port_setPort, if_pos rfl], fun o ho => ?_⟩
    rw [State.reg_setPort_other, s.heardBlock_reg t p ho]
  · rw [← s.heardBlock_reg t p (o := oPort p 0x148) (by unfold oPort; omega)]
    exact State.bufPut_of_full h hl

theorem State.heardBlock_bufPut_frame (s : State) (t : Time) (p : Nat) (e : Elastic) :
    ((s.heardBlock t p).bufPut p e).mem = s.mem ∧ ∀ q : Nat, q ≠ p → ((s.heardBlock t p).bufPut p e).port q = s.port q := by
  obtain ⟨hm, hq⟩ := (s.heardBlock t p).bufPut_frame p e
  exact ⟨hm, fun q h => (hq q h).trans ((s.heardBlock_port t p q).trans (if_neg h))⟩

theorem State.heardBlock_open {s : State} {t : Time} {p : Nat} (e : Elastic) (hl : (s.port p).link = .up)
    (ho : (s.port p).closed = false) : (s.heardBlock t p).entryStage p e = (s.heardBlock t p).bufPut p e := by
  have hp := (s.heardBlock_port t p p).trans (if_pos rfl)
  exact State.entryStage_of_open e (by rw [hp]; exact hl) (by rw [hp]; exact ho)

theorem hitBlock_joins {t : Time} {p : PortId} {block : Word} {s : State} (hl : (s.port p).link = .up) (hi : s.isHit p = true)
    (ho : (s.port p).closed = false) (hc : dCheck (s.descA p) = 1 → crc8 block = bf block 7 0) :
    Completes (.hitBlock t p block) s fun u =>
      ((s.port p).buf.length < 3125 → (u.port p).buf = (s.port p).buf ++ [dataEntry t block] ∧ SameRegs (· = oPort p 0x100) s u) ∧
      (3125 ≤ (s.port p).buf.length → (u.port p).buf = (s.port p).buf ∧
        (u.reg (oPort p 0x148)).toNat = min (2 ^ 64 - 1) ((s.reg (oPort p 0x148)).toNat + 1)) ∧
      u.mem = s.mem ∧ (∀ q : Nat, q ≠ p.val → u.port q = s.port q) := by
  refine ⟨_, execHitBlock_eq (PortSt.hears_of_link (.inr hl)) hi hc, ?_⟩
  rw [State.heardBlock_open _ hl ho]
  obtain ⟨room, full⟩ := s.heardBlock_bufPut t p (e := dataEntry t block) (.inl rfl)
  exact ⟨room, full, s.heardBlock_bufPut_frame t p _⟩

theorem tick_joins {t : Time} {p : PortId} {raw : BitVec 28} {s : State} (hl : (s.port p).link = .up) (hr : s.isReadout p = false)
    (ho : (s.port p).closed = false) :
    Completes (.tick t p raw) s fun u =>
      (∀ l old, (s.port p).buf = l ++ [old] → old.data = false → (u.port p).buf = l ++ [tickEntry t raw]) ∧
      (¬ tickNewest (s.port p).buf → (s.port p).buf.length < 3125 → (u.port p).buf = (s.port p).buf ++ [tickEntry t raw]) ∧
      (¬ tickNewest (s.port p).buf → 3125 ≤ (s.port p).buf.length → (u.port p).buf = (s.port p).buf ∧
        (u.reg (oPort p 0x148)).toNat = min (2 ^ 64 - 1) ((s.reg (oPort p 0x148)).toNat + 1)) ∧
      u.mem = s.mem ∧ (∀ q : Nat, q ≠ p.val → u.port q = s.port q) := by
  refine ⟨_, execTick_eq (PortSt.hears_of_link (.inr hl)) hr, ?_⟩
  rw [State.heardBlock_open _ hl ho]
  have other := fun h => s.heardBlock_bufPut t p (e := tickEntry t raw) (.inr h)
  refine ⟨fun l old hb hd => ?_, fun h => fun hn => ((other h).1 hn).1, fun h => (other h).2, s.heardBlock_bufPut_frame t p _⟩
  have hb : ((s.heardBlock t p).port p).buf = l ++ [old] := by rw [s.heardBlock_port, if_pos rfl]; exact hb
  rw [State.bufPut_of_tick rfl hb hd, State.port_setPort, if_pos rfl]

theorem hitBlock_judged {t : Time} {p : PortId} {block : Word} {s : State}
    (hl : (s.port p).link = .ready ∨ (s.port p).link = .up ∧ (s.port p).closed = true) (hi : s.isHit p = true)
    (hc : dCheck (s.descA p) = 1 → crc8 block = bf block 7 0) :
    Completes (.hitBlock t p block) s fun u =>
      (s.judge p (dataEntry t block) = .late → (u.port p).buf = (s.port p).buf ∧
        (u.reg (oPort p 0x140)).toNat = min (2 ^ 64 - 1) ((s.reg (oPort p 0x140)).toNat + 1)) ∧
      (s.judge p (dataEntry t block) = .gap → (u.port p).buf = (s.port p).buf ∧
        (u.reg (oPort p 0x138)).toNat = min (2 ^ 64 - 1) ((s.reg (oPort p 0x138)).toNat + 1)) ∧
      (s.judge p (dataEntry t block) = .store → (s.port p).buf.length < 3125 →
        (u.port p).buf = (s.port p).buf ++ [dataEntry t block]) ∧ u.mem = s.mem := by
  refine ⟨_, execHitBlock_eq (PortSt.hears_of_link (hl.imp_right And.left)) hi hc, ?_⟩
  have hp := (s.heardBlock_port t p p).trans (if_pos rfl)
  rw [State.entryStage_of_shut _ (by rw [hp]; exact hl), (s.sameTimes_heardBlock t p).judge]
  have counted (n : Nat) (hn : n ≠ 0x100) : (((s.heardBlock t p).bump (oPort p n)).port p).buf = (s.port p).buf ∧
      (((s.heardBlock t p).bump (oPort p n)).reg (oPort p n)).toNat = min (2 ^ 64 - 1) ((s.reg (oPort p n)).toNat + 1) := by
    rw [State.port_bump_other, hp, State.bump, State.reg_bumpN, if_pos rfl, toNat_count,
      s.heardBlock_reg t p (by unfold oPort; omega)]
    exact ⟨rfl, rfl⟩
  cases s.judge p (dataEntry t block) with
  | late => exact ⟨fun _ => counted 0x140 (by decide), nofun, nofun, State.bump_mem ..⟩
  | gap => exact ⟨nofun, fun _ => counted 0x138 (by decide), nofun, State.bump_mem ..⟩
  | store =>
    obtain ⟨room, -⟩ := s.heardBlock_bufPut t p (e := dataEntry t block) (.inl rfl)
    exact ⟨nofun, nofun, fun _ hn => (room hn).1, (s.heardBlock_bufPut_frame t p _).1⟩

/-! ### A TICK in the stitch pipeline -/

/-- The head block of the buffer is presented (R66). -/
def State.present (s : State) (t : Time) (p : Nat) (e : Elastic) : State :=
  (s.at t).setPort p { s.port p with shown := t, delay := (s.port p).delay.or (some (min 1966080 (t - e.arr * fineT))) }

theorem execStitchPipeline_eq {t : Time} {p : PortId} {s : State} {e : Elastic} {l : List Elastic} (h : PresentsTick t p s e l) :
    exec (.stitchPipeline t p false) s = .next ((s.present t p e).pipeline p e) := by
  obtain ⟨hb, -, hl, hc, hcast, hpres, hheld, hha⟩ := h
  have hphase : s.frame.phase ≠ .idle := by
    intro hi
    simp [State.castOn, hi] at hcast
  have hopen : (s.at t).stitchOpen p = true := by
    simp [State.stitchOpen, hl, hc, hphase]
  have hha' : (s.present t p e).haOn 0 (p.val / 16) = false := hha
  show execStitchPipeline t p false s = _
  unfold execStitchPipeline
  extract_lets v x
  have hheld : x.held = [] := hheld
  have hb : x.buf = e :: l := hb
  rw [if_neg Bool.false_ne_true]
  split
  next hx => cases hheld.symm.trans hx
  next hx => cases hb.symm.trans hx
  next hx =>
    cases hb.symm.trans hx
    rw [if_pos ⟨hopen, hpres⟩]
    exact if_neg (ne_true_of_eq_false hha')

/-- What a TICK of a class does in the pipeline (R50, R63, R64). -/
def State.tickStep (s : State) (p : Nat) (e : Elastic) : Class → State
  | .order => (s.bump (oPort p 0x130)).setPort p { s.port p with buf := (s.port p).buf.drop 1 }
  | .gap => (s.bump (oPort p 0x138)).setPort p { s.port p with buf := (s.port p).buf.drop 1 }
  | .close => s.closeByTime p e 5
  | .pass => ((s.advance p (s.entryTime p e)).setPort p
      { (s.advance p (s.entryTime p e)).port p with buf := (s.port p).buf.drop 1 }).reportTime p 5

theorem State.pipeline_tick {s : State} {p : Nat} {e : Elastic} (he : e.data = false) :
    s.pipeline p e = s.tickStep p e (s.classify p (s.entryTime p e)) := by
  rw [State.pipeline, if_neg (by rw [he]; exact Bool.false_ne_true)]
  dsimp only
  cases s.classify p (s.entryTime p e) <;> rfl

/-- What a stitch sends its row (R63, R85). -/
theorem State.row_portToRow (s : State) (p cycles : Nat) (x : RowIn) :
    ((s.portToRow p cycles x).row (p / 16)).inbox = insertDue (s.now + cycles * stitchT, p % 16, x) (s.row (p / 16)).inbox := by
  rw [State.portToRow, State.toRow, State.row_setRow, if_pos rfl]

theorem State.port_portToRow (s : State) (p cycles : Nat) (x : RowIn) (q : Nat) : (s.portToRow p cycles x).port q = s.port q := rfl

section
variable {t : Time} {p : PortId} {s : State} {e : Elastic} {l : List Elastic} (h : PresentsTick t p s e l)
include h

theorem present_pipeline {c : Class} (hc : s.classify p (s.entryTime p e) = c) {Q : State → Prop}
    (hq : (s.present t p e).classify p (s.entryTime p e) = c → (s.present t p e).entryTime p e = s.entryTime p e →
      ((s.present t p e).port p).buf = e :: l → ((s.present t p e).port p).portTime = (s.port p).portTime →
      Q ((s.present t p e).pipeline p e)) : Completes (.stitchPipeline t p false) s Q := by
  have ht : State.SameTimes p s (s.present t p e) := ((State.SameTimes.refl p s).at t).setPort p _
  have hp : (s.present t p e).port p = _ := ((s.at t).port_setPort p p _).trans (if_pos rfl)
  refine ⟨_, execStitchPipeline_eq h, hq ?_ (ht.entryTime e) ?_ ?_⟩
  · rw [ht.classify (by rw [hp]), hc]
  · rw [hp]
    exact h.1
  · rw [hp]

theorem tick_passes (hc : s.classify p (s.entryTime p e) = .pass) :
    Completes (.stitchPipeline t p false) s fun u =>
      (u.port p).portTime = some (s.entryTime p e) ∧ (u.port p).buf = l ∧ u.regs = s.regs ∧ u.mem = s.mem ∧
      (u.row (p.val / 16)).inbox =
        insertDue (t + 5 * stitchT, p.val % 16, .time (((s.entryTime p e - s.startFine) * 16).toNat)) (s.row (p.val / 16)).inbox := by
  refine present_pipeline h hc fun hc ht hb _ => ?_
  rw [State.pipeline_tick h.2.1, ht, hc, State.tickStep, State.reportTime, State.port_setPort, if_pos rfl, State.advance,
    State.port_setPort, if_pos rfl, hb]
  dsimp only
  rw [State.port_portToRow, State.row_portToRow, State.port_setPort, if_pos rfl]
  exact ⟨rfl, rfl, rfl, rfl, rfl⟩

theorem tick_dropped {c : Class} {n : Nat} (hn : c = .order ∧ n = 0x130 ∨ c = .gap ∧ n = 0x138)
    (hc : s.classify p (s.entryTime p e) = c) :
    Completes (.stitchPipeline t p false) s fun u =>
      (u.port p).portTime = (s.port p).portTime ∧ (u.port p).buf = l ∧ u.rows = s.rows ∧ u.mem = s.mem ∧
      (u.reg (oPort p n)).toNat = min (2 ^ 64 - 1) ((s.reg (oPort p n)).toNat + 1) := by
  refine present_pipeline h hc fun hc ht hb hpt => ?_
  have hd : (s.present t p e).pipeline p e =
      ((s.present t p e).bump (oPort p n)).setPort p { (s.present t p e).port p with buf := l } := by
    rw [State.pipeline_tick h.2.1, ht, hc]
    obtain ⟨rfl, rfl⟩ | ⟨rfl, rfl⟩ := hn <;> rw [State.tickStep, hb, List.drop_one, List.tail_cons]
  rw [hd, State.port_setPort, if_pos rfl, State.reg_setPort_other, State.bump, State.reg_bumpN, if_pos rfl, toNat_count]
  exact ⟨hpt, rfl, rfl, rfl, rfl⟩

theorem tick_closes (hc : s.classify p (s.entryTime p e) = .close) :
    Completes (.stitchPipeline t p false) s fun u =>
      (u.port p).closed = true ∧ (u.port p).buf = e :: l ∧ u.regs = s.regs ∧ u.mem = s.mem ∧
      (u.row (p.val / 16)).inbox = insertDue (t + 5 * stitchT, p.val % 16, .close) (s.row (p.val / 16)).inbox := by
  refine present_pipeline h hc fun hc ht hb _ => ?_
  rw [State.pipeline_tick h.2.1, ht, hc, State.tickStep, State.closeByTime, hb,
    State.port_portToRow, State.row_portToRow, State.port_setPort, if_pos rfl]
  exact ⟨rfl, rfl, rfl, rfl, rfl⟩

end

/-! ### A stitch that fails (R581)

What a port's departure and its discarded commands write: registers below those of the queues, the port, its row and error events. -/

structure State.Leaving (p : Nat) (s₀ s : State) : Prop where
  mem : s.mem = s₀.mem
  failed : (s.port p).failed = (s₀.port p).failed
  errs : s₀.errs <+: s.errs
  events : s.activeQueues 5 = s₀.activeQueues 5

section
variable {p : PortId} {s₀ s : State}

theorem State.Leaving.refl (p : Nat) (s : State) : State.Leaving p s s := ⟨rfl, rfl, List.prefix_rfl, rfl⟩

theorem State.Leaving.setPort (h : State.Leaving p s₀ s) {x : PortSt} (hx : x.failed = (s.port p).failed := by exact rfl) :
    State.Leaving p s₀ (s.setPort p x) :=
  ⟨h.mem, by rw [State.port_setPort, if_pos rfl, hx, h.failed], h.errs, h.events⟩

theorem State.Leaving.setReg (h : State.Leaving p s₀ s) {o : Nat} {v : Word} (ho : o < oQue 0x100000) : State.Leaving p s₀ (s.setReg o v) :=
  ⟨h.mem, h.failed, h.errs, (s.activeQueues_setReg v 5 ho).trans h.events⟩

theorem oPort_lt (p : PortId) {n : Nat} (hn : n < 0x200) : oPort p n < oQue 0x100000 := by
  have hp := p.isLt
  unfold oPort oQue
  omega

theorem State.Leaving.bumpN (h : State.Leaving p s₀ s) {o n : Nat} (ho : o < 0x200 := by decide) :
    State.Leaving p s₀ (s.bumpN (oPort p o) n) := h.setReg (oPort_lt p ho)

theorem State.Leaving.bump (h : State.Leaving p s₀ s) {o : Nat} (ho : o < 0x200 := by decide) : State.Leaving p s₀ (s.bump (oPort p o)) :=
  h.bumpN ho

theorem State.Leaving.errWith (h : State.Leaving p s₀ s) {cls src unit code slot d4 d5 d6 d7 : Nat} {cause : Option Nat} :
    State.Leaving p s₀ (s.errWith cls src unit code slot d4 d5 d6 d7 cause) :=
  ⟨h.mem, h.failed, h.errs.trans (List.prefix_append ..), h.events⟩

theorem State.Leaving.portReef (h : State.Leaving p s₀ s) : State.Leaving p s₀ (s.portReef p) :=
  (h.setReg (o := oMst 0x30) (by decide)).setReg (oPort_lt p (by decide))

theorem State.Leaving.portToRow (h : State.Leaving p s₀ s) {cycles : Nat} {x : RowIn} : State.Leaving p s₀ (s.portToRow p cycles x) :=
  ⟨h.mem, h.failed, h.errs, h.events⟩

theorem State.Leaving.ite {c : Prop} {_ : Decidable c} {a b : State} (ha : State.Leaving p s₀ a) (hb : State.Leaving p s₀ b) :
    State.Leaving p s₀ (if c then a else b) := by split <;> assumption

theorem State.Leaving.emptyBuf (h : State.Leaving p s₀ s) : State.Leaving p s₀ (s.emptyBuf p) :=
  .setPort (List.foldlRecOn _ _ (motive := State.Leaving p s₀) h fun _ hu _ _ => .ite hu.bump hu.bump)

theorem State.Leaving.departUp (h : State.Leaving p s₀ s) : State.Leaving p s₀ (s.departUp p true) := by
  have hb : State.Leaving p s₀ (s.bump (oPort p 0x158)) := h.bump
  unfold State.departUp
  extract_lets x u v w
  have hv : State.Leaving p s₀ v := .ite hb hb.portReef.portToRow
  have hw : State.Leaving p s₀ w := .ite (.ite hv hv.errWith) hb
  refine .ite ?_ ?_
  · split
    · exact .ite hb.errWith hb
    · exact hb
  · clear_value w
    exact hw.setPort.emptyBuf

theorem State.Leaving.discardCmds (h : State.Leaving p s₀ s) {l : Link} : State.Leaving p s₀ (s.discardCmds p l) := h.setPort.bumpN

/-- With no queue to tell of it, a port that enters DEAD keeps its failure, and nothing but its departure is done. -/
theorem State.enter_dead (hq : noEvents s) : ((s.enter p .dead true).port p).link = .dead ∧ State.Leaving p s (s.enter p .dead true) := by
  unfold State.enter
  extract_lets u v x y hit w w'
  have hu : State.Leaving p s u := .ite (State.Leaving.refl p s).departUp (.refl p s)
  have hv : State.Leaving p s v := hu.discardCmds
  have hy : y.failed = (v.port p).failed := rfl
  clear_value u v
  have hw : State.Leaving p s w := hv.setPort hy
  have he : w.portEvent p = w := State.event_none (hw.events.trans hq) ..
  have hl : (w.port p).link = .dead := by rw [State.port_setPort, if_pos rfl]
  have hw' : w' = w := if_neg (by decide)
  rw [hw', he]
  exact ⟨hl, hw⟩

end

theorem stitchPipeline_fails {t : Time} {p : PortId} {s : State} (hl : (s.port p).link ≠ .off) (hq : noEvents s) :
    Completes (.stitchPipeline t p true) s fun u =>
      (u.port p).link = .dead ∧ (u.port p).failed = true ∧ u.mem = s.mem ∧
      ∃ e ∈ u.errs, e.num = s.errNum ∧ e.cls = 2 ∧ e.src = 0 ∧ e.unit = p.val ∧ e.code = 8 := by
  refine ⟨(s.at t).stitchFail p, rfl, ?_⟩
  unfold State.stitchFail
  extract_lets u x v w
  have hv : (v.port p).failed = true ∧ (v.port p).link = (s.port p).link := by rw [State.port_setPort, if_pos rfl]; exact ⟨rfl, rfl⟩
  have hm : v.mem = s.mem := rfl
  have hn : noEvents v := hq
  have he : ∃ e ∈ v.errs, e.num = s.errNum ∧ e.cls = 2 ∧ e.src = 0 ∧ e.unit = p.val ∧ e.code = 8 :=
    ⟨_, List.mem_concat_self, rfl, rfl, rfl, rfl, rfl⟩
  have hw : State.Leaving p v w := .ite (State.Leaving.refl p v).portReef (.refl p v)
  have hwl : (w.port p).link = (v.port p).link := by
    unfold w
    split
    exacts [rfl, rfl]
  clear_value v w
  rw [if_neg (by rw [hwl, hv.2]; exact hl)]
  obtain ⟨hd, hx⟩ := State.enter_dead (p := p) (hw.events.trans hn)
  obtain ⟨e, hmem, hfields⟩ := he
  exact ⟨hd, hx.failed.trans (hw.failed.trans hv.1), hx.mem.trans (hw.mem.trans hm), e, (hw.errs.trans hx.errs).subset hmem, hfields⟩

/-- Settles O13: one theorem for each way of a block into the buffer, for each class of a TICK, and for a failed check. -/
theorem bufferAndPipelineOfAStitch : Obligations.BufferAndPipelineOfAStitch :=
  ⟨⟨fun _ _ _ _ hl hi ho hc => hitBlock_joins hl hi ho hc, fun _ _ _ _ hl hr ho => tick_joins hl hr ho,
      fun _ _ _ _ hl hi hc => hitBlock_judged hl hi hc⟩,
    fun _ _ _ _ _ h => ⟨tick_passes h, tick_dropped h (.inl ⟨rfl, rfl⟩), tick_dropped h (.inr ⟨rfl, rfl⟩), tick_closes h⟩,
    fun _ _ _ hl hq => stitchPipeline_fails hl hq⟩

end Sys2Proof.Machine
end

section
/-! PROOFS. The end of a row's streams and the row's history (O18). -/

namespace Sys2Proof.Machine

open Sys2Proof.Claims

-- One proof after the other: short ones begun at once would take a thread each and pass the memory limit of the check.
set_option Elab.async false

/-! ### The end of frame enters the queues (R30, R113) -/

/-- The end-of-frame word for cluster `c`: it enters the queue, or waits where that is full. -/
def RowSt.eofPut (r : Nat) (y : RowSt) (c : Nat) : RowSt :=
  if (sget [] c y.voq).length < 256 then { y with voq := sset [] c (sget [] c y.voq ++ [eofWord r]) y.voq }
  else { y with eof := y.eof ++ [c] }

theorem RowSt.eofMove_eq (x : RowSt) (r : Nat) : x.eofMove r = x.eof.foldl (RowSt.eofPut r) { x with eof := [] } := rfl

theorem RowSt.eofPut_flushed (r : Nat) (y : RowSt) (c : Nat) : (y.eofPut r c).flushed = y.flushed := by
  unfold RowSt.eofPut
  split <;> rfl

theorem RowSt.eofPut_line (r : Nat) (y : RowSt) (c : Nat) : (y.eofPut r c).line = y.line := by
  unfold RowSt.eofPut
  split <;> rfl

/-- The queues of other clusters stay. -/
theorem RowSt.eofPut_other (r : Nat) (y : RowSt) {c d : Nat} (h : d ≠ c) : sget [] d (y.eofPut r c).voq = sget [] d y.voq := by
  unfold RowSt.eofPut
  split
  · exact sget_sset_ne _ _ h _ _
  · rfl

theorem RowSt.eofPut_eof (r : Nat) (y : RowSt) (c : Nat) : y.eof ⊆ (y.eofPut r c).eof := by
  unfold RowSt.eofPut
  split
  exacts [List.Subset.refl _, List.subset_append_left ..]

/-- What the words for several clusters leave to one that is not among them. -/
theorem RowSt.eofPuts_other (r : Nat) {l : List Nat} {d : Nat} (h : d ∉ l) (y : RowSt) :
    sget [] d (l.foldl (RowSt.eofPut r) y).voq = sget [] d y.voq ∧ y.eof ⊆ (l.foldl (RowSt.eofPut r) y).eof := by
  induction l generalizing y with
  | nil => exact ⟨rfl, List.Subset.refl _⟩
  | cons c l ih =>
    obtain ⟨hc, hl⟩ := List.ne_and_not_mem_of_not_mem_cons h
    obtain ⟨hv, he⟩ := ih hl (y.eofPut r c)
    exact ⟨hv.trans (y.eofPut_other r hc), fun _ hx => he (y.eofPut_eof r c hx)⟩

/-- Each cluster's word enters its queue or waits. -/
theorem RowSt.eofPuts_mem (r : Nat) {l : List Nat} {c : Nat} (hn : l.Nodup) (hc : c ∈ l) (y : RowSt) :
    ((sget [] c y.voq).length < 256 → sget [] c (l.foldl (RowSt.eofPut r) y).voq = sget [] c y.voq ++ [eofWord r]) ∧
    (256 ≤ (sget [] c y.voq).length → sget [] c (l.foldl (RowSt.eofPut r) y).voq = sget [] c y.voq ∧
      c ∈ (l.foldl (RowSt.eofPut r) y).eof) := by
  induction l generalizing y with
  | nil => cases hc
  | cons d l ih =>
    obtain ⟨hd, hn⟩ := List.nodup_cons.1 hn
    rw [List.foldl_cons]
    obtain rfl | hm := List.mem_cons.1 hc
    · obtain ⟨hv, he⟩ := RowSt.eofPuts_other r hd (y.eofPut r c)
      refine ⟨fun hl => ?_, fun hl => ?_⟩
      · rw [hv, RowSt.eofPut, if_pos hl]
        exact sget_sset_self ..
      · have hp : y.eofPut r c = { y with eof := y.eof ++ [c] } := if_neg (Nat.not_lt.2 hl)
        rw [hv]
        rw [hp] at he ⊢
        exact ⟨rfl, he (List.mem_append_right _ (List.mem_cons_self ..))⟩
    · have hne : c ≠ d := by rintro rfl; exact hd hm
      have h := ih hn hm (y.eofPut r d)
      rwa [y.eofPut_other r hne] at h

theorem RowSt.eofPuts_flushed (r : Nat) (l : List Nat) (y : RowSt) : (l.foldl (RowSt.eofPut r) y).flushed = y.flushed :=
  List.foldlRecOn _ _ (motive := fun z : RowSt => z.flushed = y.flushed) rfl fun z h c _ => (z.eofPut_flushed r c).trans h

/-! ### What the lines of a history leave

A line that is written, and the entries of its index, change memory, the row's line and its next bucket; a row whose history is off
writes none. -/

structure State.Writing (r : Nat) (s₀ s : State) : Prop where
  flushed : (s.row r).flushed = (s₀.row r).flushed
  voq : (s.row r).voq = (s₀.row r).voq
  eof : (s.row r).eof = (s₀.row r).eof
  off : s₀.histOn r = false → s.regs = s₀.regs ∧ s.mem = s₀.mem

section
variable {r : Nat} {s₀ s : State}

theorem State.Writing.refl (r : Nat) (s : State) : State.Writing r s s := ⟨rfl, rfl, rfl, fun _ => ⟨rfl, rfl⟩⟩

theorem State.histOn_congr {s u : State} (h : u.regs = s.regs) (r : Nat) : u.histOn r = s.histOn r := by
  have hf (hi lo : Nat) : u.field (oRow r 0x40) hi lo = s.field (oRow r 0x40) hi lo :=
    congrArg (fun l => bf (sget (regReset (oRow r 0x40)) (oRow r 0x40) l) hi lo) h
  have hl : u.histLog r = s.histLog r := hf ..
  have hi : u.histIdx r = s.histIdx r := hf ..
  rw [State.histOn, State.histOn, hl, hi]

/-- The line and the next bucket of the row move. -/
theorem State.Writing.setLine (h : State.Writing r s₀ s) (line : List RowHit) (bucket : Nat) :
    State.Writing r s₀ (s.setRow r { s.row r with line, bucket }) := by
  refine ⟨?_, ?_, ?_, h.off⟩ <;> rw [State.row_setRow, if_pos rfl]
  exacts [h.flushed, h.voq, h.eof]

/-- Writes to memory and registers of a row whose history is on. -/
theorem State.Writing.iteOn {u : State} (h : State.Writing r s₀ s) (hu : u.rows = s.rows) :
    State.Writing r s₀ (if s.histOn r then u else s) := by
  split
  next hon =>
    have hr : u.row r = s.row r := congrArg (sget RowSt.reset r) hu
    refine ⟨by rw [hr, h.flushed], by rw [hr, h.voq], by rw [hr, h.eof], fun hoff => ?_⟩
    rw [← State.histOn_congr (h.off hoff).1 r, hon] at hoff
    cases hoff
  · exact h

theorem State.Traffic.histIndex {u : State} (h : s₀.Traffic u) (a b n : Nat) : s₀.Traffic (u.histIndex r a b n) :=
  h.foldl fun _ _ h => h.memPutBy

theorem State.Writing.writeLine (h : State.Writing r s₀ s) (last stop : Bool) : State.Writing r s₀ (s.writeLine r last stop) := by
  unfold State.writeLine
  dsimp only
  split
  · exact h
  · exact (h.iteOn ((State.setField_rows ..).trans ((State.Traffic.refl s).memPutBy.histIndex ..).rows)).setLine ..

theorem State.Writing.endLines (stop : Bool) (n : Nat) (h : State.Writing r s₀ s) : State.Writing r s₀ (s.endLines r stop n) := by
  induction n generalizing s with
  | zero => exact h
  | succ n ih =>
    unfold State.endLines
    split
    · exact ih (h.writeLine false false)
    · exact ((h.writeLine true stop).iteOn ((State.Traffic.refl _).histIndex ..).rows).setLine ..

end

/-! ### A row flushes -/

/-- Without a live spike channel no stream of the row moves with time. -/
theorem State.rowNow_of_quiet {s : State} {r : Nat} (h : quietRow s r) (t : Time) : (s.at t).rowNow r = s.at t := by
  obtain ⟨h0, h1, -⟩ := h
  have step (i : Nat) (hi : ((s.row r).stream (16 + i)).live = false) :
      (if (((s.at t).row r).stream (16 + i)).live = true ∧ (((s.at t).row r).stream (16 + i)).ts < (s.at t).spikeTime (r * 2 + i) then
        (s.at t).streamTime r (16 + i) ((s.at t).spikeTime (r * 2 + i)) else s.at t) = s.at t :=
    if_neg fun hc => Bool.false_ne_true (hi.symm.trans hc.1)
  unfold State.rowNow
  rw [List.foldl_cons, step 0 h0, List.foldl_cons, step 1 h1, List.foldl_nil]

/-- The row as the flush leaves it to the history. -/
def State.rowFlushed (s : State) (r : Nat) : State :=
  s.setRow r ((List.range 32).foldl (RowSt.eofPut r) { s.row r with flushed := true, flushing := false, eof := [] })

theorem State.rowFlushed_regs (s : State) (r : Nat) : (s.rowFlushed r).regs = s.regs := by rw [State.rowFlushed, State.setRow_regs]
theorem State.rowFlushed_mem (s : State) (r : Nat) : (s.rowFlushed r).mem = s.mem := by rw [State.rowFlushed, State.setRow_mem]

theorem execRowFlush_eq {t : Time} {r : RowId} {s : State} (hq : quietRow s r) (hc : s.castOn = true)
    (hfd : (s.row r).flushed = false) (hfg : (s.row r).flushing = false) (hp : (s.at t).rowPassed r = true ∨ (s.row r).vstate = 2)
    (hs : (s.row r).store = []) (hk : (s.row r).picked = []) (hcp : (s.row r).copies = []) :
    ∃ u : State, u.regs = s.regs ∧ u.mem = s.mem ∧ (u.row r) = { s.row r with flushing := true } ∧
      exec (.rowFlush t r) s = .next ((u.rowFlushed r).histEnd r false) := by
  refine ⟨(s.at t).setRow r { s.row r with flushing := true }, rfl, rfl, ((s.at t).row_setRow r r _).trans (if_pos rfl), ?_⟩
  show execRowFlush t r s = _
  unfold execRowFlush
  rw [State.rowNow_of_quiet hq]
  extract_lets v x
  rw [if_pos ⟨hc, hfd, hfg, hp⟩]
  have hx : (v.setRow r { x with flushing := true }).row r = { x with flushing := true } := (v.row_setRow r r _).trans (if_pos rfl)
  unfold State.eofStep
  rw [hx, if_pos ⟨rfl, hs, hk, hcp⟩]
  rfl

theorem rowFlush_ends {t : Time} {r : RowId} {s : State} (hq : quietRow s r) (hc : s.castOn = true)
    (hfd : (s.row r).flushed = false) (hfg : (s.row r).flushing = false) (hp : (s.at t).rowPassed r = true ∨ (s.row r).vstate = 2)
    (hs : (s.row r).store = []) (hk : (s.row r).picked = []) (hcp : (s.row r).copies = []) :
    Completes (.rowFlush t r) s fun u =>
      (u.row r).flushed = true ∧ (s.histOn r = false → u.regs = s.regs ∧ u.mem = s.mem) ∧
      ∀ c, c < 32 →
        ((sget [] c (s.row r).voq).length < 256 → sget [] c (u.row r).voq = sget [] c (s.row r).voq ++ [eofWord r]) ∧
        (256 ≤ (sget [] c (s.row r).voq).length → sget [] c (u.row r).voq = sget [] c (s.row r).voq ∧ c ∈ (u.row r).eof) := by
  obtain ⟨v, hr, hm, hv, e⟩ := execRowFlush_eq hq hc hfd hfg hp hs hk hcp
  refine ⟨_, e, ?_⟩
  beta_reduce
  have hw : State.Writing r (v.rowFlushed r) ((v.rowFlushed r).histEnd r false) := (State.Writing.refl r _).endLines false _
  have hrow : (v.rowFlushed r).row r = (List.range 32).foldl (RowSt.eofPut r) { v.row r with flushed := true, flushing := false, eof := [] } :=
    (v.row_setRow r r _).trans (if_pos rfl)
  rw [hw.flushed, hw.voq, hw.eof, hrow, hv]
  refine ⟨RowSt.eofPuts_flushed r _ _, fun hoff => ?_, fun c hc => ?_⟩
  · obtain ⟨h1, h2⟩ := hw.off ((State.histOn_congr ((v.rowFlushed_regs r).trans hr) r).trans hoff)
    exact ⟨h1.trans ((v.rowFlushed_regs r).trans hr), h2.trans ((v.rowFlushed_mem r).trans hm)⟩
  · exact RowSt.eofPuts_mem r List.nodup_range (List.mem_range.2 hc) { s.row r with flushing := false, flushed := true, eof := [] }

/-! ### A stream stalls (R104) -/

/-- A sticky report shows. -/
theorem State.field_sticky (s : State) {b : Nat} (hb : b < 64) : (s.sticky b).field (oMst 0x30) b b = 1 := by
  have hor : orBit (s.reg (oMst 0x30)).toNat b < 2 ^ 64 :=
    Nat.or_lt_two_pow (BitVec.isLt _) (by rw [Nat.one_shiftLeft]; exact Nat.pow_lt_pow_right (by decide) hb)
  rw [State.sticky, State.field, State.reg_setReg, if_pos rfl, bf, BitVec.toNat_ofNat, Nat.mod_eq_of_lt hor, Nat.add_sub_cancel_left]
  have ht : (orBit (s.reg (oMst 0x30)).toNat b).testBit b = true := by
    rw [orBit, Nat.testBit_or, Nat.one_shiftLeft, Nat.testBit_two_pow_self, Bool.or_true]
  rw [Nat.testBit_eq_decide_div_mod_eq, decide_eq_true_eq] at ht
  rw [Nat.shiftRight_eq_div_pow]
  exact ht

theorem State.closeStitch_port (s : State) (p : Nat) :
    ((s.closeStitch p).port p).closed = true ∧ ((s.closeStitch p).port p).link = (s.port p).link := by
  unfold State.closeStitch
  extract_lets x stays late u v
  have hu : (u.port p).closed = true ∧ (u.port p).link = (s.port p).link := by
    rw [State.port_setPort, if_pos rfl]
    exact ⟨rfl, rfl⟩
  exact hu

theorem State.closeStitch_mem (s : State) (p : Nat) : (s.closeStitch p).mem = s.mem := rfl

theorem State.portReef_port (s : State) (p q : Nat) : (s.portReef p).port q = s.port q := rfl
theorem State.portReef_mem (s : State) (p : Nat) : (s.portReef p).mem = s.mem := rfl

theorem execStreamStall_eq {t : Time} {r : RowId} {i : Fin 16} {s : State} {k p : Nat} (hk : k = s.field (oRow r 0) 63 56)
    (h : k ≠ 0 ∧ ((s.row r).stream i).live = true ∧ ((s.row r).stream i).ts < s.keyL ∧ s.castOn = true ∧
      max ((s.row r).stream i).changed (s.row r).stallAt + usT k ≤ t ∧ (s.port p).closed = false) (hp : p = r.val * 16 + i.val) :
    exec (.streamStall t r i) s = .next (((((s.at t).closeStitch p).portReef p).bump (oRow r 0x120)).err 1 1 r 3 i) := by
  subst hk hp
  exact if_pos h

theorem streamStall_closes {t : Time} {r : RowId} {i : Fin 16} {s : State} {k p : Nat} (hk : k = s.field (oRow r 0) 63 56)
    (h : k ≠ 0 ∧ ((s.row r).stream i).live = true ∧ ((s.row r).stream i).ts < s.keyL ∧ s.castOn = true ∧
      max ((s.row r).stream i).changed (s.row r).stallAt + usT k ≤ t ∧ (s.port p).closed = false) (hp : p = r.val * 16 + i.val) :
    Completes (.streamStall t r i) s fun u =>
      (u.port p).closed = true ∧ (u.port p).link = (s.port p).link ∧ u.field (oMst 0x30) r r = 1 ∧ SentError u 1 1 r 3 ∧
      u.mem = s.mem := by
  refine ⟨_, execStreamStall_eq hk h hp, ?_⟩
  obtain ⟨hc, hl⟩ := (s.at t).closeStitch_port p
  have hr : p / 16 = r.val := by omega
  have hm := (s.at t).closeStitch_mem p
  generalize (s.at t).closeStitch p = v at *
  refine ⟨?_, ?_, ?_, State.sentError_err .., ?_⟩
  · rw [State.port_err_other, State.port_bump_other, State.portReef_port]
    exact hc
  · rw [State.port_err_other, State.port_bump_other, State.portReef_port]
    exact hl
  · rw [State.field_err_other, State.field_bump_ne _ _ _ (by unfold oMst oRow; omega), State.portReef,
      State.field_setField_ne _ _ _ _ _ _ (by unfold oMst oPort; omega), hr]
    exact v.field_sticky (by omega)
  · rw [State.err_mem, State.bump_mem, State.portReef_mem]
    exact hm

/-! ### A controller goes on answering

Traffic to the lines of one controller writes its log, its counts and the power state of a controller that wakes: one that answered
before answers after it. -/

structure State.Answering (m : Nat) (s₀ s : State) : Prop where
  stack : m < 4
  small : s.small = s₀.small
  status : s.reg (oMem m 8) = s₀.reg (oMem m 8)
  power : (s.domain (80 + m) == 0) = (s₀.domain (80 + m) == 0)

section
variable {m : Nat} {s₀ s : State} {α : Type}

theorem State.Answering.refl (hm : m < 4) (s : State) : State.Answering m s s := ⟨hm, rfl, rfl, rfl⟩

theorem State.Answering.ite {c : Prop} {_ : Decidable c} {a b : State} (ha : State.Answering m s₀ a) (hb : State.Answering m s₀ b) :
    State.Answering m s₀ (if c then a else b) := by split <;> assumption

theorem State.Answering.iteFst {c : Prop} {_ : Decidable c} {a b : State × α} (ha : State.Answering m s₀ a.1) (hb : State.Answering m s₀ b.1) :
    State.Answering m s₀ (if c then a else b).1 := by split <;> assumption

theorem State.Answering.andThen {P : Prop} (h : State.Answering m s₀ s) (f : State.Answering m s₀ s → P) : P := f h

theorem State.Answering.foldl {f : State → α → State} {l : List α} (h : State.Answering m s₀ s)
    (hf : ∀ s a, State.Answering m s₀ s → State.Answering m s₀ (f s a)) : State.Answering m s₀ (l.foldl f s) :=
  List.foldlRecOn l f h fun s h a _ => hf s a h

theorem State.Answering.same (h : State.Answering m s₀ s) {free raised errs errNum flips suspect decodes bad merges hostLines clus cores} :
    State.Answering m s₀ { s with free, raised, errs, errNum, flips, suspect, decodes, bad, merges, hostLines, clus, cores } :=
  ⟨h.stack, h.small, h.status, h.power⟩

/-- A register that is neither the status nor the power state of the controller. -/
theorem State.Answering.setReg {o : Nat} {v : Word} (h : State.Answering m s₀ s)
    (ho : 0x80000 ≤ o ∧ o ≠ oMem m 8 := by simp only [oLog, oMem, oCnt, oClu]; omega) : State.Answering m s₀ (s.setReg o v) := by
  have hp : oPwr (0x100 + (80 + m) * 8) ≠ o := by have := h.stack; unfold oPwr; omega
  refine ⟨h.stack, h.small, ?_, ?_⟩
  · rw [State.reg_setReg, if_neg ho.2.symm, h.status]
  · rw [State.domain, State.field, State.reg_setReg, if_neg hp]
    exact h.power

end

section
variable {m : Nat} {s₀ s : State} {i k kind line mask n o pa src unit v w hi lo : Nat} (h : State.Answering m s₀ s)
include h

theorem State.Answering.setField (ho : 0x80000 ≤ o ∧ o ≠ oMem m 8 := by simp only [oLog, oMem, oCnt, oClu]; omega) :
    State.Answering m s₀ (s.setField o hi lo v) := h.setReg ho

theorem State.Answering.bumpN (ho : 0x80000 ≤ o ∧ o ≠ oMem m 8 := by simp only [oLog, oMem, oCnt, oClu]; omega) :
    State.Answering m s₀ (s.bumpN o n) := h.setReg ho

theorem State.Answering.bump (ho : 0x80000 ≤ o ∧ o ≠ oMem m 8 := by simp only [oLog, oMem, oCnt, oClu]; omega) :
    State.Answering m s₀ (s.bump o) := h.bumpN ho

theorem State.Answering.raiseBit {b : Nat} (ho : 0x80000 ≤ o ∧ o ≠ oMem m 8 := by simp only [oLog, oMem, oCnt, oClu]; omega) :
    State.Answering m s₀ (s.raiseBit o b) := (h.setField ho).same

theorem State.Answering.useFree : State.Answering m s₀ s.useFree := h.same

/-- A controller that wakes goes from WARM to HOT (R500): it was not OFF and is not. -/
theorem State.Answering.touchMem (hm : ctlOf pa = m) : State.Answering m s₀ (s.touchMem pa) := by
  subst hm
  have hs := h.stack
  unfold State.touchMem
  split
  · exact h
  · extract_lets m p u
    have hu : State.Answering m s₀ u := ⟨h.stack, h.small, h.status, h.power⟩
    split
    next hw =>
      refine ⟨hu.stack, hu.small, ?_, ?_⟩
      · rw [State.reg_setField, if_neg (by unfold oMem oPwr; omega), hu.status]
      · rw [← hu.power, hw]
        unfold State.domain
        rw [State.field_setField_self _ _ _ (by omega) (by omega)]
        rfl
    · exact hu

theorem State.Answering.errWith {cls code slot d4 d5 d6 d7 : Nat} {cause : Option Nat} :
    State.Answering m s₀ (s.errWith cls src unit code slot d4 d5 d6 d7 cause) := h.same

theorem State.Answering.logShow {newest : Nat} : State.Answering m s₀ (s.logShow m newest) := h.setField.setField
theorem State.Answering.logErr {cause : Nat} : State.Answering m s₀ (s.logErr m kind pa cause) := .ite (.ite h.errWith h) h.errWith
theorem State.Answering.logMerge : State.Answering m s₀ (s.logMerge m i mask) := h.setField.setField.setField.logShow

theorem State.Answering.logCreate : State.Answering m s₀ (s.logCreate m i kind pa mask src unit) :=
  h.setReg.raiseBit.setReg.setReg.useFree.setReg.logShow

theorem State.Answering.memLog {cause : Nat} : State.Answering m s₀ (s.memLog m kind pa mask src unit cause) := by
  unfold State.memLog
  split
  · exact h
  · split
    · exact h.logMerge
    · split
      exacts [h.setField.logErr, h.logCreate.logErr]

theorem State.Answering.wrongWords : State.Answering m s₀ (s.wrongWords line).1 :=
  .iteFst h (.iteFst h (.iteFst (.iteFst h.useFree h.useFree) h))

theorem State.Answering.corrected : State.Answering m s₀ (s.corrected m pa mask src unit) := .ite h h.same.bumpN.memLog

theorem State.Answering.decodeEnd {fits : Bool} : State.Answering m s₀ (s.decodeEnd m pa fits src unit) :=
  h.same.bump.wrongWords.corrected.andThen fun h => .ite h.same.bump.memLog h.same

theorem State.Answering.decodeAsk : State.Answering m s₀ (s.decodeAsk m pa mask) := .ite h.same h.same.same
theorem State.Answering.flipHook : State.Answering m s₀ (s.flipHook m pa) := .ite h.same.setField h

end

section
variable {pa : Nat} {s₀ s : State} {mask src unit : Nat} (h : State.Answering (ctlOf pa) s₀ s)
include h

theorem State.Answering.awaitPage : State.Answering (ctlOf pa) s₀ (s.awaitPage pa) := .ite h.decodeEnd.useFree h

theorem State.Answering.scan : State.Answering (ctlOf pa) s₀ (s.scan pa src unit) :=
  h.awaitPage.wrongWords.corrected.andThen fun h => .ite h (.ite h.decodeAsk.decodeEnd.useFree h.same)

theorem State.Answering.checkFold : State.Answering (ctlOf pa) s₀ (s.checkFold pa src unit) :=
  h.wrongWords.corrected.andThen fun h => .ite h h.same.bump.memLog

theorem State.Answering.lineWrite : State.Answering (ctlOf pa) s₀ (s.lineWrite pa mask src unit) := by
  unfold State.lineWrite
  extract_lets m line u1 u2 was u3 u4 left u5 u6 u7
  have h2 : State.Answering m s₀ u2 := .ite h.awaitPage.scan h.awaitPage
  have h3 : State.Answering m s₀ u3 := h2.same
  have h4 : State.Answering m s₀ u4 := .ite h3.checkFold h3
  have h5 : State.Answering m s₀ u5 := h4.same
  have h6 : State.Answering m s₀ u6 := .ite h5 h5.memLog
  have h7 : State.Answering m s₀ u7 := .ite h4 (.ite (.ite h4.same h4.same.memLog) (.ite h6.bump.memLog h6))
  exact h7.flipHook

end

theorem State.l2Found_line {s : State} {k line w : Nat} {x : L2Line}
    (h : ((s.l2Find k line).bind fun w => (s.l2At k line w).map fun x => (w, x)) = some (w, x)) : x.line = line := by
  obtain ⟨v, hv, h⟩ := Option.bind_eq_some_iff.1 h
  obtain ⟨y, hy, h⟩ := Option.map_eq_some_iff.1 h
  cases h
  have hf := List.find?_some hv
  rw [State.l2At] at hy
  simpa [hy] using hf

section
variable {line m : Nat} {s₀ s : State} {k : Nat} (h : State.Answering m s₀ s) (hm : ctlOf (line * 64) = m)
include h

theorem State.Answering.setClu {x : CluSt} : State.Answering m s₀ (s.setClu k x) := h.same
theorem State.Answering.l2Set {w : Nat} {x : Option L2Line} : State.Answering m s₀ (s.l2Set k line w x) := h.setClu
theorem State.Answering.l1Drop {keep : Option Nat} : State.Answering m s₀ (s.l1Drop k line keep) := h.foldl fun _ _ h => h.same

theorem State.Answering.l2Drop {store : Bool} : State.Answering m s₀ (s.l2Drop k line store) := by
  have := h.stack
  unfold State.l2Drop
  split
  · exact h
  · exact State.Answering.andThen (.ite h.bump h) fun h => h.l2Set.l1Drop

include hm

theorem State.Answering.mergeDone : State.Answering m s₀ (s.mergeDone m line) := by
  subst hm
  unfold State.mergeDone
  extract_lets
  split
  · exact h
  · exact State.Answering.andThen (.ite h.same h.same.bump) fun h => h.lineWrite

theorem State.Answering.acceptLine {x : L2Line} (hx : x.line = line) : State.Answering m s₀ (s.acceptLine x) := by
  subst hx hm
  exact .ite h (((h.touchMem rfl).mergeDone rfl).lineWrite.andThen fun h => .ite h h.same.memLog)

/-- The line that a way holds is the line that was looked for. -/
theorem State.Answering.snoopLine {write : Bool} : State.Answering m s₀ (s.snoopLine k line write) := by
  unfold State.snoopLine
  split
  · exact h
  next w x hx =>
    have hl : x.line = line := State.l2Found_line hx
    exact State.Answering.andThen (.ite (h.acceptLine hm hl) h) fun h => .ite h.l2Drop h.l2Set

theorem State.Answering.snoopOthers {write : Bool} : State.Answering m s₀ (s.snoopOthers k line write) :=
  (h.foldl fun _ _ h => .ite h (h.snoopLine hm)).andThen fun h => .ite h.same (.ite h.same h)

end

/-- An address that answers and is no check block stays so while the line is taken from its holders. -/
theorem State.answers_snooped {s : State} {a : Nat} (hd : s.memDead a = false) (hc : s.isCheck a = false) :
    ((s.touchMem a).snoopOthers 32 (a / 64) true).memDead a = false ∧
    ((s.touchMem a).snoopOthers 32 (a / 64) true).isCheck a = false := by
  by_cases ha : a < 0x100000000000
  · have hm : ctlOf a < 4 := by
      by_contra hn
      have hs : s.stacks ≤ ctlOf a := by unfold State.stacks; split <;> omega
      simp [State.memDead, ha, hs] at hd
    have hl : ctlOf (a / 64 * 64) = ctlOf a := by unfold ctlOf stackSize; omega
    obtain ⟨-, hsm, hst, hpw⟩ := ((State.Answering.refl hm s).touchMem rfl).snoopOthers (k := 32) (write := true) hl
    generalize (s.touchMem a).snoopOthers 32 (a / 64) true = u at *
    have hn : u.stacks = s.stacks := by unfold State.stacks; rw [hsm]
    have hf (b : Nat) : u.field (oMem (ctlOf a) 8) b b = s.field (oMem (ctlOf a) 8) b b := by rw [State.field, hst, State.field]
    refine ⟨?_, by rw [← hc, State.isCheck, State.isCheck, hsm]⟩
    rw [← hd, State.memDead, State.memDead, State.memFailed, State.memFailed, State.memFilling, State.memFilling, hn, hf, hf, hpw]
  · exact ⟨by rw [State.memDead, decide_eq_false ha, Bool.false_and],
      by rw [State.isCheck, decide_eq_false fun h => ha h.1, Bool.and_false]⟩

/-- A full line that a unit of the device writes goes to memory (R343). -/
theorem State.putLine_full {s : State} {a : Nat} {ws : List Word} (hd : s.memDead a = false) (hc : s.isCheck a = false)
    (hw : ws.length = 8) (src unit : Nat) : (s.putLine src unit a ws).mem = mwrWs a ws s.mem := by
  obtain ⟨hd', hc'⟩ := State.answers_snooped hd hc
  unfold State.putLine
  extract_lets line m u
  have hu : u.mem = s.mem := by rw [State.snoopOthers_mem, State.touchMem_mem]
  rw [hd', hc', if_neg (by decide)]
  split
  · rw [hu]
  · rw [if_pos (by omega), State.lineWrite_mem]
    rw [State.mergeDone_mem, hu]

theorem State.memPutBy_full {s : State} {a : Nat} {ws : List Word} (ha : a % 64 = 0) (hd : s.memDead a = false)
    (hc : s.isCheck a = false) (hw : ws.length = 8) (src unit : Nat) : (s.memPutBy src unit a ws).mem = mwrWs a ws s.mem := by
  obtain ⟨w, l, rfl⟩ := List.exists_cons_of_length_eq_add_one hw
  have hn : 8 - a / 8 % 8 = 8 := by omega
  rw [State.memPutBy, hw, State.putBy]
  · rw [hn, List.take_of_length_le hw.le, List.drop_of_length_le hw.le, State.putBy]
    · exact State.putLine_full hd hc hw src unit
    all_goals nofun
  · nofun

/-! ### The line of a history -/

/-- Where the next line goes (Table 3.4). -/
def State.histAt (s : State) (r : Nat) : Nat := s.field (oRow r 0x30) 45 0 + (s.field (oRow r 0x48) 31 0 % 2 ^ s.histLog r) * 64

/-- The hits of a line, seven words. -/
def RowSt.lineWords (x : RowSt) : List Word := (List.range 7).map fun i => ((x.line.take 7).map (·.word)).getD i uninit

/-- No entry of the index is due. -/
theorem State.histIndex_of_lt (s : State) (r : Nat) {a b : Nat} (h : b < a) (n : Nat) : s.histIndex r a b n = s := by
  unfold State.histIndex
  dsimp only
  have hz : b + 1 - max a (b + 1 - 2 ^ s.histIdx r) = 0 := by omega
  rw [hz, List.range_zero, List.foldl_nil]

/-- The first word of a line that begins with hit `h` (Table 3.4). -/
def State.histHead (s : State) (r : Nat) (h : RowHit) (last stop : Bool) : Word :=
  let line := (s.row r).line.take 7
  let beh := ((List.range 7).filter fun i => (line.map (·.behind)).getD i false).foldl (fun a i => orBit a (i + 1)) 0
  setBf (setBf (setBf (setBf (setBf (setBf 0 63 48 s.frame.count) 47 45 line.length) 41 41 (b2n last))
    40 40 (b2n stop)) 39 8 h.key) 7 1 (beh / 2)

theorem State.histHead_count (s : State) (r : Nat) (h : RowHit) (last stop : Bool) :
    bf (s.histHead r h last stop) 63 48 = s.frame.count % 65536 := by
  unfold State.histHead
  iterate 5 rw [bf_setBf_disjoint _ _ (by decide) (by decide) (by decide)]
  exact bf_setBf_self _ _ (by decide) (by decide)

theorem State.histHead_length (s : State) (r : Nat) (h : RowHit) (last stop : Bool) :
    bf (s.histHead r h last stop) 47 45 = ((s.row r).line.take 7).length % 8 := by
  unfold State.histHead
  iterate 4 rw [bf_setBf_disjoint _ _ (by decide) (by decide) (by decide)]
  exact bf_setBf_self _ _ (by decide) (by decide)

/-- A row whose history is on writes a line (R117), and the entries of the index that are due (R118). -/
theorem State.writeLine_of_on {s : State} {r : Nat} {h : RowHit} {l : List RowHit} (hl : (s.row r).line.take 7 = h :: l)
    (hon : s.histOn r = true) (last stop : Bool) : ∃ bucket,
    s.writeLine r last stop =
      (((s.memPutBy 3 r (s.histAt r) (s.histHead r h last stop :: (s.row r).lineWords)).histIndex r (s.row r).bucket
        (((h :: l).map (·.key)).foldl max 0 / 2 ^ 17) (s.field (oRow r 0x48) 31 0)).setField (oRow r 0x48) 31 0
          ((s.field (oRow r 0x48) 31 0 + 1) % 2 ^ 32)).setRow r { s.row r with line := (s.row r).line.drop 7, bucket } := by
  have hrow (a b c : Nat) (ws : List Word) (i j k : Nat) :
      (((s.memPutBy 3 r a ws).histIndex r i j k).setField (oRow r 0x48) 31 0 b).row c = s.row c := by
    rw [State.row_setField_other]
    exact congrArg (sget RowSt.reset c) ((State.Traffic.refl s).memPutBy.histIndex ..).rows
  unfold State.writeLine
  dsimp only
  split
  next he => cases he.symm.trans hl
  next he =>
    cases he.symm.trans hl
    rw [if_pos hon, hrow, ← hl]
    exact ⟨_, rfl⟩

theorem RowSt.lineWords_get {x : RowSt} (hn : x.line.length = 7) {i : Nat} (hi : i < 7) :
    x.lineWords.getD i 0 = (x.line[i]?.map (·.word)).getD 0 := by
  have hx : i < x.line.length := by omega
  simp [RowSt.lineWords, hi, hx, List.take_of_length_le hn.le]

theorem historyLine_written {t : Time} {r : RowId} {s : State} (hn : (s.row r).line.length = 7)
    (hf : (s.row r).lineFull (t / rowT) = true) (ha : s.histAt r % 64 = 0) (hon : s.histOn r = true)
    (ht : ((s.row r).line.map (·.key)).foldl max 0 / 2 ^ 17 < (s.row r).bucket)
    (hd : s.memDead (s.histAt r) = false) (hc : s.isCheck (s.histAt r) = false) :
    Completes (.historyLineWrite t r) s fun u =>
      (∀ b, (b < s.histAt r ∨ s.histAt r + 64 ≤ b) → mrd b u.mem = mrd b s.mem) ∧
      (∀ i, i < 7 → mrdW (s.histAt r + 8 * (i + 1)) u.mem = ((s.row r).line[i]?.map (·.word)).getD 0) ∧
      bf (mrdW (s.histAt r) u.mem) 63 48 = s.frame.count % 65536 ∧ bf (mrdW (s.histAt r) u.mem) 47 45 = 7 ∧
      (u.row r).line = [] ∧ u.field (oRow r 0x48) 31 0 = (s.field (oRow r 0x48) 31 0 + 1) % 2 ^ 32 := by
  obtain ⟨h, l, hl⟩ : ∃ h l, (s.row r).line.take 7 = h :: l :=
    List.exists_cons_of_length_eq_add_one (by rw [List.length_take, hn]; rfl)
  have hlen : ((s.row r).line.take 7).length = 7 := by rw [List.length_take, hn]; rfl
  have htake : (s.row r).line.take 7 = (s.row r).line := List.take_of_length_le hn.le
  obtain ⟨bucket, e⟩ := State.writeLine_of_on (s := s.at t) hl hon false false
  have hx : exec (.historyLineWrite t r) s = .next ((s.at t).writeLine r false false) := congrArg Host.Outcome.next (if_pos (.inl hf))
  obtain ⟨w, hw⟩ : ∃ w, w = (s.at t).histHead r h false false := ⟨_, rfl⟩
  have hm := State.memPutBy_full (s := s.at t) (ws := w :: (s.row r).lineWords) ha hd hc rfl 3 r
  have hhead := mrdW_mwrWs (s.histAt r) 0 (w :: (s.row r).lineWords) s.mem (Nat.succ_pos _)
  rw [State.histIndex_of_lt _ _ (by rw [← hl, htake]; exact ht), ← hw] at e
  refine ⟨_, hx.trans (congrArg _ e), ?_⟩
  beta_reduce
  rw [State.setRow_mem, State.setField_mem, State.row_setRow, if_pos rfl, State.field_setRow_other,
    State.field_setField_self _ _ _ (by decide) (by decide)]
  rw [show ((s.at t).memPutBy 3 r ((s.at t).histAt r) (w :: ((s.at t).row r).lineWords)).mem =
    mwrWs (s.histAt r) (w :: (s.row r).lineWords) s.mem from hm]
  refine ⟨fun b hb => mrd_mwrWs_outside hb _, fun i hi => ?_, ?_, ?_, List.drop_of_length_le hn.le, Nat.mod_mod ..⟩
  · rw [mrdW_mwrWs _ _ _ _ (Nat.succ_lt_succ hi)]
    exact RowSt.lineWords_get hn hi
  · rw [show mrdW (s.histAt r) _ = w from hhead, hw]
    exact State.histHead_count ..
  · rw [show mrdW (s.histAt r) _ = w from hhead, hw, State.histHead_length]
    exact congrArg (· % 8) hlen

/-- Settles O18: a row that flushes and a stream that stalls are followed through the state operations they consist of; a full line of a
history is one full line of memory, since its controller goes on answering while the holders of the line lose it. -/
theorem rowStreamsEndAndHistoryIsWritten : Obligations.RowStreamsEndAndHistoryIsWritten := by
  unfold Obligations.RowStreamsEndAndHistoryIsWritten
  refine ⟨?_, ?_, ?_⟩
  · intro t r s hq hc hfd hfg hp hs hk hcp
    exact rowFlush_ends hq hc hfd hfg hp hs hk hcp
  · intro t r i s k hk hk0 hlive hts hc ht hcl
    exact streamStall_closes hk ⟨hk0, hlive, hts, hc, ht, hcl⟩ rfl
  · intro t r s a ha hn hf h64 hon ht hd hc
    subst ha
    exact historyLine_written hn hf h64 hon ht hd hc

end Sys2Proof.Machine
end

section
/-! PROOFS. Control blocks of the uplink, and blocks that a port discards (O12). -/

namespace Sys2Proof.Machine

open Sys2Proof.Claims

/-! ### Blocks at a port in lock (R44, R47) -/

/-- A port that hears takes the block. -/
theorem whenHears_of_hears {t : Time} {p : Nat} {s : State} (h : (s.port p).hears = true) (f : State → State) :
    whenHears (s.at t) p f = .next (f (s.at t)) := congrArg _ (if_pos h)

/-- What a discarded block leaves: its counter, and no run of TRAIN blocks. -/
def State.discarded (s : State) (t : Time) (p o : Nat) : State :=
  ((s.at t).setPort p { s.port p with trainRx := 0, trainAck := 0 }).bump o

theorem State.toNat_bump (s : State) (o : Nat) : ((s.bump o).reg o).toNat = min (2 ^ 64 - 1) ((s.reg o).toNat + 1) := by
  rw [State.bump, State.reg_bumpN, if_pos rfl, toNat_count]

/-- A counted block of the uplink changes no register but the count. -/
theorem State.heardBlock_count (s : State) (t : Time) (p : Nat) :
    ((s.heardBlock t p).reg (oPort p 0x100)).toNat = min (2 ^ 64 - 1) ((s.reg (oPort p 0x100)).toNat + 1) :=
  (s.at t).toNat_bump (oPort p 0x100)

/-! ### IDLE, SC_REPLY, CREDIT (R66, R82) -/

section
variable {t : Time} {p : PortId} {s : State} (hh : (s.port p).hears = true)
include hh

theorem uplinkIdle_counts : Completes (.uplinkIdle t p) s fun u =>
    (u.reg (oPort p 0x100)).toNat = min (2 ^ 64 - 1) ((s.reg (oPort p 0x100)).toNat + 1) ∧ (u.port p).buf = (s.port p).buf ∧
    (u.port p).trainRx = 0 ∧ (u.port p).trainAck = 0 ∧ u.mem = s.mem ∧ SameRegs (· = oPort p 0x100) s u := by
  have e : exec (.uplinkIdle t p) s = .next (s.heardBlock t p) := by
    show execUplinkIdle t p s = _
    exact whenHears_of_hears hh _
  refine ⟨_, e, s.heardBlock_count t p, ?_⟩
  rw [s.heardBlock_port, if_pos rfl]
  exact ⟨rfl, rfl, rfl, rfl, fun o ho => s.heardBlock_reg t p ho⟩

theorem scReply_shows {payload : BitVec 48} (hr : s.isReadout p = false) : Completes (.scReply t p payload) s fun u =>
    u.field (oPort p 0x50) 55 8 = payload.toNat ∧ u.field (oPort p 0x50) 63 63 = 1 ∧ u.mem = s.mem := by
  have e : exec (.scReply t p payload) s =
      .next (((s.heardBlock t p).setField (oPort p 0x50) 55 8 payload.toNat).raiseBit (oPort p 0x50) 63) := by
    have hr : (s.at t).isReadout p = false := hr
    show execScReply t p payload s = _
    rw [execScReply, whenHears_of_hears hh, if_neg (ne_true_of_eq_false hr)]
    rfl
  refine ⟨_, e, ?_⟩
  beta_reduce
  rw [State.field, State.field, State.reg_raiseBit]
  refine ⟨?_, ?_, rfl⟩
  · exact (State.field_setField_disjoint _ _ _ (by decide) (by decide) (by decide)).trans
      ((State.field_setField_self _ _ _ (by decide) (by decide)).trans (Nat.mod_eq_of_lt payload.isLt))
  · exact State.field_setField_self _ _ _ (by decide) (by decide)

theorem credit_adds {grant : BitVec 16} (hr : s.isReadout p = true) : Completes (.credit t p grant) s fun u =>
    (u.port p).credits = min 65535 ((s.port p).credits + grant.toNat) ∧ u.mem = s.mem := by
  have hp := (s.heardBlock_port t p p).trans (if_pos rfl)
  have e : exec (.credit t p grant) s = .next ((s.heardBlock t p).setPort p
      { (s.heardBlock t p).port p with credits := min 65535 (((s.heardBlock t p).port p).credits + grant.toNat) }) := by
    have hr : (s.at t).isReadout p = true := hr
    show execCredit t p grant s = _
    rw [execCredit, whenHears_of_hears hh, if_pos hr]
    rfl
  refine ⟨_, e, ?_⟩
  beta_reduce
  rw [State.port_setPort, if_pos rfl, hp]
  exact ⟨rfl, rfl⟩

/-! ### Blocks that are discarded (R44, R47) -/

/-- CREDIT belongs to readout ports alone. -/
theorem execCredit_of_other {grant : BitVec 16} (hr : s.isReadout p = false) :
    exec (.credit t p grant) s = .next (s.discarded t p (oPort p 0x120)) := by
  have hr : (s.at t).isReadout p = false := hr
  show execCredit t p grant s = _
  rw [execCredit, whenHears_of_hears hh, if_neg (ne_true_of_eq_false hr)]
  rfl

/-- TICK, ECHO and SC_REPLY belong to the other ports. -/
theorem exec_of_readout (hr : s.isReadout p = true) (payload : BitVec 48) (raw : BitVec 28) (ident : BitVec 8) (turn : BitVec 24) :
    exec (.scReply t p payload) s = .next (s.discarded t p (oPort p 0x120)) ∧
    exec (.tick t p raw) s = .next (s.discarded t p (oPort p 0x120)) ∧
    exec (.echo t p ident turn) s = .next (s.discarded t p (oPort p 0x120)) := by
  have hr : (s.at t).isReadout p = true := hr
  refine ⟨?_, ?_, ?_⟩
  · show execScReply t p payload s = _
    rw [execScReply, whenHears_of_hears hh, if_pos hr]
    rfl
  · show execTick t p raw s = _
    rw [execTick, whenHears_of_hears hh, if_pos hr]
    rfl
  · show execEcho t p ident turn s = _
    rw [execEcho, whenHears_of_hears hh, if_pos hr]
    rfl

/-- A block is counted by what is wrong with it. -/
theorem execInvalidUplinkBlock_counts {sync : BitVec 2} {block : Word} {o : Nat}
    (ho : (sync ≠ 1 ∧ sync ≠ 2 ∧ o = oPort p 0x118) ∨
      (sync = 1 ∧ dCheck (s.descA p) = 1 ∧ crc8 block ≠ bf block 7 0 ∧ o = oPort p 0x110) ∨
      (sync = 2 ∧ crc8 block ≠ bf block 7 0 ∧ o = oPort p 0x110) ∨
      (sync = 2 ∧ crc8 block = bf block 7 0 ∧ uplinkKnown (s.isReadout p) block = false ∧ o = oPort p 0x120)) :
    exec (.invalidUplinkBlock t p sync block) s = .next (s.discarded t p o) := by
  show execInvalidUplinkBlock t p sync block s = _
  rw [execInvalidUplinkBlock, whenHears_of_hears hh]
  refine congrArg _ ?_
  obtain ⟨h1, h2, rfl⟩ | ⟨rfl, hd, hc, rfl⟩ | ⟨rfl, hc, rfl⟩ | ⟨rfl, hc, hk, rfl⟩ := ho
  · rw [if_neg h2, if_neg h1]
    rfl
  · have hd : dCheck ((s.at t).descA p) = 1 := hd
    rw [if_neg (by decide), if_pos rfl, if_pos ⟨hd, by simpa using hc⟩]
    rfl
  · rw [if_pos rfl, if_pos (by simpa using hc)]
    rfl
  · have hk : uplinkKnown ((s.at t).isReadout p) block = false := hk
    rw [if_pos rfl, if_neg (by simpa using hc), if_neg (ne_true_of_eq_false hk)]
    rfl

end

/-- Settles O12: one theorem for each block that is taken, and one for each way of discarding another. -/
theorem uplinkBlocksAreControlledOrCounted : Obligations.UplinkBlocksAreControlledOrCounted := by
  refine ⟨⟨fun _ _ _ hh => uplinkIdle_counts hh, fun _ _ _ _ hh hr => scReply_shows hh hr, fun _ _ _ _ hh hr => credit_adds hh hr, ?_⟩,
    fun _ _ _ _ _ _ hh ho => execInvalidUplinkBlock_counts hh ho⟩
  intro t p grant payload raw ident turn s u hh hu
  subst hu
  exact ⟨execCredit_of_other hh, fun hr => exec_of_readout hh hr payload raw ident turn⟩

end Sys2Proof.Machine
end

section
/-! PROOFS. The link state of a port: what moves it, and what a port leaves in a frame (O11). -/

namespace Sys2Proof.Machine

open Sys2Proof.Claims

/-! ### Work at one port

A transition of a port writes the port, registers below those of the queues, its row and error events. -/

structure State.AtPort (p : Nat) (s₀ s : State) : Prop where
  mem : s.mem = s₀.mem
  others : ∀ q, q ≠ p → s.port q = s₀.port q
  cores : s.cores = s₀.cores
  clus : s.clus = s₀.clus
  regionA : s.regionA = s₀.regionA
  regionS : s.regionS = s₀.regionS
  events : s.activeQueues 5 = s₀.activeQueues 5

section
variable {p : PortId} {s₀ s : State}

theorem State.AtPort.refl (p : Nat) (s : State) : State.AtPort p s s := ⟨rfl, fun _ _ => rfl, rfl, rfl, rfl, rfl, rfl⟩

theorem State.AtPort.trans {u : State} (h : State.AtPort p s₀ s) (hu : State.AtPort p s u) : State.AtPort p s₀ u :=
  ⟨hu.mem.trans h.mem, fun q hq => (hu.others q hq).trans (h.others q hq), hu.cores.trans h.cores, hu.clus.trans h.clus,
    hu.regionA.trans h.regionA, hu.regionS.trans h.regionS, hu.events.trans h.events⟩

theorem State.AtPort.same (h : State.AtPort p s₀ s) {now rows errs errNum} :
    State.AtPort p s₀ { s with now, rows, errs, errNum } :=
  ⟨h.mem, h.others, h.cores, h.clus, h.regionA, h.regionS, h.events⟩

theorem State.AtPort.setPort (h : State.AtPort p s₀ s) {x : PortSt} : State.AtPort p s₀ (s.setPort p x) :=
  ⟨h.mem, fun q hq => by rw [State.port_setPort, if_neg hq, h.others q hq], h.cores, h.clus, h.regionA, h.regionS, h.events⟩

theorem State.AtPort.setReg (h : State.AtPort p s₀ s) {o : Nat} {v : Word} (ho : o < oQue 0x100000) : State.AtPort p s₀ (s.setReg o v) :=
  ⟨h.mem, h.others, h.cores, h.clus, h.regionA, h.regionS, (s.activeQueues_setReg v 5 ho).trans h.events⟩

/-- A register of the port. -/
theorem State.AtPort.setField (h : State.AtPort p s₀ s) {o hi lo v : Nat} (ho : o < 0x200 := by decide) :
    State.AtPort p s₀ (s.setField (oPort p o) hi lo v) := h.setReg (oPort_lt p ho)

theorem State.AtPort.bumpN (h : State.AtPort p s₀ s) {o n : Nat} (ho : o < 0x200 := by decide) :
    State.AtPort p s₀ (s.bumpN (oPort p o) n) := h.setReg (oPort_lt p ho)

theorem State.AtPort.bump (h : State.AtPort p s₀ s) {o : Nat} (ho : o < 0x200 := by decide) : State.AtPort p s₀ (s.bump (oPort p o)) :=
  h.bumpN ho

theorem State.AtPort.errWith (h : State.AtPort p s₀ s) {cls src unit code slot d4 d5 d6 d7 : Nat} {cause : Option Nat} :
    State.AtPort p s₀ (s.errWith cls src unit code slot d4 d5 d6 d7 cause) := h.same

theorem State.AtPort.portReef (h : State.AtPort p s₀ s) : State.AtPort p s₀ (s.portReef p) :=
  (h.setReg (o := oMst 0x30) (by decide)).setField

theorem State.AtPort.portToRow (h : State.AtPort p s₀ s) {cycles : Nat} {x : RowIn} : State.AtPort p s₀ (s.portToRow p cycles x) := h.same

theorem State.AtPort.ite {a b : State} (ha : State.AtPort p s₀ a) {c : Prop} {_ : Decidable c} (hb : State.AtPort p s₀ b) :
    State.AtPort p s₀ (if c then a else b) := by split <;> assumption

theorem State.AtPort.emptyBuf (h : State.AtPort p s₀ s) : State.AtPort p s₀ (s.emptyBuf p) :=
  .setPort (List.foldlRecOn _ _ (motive := State.AtPort p s₀) h fun _ hu _ _ => .ite hu.bump hu.bump)

theorem State.AtPort.departUp (h : State.AtPort p s₀ s) {quiet : Bool} : State.AtPort p s₀ (s.departUp p quiet) := by
  have hb : State.AtPort p s₀ (s.bump (oPort p 0x158)) := h.bump
  unfold State.departUp
  extract_lets x u v w
  have hv : State.AtPort p s₀ v := .ite hb hb.portReef.portToRow
  have hw : State.AtPort p s₀ w := .ite (.ite hv hv.errWith) hb
  refine .ite ?_ ?_
  · split
    · exact .ite hb.errWith hb
    · exact hb
  · clear_value w
    exact hw.setPort.emptyBuf

theorem State.AtPort.discardCmds (h : State.AtPort p s₀ s) {l : Link} : State.AtPort p s₀ (s.discardCmds p l) := h.setPort.bumpN

theorem State.AtPort.showMode (h : State.AtPort p s₀ s) : State.AtPort p s₀ (s.showMode p) :=
  .setField (.setField (.ite h.errWith h))

theorem State.atPort_heardBlock (s : State) (t : Time) (p : PortId) : State.AtPort p s (s.heardBlock t p) :=
  ((State.AtPort.refl p s).same (now := t)).bump.setPort

end

/-! ### A port enters a link state (Table 2.4) -/

theorem State.Traffic.event {s₀ s : State} (h : s₀.Traffic s) {code unit : Nat} {ws : List Word} : s₀.Traffic (s.event code unit ws) :=
  h.foldl fun _ _ h => .ite h (.ite (h.setField (by simp only [oQcfg, oQue]; omega)) h.qPut)

/-- Nothing but an event record follows once the port shows its new state. -/
theorem State.enter_moves (s : State) (p : PortId) {l : Link} (hl : l ≠ .measure) (quiet : Bool) :
    ∃ w, s.enter p l quiet = w.portEvent p ∧ State.AtPort p s w ∧ (w.port p).link = l ∧ (w.port p).since = w.now := by
  unfold State.enter
  extract_lets u v x y hit w w'
  have hu : State.AtPort p s u := .ite (State.AtPort.refl p s).departUp (.refl p s)
  have hv : State.AtPort p s v := hu.discardCmds
  have hw : State.AtPort p s w := hv.setPort
  have hw' : w' = w := if_neg hl
  refine ⟨w, by rw [hw'], hw, ?_⟩
  have hp : w.port p = _ := (v.port_setPort p p _).trans (if_pos rfl)
  rw [hp]
  cases l <;> exact ⟨rfl, rfl⟩

/-- A command that makes a port enter `l`, after work at the port alone. -/
theorem movesLink_of_enter {i : Instr} {s v : State} {p : PortId} {l : Link} {quiet : Bool} (h : exec i s = .next (v.enter p l quiet))
    (hv : State.AtPort p s v) (hl : l ≠ .measure) : MovesLink i s p l := by
  obtain ⟨w, e, hw, hlink, hsince⟩ := v.enter_moves p hl quiet
  have ht : w.Traffic (v.enter p l quiet) := by rw [e]; exact (State.Traffic.refl w).event
  have hp : (v.enter p l quiet).port p = w.port p := congrArg (sget PortSt.reset p.val) ht.ports
  have hs := hv.trans hw
  refine ⟨_, h, by rw [hp, hlink], by rw [hp, hsince, ht.now], fun hn => ?_⟩
  rw [e, State.portEvent, State.event_none (hs.events.trans hn)]
  exact ⟨hs.mem, hs.others, hs.cores, hs.clus, hs.regionA, hs.regionS⟩

/-- One that does so at once. -/
theorem movesLink_of_at {i : Instr} {s : State} {p : PortId} {l : Link} {t : Time} {quiet : Bool}
    (h : exec i s = .next ((s.at t).enter p l quiet)) (hl : l ≠ .measure) : MovesLink i s p l :=
  movesLink_of_enter h ((State.AtPort.refl p s).same (now := t)) hl

/-! ### Table 2.4 -/

section
variable {t : Time} {p : PortId} {s : State}

theorem blockLockGained_moves (h : (s.port p).link = .acquire) : MovesLink (.blockLockGained t p) s p .train := by
  refine movesLink_of_at (t := t) (quiet := true) ?_ (by decide)
  show execBlockLockGained t p s = _
  exact congrArg _ (if_pos h)

theorem execBlockLockLost_eq (ho : (s.port p).link ≠ .off) (hd : (s.port p).link ≠ .dead) :
    exec (.blockLockLost t p) s = .next ((s.at t).enter p .acquire false) := by
  show execBlockLockLost t p s = _
  exact congrArg _ (if_neg (not_or.2 ⟨ho, hd⟩))

theorem prtRetrain_moves (ho : (s.port p).link ≠ .off) (hd : (s.port p).link ≠ .dead) : MovesLink (.prtRetrain t p) s p .acquire := by
  refine movesLink_of_at (t := t) (quiet := true) ?_ (by decide)
  show execPrtRetrain t p s = _
  exact congrArg _ (if_neg (not_or.2 ⟨ho, hd⟩))

theorem trainTimeout_moves (h : (s.port p).link = .train) (ht : (s.port p).since + usT 1000 ≤ t) :
    MovesLink (.trainTimeout t p) s p .acquire := by
  refine movesLink_of_at (t := t) (quiet := true) ?_ (by decide)
  show execTrainTimeout t p s = _
  exact congrArg _ (if_pos ⟨h, ht⟩)

theorem syncTimeout_moves {e : Nat} (h : (s.port p).link = .sync) (h4 : 4 ≤ (s.port p).syncs) (he : (s.port p).syncEff = some e)
    (ht : e * unitT + usT 64 < t) : MovesLink (.syncTimeout t p) s p .acquire := by
  refine movesLink_of_at (t := t) (quiet := true) ?_ (by decide)
  have he : ((s.at t).port p).syncEff = some e := he
  show execSyncTimeout t p s = _
  unfold execSyncTimeout
  dsimp only
  rw [he]
  exact congrArg _ ((if_pos ⟨h, ht⟩).trans (if_pos h4))

/-- A STATUS block without DL_LOCK and without a fault of the front end. -/
theorem status_moves {synced : Bool} {word : BitVec 32} (ho : (s.port p).link ≠ .off) (hd : (s.port p).link ≠ .dead)
    (ha : (s.port p).link ≠ .acquire) : MovesLink (.status t p false synced false word) s p .acquire := by
  have hh : (s.port p).hears = true := by simp [PortSt.hears, ho, ha]
  let v := ((s.heardBlock t p).setReg (oPort p 0x10) (BitVec.ofNat 64 word.toNat)).setField (oPort p 8) 2 2 0
  have hv : State.AtPort p s v := ((s.atPort_heardBlock t p).setReg (oPort_lt p (by decide))).setField
  have hd : (v.port p).link ≠ .dead := by
    rw [show v.port p = _ from (s.heardBlock_port t p p).trans (if_pos rfl)]
    exact hd
  refine movesLink_of_enter (v := v) (quiet := false) ?_ hv (by decide)
  show execStatus t p false synced false word s = _
  rw [execStatus, whenHears_of_hears hh]
  refine congrArg _ ?_
  extract_lets u was u1 u2 u3 x
  have h2 : u2 = v := if_neg (by simp)
  have h3 : u3 = v := (if_neg (by simp)).trans h2
  have hx : x.link ≠ .dead := by
    unfold x
    rw [h3]
    exact hd
  rw [if_neg hx, if_pos rfl, h3]

theorem State.SameTimes.setField {u : State} (h : State.SameTimes p s u) {n hi lo v : Nat} (hn : n ≠ 0) :
    State.SameTimes p s (u.setField (oPort p n) hi lo v) := by
  refine ⟨h.eff, h.frame, ?_, fun o ho => ?_⟩
  · rw [State.reg_setField, if_neg (by unfold oPort; omega), h.ctl]
  · rw [State.reg_setField, if_neg (by unfold oPort; omega), h.reg o ho]

/-- The sixteenth TRAIN block with ACK, 16 blocks after the device began to send its own. -/
theorem uplinkTrain_moves {feType : BitVec 16} {serial : BitVec 24} {a : Time} (h : (s.port p).link = .train)
    (h15 : 15 ≤ (s.port p).trainAck) (ha : (s.port p).ackAt = some a) (ht : a + 16 * stitchT ≤ t) (hr : s.isReadout p = false) :
    MovesLink (.uplinkTrain t p feType serial true) s p .sync := by
  have hh : (s.port p).hears = true := by simp [PortSt.hears, h]
  obtain ⟨v, e, hv⟩ : ∃ v, exec (.uplinkTrain t p feType serial true) s = .next (v.enter p .sync true) ∧ State.AtPort p s v := by
    show ∃ v, execUplinkTrain t p feType serial true s = .next (v.enter p .sync true) ∧ State.AtPort p s v
    rw [execUplinkTrain, whenHears_of_hears hh]
    extract_lets w1 w2 x n w3
    have h3 : State.AtPort p s w3 := ((State.AtPort.refl p s).same (now := t)).bump.setField.setField.setPort
    have hp : w3.port p = _ := (w2.port_setPort p p _).trans (if_pos rfl)
    have hack : 16 ≤ (w3.port p).trainAck := by rw [hp]; exact Nat.succ_le_succ h15
    have hat : (w3.port p).ackAt = some a := by
      have hx : x.ackAt = some a := ha
      rw [hp]
      dsimp only
      rw [hx]
      rfl
    have htr : w3.trained p = true := by
      unfold State.trained
      dsimp only
      rw [hat, decide_eq_true hack, Bool.true_and, decide_eq_true_eq]
      exact ht
    have hr3 : w3.isReadout p = false :=
      (((((State.SameTimes.refl p s).at t).bump (by decide)).setField (by decide)).setField (by decide)).setPort p _ |>.isReadout.trans hr
    refine ⟨w3, congrArg _ ?_, h3⟩
    rw [if_pos (show x.link = .train from h), if_pos htr, hr3]
    rfl
  exact movesLink_of_enter e hv (by decide)

/-! ### ENABLE and FORCE_DEAD (R54, R56) -/

theorem prtDisable_moves (ho : (s.port p).link ≠ .off) : MovesLink (.prtEnable t p false) s p .off := by
  refine movesLink_of_enter (v := (s.at t).setField (oPort p 0) 0 0 0) (quiet := true) ?_
    ((State.AtPort.refl p s).same (now := t)).setField (by decide)
  show execPrtEnable t p false s = _
  exact congrArg _ ((if_neg Bool.false_ne_true).trans (if_neg ho))

theorem prtForceDead_moves (ho : (s.port p).link ≠ .off) (hd : (s.port p).link ≠ .dead) :
    MovesLink (.prtForceDead t p true) s p .dead := by
  refine movesLink_of_enter (v := (s.at t).setField (oPort p 0) 1 1 1) (quiet := true) ?_
    ((State.AtPort.refl p s).same (now := t)).setField (by decide)
  show execPrtForceDead t p true s = _
  exact congrArg _ (if_pos ⟨rfl, ho, hd⟩)

theorem execPrtForceDead_release (t : Time) (p : PortId) (s : State) :
    exec (.prtForceDead t p false) s = .next ((s.at t).setField (oPort p 0) 1 1 0) := by
  show execPrtForceDead t p false s = _
  unfold execPrtForceDead
  exact congrArg _ (if_neg fun h => Bool.false_ne_true h.1)

/-- Showing the mode touches neither the port nor PRT_CTL. -/
theorem State.showMode_port (s : State) (p : Nat) :
    (s.showMode p).port p = s.port p ∧ (s.showMode p).field (oPort p 0) 1 1 = s.field (oPort p 0) 1 1 := by
  have hne : oPort p 0 ≠ oPort p 8 := by unfold oPort; omega
  unfold State.showMode State.reshow
  rw [State.port_setField_other, State.port_setField_other, State.field_setField_ne _ _ _ _ _ _ hne,
    State.field_setField_ne _ _ _ _ _ _ hne]
  split <;> exact ⟨rfl, rfl⟩

/-- A port that may leave OFF leaves it. -/
theorem prtEnable_moves (ho : (s.port p).link = .off) (hm : ((s.at t).setField (oPort p 0) 0 0 1).mayLeaveOff p = true) :
    MovesLink (.prtEnable t p true) s p (if (s.port p).failed = true ∨ s.field (oPort p 0) 1 1 = 1 then .dead else .acquire) := by
  let v := (s.at t).setField (oPort p 0) 0 0 1
  have hv : State.AtPort p s (v.showMode p) := ((State.AtPort.refl p s).same (now := t)).setField.showMode
  obtain ⟨hp, hf⟩ := v.showMode_port p
  have hf : (v.showMode p).field (oPort p 0) 1 1 = s.field (oPort p 0) 1 1 :=
    hf.trans (State.field_setField_disjoint _ _ _ (by decide) (by decide) (by decide))
  have e : exec (.prtEnable t p true) s = .next (if (s.port p).failed = true ∨ s.field (oPort p 0) 1 1 = 1 then
      (v.showMode p).enter p .dead true else (v.showMode p).enter p .acquire true) := by
    show execPrtEnable t p true s = _
    refine congrArg _ ((if_pos rfl).trans ((if_pos ⟨ho, hm⟩).trans ?_))
    show (if ((v.showMode p).port p).failed = true ∨ (v.showMode p).field (oPort p 0) 1 1 = 1 then _ else _) = _
    rw [hp, hf]
    rfl
  by_cases hc : (s.port p).failed = true ∨ s.field (oPort p 0) 1 1 = 1
  · rw [if_pos hc] at e ⊢
    exact movesLink_of_enter e hv (by decide)
  · rw [if_neg hc] at e ⊢
    exact movesLink_of_enter e hv (by decide)

end

/-! ### A hit port leaves UP in a frame (R54, R55) -/

/-- What leaves the buffers with the port is counted as late or as gap, and nothing else is done. -/
theorem State.emptyBuf_shows (s : State) (p : Nat) :
    (s.emptyBuf p).errs = s.errs ∧ ((s.emptyBuf p).port p).buf = [] ∧ ((s.emptyBuf p).port p).closed = (s.port p).closed ∧
    ∀ o, o ≠ oPort p 0x140 → o ≠ oPort p 0x138 → (s.emptyBuf p).reg o = s.reg o := by
  have step (u : State) (t : Int) (o : Nat) (h1 : o ≠ oPort p 0x140) (h2 : o ≠ oPort p 0x138) :
      (if u.frame.count ≠ 0 ∧ t < u.stopFine then u.bump (oPort p 0x140) else u.bump (oPort p 0x138)).reg o = u.reg o := by
    split
    · exact (u.reg_bumpN _ o 1).trans (if_neg h1)
    · exact (u.reg_bumpN _ o 1).trans (if_neg h2)
  unfold State.emptyBuf
  extract_lets u
  have hp : u.port p = s.port p := foldl_keeps (fun x => x.port p) (fun u t => by split <;> rfl) _ s
  refine ⟨foldl_keeps State.errs (fun u t => by split <;> rfl) _ s, by rw [State.port_setPort, if_pos rfl], ?_, fun o h1 h2 => ?_⟩
  · rw [State.port_setPort, if_pos rfl]
    show (u.port p).closed = _
    rw [hp]
  · exact foldl_keeps (fun x => x.reg o) (fun u t => step u t o h1 h2) _ s

/-- The stitch of the port is closed. -/
def State.shut (s : State) (p : Nat) : State := s.setPort p { s.port p with closed := true }

/-- The departure as R55 has it: counted, reported by the row's bit, told to the row, recorded. -/
theorem State.departUp_open {s : State} {p : Nat} (hr : s.isReadout p = false) (hc : s.castOn = true) (ho : (s.port p).closed = false) :
    s.departUp p false = (((((s.bump (oPort p 0x158)).portReef p).portToRow p 5 .close).err 1 0 p 1 0).shut p).emptyBuf p := by
  have hr : (s.bump (oPort p 0x158)).isReadout p = false := ((State.SameTimes.refl p s).bump (by decide)).isReadout.trans hr
  unfold State.departUp
  extract_lets x u v w
  have hv : v = (u.portReef p).portToRow p 5 .close := if_neg (ne_true_of_eq_false ho)
  have hw : w = v.err 1 0 p 1 0 := (if_pos (show u.castOn = true from hc)).trans (if_neg Bool.false_ne_true)
  rw [if_neg (ne_true_of_eq_false hr)]
  show (w.shut p).emptyBuf p = _
  rw [hw, hv]

theorem State.reg_portToRow (s : State) (p cycles : Nat) (x : RowIn) (o : Nat) : (s.portToRow p cycles x).reg o = s.reg o := rfl

/-- The sticky report of the row and the bit of the port, and no other register. -/
theorem State.portReef_shows (s : State) (p : PortId) :
    (s.portReef p).field (oMst 0x30) (p.val / 16) (p.val / 16) = 1 ∧ (s.portReef p).field (oPort p 8) 7 7 = 1 ∧
    ∀ o, o ≠ oMst 0x30 → o ≠ oPort p 8 → (s.portReef p).reg o = s.reg o := by
  have hp := p.isLt
  have hne : oMst 0x30 ≠ oPort p 8 := by unfold oPort oMst; omega
  unfold State.portReef
  refine ⟨?_, State.field_setField_self _ _ _ (by decide) (by decide), fun o h1 h2 => ?_⟩
  · rw [State.field_setField_ne _ _ _ _ _ _ hne]
    exact State.field_sticky _ (by omega)
  · rw [State.reg_setField, if_neg h2, State.sticky, State.reg_setReg, if_neg h1]

theorem State.departUp_shows {s : State} {p : PortId} (hr : s.isReadout p = false) (hc : s.castOn = true) (ho : (s.port p).closed = false) :
    ((s.departUp p false).port p).closed = true ∧ ((s.departUp p false).port p).buf = [] ∧
    (s.departUp p false).field (oMst 0x30) (p.val / 16) (p.val / 16) = 1 ∧ (s.departUp p false).field (oPort p 8) 7 7 = 1 ∧
    SentError (s.departUp p false) 1 0 p 1 ∧
    ((s.departUp p false).reg (oPort p 0x158)).toNat = min (2 ^ 64 - 1) ((s.reg (oPort p 0x158)).toNat + 1) := by
  have e := State.departUp_open hr hc ho
  generalize hv : (((s.bump (oPort p 0x158)).portReef p).portToRow p 5 .close).err 1 0 p 1 0 = v at e
  obtain ⟨he, hb, hcl, hreg⟩ := (v.shut p).emptyBuf_shows p
  have hp := p.isLt
  have hv' (o : Nat) : v.reg o = ((s.bump (oPort p 0x158)).portReef p).reg o := by
    rw [← hv, State.reg_err_other, State.reg_portToRow]
  obtain ⟨reef, shown, others⟩ := (s.bump (oPort p 0x158)).portReef_shows p
  have err : SentError v 1 0 p 1 := by rw [← hv]; exact State.sentError_err ..
  have hv (o : Nat) (h1 : o ≠ oPort p 0x140) (h2 : o ≠ oPort p 0x138) :
      ((v.shut p).emptyBuf p).reg o = ((s.bump (oPort p 0x158)).portReef p).reg o := by
    rw [hreg o h1 h2, ← hv', State.shut, State.reg_setPort_other]
  rw [e]
  refine ⟨?_, hb, ?_, ?_, ?_, ?_⟩
  · rw [hcl, State.shut, State.port_setPort, if_pos rfl]
  · rw [State.field, hv _ (by unfold oPort oMst; omega) (by unfold oPort oMst; omega)]
    exact reef
  · rw [State.field, hv _ (by unfold oPort; omega) (by unfold oPort; omega)]
    exact shown
  · unfold SentError
    rw [he]
    exact err
  · rw [hv _ (by unfold oPort; omega) (by unfold oPort; omega), others _ (by unfold oPort oMst; omega) (by unfold oPort; omega)]
    exact s.toNat_bump (oPort p 0x158)

theorem State.discardCmds_errs (s : State) (p : PortId) (l : Link) : (s.discardCmds p l).errs = s.errs := by
  rw [State.discardCmds, State.bumpN_errs, State.setPort_errs]

theorem State.reg_discardCmds (s : State) (p : PortId) (l : Link) {o : Nat} (h : o ≠ oPort p 0x150) :
    (s.discardCmds p l).reg o = s.reg o := by
  rw [State.discardCmds, State.reg_bumpN, if_neg h, State.reg_setPort_other]

/-- A departure to ACQUIRE adds no more than the count of discarded commands. -/
theorem State.enter_acquire_shows {s : State} {p : PortId} (hl : (s.port p).link = .up) (hn : noEvents s) (quiet : Bool) :
    ((s.enter p .acquire quiet).port p).closed = ((s.departUp p quiet).port p).closed ∧
    ((s.enter p .acquire quiet).port p).buf = ((s.departUp p quiet).port p).buf ∧
    (s.enter p .acquire quiet).errs = (s.departUp p quiet).errs ∧
    ∀ o, o ≠ oPort p 0x150 → (s.enter p .acquire quiet).reg o = (s.departUp p quiet).reg o := by
  unfold State.enter
  extract_lets u v x y hit w w'
  have hu : u = s.departUp p quiet := if_pos ⟨hl, by decide⟩
  have hq : State.AtPort p s w := ((by rw [hu]; exact (State.AtPort.refl p s).departUp : State.AtPort p s u).discardCmds).setPort
  have hw' : w' = w := if_neg (by decide)
  have hp : w.port p = _ := (v.port_setPort p p _).trans (if_pos rfl)
  have hvp : v.port p = { u.port p with cmds := (u.port p).cmds.filter fun c => sendable .acquire c.rank } :=
    (u.port_setPort p p _).trans (if_pos rfl)
  rw [hw', State.portEvent, State.event_none (hq.events.trans hn), hp, ← hu]
  refine ⟨?_, ?_, ?_, fun o ho => ?_⟩
  · show (v.port p).closed = _
    rw [hvp]
  · show (v.port p).buf = _
    rw [hvp]
  · exact (State.setPort_errs ..).trans (u.discardCmds_errs p .acquire)
  · exact (State.reg_setPort_other ..).trans (u.reg_discardCmds p .acquire ho)

theorem blockLockLost_closes {t : Time} {p : PortId} {s : State} (hl : (s.port p).link = .up) (hr : s.isReadout p = false)
    (hc : s.castOn = true) (ho : (s.port p).closed = false) (hn : noEvents s) :
    Completes (.blockLockLost t p) s fun u =>
      (u.port p).closed = true ∧ (u.port p).buf = [] ∧ u.field (oMst 0x30) (p.val / 16) (p.val / 16) = 1 ∧
      u.field (oPort p 8) 7 7 = 1 ∧ SentError u 1 0 p 1 ∧
      (u.reg (oPort p 0x158)).toNat = min (2 ^ 64 - 1) ((s.reg (oPort p 0x158)).toNat + 1) ∧ u.mem = s.mem := by
  have hoff : (s.port p).link ≠ .off := by rw [hl]; decide
  have hdead : (s.port p).link ≠ .dead := by rw [hl]; decide
  obtain ⟨closed, buf, reef, shown, err, count⟩ := State.departUp_shows (s := s.at t) hr hc ho
  obtain ⟨hclosed, hbuf, herrs, hreg⟩ := State.enter_acquire_shows (s := s.at t) hl hn false
  obtain ⟨w, e, hw, -, -⟩ := (s.at t).enter_moves p (l := .acquire) (by decide) false
  have hm : ((s.at t).enter p .acquire false).mem = s.mem := by
    rw [e, State.portEvent, State.event_none (hw.events.trans hn)]
    exact hw.mem
  refine ⟨_, execBlockLockLost_eq hoff hdead, hclosed.trans closed, hbuf.trans buf, ?_, ?_, ?_, ?_, hm⟩
  · rw [State.field, hreg _ (by have := p.isLt; unfold oPort oMst; omega)]
    exact reef
  · rw [State.field, hreg _ (by unfold oPort; omega)]
    exact shown
  · unfold SentError
    rw [herrs]
    exact err
  · rw [hreg _ (by unfold oPort; omega)]
    exact count

/-- Settles O11: one theorem for each transition, and one for what a departure from UP leaves in a frame. -/
theorem linksFollowTheTableAndSoftware : Obligations.LinksFollowTheTableAndSoftware := by
  refine ⟨⟨fun _ _ _ h => blockLockGained_moves h, fun t p s ho hd => ?_, fun _ _ _ h ht => trainTimeout_moves h ht,
      fun _ _ _ _ h h4 he ht => syncTimeout_moves h h4 he ht, fun _ _ _ _ _ _ h h15 ha ht hr => uplinkTrain_moves h h15 ha ht hr⟩,
    ⟨fun _ _ _ ho => ⟨prtDisable_moves ho, prtForceDead_moves ho⟩, fun _ _ _ ho hm => prtEnable_moves ho hm, execPrtForceDead_release⟩,
    fun _ _ _ hl hr hc ho hn => blockLockLost_closes hl hr hc ho hn⟩
  refine ⟨movesLink_of_at (execBlockLockLost_eq ho hd) (by decide), prtRetrain_moves ho hd, ?_⟩
  intro ha synced fault word hf
  subst hf
  exact status_moves ho hd ha

end Sys2Proof.Machine
end

section
/-! PROOFS. SYNC and ECHO commands, their replies, and calibration runs (O14). -/

namespace Sys2Proof.Machine

open Sys2Proof.Claims

/-! ### Sending a command

A command that is sent, displaced or discarded (R75) shows in the port's commands, a counter and an error event alone. -/

def State.Sends (p : Nat) (s₀ s : State) : Prop := s.mem = s₀.mem ∧ ∃ l, s.port p = { s₀.port p with cmds := l }

section
variable {p : Nat} {s₀ s : State}

theorem State.Sends.refl (p : Nat) (s : State) : State.Sends p s s := ⟨rfl, _, rfl⟩

theorem State.Sends.bump (h : State.Sends p s₀ s) {o : Nat} : State.Sends p s₀ (s.bump o) := h

theorem State.Sends.err (h : State.Sends p s₀ s) {cls src unit code slot : Nat} : State.Sends p s₀ (s.err cls src unit code slot) := h

theorem State.Sends.setCmds (h : State.Sends p s₀ s) {l : List FastCmd} : State.Sends p s₀ (s.setPort p { s.port p with cmds := l }) := by
  obtain ⟨hm, l', hp⟩ := h
  exact ⟨hm, l, by rw [State.port_setPort, if_pos rfl, hp]⟩

theorem State.Sends.placeCmd (h : State.Sends p s₀ s) {fuel rank : Nat} {teff : Int} {code arg : Nat} {soft : Bool} :
    State.Sends p s₀ (State.placeCmd fuel s p rank teff code arg soft) := by
  induction fuel generalizing s rank teff code arg soft with
  | zero => exact h
  | succ _ ih =>
    rw [State.placeCmd]
    split
    · exact h.bump.err
    · exact List.foldlRecOn _ _ (motive := State.Sends p s₀) h.setCmds fun _ hu _ _ => ih hu

theorem State.sends_sendCmd (s : State) (p rank : Nat) (teff : Int) (code arg : Nat) (soft : Bool) :
    State.Sends p s (s.sendCmd p rank teff code arg soft) := by
  rw [State.sendCmd]
  split
  · exact (State.Sends.refl p s).placeCmd
  · exact (State.Sends.refl p s).bump

end

/-! ### The commands (R53, R79) -/

section
variable {t : Time} {p : PortId} {s : State}

theorem syncCommand_sends (hl : (s.port p).link = .sync) (h0 : (s.port p).syncs = 0) :
    Completes (.syncCommand t p) s fun u =>
      (u.port p).syncs = 1 ∧ (u.port p).syncEff = some (syncBoundary (devUnits (s.port p).since)) ∧ u.mem = s.mem := by
  have e : exec (.syncCommand t p) s = .next ((s.at t).sendSync p (syncBoundary (devUnits (s.port p).since))) := by
    show execSyncCommand t p s = _
    exact congrArg _ (if_pos ⟨hl, h0⟩)
  refine ⟨_, e, ?_⟩
  rw [State.sendSync]
  obtain ⟨hm, l, hp⟩ := State.sends_sendCmd _ _ _ _ _ _ _
  rw [hp, State.port_setPort, if_pos rfl]
  exact ⟨congrArg (· + 1) h0, rfl, hm⟩

theorem echoCommand_sends (hc : (s.port p).calRun = true) (h16 : (s.port p).calSent < 16) :
    Completes (.echoCommand t p) s fun u =>
      (u.port p).calSent = (s.port p).calSent + 1 ∧ (u.port p).calNext = (s.port p).calNext + 32768000 ∧ u.mem = s.mem ∧
      (u.port p).echoes = (s.port p).echoes ++
        [(((s.port p).calRound * 16 + (s.port p).calSent) % 256, (s.port p).calNext)] := by
  have e : exec (.echoCommand t p) s = .next (((s.at t).setPort p { s.port p with
      calSent := (s.port p).calSent + 1, calNext := (s.port p).calNext + 32768000,
      echoes := (s.port p).echoes ++ [(((s.port p).calRound * 16 + (s.port p).calSent) % 256, (s.port p).calNext)] }).sendCmd p 2
        (s.port p).calNext 0x09 (((s.port p).calRound * 16 + (s.port p).calSent) % 256 * 2 ^ 14) false) := by
    show execEchoCommand t p s = _
    exact congrArg _ (if_pos ⟨hc, h16⟩)
  refine ⟨_, e, ?_⟩
  obtain ⟨hm, l, hp⟩ := State.sends_sendCmd _ _ _ _ _ _ _
  rw [hp, State.port_setPort, if_pos rfl]
  exact ⟨rfl, rfl, hm, rfl⟩

/-! ### Replies (R78, R79) -/

theorem echo_gives_roundTrip {ident : BitVec 8} {turn : BitVec 24} {eff : Int} (hh : (s.port p).hears = true)
    (hr : s.isReadout p = false) (hc : (s.port p).calRun = true) (he : (s.port p).echoes = [(ident.toNat, eff)])
    (h0 : (s.port p).rtts = []) (ht : (t : Int) ≤ eff + (usT 64 : Int)) :
    Completes (.echo t p ident turn) s fun u =>
      (u.port p).echoes = [] ∧ (u.port p).rtts = [((t / 128 * 128 : Nat) : Int) - eff - ((turn.toNat * 128 : Nat) : Int)] ∧
      u.mem = s.mem := by
  have hp := (s.heardBlock_port t p p).trans (if_pos rfl)
  have hrun : ((s.heardBlock t p).port p).calRun = true := by rw [hp]; exact hc
  have hecho : ((s.heardBlock t p).port p).echoes = [(ident.toNat, eff)] := by rw [hp]; exact he
  have hrtts : ((s.heardBlock t p).port p).rtts = [] := by rw [hp]; exact h0
  have e : exec (.echo t p ident turn) s = .next ((s.heardBlock t p).setPort p { (s.heardBlock t p).port p with
      echoes := [], rtts := [((t / 128 * 128 : Nat) : Int) - eff - ((turn.toNat * 128 : Nat) : Int)] }) := by
    have hr : (s.at t).isReadout p = false := hr
    show execEcho t p ident turn s = _
    rw [execEcho, whenHears_of_hears hh, if_neg (ne_true_of_eq_false hr), ← State.heardBlock]
    simp [hrun, hecho, hrtts, ht]
  refine ⟨_, e, ?_⟩
  beta_reduce
  rw [State.port_setPort, if_pos rfl]
  exact ⟨rfl, rfl, rfl⟩

theorem echoTimeout_repeats {ident : Nat} {eff : Int} (hc : (s.port p).calRun = true) (h4 : (s.port p).calRound < 4)
    (he : (ident, eff) ∈ (s.port p).echoes) (ht : eff + (usT 64 : Int) < (t : Int)) :
    Completes (.echoTimeout t p) s fun u =>
      (u.port p).calRound = (s.port p).calRound + 1 ∧ (u.port p).calSent = 0 ∧ (u.port p).echoes = [] ∧ u.regs = s.regs ∧
      u.mem = s.mem := by
  have late : (s.port p).echoes.any (fun e => decide (e.2 + (usT 64 : Int) < (t : Int))) = true :=
    List.any_eq_true.2 ⟨_, he, decide_eq_true ht⟩
  have e : exec (.echoTimeout t p) s = .next ((s.at t).setPort p { s.port p with
      calRound := (s.port p).calRound + 1, calSent := 0, calNext := (s.at t).firstEcho p, echoes := [], rtts := [] }) := by
    show execEchoTimeout t p s = _
    exact congrArg _ ((if_pos ⟨hc, late⟩).trans (if_pos h4))
  refine ⟨_, e, ?_⟩
  beta_reduce
  rw [State.port_setPort, if_pos rfl]
  exact ⟨rfl, rfl, rfl, rfl, rfl⟩

/-! ### CAL_START (R79) -/

theorem calStart_begins_or_waits (hr : s.isReadout p = false) (hc : (s.port p).calRun = false) (hl : (s.port p).link ≠ .measure) :
    Completes (.calStart t p) s fun u =>
      u.mem = s.mem ∧
      (((s.port p).link = .ready ∨ (s.port p).link = .up) ∧ s.castOn = false →
        (u.port p).calRun = true ∧ (u.port p).calRound = 1 ∧ u.field (oPort p 0x28) 58 56 = 1) ∧
      (¬ (((s.port p).link = .ready ∨ (s.port p).link = .up) ∧ s.castOn = false) →
        (u.port p).calRun = false ∧ (u.port p).calReq = true ∧ u.field (oPort p 0x28) 58 56 = 2) := by
  have e : exec (.calStart t p) s = .next (if ((s.port p).link = .ready ∨ (s.port p).link = .up) ∧ s.castOn = false
      then (s.at t).calBegin p
      else ((s.at t).setPort p { s.port p with calReq := true }).setField (oPort p 0x28) 58 56 2) := by
    have hr : ¬ (s.at t).isReadout p = true := ne_true_of_eq_false hr
    have hw : ¬ ((s.port p).calRun = true ∨ (s.port p).link = .measure) := not_or.2 ⟨ne_true_of_eq_false hc, hl⟩
    show execCalStart t p s = _
    exact congrArg _ ((if_neg hr).trans (if_neg hw))
  refine ⟨_, e, ?_⟩
  beta_reduce
  by_cases hb : ((s.port p).link = .ready ∨ (s.port p).link = .up) ∧ s.castOn = false
  · rw [if_pos hb, State.calBegin, State.port_setField_other, State.port_setPort, if_pos rfl]
    exact ⟨rfl, fun _ => ⟨rfl, rfl, State.field_setField_self _ _ _ (by decide) (by decide)⟩, fun h => absurd hb h⟩
  · rw [if_neg hb, State.port_setField_other, State.port_setPort, if_pos rfl]
    exact ⟨rfl, fun h => absurd h hb, fun _ => ⟨hc, rfl, State.field_setField_self _ _ _ (by decide) (by decide)⟩⟩

end

/-- Settles O14: one theorem for each command of the calibration. -/
theorem syncAndCalibration : Obligations.SyncAndCalibration :=
  ⟨fun _ _ _ hl h0 => syncCommand_sends hl h0, fun _ _ _ hc h16 => echoCommand_sends hc h16,
    fun _ _ _ _ _ _ hh hr hc he h0 ht => echo_gives_roundTrip hh hr hc he h0 ht,
    fun _ _ _ _ _ hc h4 he ht => echoTimeout_repeats hc h4 he ht,
    fun _ _ _ hr hc hl => calStart_begins_or_waits hr hc hl⟩

end Sys2Proof.Machine
end

section
/-! PROOFS. Software commands, slow-control words and readout records on the downlink (O15). -/

namespace Sys2Proof.Machine

open Sys2Proof.Claims

/-! ### The block of a command (R74, R75) -/

/-- The latest block not after an effective time. -/
def latestBlock (teff ph : Int) : Int := (teff - ph * 192) / 327680

theorem refTicks_latestBlock_le (teff ph : Int) : refTicks (latestBlock teff ph) ph ≤ teff := by
  unfold refTicks latestBlock
  omega

theorem lt_refTicks_latestBlock_succ (teff ph : Int) : teff < refTicks (latestBlock teff ph + 1) ph := by
  unfold refTicks latestBlock
  omega

/-- A block is shorter than 1 µs. -/
theorem le_refTicks_latestBlock {t eff : Nat} (h : t + usT 1 ≤ eff) (ph : Int) : (t : Int) ≤ refTicks (latestBlock eff ph) ph := by
  have hhi := lt_refTicks_latestBlock_succ eff ph
  have hu : usT 1 = 128000000 := rfl
  unfold refTicks at hhi ⊢
  omega

/-- A block is shorter than the reach of FINE, so the latest block is the first of the window. -/
theorem find?_blockWindow {teff ph : Int} {ok : Int → Bool} (h : ok (latestBlock teff ph) = true) :
    (blockWindow teff ph).find? ok = some (latestBlock teff ph) := by
  have hl : teff - 65535 * 125 ≤ refTicks (latestBlock teff ph) ph := by
    unfold refTicks latestBlock
    omega
  have first : latestBlock teff ph - ((0 : Nat) : Int) = latestBlock teff ph := Int.sub_zero _
  obtain ⟨l, hw⟩ : ∃ l, blockWindow teff ph =
      List.filter (fun j => decide (teff - 65535 * 125 ≤ refTicks j ph)) ((latestBlock teff ph - ((0 : Nat) : Int)) :: l) := ⟨_, rfl⟩
  rw [hw, first, List.filter_cons_of_pos (by exact decide_eq_true hl), List.find?_cons_of_pos h]

/-- A command in the latest block not after its effective time. -/
def State.latestCmd (s : State) (p rank : Nat) (teff : Int) (code arg : Nat) (soft : Bool) : FastCmd :=
  { rank := rank, ref := latestBlock teff (s.phase p), teff := teff, code := code, arg := arg,
    fine := lowBits 16 (roundDiv (teff - refTicks (latestBlock teff (s.phase p)) (s.phase p)) 125), phase := s.phase p, soft := soft }

/-- A port that has no other command gives one its latest block, if that lies ahead. -/
theorem State.sendCmd_of_free {s : State} {p rank : Nat} {teff : Int} (code arg : Nat) (soft : Bool) (hc : (s.port p).cmds = [])
    (hs : sendable (s.port p).link rank = true) (ht : (s.now : Int) ≤ refTicks (latestBlock teff (s.phase p)) (s.phase p)) :
    s.sendCmd p rank teff code arg soft =
      s.setPort p { s.port p with cmds := [s.latestCmd p rank teff code arg soft] } := by
  rw [State.sendCmd, if_pos hs, State.placeCmd]
  dsimp only
  rw [find?_blockWindow (by rw [hc]; simpa using ht), hc]
  rfl

/-! ### FCSEND (R77, R81) -/

theorem softClass_rank {code rank bitNo : Nat} (h : softClass code = some (rank, bitNo)) : 3 ≤ rank := by
  unfold softClass at h
  split at h
  · cases h; decide
  · split at h
    · cases h; decide
    · split at h <;> cases h
      decide

theorem sendable_soft {l : Link} {rank : Nat} (hr : 3 ≤ rank) (hl : l = .up ∨ l = .ready) : sendable l rank = true := by
  rw [sendable, if_neg (by omega), if_neg (by omega), if_neg (by omega)]
  obtain rfl | rfl := hl <;> rfl

section
variable {t : Time} {p : PortId} {v : Word} {s : State}

/-- FCSEND of a known code at a port that has no other command. -/
theorem execFcsend_eq {rank bitNo : Nat} (hc : (s.port p).cmds = []) (hk : softClass (bf v 63 58) = some (rank, bitNo)) :
    exec (.fcsend t p v) s = .next (
      if s.field (oPort p 0x38) 55 0 * unitT < t + usT 1 ∨ bit (dFcMask (s.descB p)) bitNo = false ∨ s.isReadout p = true then
        (s.at t).bump (oPort p 0x150)
      else (s.at t).sendCmd p rank ((s.field (oPort p 0x38) 55 0 * unitT : Nat) : Int) (bf v 63 58)
        (softArg (bf v 63 58) (bf v 57 36)) true) := by
  have hs : ¬ ((s.at t).port p).cmds.any (·.soft) = true := by
    rw [show ((s.at t).port p).cmds = [] from hc]
    decide
  show execFcsend t p v s = _
  rw [execFcsend, if_neg hs, hk]
  rfl

theorem fcsend_holds {rank bitNo : Nat} (hc : (s.port p).cmds = []) (hl : (s.port p).link = .up ∨ (s.port p).link = .ready)
    (hr : s.isReadout p = false) (hk : softClass (bf v 63 58) = some (rank, bitNo)) (hb : bit (dFcMask (s.descB p)) bitNo = true)
    (ht : t + usT 1 ≤ s.field (oPort p 0x38) 55 0 * unitT) :
    Completes (.fcsend t p v) s fun u =>
      (∃ c, (u.port p).cmds = [c] ∧ c.code = bf v 63 58 ∧ c.arg = (if bf v 63 58 = 0x0B then 0 else bf v 57 36) ∧ c.soft = true ∧
        c.teff = ((s.field (oPort p 0x38) 55 0 * unitT : Nat) : Int) ∧ (t : Int) ≤ refTicks c.ref c.phase ∧
        refTicks c.ref c.phase ≤ c.teff ∧ c.teff < refTicks (c.ref + 1) c.phase) ∧ u.regs = s.regs ∧ u.mem = s.mem := by
  have ok : ¬ (s.field (oPort p 0x38) 55 0 * unitT < t + usT 1 ∨ bit (dFcMask (s.descB p)) bitNo = false ∨ s.isReadout p = true) := by
    rw [hb, hr]
    simpa using ht
  have e := execFcsend_eq (t := t) hc hk
  rw [if_neg ok] at e
  generalize s.field (oPort p 0x38) 55 0 * unitT = eff at ht e ⊢
  have hlo := refTicks_latestBlock_le (eff : Int) (s.phase p)
  have hhi := lt_refTicks_latestBlock_succ (eff : Int) (s.phase p)
  have ahead := le_refTicks_latestBlock ht (s.phase p)
  rw [State.sendCmd_of_free (s := s.at t) _ _ _ hc (sendable_soft (softClass_rank hk) hl) ahead] at e
  refine ⟨_, e, ⟨_, by rw [State.port_setPort, if_pos rfl], rfl, rfl, rfl, rfl, ahead, hlo, hhi⟩, rfl, rfl⟩

/-! ### Departures (R48, R74, R82, R464) -/

theorem fastCommandDeparture_sends {c : FastCmd} (hc : (s.port p).cmds = [c]) (ht : refTicks c.ref c.phase ≤ (t : Int)) :
    Completes (.fastCommandDeparture t p) s fun u =>
      (u.port p).cmds = [] ∧ u.regs = s.regs ∧ u.mem = s.mem ∧
      (u.port p).sent =
        [(false, withCrc8 (setBf (setBf (setBf (setBf 0 63 56 0x87) 55 50 c.code) 49 34 c.fine) 33 12 c.arg))] := by
  have e : exec (.fastCommandDeparture t p) s = .next ((s.at t).setPort p { (s.port p).echoLeft c with
      cmds := [],
      sent := [(false, withCrc8 (setBf (setBf (setBf (setBf 0 63 56 0x87) 55 50 c.code) 49 34 c.fine) 33 12 c.arg))] }) := by
    have hc : ((s.at t).port p).cmds = [c] := hc
    show execFastCommandDeparture t p s = _
    rw [execFastCommandDeparture]
    dsimp only
    have due : [c].filter (fun c => decide (refTicks c.ref c.phase ≤ (t : Int))) = [c] := List.filter_cons_of_pos (decide_eq_true ht)
    have gone : [c].filter (fun d => d.ref != c.ref) = [] := List.filter_cons_of_neg (by simp)
    rw [hc, due]
    dsimp only [List.foldl_nil]
    rw [gone]
    rfl
  refine ⟨_, e, ?_⟩
  beta_reduce
  rw [State.port_setPort, if_pos rfl]
  exact ⟨rfl, rfl, rfl, rfl⟩

theorem slowControlSend_leaves_or_waits :
    ((s.port p).link = .up ∧ s.isHit p = true →
      exec (.slowControlSend t p v) s = .next ((s.at t).setPort p { s.port p with sent := [(true, withCrc8 v)] })) ∧
    (¬ ((s.port p).link = .up ∧ s.isHit p = true) →
      exec (.slowControlSend t p v) s = .next ((s.at t).setPort p { s.port p with scOut := some (withCrc8 v) })) := by
  refine ⟨fun h => ?_, fun h => ?_⟩
  · show execSlowControlSend t p v s = _
    exact congrArg _ (if_pos h)
  · show execSlowControlSend t p v s = _
    exact congrArg _ (if_neg h)

theorem readoutRecordSend_sends {q : QueueId} (hl : (s.port p).link = .up) (hr : s.isReadout p = true) (hc : 0 < (s.port p).credits)
    (idle : ∀ a b e, (s.port p).sending = some (a, b, e) → e ≤ t) (hs : s.qState q = 1) (hq : s.qType q = 1)
    (hv : bf (s.reg (oQbind q)) 52 52 = 1) (hp : bf (s.reg (oQbind q)) 51 43 = p.val) (hi : s.qHost q ≠ s.qDev q) :
    Completes (.readoutRecordSend t p q) s fun u =>
      (u.port p).credits = (s.port p).credits - 1 ∧ u.qHost q = (s.qHost q + 1) % 2 ^ 32 ∧ u.qDev q = s.qDev q ∧ u.mem = s.mem ∧
      (u.port p).sent = roBlocks (bf (s.reg (oQbind q)) 42 35) (s.qHost q % 65536) (s.qEntry q (s.qHost q)) := by
  have e : exec (.readoutRecordSend t p q) s = .next ((((s.at t).setPort p { s.port p with
      credits := (s.port p).credits - 1,
      sent := roBlocks (bf (s.reg (oQbind q)) 42 35) (s.qHost q % 65536) (s.qEntry q (s.qHost q)),
      sending := some (bf (s.reg (oQbind q)) 42 35, s.qHost q % 65536, t + 10 * stitchT) }).setQueue q { s.queue q with
        fresh := (s.queue q).fresh.filter fun e => e.1 != s.qHost q }).setField (oQidx q) 31 0 ((s.qHost q + 1) % 2 ^ 32)) := by
    have free : (match ((s.at t).port p).sending with
        | some (_, _, e) => decide (e ≤ t)
        | none => true) = true := by
      split
      case h_1 he => exact decide_eq_true (idle _ _ _ he)
      case h_2 => rfl
    show execReadoutRecordSend t p q s = _
    rw [execReadoutRecordSend]
    exact if_pos ⟨hl, hr, hc, free, hs, hq, hv, hp, hi⟩
  refine ⟨_, e, ?_⟩
  beta_reduce
  rw [State.port_setField_other, State.port_setQueue_other, State.port_setPort, if_pos rfl]
  refine ⟨rfl, ?_, ?_, rfl, rfl⟩
  · exact (State.field_setField_self _ _ _ (by decide) (by decide)).trans (Nat.mod_mod _ _)
  · exact State.field_setField_disjoint _ _ _ (by decide) (by decide) (by decide)

end

/-- Settles O15: one theorem for each thing that leaves, and the answer of FCSEND to what it refuses. -/
theorem downlinkCommands : Obligations.DownlinkCommands := by
  refine ⟨fun _ _ _ _ _ _ hc hl hr hk hb ht => fcsend_holds hc hl hr hk hb ht,
    fun _ _ _ _ _ _ hc hk h => (execFcsend_eq hc hk).trans (congrArg _ (if_pos h)), fun t p v s hk => ?_,
    fun _ _ _ _ => slowControlSend_leaves_or_waits, fun _ _ _ _ hc ht => fastCommandDeparture_sends hc ht,
    fun _ _ _ _ hl hr hc idle hs hq hv hp hi => readoutRecordSend_sends hl hr hc idle hs hq hv hp hi⟩
  show execFcsend t p v s = _
  rw [execFcsend, hk]
  exact ite_self _

end Sys2Proof.Machine
end

section
/-! PROOFS. Replies of the host: how one is taken, and what those of F0, F1, F3 and F6 do (O52). -/

namespace Sys2Proof.Machine

open Sys2Proof.Claims

/-! ### A reply is taken (R449, R466)

A reply that leaves its completion queue, and its job with it, change the index of that queue, its record of completed entries and the
outstanding jobs. -/

structure State.TakesReply (f : Nat) (s u : State) : Prop where
  now : u.now = s.now
  frame : u.frame = s.frame
  eff : u.eff = s.eff
  ports : u.ports = s.ports
  rows : u.rows = s.rows
  cores : u.cores = s.cores
  clus : u.clus = s.clus
  mast : u.mast = s.mast
  mem : u.mem = s.mem
  reg : ∀ o, o ≠ oQidx (s.field (oQue (f * 0x10)) 46 32) → u.reg o = s.reg o

theorem State.takesReply_cqTake (s : State) (f : Nat) : State.TakesReply f s (s.cqTake f) := by
  have keeps : ∃ queues regs, s.cqTake f = { s with queues, regs } := by
    obtain e | ⟨x, v, e⟩ := s.cqTake_cases f <;> exact ⟨_, _, e⟩
  obtain ⟨queues, regs, e⟩ := keeps
  exact ⟨by rw [e], by rw [e], by rw [e], by rw [e], by rw [e], by rw [e], by rw [e], by rw [e], by rw [e], fun _ => State.cqTake_reg⟩

theorem State.haFind_cqTake (s : State) (f : Nat) (reply : List Word) : (s.cqTake f).haFind f reply = s.haFind f reply := by
  rw [State.haFind, State.haFn, State.cqTake_ha]
  rfl

/-- The state in which the reply to a job is used: it has been taken, and the job is no longer outstanding. -/
def State.replied (s : State) (t : Time) (f job : Nat) : State := ((s.at t).cqTake f).haDone f job

theorem State.takesReply_replied (s : State) (t : Time) (f job : Nat) : State.TakesReply f (s.at t) (s.replied t f job) := by
  obtain ⟨now, frame, eff, ports, rows, cores, clus, mast, mem, reg⟩ := (s.at t).takesReply_cqTake f
  exact ⟨now, frame, eff, ports, rows, cores, clus, mast, mem, reg⟩

theorem State.haFn_replied (s : State) (t : Time) (f job : Nat) :
    ((s.replied t f job).haFn f).out = (s.haFn f).out.filter fun x => x.job != job := by
  rw [State.replied, State.haDone, State.haFn_setHa, if_pos rfl, State.haFn, State.cqTake_ha]
  rfl

/-- What is done with a reply touches neither registers nor memory nor the outstanding jobs. -/
theorem replied_of_same {s u : State} {t : Time} {f : Nat} {h : HaJob} (regs : u.regs = (s.replied t f h.job).regs)
    (mem : u.mem = (s.replied t f h.job).mem) (ha : u.ha = (s.replied t f h.job).ha) : Replied s u f h := by
  have hv := s.takesReply_replied t f h.job
  refine ⟨fun o ho => ?_, mem.trans hv.mem, ?_⟩
  · rw [State.reg, regs]
    exact hv.reg o ho
  · rw [State.haFn, ha]
    exact s.haFn_replied t f h.job

section
variable {f : Nat} {s u : State} (h : State.TakesReply f s u)
include h

theorem State.TakesReply.port (p : Nat) : u.port p = s.port p := congrArg (sget PortSt.reset p) h.ports
theorem State.TakesReply.row (r : Nat) : u.row r = s.row r := congrArg (sget RowSt.reset r) h.rows
theorem State.TakesReply.core (c : Nat) : u.core c = s.core c := congrArg (sget CoreSt.reset c) h.cores
theorem State.TakesReply.clu (k : Nat) : u.clu k = s.clu k := congrArg (sget CluSt.reset k) h.clus

/-- Registers of the ports. -/
theorem State.TakesReply.reg_oPort {p o : Nat} (hp : p < 512) (ho : o < 0x200) : u.reg (oPort p o) = s.reg (oPort p o) :=
  h.reg _ (by unfold oPort oQidx oQue; omega)

theorem State.TakesReply.sameTimes {p : Nat} (hp : p < 512) : State.SameTimes p s u :=
  ⟨h.eff, h.frame, h.reg_oPort hp (by decide), fun o ho => h.reg o (by unfold oQidx oQue; omega)⟩

/-- A reply that is counted as stale changes the count alone (R466). -/
theorem State.TakesReply.haStale : (u.haStale.reg (oQue 0x210)).toNat = min (2 ^ 64 - 1) ((s.reg (oQue 0x210)).toNat + 1) ∧
    SameRegs (fun o => o = oQue 0x210 ∨ o = oQidx (s.field (oQue (f * 0x10)) 46 32)) s u.haStale := by
  refine ⟨?_, fun o ho => ?_⟩
  · rw [State.haStale, State.toNat_bump, h.reg _ (by unfold oQidx oQue; omega)]
  · obtain ⟨h1, h2⟩ := not_or.1 ho
    rw [State.haStale, State.bump, State.reg_bumpN, if_neg h1, h.reg o h2]

end

section
variable {t : Time} {reply : List Word} {s : State} {h : HaJob}

/-- A reply that names no outstanding job is stale, whatever its function. -/
theorem exec_of_haFind_none {f : Nat} {i : Instr}
    (hi : (f, i) ∈ [(0, Instr.hitDecodeReply t reply), (1, .orderingReply t reply), (2, .ruleEvalReply t reply), (3, .combineReply t reply),
      (4, .heapKeepReply t reply), (6, .linkCalReply t reply), (7, .slowPathReply t reply)]) (hn : s.haFind f reply = none) :
    exec i s = .next ((s.at t).cqTake f).haStale := by
  have hq : ((s.at t).cqTake f).haFind f reply = none := ((s.at t).haFind_cqTake f reply).trans hn
  have hn : (s.at t).haFind f reply = none := hn
  simp only [List.mem_cons, Prod.mk.injEq, List.not_mem_nil, or_false] at hi
  obtain ⟨rfl, rfl⟩ | ⟨rfl, rfl⟩ | ⟨rfl, rfl⟩ | ⟨rfl, rfl⟩ | ⟨rfl, rfl⟩ | ⟨rfl, rfl⟩ | ⟨rfl, rfl⟩ := hi
  · show execHitDecodeReply t reply s = _
    rw [execHitDecodeReply]
    dsimp only
    rw [hq]
  · show execOrderingReply t reply s = _
    rw [execOrderingReply]
    dsimp only
    rw [hq]
  · show execRuleEvalReply t reply s = _
    rw [execRuleEvalReply, State.reply, hn]
  · show execCombineReply t reply s = _
    rw [execCombineReply, hq]
  · show execHeapKeepReply t reply s = _
    rw [execHeapKeepReply, State.reply, hn]
  · show execLinkCalReply t reply s = _
    rw [execLinkCalReply, hq]
  · show execSlowPathReply t reply s = _
    rw [execSlowPathReply, State.reply, hn]

theorem staleReply_counted {f : Nat} {i : Instr} (e : exec i s = .next ((s.at t).cqTake f).haStale) :
    Completes i s fun u => (u.reg (oQue 0x210)).toNat = min (2 ^ 64 - 1) ((s.reg (oQue 0x210)).toNat + 1) ∧
      SameRegs (fun o => o = oQue 0x210 ∨ o = oQidx (s.field (oQue (f * 0x10)) 46 32)) s u ∧ u.mem = s.mem ∧ u.cores = s.cores ∧
      u.rows = s.rows ∧ u.ports = s.ports ∧ u.mast = s.mast ∧ u.ha = s.ha := by
  have hv := (s.at t).takesReply_cqTake f
  obtain ⟨hc, hr⟩ := hv.haStale
  exact ⟨_, e, hc, hr, hv.mem, hv.cores, hv.rows, hv.ports, hv.mast, (s.at t).cqTake_ha f⟩

/-! ### F0 and F6: words of a stitch, TCORR (R64, Table 14.9) -/

/-- The one word of a reply of F0 goes through the stitch; an open stitch then reports its port time. -/
theorem execHitDecodeReply_one (hf : s.haFind 0 reply = some h) (h1 : bf (reply.getD 7 0) 2 0 = 1) (hl : reply.length = 8) :
    exec (.hitDecodeReply t reply) s = .next (
      let u := (s.replied t 0 h.job).replyWord (h.unit % 512) ((h.base / 16 + replyTime (reply.getD 1 0) : Nat) : Int) (reply.getD 1 0)
      if (u.port (h.unit % 512)).closed then u else u.reportTime (h.unit % 512) 3) := by
  have hq : ((s.at t).cqTake 0).haFind 0 reply = some h := ((s.at t).haFind_cqTake 0 reply).trans hf
  have word : (reply.drop 1).take (min 6 (bf (reply.getD 7 0) 2 0)) = [reply.getD 1 0] := by
    rw [h1]
    match reply, hl with
    | [a, b, c, d, e, f, g, w], _ => rfl
  show execHitDecodeReply t reply s = _
  rw [execHitDecodeReply]
  dsimp only
  rw [hq]
  dsimp only
  rw [word]
  rfl

section
variable {x : Int} {w : Word} (hf : s.haFind 0 reply = some h) (h1 : bf (reply.getD 7 0) 2 0 = 1) (hl : reply.length = 8)
  (hw : w = reply.getD 1 0) (hx : x = ((h.base / 16 + replyTime w : Nat) : Int))
include hf h1 hl hw hx

/-- A word of the frame that the stitch has closed is late. -/
theorem hitDecodeReply_late (hc : (s.port (h.unit % 512)).closed = true) (late : x < s.stopFine) :
    Completes (.hitDecodeReply t reply) s fun u => u.ports = s.ports ∧ u.rows = s.rows ∧ u.mem = s.mem ∧
      (u.reg (oPort (h.unit % 512) 0x140)).toNat = min (2 ^ 64 - 1) ((s.reg (oPort (h.unit % 512) 0x140)).toNat + 1) := by
  have hp : h.unit % 512 < 512 := Nat.mod_lt _ (by decide)
  have hv := s.takesReply_replied t 0 h.job
  have e := execHitDecodeReply_one (t := t) hf h1 hl
  rw [← hw, ← hx] at e
  generalize s.replied t 0 h.job = v at hv e
  have hc : (v.port (h.unit % 512)).closed = true := (congrArg PortSt.closed (hv.port _)).trans hc
  have hr : v.replyWord (h.unit % 512) x w = v.bump (oPort (h.unit % 512) 0x140) :=
    (if_pos hc).trans (if_pos (by rw [(hv.sameTimes hp).stopFine]; exact late))
  refine ⟨_, e, ?_⟩
  dsimp only
  rw [hr, State.bump, State.port_bumpN_other, if_pos hc]
  refine ⟨hv.ports, hv.rows, hv.mem, ?_⟩
  rw [← State.bump, State.toNat_bump, hv.reg_oPort hp (by decide)]
  rfl

/-- A word of a later frame waits for it. -/
theorem hitDecodeReply_held (hc : (s.port (h.unit % 512)).closed = true) (later : s.stopFine ≤ x) :
    Completes (.hitDecodeReply t reply) s fun u => Replied s u 0 h ∧
      u.port (h.unit % 512) = { s.port (h.unit % 512) with held := (s.port (h.unit % 512)).held ++ [(x, w)] } ∧ u.rows = s.rows := by
  have hp : h.unit % 512 < 512 := Nat.mod_lt _ (by decide)
  have hv := s.takesReply_replied t 0 h.job
  have e := execHitDecodeReply_one (t := t) hf h1 hl
  rw [← hw, ← hx] at e
  have hport : (s.replied t 0 h.job).port (h.unit % 512) = s.port (h.unit % 512) := hv.port _
  have hr : (s.replied t 0 h.job).replyWord (h.unit % 512) x w = (s.replied t 0 h.job).setPort (h.unit % 512)
      { s.port (h.unit % 512) with held := (s.port (h.unit % 512)).held ++ [(x, w)] } := by
    rw [State.replyWord, hport, if_pos hc, if_neg (by rw [(hv.sameTimes hp).stopFine]; exact not_lt.2 later)]
    beta_reduce
    rw [hport]
  refine ⟨_, e, ?_⟩
  dsimp only
  rw [hr, State.port_setPort, if_pos rfl, if_pos hc, State.port_setPort, if_pos rfl]
  exact ⟨replied_of_same rfl rfl rfl, rfl, hv.rows⟩

/-- A TIME word that passes moves the port time, which goes to the row. -/
theorem hitDecodeReply_time (hc : (s.port (h.unit % 512)).closed = false) (ht : bf w 63 56 = 0x12)
    (hpass : s.classify (h.unit % 512) x = .pass) :
    Completes (.hitDecodeReply t reply) s fun u => Replied s u 0 h ∧ (u.port (h.unit % 512)).portTime = some x ∧
      (u.row (h.unit % 512 / 16)).inbox = insertDue (t + 3 * stitchT, h.unit % 512 % 16, .time ((x - s.startFine) * 16).toNat)
        (s.row (h.unit % 512 / 16)).inbox := by
  have hp : h.unit % 512 < 512 := Nat.mod_lt _ (by decide)
  have hv := s.takesReply_replied t 0 h.job
  have e := execHitDecodeReply_one (t := t) hf h1 hl
  rw [← hw, ← hx] at e
  have hport : (s.replied t 0 h.job).port (h.unit % 512) = s.port (h.unit % 512) := hv.port _
  have hclass := ((hv.sameTimes hp).classify (congrArg PortSt.portTime hport) x).trans hpass
  have hr : (s.replied t 0 h.job).replyWord (h.unit % 512) x w = (s.replied t 0 h.job).advance (h.unit % 512) x := by
    rw [State.replyWord, hport, if_neg (ne_true_of_eq_false hc), hclass]
    exact if_pos ht
  have htime : ((s.replied t 0 h.job).advance (h.unit % 512) x).reportTime (h.unit % 512) 3 =
      ((s.replied t 0 h.job).advance (h.unit % 512) x).portToRow (h.unit % 512) 3 (.time ((x - s.startFine) * 16).toNat) := by
    rw [State.reportTime, State.advance, State.port_setPort, if_pos rfl]
    dsimp only
    rw [((hv.sameTimes hp).setPort _ _).startFine]
    rfl
  refine ⟨_, e, ?_⟩
  dsimp only
  rw [hr, htime, if_neg (by rw [State.advance, State.port_setPort, if_pos rfl, hport]; exact ne_true_of_eq_false hc)]
  refine ⟨replied_of_same rfl rfl rfl, ?_, ?_⟩
  · rw [State.port_portToRow, State.advance, State.port_setPort, if_pos rfl]
  · rw [State.row_portToRow, State.advance, State.row_setPort_other, State.setPort_now, hv.now, hv.row]
    rfl

end

theorem linkCalReply_sets (hf : s.haFind 6 reply = some h) : Completes (.linkCalReply t reply) s fun u =>
    u.field (oPort (h.unit % 512) 0x18) 23 0 = bf (reply.getD 1 0) 23 0 ∧ u.mem = s.mem ∧
    SameRegs (fun o => o = oPort (h.unit % 512) 0x18 ∨ o = oQidx (s.field (oQue 0x60) 46 32)) s u := by
  have hq : ((s.at t).cqTake 6).haFind 6 reply = some h := ((s.at t).haFind_cqTake 6 reply).trans hf
  have hv := s.takesReply_replied t 6 h.job
  have e : exec (.linkCalReply t reply) s =
      .next ((s.replied t 6 h.job).setField (oPort (h.unit % 512) 0x18) 23 0 (bf (reply.getD 1 0) 23 0)) := by
    show execLinkCalReply t reply s = _
    rw [execLinkCalReply, hq]
    rfl
  refine ⟨_, e, ?_, hv.mem, fun o ho => ?_⟩
  · rw [State.field_setField_self _ _ _ (by decide) (by decide)]
    exact Nat.mod_eq_of_lt (bf_lt ..)
  · obtain ⟨h1, h2⟩ := not_or.1 ho
    rw [State.reg_setField, if_neg h1]
    exact hv.reg o h2

end

end Sys2Proof.Machine
end

section
/-! PROOFS. Replies of F1 and F3: words and watermarks of a row, the values of a slot (O52). -/

namespace Sys2Proof.Machine

open Sys2Proof.Claims

/-! ### Hits that the voter of the host emits (R115)

Lines that are written leave a row's selected hits as they are. -/

theorem State.picked_writeLine (s : State) (r : Nat) (last stop : Bool) : ((s.writeLine r last stop).row r).picked = (s.row r).picked := by
  unfold State.writeLine
  dsimp only
  split
  · rfl
  · rw [State.row_setRow, if_pos rfl]
    split
    · rw [State.row_setField_other]
      exact congrArg (fun l => (sget RowSt.reset r l).picked) ((State.Traffic.refl s).memPutBy.histIndex ..).rows
    · rfl

theorem State.picked_fullLines (s : State) (r n : Nat) : ((s.fullLines r n).row r).picked = (s.row r).picked := by
  induction n generalizing s with
  | zero => rfl
  | succ n ih =>
    rw [State.fullLines]
    split
    · rw [ih, State.picked_writeLine]
    · rfl

theorem State.picked_emit (s : State) (r : Nat) (x : RowHit) : ((s.emit r x).row r).picked = (s.row r).picked := by
  rw [State.emit, State.lineAdd, State.row_setRow, if_pos rfl]
  exact State.picked_fullLines ..

/-- A line that is not full is not written. -/
theorem State.mem_emit {s : State} {r : Nat} (x : RowHit) (h : (s.row r).line.length < 7) : (s.emit r x).mem = s.mem := by
  rw [State.emit, State.lineAdd, show ((s.bump (oRow r 0x100)).row r).line.length / 7 = 0 from Nat.div_eq_of_lt h]
  rfl

section
variable {t : Time} {reply : List Word} {s : State} {h : HaJob}

/-! ### F1 (Table 14.9) -/

theorem orderingReply_watermarks (hf : s.haFind 1 reply = some h) (h1 : bf (reply.headD 0) 55 52 = 1) :
    Completes (.orderingReply t reply) s fun u =>
      Replied s u 1 h ∧ (u.row (h.unit % 32)).haPw = bf (reply.getD 3 0) 27 0 ∧
      sget 0 (bf (reply.getD 1 0) 5 0) (u.row (h.unit % 32)).haFw = bf (reply.getD 2 0) 27 0 := by
  have hq : ((s.at t).cqTake 1).haFind 1 reply = some h := ((s.at t).haFind_cqTake 1 reply).trans hf
  have e : exec (.orderingReply t reply) s = .next ((s.replied t 1 h.job).setRow (h.unit % 32)
      { (s.replied t 1 h.job).row (h.unit % 32) with
        haPw := bf (reply.getD 3 0) 27 0,
        haFw := sset 0 (bf (reply.getD 1 0) 5 0) (bf (reply.getD 2 0) 27 0) ((s.replied t 1 h.job).row (h.unit % 32)).haFw }) := by
    show execOrderingReply t reply s = _
    rw [execOrderingReply, hq]
    exact if_pos h1
  refine ⟨_, e, replied_of_same rfl rfl rfl, ?_⟩
  rw [State.row_setRow, if_pos rfl]
  exact ⟨rfl, sget_sset_self ..⟩

/-- The hit that the first word of a reply makes. -/
def State.replyHit (s : State) (t : Time) (reply : List Word) : RowHit :=
  { key := wordKey (reply.getD 1 0), stream := bf (reply.getD 7 0) 4 0, seq := 0, word := reply.getD 1 0,
    region := bf (sget 0 (bf (reply.getD 1 0) 43 28) s.regionA) 11 0, behind := false, cyc := t / rowT }

/-- A word that is no hit adds nothing: only the first of these six is one. -/
theorem foldl_range_first {f : State → Nat → State} (h : ∀ s i, i ≠ 0 → i < 6 → f s i = s) (s : State) : (List.range 6).foldl f s = f s 0 := by
  show f (f (f (f (f (f s 0) 1) 2) 3) 4) 5 = f s 0
  rw [h _ 5 (by decide) (by decide), h _ 4 (by decide) (by decide), h _ 3 (by decide) (by decide), h _ 2 (by decide) (by decide),
    h _ 1 (by decide) (by decide)]

theorem orderingReply_word (hf : s.haFind 1 reply = some h) (h1 : bf (reply.headD 0) 55 52 ≠ 1)
    (hv : (s.row (h.unit % 32)).vstate ≠ 2) (hw : bf (reply.getD 1 0) 63 56 = 0x10)
    (hu : ∀ k, 2 ≤ k → k < 7 → reply.getD k 0 = uninit) (hl : reply.length = 8) :
    Completes (.orderingReply t reply) s fun u => ((s.row (h.unit % 32)).line.length < 7 → u.mem = s.mem) ∧
      ∃ x, (u.row (h.unit % 32)).picked = (s.row (h.unit % 32)).picked ++ [x] ∧ x.word = reply.getD 1 0 ∧
        x.stream = bf (reply.getD 7 0) 4 0 := by
  have hq : ((s.at t).cqTake 1).haFind 1 reply = some h := ((s.at t).haFind_cqTake 1 reply).trans hf
  have ht := s.takesReply_replied t 1 h.job
  have hrow : (s.replied t 1 h.job).row (h.unit % 32) = s.row (h.unit % 32) := ht.row _
  have word (k : Nat) (hk : k < 8) : reply.getD k uninit = reply.getD k 0 := by
    rw [List.getD_eq_getElem _ _ (hl ▸ hk), List.getD_eq_getElem _ _ (hl ▸ hk)]
  have e : exec (.orderingReply t reply) s = .next (((s.replied t 1 h.job).setRow (h.unit % 32) { s.row (h.unit % 32) with
      picked := (s.row (h.unit % 32)).picked ++ [(s.replied t 1 h.job).replyHit t reply] }).emit (h.unit % 32)
        ((s.replied t 1 h.job).replyHit t reply)) := by
    show execOrderingReply t reply s = _
    rw [execOrderingReply, hq]
    refine (if_neg h1).trans (congrArg _ ((foldl_range_first (fun v i h0 h6 => ?_) _).trans ?_))
    · dsimp only
      rw [word (i + 1) (by omega), hu (i + 1) (by omega) (by omega)]
      exact if_neg (fun hc => absurd hc.1 (by decide))
    · dsimp only
      rw [word 1 (by decide)]
      rw [hw, if_pos ⟨.inl rfl, by exact hrow ▸ hv⟩]
      rw [← State.replied, hrow]
      rfl
  refine ⟨_, e, fun hn => ?_, (s.replied t 1 h.job).replyHit t reply, ?_, rfl, rfl⟩
  · rw [State.mem_emit _ (by rw [State.row_setRow, if_pos rfl]; exact hn)]
    exact ht.mem
  · rw [State.picked_emit, State.row_setRow, if_pos rfl]

/-! ### F3 (Table 14.9) -/

/-- The values of a slot that is still open are kept for its decision. -/
theorem combineReply_open (hf : s.haFind 3 reply = some h) (h1 : h.op ≠ 1) (hk : s.mast.next ≤ bf (h.words.getD 1 0) 31 0) :
    Completes (.combineReply t reply) s fun u => Replied s u 3 h ∧
      sget [] (bf (h.words.getD 1 0) 31 0) u.mast.f3 = [reply.getD 1 0, reply.getD 2 0, reply.getD 3 0] := by
  have hq : ((s.at t).cqTake 3).haFind 3 reply = some h := ((s.at t).haFind_cqTake 3 reply).trans hf
  have hm : (s.replied t 3 h.job).mast = s.mast := (s.takesReply_replied t 3 h.job).mast
  have e : exec (.combineReply t reply) s = .next { s.replied t 3 h.job with
      mast := { (s.replied t 3 h.job).mast with
        f3 := sset [] (bf (h.words.getD 1 0) 31 0) [reply.getD 1 0, reply.getD 2 0, reply.getD 3 0] (s.replied t 3 h.job).mast.f3 } } := by
    show execCombineReply t reply s = _
    rw [execCombineReply, hq]
    exact (if_neg h1).trans (if_neg (by rw [← State.replied, hm]; exact Nat.not_lt.2 hk))
  refine ⟨_, e, replied_of_same rfl rfl rfl, ?_⟩
  dsimp only
  exact sget_sset_self ..

/-- Values for a slot already decided are stale. -/
theorem combineReply_stale (hf : s.haFind 3 reply = some h) (h1 : h.op ≠ 1) (hk : bf (h.words.getD 1 0) 31 0 < s.mast.next) :
    Completes (.combineReply t reply) s fun u => u.mast = s.mast ∧ u.mem = s.mem ∧
      (u.reg (oQue 0x210)).toNat = min (2 ^ 64 - 1) ((s.reg (oQue 0x210)).toNat + 1) := by
  have hq : ((s.at t).cqTake 3).haFind 3 reply = some h := ((s.at t).haFind_cqTake 3 reply).trans hf
  have hv := s.takesReply_replied t 3 h.job
  have e : exec (.combineReply t reply) s = .next (s.replied t 3 h.job).haStale := by
    show execCombineReply t reply s = _
    rw [execCombineReply, hq]
    exact (if_neg h1).trans (if_pos (by rw [← State.replied, hv.mast]; exact hk))
  exact ⟨_, e, hv.mast, hv.mem, hv.haStale.1⟩

/-- The answer to an early slot moves nothing. -/
theorem combineReply_none (hf : s.haFind 3 reply = some h) (h1 : h.op = 1) :
    Completes (.combineReply t reply) s fun u => Replied s u 3 h ∧ u.mast = s.mast := by
  have hq : ((s.at t).cqTake 3).haFind 3 reply = some h := ((s.at t).haFind_cqTake 3 reply).trans hf
  have e : exec (.combineReply t reply) s = .next (s.replied t 3 h.job) := by
    show execCombineReply t reply s = _
    rw [execCombineReply, hq]
    exact if_pos h1
  exact ⟨_, e, replied_of_same rfl rfl rfl, (s.takesReply_replied t 3 h.job).mast⟩

end

end Sys2Proof.Machine
end

section
/-! PROOFS. Replies of F2, F4 and F7: an evaluation of the host, and words that wait for one (O52). -/

namespace Sys2Proof.Machine

open Sys2Proof.Claims

section
variable {t : Time} {reply : List Word} {s : State} {h : HaJob}

/-! ### F2 (Table 14.9) -/

theorem State.TakesReply.evalSlice {f : Nat} {u : State} (hu : State.TakesReply f s u) (h : HaJob) : u.evalSlice h = s.evalSlice h := by
  have hs (k : SliceKey) : u.slice (cluOf (unitCore h.unit)) k = s.slice (cluOf (unitCore h.unit)) k :=
    congrArg (fun x : CluSt => x.slices.find? fun y : Slice => y.key == k) (hu.clu _)
  rw [State.evalSlice, State.evalSlice, State.ctx, State.ctx, hu.core, funext hs]

theorem State.clu_shadowEmpty (s : State) (c j k : Nat) : (s.shadowEmpty c j).clu k = s.clu k := by
  rw [State.shadowEmpty, State.setCtx, State.clu_setField_other, State.clu_setCore_other]

theorem State.haFn_shadowEmpty (s : State) (c j f : Nat) : (s.shadowEmpty c j).haFn f = s.haFn f := by
  rw [State.shadowEmpty, State.setCtx, State.haFn_setField_other, State.haFn_setCore_other]

theorem State.shadowEmpty_mem (s : State) (c j : Nat) : (s.shadowEmpty c j).mem = s.mem := by
  rw [State.shadowEmpty, State.setCtx, State.setField_mem, State.setCore_mem]

section
variable {x : Slice} (hf : s.haFind 2 reply = some h) (he : s.evalSlice h = some x)
  (hs : (s.clu (cluOf (unitCore h.unit))).slices = [x])
include hf he hs

/-- A candidate is staged by the slice. -/
theorem ruleEvalReply_stages (h1 : bf (reply.headD 0) 55 52 = 1) (hl : x.staged.length < 64) :
    Completes (.ruleEvalReply t reply) s fun u => u.mem = s.mem ∧ (u.clu (cluOf (unitCore h.unit))).slices =
      [{ x with staged := x.staged ++ [((List.range 7).map fun i => reply.getD (i + 1) 0) ++ [0]] }] := by
  have hv := (s.at t).takesReply_cqTake 2
  have hf : (s.at t).haFind 2 reply = some h := hf
  have e : exec (.ruleEvalReply t reply) s = .next (((s.at t).cqTake 2).setSlice (cluOf (unitCore h.unit))
      { x with staged := x.staged ++ [((List.range 7).map fun i => reply.getD (i + 1) 0) ++ [0]] }) := by
    show execRuleEvalReply t reply s = _
    rw [execRuleEvalReply, State.reply, hf]
    dsimp only
    rw [if_neg (fun h => h.1 rfl), State.evalReply, (hv.evalSlice h).trans he]
    exact congrArg _ ((if_pos h1).trans (if_neg (Nat.not_le.2 hl)))
  exact ⟨_, e, hv.mem, State.slices_setSlice ((congrArg CluSt.slices (hv.clu _)).trans hs) rfl⟩

/-- The end of the evaluation ends the slice's program and frees its context. -/
theorem ruleEvalReply_ends (h0 : bf (reply.headD 0) 55 52 = 0) :
    Completes (.ruleEvalReply t reply) s fun u => u.mem = s.mem ∧
      (u.clu (cluOf (unitCore h.unit))).slices = [{ x with ended := true }] ∧
      (u.ctx (unitCore h.unit) (unitCtx h.unit)).prog = none ∧ (u.ctx (unitCore h.unit) (unitCtx h.unit)).state = 1 ∧
      (u.haFn 2).out = (s.haFn 2).out.filter fun x => x.job != h.job := by
  have hv := (s.at t).takesReply_cqTake 2
  have hr := s.takesReply_replied t 2 h.job
  have hf : (s.at t).haFind 2 reply = some h := hf
  obtain ⟨w, hw, e⟩ : ∃ w, w = ((s.replied t 2 h.job).setSlice (cluOf (unitCore h.unit)) { x with ended := true }).shadowEmpty
      (unitCore h.unit) (unitCtx h.unit) ∧ exec (.ruleEvalReply t reply) s = .next (w.setCtx (unitCore h.unit) (unitCtx h.unit)
        { w.ctx (unitCore h.unit) (unitCtx h.unit) with prog := none, state := 1, waits := 1 }) := by
    refine ⟨_, rfl, ?_⟩
    show execRuleEvalReply t reply s = _
    rw [execRuleEvalReply, State.reply, hf]
    dsimp only
    rw [if_neg (fun h => h.1 rfl), State.evalReply, (hv.evalSlice h).trans he]
    exact congrArg _ (if_neg (by rw [h0]; decide))
  have slices : (w.clu (cluOf (unitCore h.unit))).slices = [{ x with ended := true }] := by
    rw [hw, State.clu_shadowEmpty]
    exact State.slices_setSlice ((congrArg CluSt.slices (hr.clu _)).trans hs) rfl
  have out : (w.haFn 2).out = (s.haFn 2).out.filter fun x => x.job != h.job := by
    rw [hw, State.haFn_shadowEmpty]
    exact s.haFn_replied t 2 h.job
  have mem : w.mem = s.mem := by
    rw [hw, State.shadowEmpty_mem]
    exact hr.mem
  refine ⟨_, e, mem, slices, ?_, ?_, out⟩ <;> rw [State.ctx_setCtx, if_pos ⟨rfl, rfl⟩]

end

/-! ### Replies that the core does not take yet (log entry 61) -/

theorem heapKeepReply_waits (hf : s.haFind 4 reply = some h) (ht : (s.at t).takesAnswer 4 h = false) :
    exec (.heapKeepReply t reply) s = .next (s.at t) := by
  have hf : (s.at t).haFind 4 reply = some h := hf
  show execHeapKeepReply t reply s = _
  rw [execHeapKeepReply, State.reply, hf]
  exact congrArg _ (if_pos ⟨by decide, ht⟩)

theorem slowPathReply_waits (hf : s.haFind 7 reply = some h) (ht : (s.at t).takesAnswer 7 h = false) :
    exec (.slowPathReply t reply) s = .next (s.at t) := by
  have hf : (s.at t).haFind 7 reply = some h := hf
  show execSlowPathReply t reply s = _
  rw [execSlowPathReply, State.reply, hf]
  exact congrArg _ (if_pos ⟨by decide, ht⟩)

end

/-! ### A word that waited completes (R173, R235)

The word belongs to the current context of core `c`, which neither a bank nor a trap window covers and which has no loop under way: `f`
is its flow, `l` the register file. -/

structure State.Serves (c : Nat) (l : Sparse Word) (f : Flow) (s₀ s : State) : Prop where
  regs : s.regs = s₀.regs
  mem : s.mem = s₀.mem
  ha : s.ha = s₀.ha
  cur : (s.core c).cur = (s₀.core c).cur
  run : (s.core c).run = (s₀.core c).run
  out : (s.core c).out = (s₀.core c).out
  bank : (s.core c).bankOn = false
  trap : (s.core c).trap = none
  rf : (s.core c).rf = l
  flow : (s.core c).me.flow = f
  susp : (s.core c).me.susp = none
  ldep : stLdep (s.core c).me.spec.st = 0

section
variable {c : Nat} {l : Sparse Word} {f : Flow} {s₀ s : State} (h : State.Serves c l f s₀ s)
include h

theorem State.Serves.flowOf : s.flow c = f := (CoreSt.flow_ctx h.bank h.trap).trans h.flow
theorem State.Serves.stOf : s.st c = (s.core c).me.spec.st := CoreSt.st_ctx h.bank h.trap
theorem State.Serves.specOf : s.spec c = (s.core c).me.spec := CoreSt.spec_ctx h.bank

theorem State.Serves.setMe (y : CtxSt) (hs : y.susp = none) (hl : stLdep y.spec.st = 0) : State.Serves c l y.flow s₀ (s.setMe c y) := by
  have hc := s.core_setMe c y
  refine ⟨h.regs, h.mem, h.ha, ?_, ?_, ?_, ?_, ?_, ?_, ?_, ?_, ?_⟩ <;> rw [hc]
  · exact h.cur
  · exact h.run
  · exact h.out
  · exact h.bank
  · exact h.trap
  · exact h.rf
  · rw [CoreSt.me_setCtx_cur]
  · rw [CoreSt.me_setCtx_cur]; exact hs
  · rw [CoreSt.me_setCtx_cur]; exact hl

theorem State.Serves.setFlow (g : Flow) : State.Serves c l g s₀ (s.setFlow c g) := by
  have e : s.setFlow c g = s.setMe c { (s.core c).me with flow := g } := by
    simp [State.setFlow, CoreSt.setFlow, State.setMe, h.bank, h.trap]
  rw [e]
  exact h.setMe { (s.core c).me with flow := g } h.susp h.ldep

theorem State.Serves.setSpec (p : SpecSt) (hp : stLdep p.st = 0) : State.Serves c l f s₀ (s.setSpec c p) := by
  have e : s.setSpec c p = s.setMe c { (s.core c).me with spec := p } := by
    simp [State.setSpec, CoreSt.setSpec, State.setMe, h.bank]
  rw [e, ← h.flow]
  exact h.setMe { (s.core c).me with spec := p } h.susp hp

theorem State.Serves.setSt (w : Word) (hw : stLdep w = 0) : State.Serves c l f s₀ (s.setSt c w) := by
  have e : s.setSt c w = s.setMe c { (s.core c).me with spec := { (s.core c).me.spec with st := w } } := by
    simp [State.setSt, CoreSt.setSt, State.setMe, h.bank, h.trap]
  rw [e, ← h.flow]
  exact h.setMe { (s.core c).me with spec := { (s.core c).me.spec with st := w } } h.susp hw

theorem State.Serves.noGap : State.Serves c l f s₀ (s.setCore c { s.core c with bankGap := false }) := by
  have hc : (s.setCore c { s.core c with bankGap := false }).core c = { s.core c with bankGap := false } :=
    (s.core_setCore c c _).trans (if_pos rfl)
  refine ⟨h.regs, h.mem, h.ha, ?_, ?_, ?_, ?_, ?_, ?_, ?_, ?_, ?_⟩ <;> rw [hc]
  exacts [h.cur, h.run, h.out, h.bank, h.trap, h.rf, h.flow, h.susp, h.ldep]

theorem State.Serves.rput (k : Nat) (v : Word) : State.Serves c (sset 0 k v l) f s₀ (s.rput c k v) := by
  have hc : (s.rput c k v).core c = { s.core c with rf := sset 0 k v (s.core c).rf } := (s.core_setCore c c _).trans (if_pos rfl)
  refine ⟨h.regs, h.mem, h.ha, ?_, ?_, ?_, ?_, ?_, ?_, ?_, ?_, ?_⟩ <;> rw [hc]
  exacts [h.cur, h.run, h.out, h.bank, h.trap, congrArg (sset 0 k v) h.rf, h.flow, h.susp, h.ldep]

theorem State.Serves.showLoads (hp : f.pend = []) (ha : f.aLoads = []) :
    State.Serves c l { f with pend := [], aLoads := [] } s₀ (s.showLoads c) := by
  rw [State.showLoads_nil (by rw [h.flowOf]; exact hp) (by rw [h.flowOf]; exact ha), h.flowOf]
  exact h.setFlow _

theorem State.Serves.inSeq (pc : Nat) (g : Flow) : State.Serves c l { g with pc := (pc + 4) % 2 ^ 47 } s₀ (s.inSeq c pc g) := by
  have hst : (s.core c).st = (s.core c).me.spec.st := h.stOf
  have hl : stLdep (s.core c).st = 0 := by rw [hst]; exact h.ldep
  have hp : stLdep (s.spec c).st = 0 := by rw [h.specOf]; exact h.ldep
  rw [State.inSeq]
  dsimp only
  rw [SpecSt.loopEnd_zero _ _ _ _ hl]
  exact ((h.setSpec _ hp).setSt _ hl).setFlow _

/-- A word in sequence, with no load of a word before it, branch or repetition: its context goes on behind it. -/
theorem State.Serves.complete (hp : f.pend = []) (hb : f.branch = none) (hr : f.rep = none) :
    ∃ g : Flow, g.pc = (f.pc + 4) % 2 ^ 47 ∧ State.Serves c l g s₀ (s.complete c .seq []) := by
  unfold State.complete
  rw [h.flowOf]
  extract_lets f' loads s1 x s2 st put g
  have h1 : State.Serves c l { f with pend := [], aLoads := [] } s₀ s1 := (h.setFlow { f with aLoads := [] }).showLoads hp rfl
  have h2 : State.Serves c l { f with pend := [], aLoads := [] } s₀ s2 := by
    have e : s2 = s1.setCore c { s1.core c with bankGap := false } := if_neg (ne_true_of_eq_false h1.bank)
    rw [e]
    exact h1.noGap
  rw [show f'.branch = none from hb, show f'.rep = none from hr]
  exact ⟨{ g with pc := (f.pc + 4) % 2 ^ 47 }, rfl, h2.inSeq f.pc g⟩

/-- The word is no longer suspended, writes its results and completes. -/
theorem State.Serves.writes (ws : List (Nat × Word)) :
    State.Serves c (ws.foldl (fun l w => sset 0 w.1 w.2 l) l) f s₀ (ws.foldl (fun s w => s.rput c w.1 w.2) s) := by
  induction ws generalizing l s with
  | nil => exact h
  | cons w ws ih => exact ih (h.rput w.1 w.2)

end

/-- The state in which context `j` is served: it is the current one, and nothing else of the core runs. -/
def State.servedIn (s : State) (c j : Nat) : State :=
  (s.spend c 0).setCore c { (s.spend c 0).core c with cur := j, run := true, up := false }

theorem State.core_servedIn (s : State) (c j : Nat) :
    (s.servedIn c j).core c = { (s.spend c 0).core c with cur := j, run := true, up := false } :=
  (State.core_setCore ..).trans (if_pos rfl)

/-- Time that a core spends moves its count of cycles alone. -/
theorem State.core_spend (s : State) (c n : Nat) : ∃ tick sync, (s.spend c n).core c = { s.core c with tick, sync } :=
  ⟨_, _, (State.core_setCore ..).trans (if_pos rfl)⟩

/-- A word that completes lets its context become READY and the running one go on. -/
theorem State.asCtx_of_serves {c j : Nat} {l : Sparse Word} {g : Flow} {s w : State} {f : State → State} (hr : (s.core c).run = true)
    (hw : f (s.servedIn c j) = w) (hv : State.Serves c l g (s.servedIn c j) w) : ∃ y : CoreSt,
    s.asCtx c j f = w.setCore c y ∧ y.cur = (s.core c).cur ∧ y.rf = l ∧
      y.ctx j = { (w.core c).me with state := 2, waits := 0 } := by
  obtain ⟨tick, sync, hx⟩ := s.core_spend c 0
  have hc := s.core_servedIn c j
  have hout : (w.core c).out = (s.core c).out := by rw [hv.out, hc, hx]
  have hrun : (w.core c).run = true := by rw [hv.run, hc]
  have hme : (w.core c).ctx j = (w.core c).me := by rw [CoreSt.me, hv.cur, hc]
  have htrap : ¬ (w.core c).trap.isSome = true := by rw [hv.trap]; decide
  unfold State.asCtx
  extract_lets s1 x s2 _ y _ _ _ _ y2
  have hs2 : s2 = w := hw
  clear_value s2
  subst hs2
  have hx : x = _ := hx
  have hy2 : y2 = y.setCtx j { y.ctx j with state := 2, waits := 0 } := if_pos hrun
  have same : ¬ (y.out && !x.out) = true := by
    rw [show y.out = (s.core c).out from hout, hx]
    exact ne_true_of_eq_false (Bool.and_not_self _)
  rw [if_neg same, if_neg htrap, State.schedule, if_pos (.inl (by rw [State.core_setCore, if_pos rfl, hx]; exact hr))]
  refine ⟨_, rfl, by rw [hx], ?_, ?_⟩ <;> rw [hy2]
  · exact hv.rf
  · exact (CoreSt.ctx_setCtx ..).trans ((if_pos rfl).trans (congrArg (fun y : CtxSt => { y with state := 2, waits := 0 }) hme))

/-- The word of a context outside every bank, trap window and loop, no longer suspended. -/
theorem State.serves_unsuspend {s : State} {c j : Nat} (hb : (s.core c).bankOn = false) (ht : (s.core c).trap = none)
    (hl : stLdep (s.ctx c j).spec.st = 0) :
    State.Serves c (s.core c).rf (s.ctx c j).flow (s.servedIn c j) ((s.servedIn c j).unsuspend c j) := by
  obtain ⟨tick, sync, hx⟩ := s.core_spend c 0
  have hc := s.core_servedIn c j
  rw [hx] at hc
  have hq : (s.servedIn c j).ctx c j = s.ctx c j := by
    rw [State.ctx, hc]
    rfl
  have hu : ((s.servedIn c j).unsuspend c j).core c = ((s.servedIn c j).core c).setCtx j { s.ctx c j with susp := none } := by
    rw [State.unsuspend, hq]
    exact (State.core_setCore ..).trans (if_pos rfl)
  have hme : (((s.servedIn c j).unsuspend c j).core c).me = { s.ctx c j with susp := none } := by
    rw [hu, hc]
    exact (CoreSt.ctx_setCtx ..).trans (if_pos rfl)
  refine ⟨rfl, rfl, rfl, ?_, ?_, ?_, ?_, ?_, ?_, ?_, ?_, ?_⟩
  · rw [hu]; rfl
  · rw [hu]; rfl
  · rw [hu]; rfl
  · rw [hu, hc]; exact hb
  · rw [hu, hc]; exact ht
  · rw [hu, hc]; rfl
  · rw [hme]
  · rw [hme]
  · rw [hme]; exact hl

/-- The answer that a context waits for writes the word's results, and the context goes on behind the word. -/
theorem serve_goesOn {t : Time} {s v : State} {f c j : Nat} {h : HaJob} {x : SuspSt} (hw : WaitsFor t s f c j h x)
    (hv : State.TakesReply f (s.at t) v) (ws : List (Nat × Word)) : ∃ u, (v.serve c j fun s => s.answered c j x ws) = u ∧
      u.regs = v.regs ∧ u.mem = v.mem ∧ u.ha = v.ha ∧ WentOn s u c j ∧
      (u.core c).rf = ws.foldl (fun l w => sset 0 w.1 w.2 l) (s.core c).rf := by
  obtain ⟨-, -, -, -, hply, hnext, -, hb, ht, -, hr, hcur, hp, hbr, hrep, hl⟩ := hw
  have hc : v.core c = s.core c := hv.core c
  have hctx : v.ctx c j = s.ctx c j := congrArg (fun x : CoreSt => x.ctx j) hc
  have elsewhere : v.waitsHere c j = false := by
    rw [State.waitsHere, hc, hb]
    simp [hcur.symm]
  have start := State.serves_unsuspend (s := v) (c := c) (j := j) (by rw [hc]; exact hb) (by rw [hc]; exact ht) (by rw [hctx]; exact hl)
  rw [hctx, hc] at start
  obtain ⟨g, hg, done⟩ := (start.writes ws).complete hp hbr hrep
  have hans : (v.servedIn c j).answered c j x ws =
      (ws.foldl (fun s w => s.rput c w.1 w.2) ((v.servedIn c j).unsuspend c j)).complete c .seq [] := by
    rw [State.answered, hnext]
    exact if_neg (by rw [hply]; decide)
  generalize (ws.foldl (fun s w => s.rput c w.1 w.2) ((v.servedIn c j).unsuspend c j)).complete c .seq [] = w at done hans
  obtain ⟨y, e, ycur, yrf, yctx⟩ := State.asCtx_of_serves (f := fun s => s.answered c j x ws) (by rw [hc]; exact hr) hans done
  have e : (v.serve c j fun s => s.answered c j x ws) = w.setCore c y := (if_neg (ne_true_of_eq_false elsewhere)).trans e
  have hy : (w.setCore c y).core c = y := (State.core_setCore ..).trans (if_pos rfl)
  refine ⟨_, e, done.regs, done.mem, done.ha, ⟨?_, ?_, ?_, ?_⟩, ?_⟩
  · rw [State.ctx, hy, yctx]
    exact done.susp
  · rw [State.ctx, hy, yctx]
  · rw [State.ctx, hy, yctx, ← hg]
    exact congrArg Flow.pc done.flow
  · rw [hy, ycur, hc]
  · rw [hy, yrf]

/-! ### F4 and F7 (Table 14.9) -/

section
variable {t : Time} {reply : List Word} {s : State} {h : HaJob} {c j : Nat} {x : SuspSt}

theorem State.TakesReply.suspOf {f : Nat} {u : State} (hu : State.TakesReply f s u) (g : Nat) (h : HaJob) :
    u.suspOf g h = s.suspOf g h := by
  rw [State.suspOf, State.suspOf]
  have hx (k : Nat) : u.ctx (unitCore h.unit) k = s.ctx (unitCore h.unit) k := congrArg (fun x : CoreSt => x.ctx k) (hu.core _)
  simp only [hx]

/-- A store that the host has made lets its word complete. -/
theorem heapKeepReply_completes (hf : s.haFind 4 reply = some h) (hw : WaitsFor t s 4 c j h x) (h0 : bf (reply.headD 0) 51 48 = 0) :
    Completes (.heapKeepReply t reply) s fun u => Replied s u 4 h ∧ WentOn s u c j ∧ (u.core c).rf = (s.core c).rf := by
  obtain ⟨u, e, hregs, hmem, hha, went, hrf⟩ := serve_goesOn hw (s.takesReply_replied t 4 h.job) x.writes
  obtain ⟨hc, -, hsusp, htake, -, -, hwr, -⟩ := hw
  have hs : ((s.at t).cqTake 4).suspOf 4 h = some (j, x) := (((s.at t).takesReply_cqTake 4).suspOf 4 h).trans hsusp
  have e : exec (.heapKeepReply t reply) s = .next u := by
    have hf : (s.at t).haFind 4 reply = some h := hf
    show execHeapKeepReply t reply s = _
    rw [execHeapKeepReply, State.reply, hf]
    dsimp only
    rw [if_neg (by rw [htake]; decide), State.heapKeep, hs, hc, h0, ← e]
    rfl
  rw [hwr] at hrf
  exact ⟨u, e, replied_of_same hregs hmem hha, went, hrf⟩

/-- A slow path that the host has taken gives the word its result. -/
theorem slowPathReply_completes (hf : s.haFind 7 reply = some h) (hw : WaitsFor t s 7 c j h x) (h0 : bf (reply.headD 0) 51 48 = 0)
    (hop : bf (reply.headD 0) 55 52 = 0) :
    Completes (.slowPathReply t reply) s fun u =>
      Replied s u 7 h ∧ WentOn s u c j ∧ u.rf c x.rd = reply.getD 1 0 ∧ ∀ k, k ≠ x.rd → u.rf c k = s.rf c k := by
  obtain ⟨u, e, hregs, hmem, hha, went, hrf⟩ := serve_goesOn hw (s.takesReply_replied t 7 h.job) ((x.rd, reply.getD 1 0) :: x.writes)
  obtain ⟨hc, -, hsusp, htake, -, -, hwr, -⟩ := hw
  have hs : ((s.at t).cqTake 7).suspOf 7 h = some (j, x) := (((s.at t).takesReply_cqTake 7).suspOf 7 h).trans hsusp
  have e : exec (.slowPathReply t reply) s = .next u := by
    have hf : (s.at t).haFind 7 reply = some h := hf
    show execSlowPathReply t reply s = _
    rw [execSlowPathReply, State.reply, hf]
    dsimp only
    rw [if_neg (by rw [htake]; decide), State.slowReply, hs, hc, ← e]
    dsimp only
    rw [h0, if_neg (by decide), if_neg (by decide), if_pos hop]
    rfl
  rw [hwr, List.foldl_cons, List.foldl_nil] at hrf
  refine ⟨u, e, replied_of_same hregs hmem hha, went, ?_, fun k hk => ?_⟩
  · rw [State.rf, hrf, sget_sset_self]
  · rw [State.rf, hrf, sget_sset_ne _ _ hk]
    rfl

end

/-- Settles O52: one theorem for the stale replies, and those of each function. -/
theorem repliesOfTheHost : Obligations.RepliesOfTheHost := by
  refine ⟨fun _ _ _ _ _ hi hn => staleReply_counted (exec_of_haFind_none hi hn), fun t reply s h => ⟨?_, linkCalReply_sets,
    orderingReply_watermarks, orderingReply_word, fun hf h1 => ⟨combineReply_open hf h1, combineReply_stale hf h1⟩, combineReply_none,
    fun x hf he hs => ⟨ruleEvalReply_stages hf he hs, ruleEvalReply_ends hf he hs⟩, fun ht hf => heapKeepReply_waits hf ht,
    fun ht hf => slowPathReply_waits hf ht, fun c j x => ⟨heapKeepReply_completes, slowPathReply_completes⟩⟩⟩
  intro p w x hf hp h1 hw hx hl
  subst hp
  exact ⟨hitDecodeReply_late hf h1 hl hw hx, hitDecodeReply_held hf h1 hl hw hx, hitDecodeReply_time hf h1 hl hw hx⟩

end Sys2Proof.Machine
end

section
/-! PROOFS. A hit that passes ahead while the merge buffer of a controller holds a line of no controller (O16). -/

namespace Sys2Proof.Machine

open Sys2Proof.Claims

/-! ### A hit passes ahead (R93, R115) -/

/-- The row when hit `h` of its stream `i` passes ahead. -/
def RowSt.passing (x : RowSt) (i : Nat) (h : RowHit) : RowSt :=
  { x.setStream i { x.stream i with seq := (x.stream i).seq + 1 } with picked := insertBehind h x.picked }

/-- A hit before RT, taken at the row's input. -/
def State.behindHit (s : State) (r i : Nat) (w : Word) (g : Nat) : RowHit :=
  { arrived s.now i ((s.row r).stream i).seq w g with behind := true }

/-- A hit before RT passes ahead of the merge (R93). -/
theorem State.rowHit_behind {s : State} {r i : Nat} {w : Word} (g : Nat) (hv : (s.row r).vstate ≠ 2) (hf : (s.row r).flushed = false)
    (hh : (s.row r).held < 32768) (hk : wordKey w < (s.row r).rt) :
    s.rowHit r i w g = ((s.setRow r ((s.row r).passing i (s.behindHit r i w g))).bump (oRow r 0x108)).emit r (s.behindHit r i w g) := by
  unfold State.rowHit
  dsimp only
  rw [if_neg hv, if_neg (by rw [hf]; decide), if_neg (by exact Nat.not_le.2 hh), decide_eq_true hk, if_pos rfl]
  rfl

/-- A hit that is due at the input of a row in hardware mode is taken. -/
theorem execRowHitArrival_hit {t due : Time} {r : RowId} {s : State} {i g : Nat} {w : Word} {rest : List (Time × Nat × RowIn)}
    (hq : quietRow s r) (hi : (s.row r).inbox = (due, i, .hit w g) :: rest) (hd : due ≤ t) :
    exec (.rowHitArrival t r) s = .next (((s.at t).setRow r { s.row r with inbox := rest }).rowHit r i w g) := by
  show execRowHitArrival t r s = _
  unfold execRowHitArrival
  rw [State.rowNow_of_quiet hq]
  obtain ⟨-, -, hha⟩ := hq
  dsimp only
  rw [State.row_at_other, hi]
  dsimp only
  rw [if_neg (Nat.not_lt.2 hd), if_neg (fun hc => Bool.false_ne_true (hha.symm.trans hc.1))]

/-- A hit that finds one full line has it written first. -/
theorem State.emit_full {s : State} {r : Nat} (h : RowHit) (hl : (s.row r).line.length = 7)
    (hf : (s.row r).lineFull (s.now / rowT) = true) : ∃ x,
    s.emit r h = ((s.bump (oRow r 0x100)).writeLine r false false).setRow r x := by
  have hfull : (s.bump (oRow r 0x100)).fullLines r 1 = (s.bump (oRow r 0x100)).writeLine r false false := if_pos hf
  rw [State.emit, State.lineAdd, State.row_bump_other, hl, hfull]
  exact ⟨_, rfl⟩

/-! ### A partial write is logged (R343, R347, R350) -/

/-- The record that an event creates holds the address of its line (Table 10.7). -/
theorem State.reg_logCreate (s : State) (m i kind pa mask src unit : Nat) :
    (s.logCreate m i kind pa mask src unit).reg (oLog m i 1) = BitVec.ofNat 64 (pa / 64 * 64) := by
  have h10 : oLog m i 1 ≠ oMem m 0x10 := by unfold oLog oMem; omega
  have h2 : oLog m i 1 ≠ oLog m i 2 := by unfold oLog oMem; omega
  have h3 : oLog m i 1 ≠ oLog m i 3 := by unfold oLog oMem; omega
  rw [State.logCreate, State.logShow, State.reg_setField, if_neg h10, State.reg_setField, if_neg h10, State.reg_setReg, if_neg h3,
    State.reg_useFree_other, State.reg_setReg, if_neg h2, State.reg_setReg, if_pos rfl]

theorem State.reg_logErr (s : State) (m kind pa cause o : Nat) : (s.logErr m kind pa cause).reg o = s.reg o := by
  unfold State.logErr
  split
  · split <;> rfl
  · rfl

/-- An event that finds no record of its line takes the free record `i`. -/
theorem State.reg_memLog_free {s : State} {m i kind pa : Nat} (hk : kind ≠ 1) (hf : s.logFind m kind pa = none)
    (hi : s.logSlot m kind = some i) (mask src unit cause : Nat) :
    (s.memLog m kind pa mask src unit cause).reg (oLog m i 1) = BitVec.ofNat 64 (pa / 64 * 64) := by
  rw [State.memLog, if_neg (fun h => hk h.1), hf]
  dsimp only
  rw [hi]
  dsimp only
  rw [State.reg_logErr, State.reg_logCreate]

theorem State.reg_flipHook (s : State) (m pa i w : Nat) : (s.flipHook m pa).reg (oLog m i w) = s.reg (oLog m i w) := by
  have h : oLog m i w ≠ oMem m 0x20 := by unfold oLog oMem; omega
  unfold State.flipHook
  dsimp only
  split
  · rw [State.reg_setField, if_neg h]
    rfl
  · rfl

/-- What a state must be like for a write of some words of line `l` to take log record `i` of the controller that the line would have:
PXZ-5122, bad words in the line, and the record the first free one. -/
structure State.LogsAt (s : State) (l i : Nat) : Prop where
  small : s.small = true
  decoding : s.decoding (l * 64) = false
  flips : (sget (0, 0) (l * 64 / 64) s.flips).2 = 0
  bad : s.badMask (l * 64) ≠ 0
  find : s.logFind (ctlOf (l * 64)) 4 (l * 64) = none
  slot : s.logSlot (ctlOf (l * 64)) 4 = some i

section
variable {s : State} {l m i mask at_ : Nat}

theorem State.LogsAt.same (h : s.LogsAt l i) {merges mem} : { s with merges, mem }.LogsAt l i :=
  ⟨h.small, h.decoding, h.flips, h.bad, h.find, h.slot⟩

/-- The words that stay bad are logged (R343). -/
theorem State.LogsAt.reg_lineWrite (h : s.LogsAt l i) (hm : mask ≠ 0xFF) (src unit : Nat) :
    (s.lineWrite (l * 64) mask src unit).reg (oLog (ctlOf (l * 64)) i 1) = BitVec.ofNat 64 (l * 64) := by
  have hp {u : State} (hu : u.small = true) : ¬ u.isPage (l * 64) = true := by simp [State.isPage, hu]
  rw [State.lineWrite_eq, State.awaitPage_of_idle h.decoding]
  extract_lets u v w x
  have hv : v = s := (if_pos (.inr hm)).trans (State.scan_of_clean src unit h.decoding h.flips)
  have hw : w.small = true := show v.small = true by rw [hv]; exact h.small
  have hx : x = w := if_neg (hp hw)
  rw [State.reg_flipHook, hx, State.settleBad, if_neg (by rw [hv]; exact h.bad), if_pos hw, if_neg hm]
  have e := State.reg_memLog_free (s := { w with bad := sset 0 (l * 64 / 64) (0xFF * 256) w.bad }) (m := ctlOf (l * 64)) (kind := 4)
    (pa := l * 64) (i := i) (by decide) (by rw [← h.find, ← hv]; rfl) (by rw [← h.slot, ← hv]; rfl) 0xFF src unit 0
  rwa [Nat.mul_div_cancel _ (by decide : 0 < 64)] at e ⊢

/-- An entry that lacks words is completed. -/
theorem State.mergeDone_of_partial (h : (sget [] m s.merges).find? (fun e => e.1 == l) = some (l, mask, at_)) (hm : mask ≠ 0xFF) :
    s.mergeDone m l = { s.bump (oMem m 0x120) with
      merges := sset [] m ((sget [] m s.merges).filter fun e => e.1 != l) s.merges }.lineWrite (l * 64) mask 7 0 := by
  unfold State.mergeDone
  dsimp only
  rw [h]
  dsimp only
  rw [if_neg hm]
  rfl

/-- A partial write to a buffer that is full of entries of other lines completes the oldest of them. -/
theorem State.LogsAt.reg_mergePut {line k : Nat} {es : List (Nat × Nat × Time)} (h : (s.bump (oMem m 0x120)).LogsAt l i)
    (hd : s.decoding (line * 64) = false) (he : sget [] m s.merges = (l, mask, at_) :: es) (hn : 31 ≤ es.length)
    (hes : ∀ e ∈ (l, mask, at_) :: es, e.1 ≠ line) (hm : mask ≠ 0xFF) (hk : k ≠ 0xFF) :
    ((s.mergePut m line k).mergeFull m line).reg (oLog (ctlOf (l * 64)) i 1) = BitVec.ofNat 64 (l * 64) := by
  have hnone : (sget [] m s.merges).find? (fun e => e.1 == line) = none := by
    rw [he, List.find?_eq_none]
    exact fun e h => by simpa using hes e h
  have hsome : (sget [] m s.merges).find? (fun e => e.1 == l) = some (l, mask, at_) := by
    rw [he]; exact List.find?_cons_of_pos (by simp)
  have hlen : 32 ≤ (sget [] m s.merges).length := by rw [he, List.length_cons]; omega
  obtain ⟨w, hw⟩ : ∃ w, w = s.mergeDone m l := ⟨_, rfl⟩
  have hp : s.mergePut m line k = { w with merges := sset [] m (sget [] m w.merges ++ [(line, k, w.now)]) w.merges } := by
    unfold State.mergePut
    rw [State.awaitPage_of_idle hd, hw]
    dsimp only
    rw [hnone]
    dsimp only
    rw [if_pos hlen, he]
    rfl
  rw [State.mergeDone_of_partial hsome hm] at hw
  have hwm : sget [] m w.merges = (sget [] m s.merges).filter fun e => e.1 != l := by
    rw [hw, State.lineWrite_merges]
    exact sget_sset_self ..
  rw [hp, State.mergeFull, if_neg]
  · show w.reg _ = _
    rw [hw]
    exact h.same.reg_lineWrite hm 7 0
  · dsimp only
    rw [sget_sset_self, hwm, he]
    intro hany
    obtain ⟨e, hmem, hc⟩ := List.any_eq_true.1 hany
    obtain ⟨hl, hk'⟩ := Bool.and_eq_true_iff.1 hc
    obtain hmem | hmem := List.mem_append.1 hmem
    · exact hes e (List.mem_filter.1 hmem).1 (by simpa using hl)
    · obtain rfl := List.mem_singleton.1 hmem
      exact hk (by simpa using hk')

end

/-- A word written to a line without an entry completes the oldest of a full buffer. -/
theorem State.LogsAt.reg_putLine {s v : State} {a l i mask at_ : Nat} {es : List (Nat × Nat × Time)}
    (hv : (s.touchMem a).snoopOthers 32 (a / 64) true = v) (h : (v.bump (oMem (ctlOf a) 0x120)).LogsAt l i) (ha : a < 0x100000000000)
    (hdead : v.memDead a = false) (hcheck : v.isCheck a = false) (hd : v.decoding (a / 64 * 64) = false)
    (he : sget [] (ctlOf a) v.merges = (l, mask, at_) :: es) (hn : 31 ≤ es.length) (hes : ∀ e ∈ (l, mask, at_) :: es, e.1 ≠ a / 64)
    (hm : mask ≠ 0xFF) (src unit : Nat) (w : Word) :
    (s.putLine src unit a [w]).reg (oLog (ctlOf (l * 64)) i 1) = BitVec.ofNat 64 (l * 64) := by
  unfold State.putLine
  dsimp only
  rw [hv, hdead, hcheck, if_neg (by decide), if_neg (Nat.not_le.2 ha), if_neg (by show ¬ 8 ≤ 1; decide)]
  have hk : ∀ k < 8, (2 ^ [w].length - 1) * 2 ^ k ≠ 0xFF := by show ∀ k < 8, (2 ^ 1 - 1) * 2 ^ k ≠ 0xFF; decide
  have h' : ({ v with mem := mwrWs a [w] v.mem }.bump (oMem (ctlOf a) 0x120)).LogsAt l i := h.same
  exact h'.reg_mergePut hd he hn hes hm (hk _ (Nat.mod_lt _ (by decide)))

theorem State.memPutBy_one (s : State) (src unit a : Nat) (w : Word) : s.memPutBy src unit a [w] = s.putLine src unit a [w] := by
  have hn : 8 - a / 8 % 8 = 7 - a / 8 % 8 + 1 := by omega
  show State.putBy _ src unit 1 a [w] = _
  rw [State.putBy, hn, List.take_succ_cons, List.take_nil]
  · rfl
  · nofun

/-- One word of the index ring is written where one entry is due (R118). -/
theorem State.histIndex_self (s : State) (r b n : Nat) : ∃ w,
    s.histIndex r b b n = s.putLine 3 r ((s.field (oRow r 0x38) 45 0 + b % 2 ^ s.histIdx r * 4) / 8 * 8) [w] := by
  unfold State.histIndex
  dsimp only
  have hp := Nat.two_pow_pos (s.histIdx r)
  rw [show max b (b + 1 - 2 ^ s.histIdx r) = b by omega, Nat.add_sub_cancel_left, List.range_one, List.foldl_cons, List.foldl_nil,
    State.memPutBy_one]
  exact ⟨_, rfl⟩

/-! ### The counterexample

Row 2 has a full line of seven hits, and a hit before RT arrives. Its line goes to host memory; the entry of its index goes to the merge
buffer of controller 0, which is full of entries of a line that would be controller 160's. The model's writes enter a line with the
controller of its address, so the buffer is ill-formed; the statement takes every state. -/

theorem oLog_eq_behindCount : oLog 160 8 1 = oRow 2 0x108 := by decide

/-- The first line of the stack that controller 160 would have. -/
def foreignLine : Nat := 160 * (stackSize / 64)

/-- Stack 0 of PXZ-5122 is HOT. The lines of row 2 go to address 2^44; its index is at address 0. Bit 63 of its registers at 0x00, 0x20, …
0xE0 makes log records 0 to 7 of controller 160 valid, so that record 8 is free. -/
def foreignState : State :=
  { State.reset with
    small := true
    regs := [(oPwr (0x100 + 80 * 8), 0x2000000000000000), (oRow 2 0, 0x8000000000000000), (oRow 2 0x20, 0x8000000000000000),
      (oRow 2 0x30, 0x100000000000), (oRow 2 0x40, 0x800000000000100A), (oRow 2 0x60, 0x8000000000000000),
      (oRow 2 0x80, 0x8000000000000000), (oRow 2 0xA0, 0x8000000000000000), (oRow 2 0xC0, 0x8000000000000000),
      (oRow 2 0xE0, 0x8000000000000000)]
    bad := [(foreignLine, 1)]
    merges := [(0, List.replicate 32 (foreignLine, 1, 0))]
    rows := [(2, { RowSt.reset with inbox := [(0, 0, .hit 0 0)], rt := 1, line := List.replicate 7 (arrived 0 0 0 0 0) })] }

theorem quietRow_foreignState : quietRow foreignState 2 := by unfold quietRow; decide +kernel

/-- The hit has been taken from the row's input. -/
def foreignTaken : State := (foreignState.at rowT).setRow 2 { foreignState.row 2 with inbox := [] }

/-- The hit has passed ahead, and has been counted in 0x108. -/
def foreignPassed : State :=
  (foreignTaken.setRow 2 ((foreignTaken.row 2).passing 0 (foreignTaken.behindHit 2 0 0 0))).bump (oRow 2 0x108)

/-- The hit has been counted in 0x100 too: the full line is written now. -/
def foreignFull : State := foreignPassed.bump (oRow 2 0x100)

/-- The line has been written, its index entry not. -/
def foreignWritten : State :=
  foreignFull.memPutBy 3 2 (foreignFull.histAt 2) (foreignFull.histHead 2 (arrived 0 0 0 0 0) false false :: (foreignFull.row 2).lineWords)

theorem exec_foreignState : ∃ x,
    exec (.rowHitArrival rowT 2) foreignState = .next ((foreignFull.writeLine 2 false false).setRow 2 x) := by
  obtain ⟨x, e⟩ := State.emit_full (s := foreignPassed) (r := 2) (foreignTaken.behindHit 2 0 0 0) (by decide +kernel) (by decide +kernel)
  refine ⟨x, ?_⟩
  rw [execRowHitArrival_hit (i := 0) (w := 0) (g := 0) (due := 0) quietRow_foreignState rfl (Nat.zero_le _),
    State.rowHit_behind 0 (by decide +kernel) (by decide +kernel) (by decide +kernel) (by decide +kernel)]
  exact congrArg _ e

theorem foreignWritten_logsAt :
    (((foreignWritten.touchMem 0).snoopOthers 32 0 true).bump (oMem (ctlOf 0) 0x120)).LogsAt foreignLine 8 := by
  constructor <;> decide +kernel

/-- The entry of the index completes the foreign line, and the log record of that lies on the count. -/
theorem reg_histIndex_foreignWritten (n : Nat) :
    (foreignWritten.histIndex 2 0 0 n).reg (oRow 2 0x108) = BitVec.ofNat 64 (foreignLine * 64) := by
  obtain ⟨w, e⟩ := foreignWritten.histIndex_self 2 0 n
  rw [show (foreignWritten.field (oRow 2 0x38) 45 0 + 0 % 2 ^ foreignWritten.histIdx 2 * 4) / 8 * 8 = 0 by decide +kernel] at e
  rw [e, ← oLog_eq_behindCount]
  exact foreignWritten_logsAt.reg_putLine rfl (es := List.replicate 31 (foreignLine, 1, 0)) (mask := 1) (at_ := 0) (by decide)
    (by decide +kernel) (by decide +kernel) (by decide +kernel) (by decide +kernel) (by decide) (by decide +kernel) (by decide) 3 2 w

theorem reg_writeLine_foreignFull :
    (foreignFull.writeLine 2 false false).reg (oRow 2 0x108) = BitVec.ofNat 64 (foreignLine * 64) := by
  obtain ⟨bucket, e⟩ := State.writeLine_of_on (s := foreignFull) (r := 2) (h := arrived 0 0 0 0 0)
    (l := List.replicate 6 (arrived 0 0 0 0 0)) (by decide +kernel) (by decide +kernel) false false
  rw [e, State.reg_setRow_other, State.reg_setField, if_neg (by decide)]
  exact reg_histIndex_foreignWritten _

/-- Refutes O16: the clause of a hit before RT says what the row's count at 0x108 holds in every state, also where a full line of the
history has to be written first. In `foreignState` that write completes a line of a controller that the module does not have, and the log
record of this event overwrites the count, which ought to hold 1, with the address of the line. -/
theorem not_rowTakesSelectsAndVotes : ¬ Obligations.RowTakesSelectsAndVotes := by
  intro h
  obtain ⟨takes, -⟩ := h
  obtain ⟨-, behind, -⟩ := takes rowT 2 foreignState 0 0 (.hit 0 0) [] quietRow_foreignState rfl (Nat.zero_le _) (by decide)
  obtain ⟨u, e, -, -, counted, -⟩ := behind 0 0 rfl (by decide +kernel) (by decide +kernel) (by decide +kernel) (by decide +kernel)
  obtain ⟨x, hx⟩ := exec_foreignState
  have overwritten : u.reg (oRow ((2 : RowId) : Nat) 0x108) = BitVec.ofNat 64 (foreignLine * 64) := by
    rw [← Host.Outcome.next.inj (hx.symm.trans e), State.reg_setRow_other]
    exact reg_writeLine_foreignFull
  rw [overwritten] at counted
  exact absurd counted (by decide +kernel)

end Sys2Proof.Machine
end

section
/-! PROOFS. The copy stage, the crossbar and the watermark messages of a row (O17). -/

namespace Sys2Proof.Machine

open Sys2Proof.Claims

/-! ### The copy stage (R111, R113) -/

/-- The words of a hit with one target region. -/
theorem State.copyWords_one {s : State} {h : RowHit} {g : Nat} (ht : s.targets h.region = [g]) (r : Nat) :
    s.copyWords r h = [copyOf r h g] := by
  simp only [State.copyWords, ht]
  rfl

/-- The one hit at the copy stage forms its copies. -/
theorem State.formCopies_one {s : State} {r : Nat} {h : RowHit} (hp : (s.row r).picked = [h]) (hc : (s.row r).copies = []) :
    ∃ v : State, v.mem = s.mem ∧ v.dmapA = s.dmapA ∧
      s.formCopies r 2 = v.setRow r { s.row r with picked := [], copies := s.copyWords r h } := by
  obtain ⟨v, hv⟩ : ∃ v, v = if bf (dmapD0 s.dmapA h.region) 63 63 = 1 then s else s.bump (oRow r 0x128) := ⟨_, rfl⟩
  have hm : v.mem = s.mem ∧ v.dmapA = s.dmapA ∧ v.copyWords r h = s.copyWords r h := by
    rw [hv]; split <;> exact ⟨rfl, rfl, rfl⟩
  refine ⟨v, hm.1, hm.2.1, ?_⟩
  unfold State.formCopies
  dsimp only
  rw [hp]
  dsimp only
  rw [hc, if_pos (by decide), ← hv, hm.2.2, List.nil_append]
  unfold State.formCopies
  dsimp only
  rw [State.row_setRow, if_pos rfl]

/-- The row once the one copy `d` at its stage is in the queue of cluster `c`. -/
def RowSt.queued (x : RowSt) (c : Nat) (d : DispWord) : RowSt :=
  { x with copies := [], voq := sset [] c (sget [] c x.voq ++ [d]) x.voq }

/-- The one copy at the stage moves into the queue of its cluster. -/
theorem State.moveCopies_one {s : State} {r c : Nat} {d : DispWord} (hc : (s.row r).copies = [d]) (hd : s.clusterOf d.target = c)
    (hq : (sget [] c (s.row r).voq).length < 256) :
    s.moveCopies r 2 = (s.setRow r ((s.row r).queued c d)).bump (oRow r 0x140) := by
  subst hd
  unfold State.moveCopies
  dsimp only
  rw [hc]
  dsimp only
  rw [if_pos hq]
  unfold State.moveCopies
  dsimp only
  rw [State.row_bump_other, State.row_setRow, if_pos rfl]
  rfl

/-- While the row does not flush and owes no end-of-frame word, the copy stage ends with nothing more to move. -/
theorem State.eofStep_idle {s : State} {r : Nat} (hf : (s.row r).flushing = false) (he : (s.row r).eof = []) :
    s.eofStep r = s.setRow r { s.row r with eof := [] } := by
  unfold State.eofStep
  dsimp only
  rw [if_neg (fun h => Bool.false_ne_true (hf.symm.trans h.1)), RowSt.eofMove_eq, he, List.foldl_nil]

theorem copyStage_queues {t : Time} {r : RowId} {s : State} {h : RowHit} {g : Nat} (hp : (s.row r).picked = [h])
    (hc : (s.row r).copies = []) (hf : (s.row r).flushing = false) (he : (s.row r).eof = []) (ht : s.targets h.region = [g])
    (hq : (sget [] (s.clusterOf g) (s.row r).voq).length < 256) :
    Completes (.copyStage t r) s fun u =>
      (u.row r).picked = [] ∧ (u.row r).copies = [] ∧ u.mem = s.mem ∧
      sget [] (s.clusterOf g) (u.row r).voq = sget [] (s.clusterOf g) (s.row r).voq ++ [copyOf r h g] := by
  obtain ⟨v, hm, hd, hform⟩ := State.formCopies_one (s := s.at t) hp hc
  rw [State.copyWords_one (s := s.at t) ht, State.row_at_other] at hform
  obtain ⟨x, hx⟩ : ∃ x : RowSt, x = { s.row r with picked := [], copies := [copyOf r h g] } := ⟨_, rfl⟩
  rw [← hx] at hform
  have hrow : (v.setRow r x).row r = x := (v.row_setRow r r x).trans (if_pos rfl)
  have hcl : (v.setRow r x).clusterOf g = s.clusterOf g := by rw [State.clusterOf, State.setRow_dmapA, hd]; rfl
  have hmove := State.moveCopies_one (s := v.setRow r x) (r := r) (d := copyOf r h g) (by rw [hrow, hx]) hcl (by rw [hrow, hx]; exact hq)
  rw [hrow] at hmove
  obtain ⟨w, hw⟩ : ∃ w, w = ((v.setRow r x).setRow r (x.queued (s.clusterOf g) (copyOf r h g))).bump (oRow r 0x140) := ⟨_, rfl⟩
  have hwrow : w.row r = x.queued (s.clusterOf g) (copyOf r h g) := by rw [hw, State.row_bump_other, State.row_setRow, if_pos rfl]
  have e : exec (.copyStage t r) s = .next (w.setRow r { x.queued (s.clusterOf g) (copyOf r h g) with eof := [] }) := by
    show Host.Outcome.next ((((s.at t).formCopies r 2).moveCopies r 2).eofStep r) = _
    rw [hform, hmove, ← hw, State.eofStep_idle (by rw [hwrow, hx]; exact hf) (by rw [hwrow, hx]; exact he), hwrow]
  refine ⟨_, e, ?_⟩
  dsimp only
  rw [State.row_setRow, if_pos rfl, State.setRow_mem, hw, hx]
  exact ⟨rfl, rfl, hm, sget_sset_self ..⟩

/-! ### The crossbar (R113) -/

/-- The rows in the order in which the crossbar asks them. -/
def xbarOrder (pos : Nat) : List Nat := (List.range 32).map fun i => (pos + i) % 32

/-- The row at the round-robin position is asked first. -/
theorem xbarOrder_eq_cons {r : Nat} (hr : r < 32) : ∃ l, xbarOrder r = r :: l :=
  ⟨_, congrArg (· :: _) (Nat.mod_eq_of_lt hr)⟩

theorem lt_of_mem_xbarOrder {pos q : Nat} (h : q ∈ xbarOrder pos) : q < 32 := by
  obtain ⟨i, -, rfl⟩ := List.mem_map.1 h
  exact Nat.mod_lt _ (by decide)

/-- Where no row holds a word for the cluster, nothing is granted. -/
theorem State.grant_of_empty {s : State} {c : Nat} (h : ∀ q, q < 32 → sget [] c (s.row q).voq = []) (n : Nat) : s.grant c n = s := by
  have hn : (xbarOrder (sget 0 c s.xbar)).find? (fun q => !(sget [] c (s.row q).voq).isEmpty) = none :=
    List.find?_eq_none.2 fun q hq => by rw [h q (lt_of_mem_xbarOrder hq)]; decide
  cases n with
  | zero => rfl
  | succ n =>
    unfold State.grant
    dsimp only
    rw [← xbarOrder, hn]

/-- The oldest word of row `r` enters cluster `c`. -/
def State.granted (s : State) (c r : Nat) (d : DispWord) (rest : List DispWord) : State :=
  { s.setRow r { s.row r with voq := sset [] c rest (s.row r).voq } with
    xbar := sset 0 c ((r + 1) % 32) s.xbar
    cluIn := sset [] c (sget [] c s.cluIn ++ [{ d with due := s.now + 6 * rowT }]) s.cluIn }

/-- The row at the round-robin position has the first turn. -/
theorem State.grant_succ {s : State} {c r : Nat} {d : DispWord} {rest : List DispWord} (hr : r < 32) (hx : sget 0 c s.xbar = r)
    (hv : sget [] c (s.row r).voq = d :: rest) (n : Nat) : s.grant c (n + 1) = (s.granted c r d rest).grant c n := by
  obtain ⟨l, hl⟩ := xbarOrder_eq_cons hr
  have hf : (xbarOrder r).find? (fun q => !(sget [] c (s.row q).voq).isEmpty) = some r := by
    rw [hl]; exact List.find?_cons_of_pos (by rw [hv]; rfl)
  rw [State.grant]
  dsimp only
  rw [hx, ← xbarOrder, hf]
  dsimp only
  rw [hv]
  rfl

theorem crossbarGrant_hands {t : Time} {c : ClusterId} {r : RowId} {s : State} {d : DispWord} (hx : sget 0 c.val s.xbar = r.val)
    (hv : sget [] c.val (s.row r).voq = [d]) (ho : ∀ q : RowId, q ≠ r → sget [] c.val (s.row q).voq = []) :
    Completes (.crossbarGrant t c) s fun u =>
      sget [] c.val u.cluIn = sget [] c.val s.cluIn ++ [{ d with due := t + 6 * rowT }] ∧
      sget [] c.val (u.row r).voq = [] ∧ sget 0 c.val u.xbar = (r.val + 1) % 32 ∧ u.regs = s.regs ∧ u.mem = s.mem := by
  obtain ⟨u, hu⟩ : ∃ u, u = (s.at t).granted c r d [] := ⟨_, rfl⟩
  have hrow (q : Nat) : u.row q = if q = r.val then { s.row r with voq := sset [] c.val [] (s.row r).voq } else s.row q := by
    rw [hu]; exact (s.at t).row_setRow r q _
  have hself : sget [] c.val (u.row r).voq = [] := by rw [hrow, if_pos rfl]; exact sget_sset_self [] c.val [] (s.row r).voq
  have hempty (q : Nat) (hq : q < 32) : sget [] c.val (u.row q).voq = [] := by
    by_cases h : q = r.val
    · rw [h, hself]
    · rw [hrow, if_neg h]
      exact ho ⟨q, hq⟩ (fun e => h (congrArg Fin.val e))
  have e : exec (.crossbarGrant t c) s = .next u := by
    show Host.Outcome.next ((s.at t).grant c 2) = _
    rw [State.grant_succ (s := s.at t) r.isLt hx hv, ← hu, State.grant_of_empty hempty]
  refine ⟨u, e, ?_, hself, ?_, ?_, ?_⟩ <;> rw [hu]
  · exact sget_sset_self [] c.val _ s.cluIn
  · exact sget_sset_self 0 c.val _ s.xbar
  · rfl
  · rfl

/-! ### Watermark messages (R101) -/

/-- The class whose watermark goes next is one of the row's. -/
theorem getD_find?_lt {n k : Nat} (hn : 0 < n) (p : Nat → Bool) :
    ((((List.range n).map fun i => (k + i) % n).find? p).getD (k % max 1 n)) < n := by
  cases h : ((List.range n).map fun i => (k + i) % n).find? p with
  | none => rw [Option.getD_none, Nat.max_eq_right hn]; exact Nat.mod_lt _ hn
  | some j =>
    obtain ⟨i, -, rfl⟩ := List.mem_map.1 (List.mem_of_find?_eq_some h)
    exact Nat.mod_lt _ hn

theorem watermarkMessage_clamped {t : Time} {r : RowId} {c : ClusterId} {s : State} (hq : quietRow s r) (hc : (s.row r).classes ≠ []) :
    Completes (.watermarkMessage t r c) s fun u =>
      u.regs = s.regs ∧ u.mem = s.mem ∧ u.rows = s.rows ∧
      ∃ m, sget [] c.val u.wmIn = sget [] c.val s.wmIn ++ [m] ∧ m.row = r.val ∧ m.due = t + 8 * rowT ∧
        m.pw * 16 ≤ (s.row r).rt ∧ m.cls < (s.row r).classes.length ∧ m.fw * 16 ≤ (s.at t).classFw r m.cls := by
  have hn : 0 < (s.row r).classes.length := List.length_pos_of_ne_nil hc
  have hmin (a b : Nat) : min a b / 16 * 16 ≤ a := (Nat.div_mul_le_self _ _).trans (Nat.min_le_left ..)
  refine ⟨_, rfl, ?_⟩
  dsimp only
  rw [State.rowNow_of_quiet hq, State.row_at_other]
  obtain ⟨-, -, hha⟩ := hq
  rw [show (s.at t).haOn 1 r = false from hha, Bool.false_and]
  simp only [hn.ne', if_false, Bool.false_eq_true]
  exact ⟨rfl, rfl, rfl, _, sget_sset_self .., rfl, rfl, hmin .., getD_find?_lt hn _, hmin ..⟩

/-- Settles O17: the copy stage, the crossbar and the watermark message are followed step by step, each through a lemma of its own. -/
theorem dispatchPath : Obligations.DispatchPath := by
  unfold Obligations.DispatchPath
  refine ⟨?_, ?_, ?_⟩
  · intro t r s h g hp hc hf he ht hq
    exact copyStage_queues hp hc hf he ht hq
  · intro t c r s d hx hv ho
    exact crossbarGrant_hands hx hv ho
  · intro t r c s hq hc
    exact watermarkMessage_clamped hq hc

end Sys2Proof.Machine
end

section
/-! PROOFS. Tagged words: what the fields of a made word are. -/

namespace Sys2Proof.Machine

theorem mkTag_toNat {t : Nat} (ht : t < 256) (v : Nat) : (mkTag t v).toNat = t * 2 ^ 56 + v % 2 ^ 56 := by
  rw [mkTag, BitVec.toNat_ofNat]
  exact Nat.mod_eq_of_lt (by omega)

theorem bf_mkTag {t : Nat} (ht : t < 256) (v : Nat) {hi lo : Nat} (h : hi < 56) :
    bf (mkTag t v) hi lo = v / 2 ^ lo % 2 ^ (hi + 1 - lo) := by
  apply Nat.eq_of_testBit_eq
  intro k
  rw [bf_testBit, mkTag_toNat ht, Nat.mul_comm, Nat.testBit_two_pow_mul_add _ (Nat.mod_lt _ (by decide)), Nat.testBit_mod_two_pow,
    Nat.testBit_mod_two_pow, Nat.testBit_div_two_pow]
  by_cases hk : k < hi + 1 - lo
  · simp [hk, show lo + k < 56 by omega, Nat.add_comm]
  · simp [hk]

theorem pay_mkTag {t : Nat} (ht : t < 256) (v : Nat) : pay (mkTag t v) = v % 2 ^ 56 := by
  rw [pay, bf_mkTag ht v (by decide), Nat.pow_zero, Nat.div_one]

theorem tagOf_mkTag {t : Nat} (ht : t < 256) (v : Nat) : tagOf (mkTag t v) = t := by
  rw [tagOf, bf, Nat.shiftRight_eq_div_pow, mkTag_toNat ht]
  omega

theorem mkTag_mod (t v : Nat) : mkTag t (v % 2 ^ 56) = mkTag t v := by rw [mkTag, mkTag, Nat.mod_mod]

/-- The low bits of a natural number that fits. -/
theorem lowBits_natCast (b n : Nat) (h : n < 2 ^ b) : lowBits b (n : Int) = n := by
  rw [lowBits, Int.emod_eq_of_lt (Int.natCast_nonneg n) (by exact_mod_cast h), Int.toNat_natCast]

theorem tagOf_fixW (i : Int) : tagOf (fixW i) = tFix := tagOf_mkTag (by decide) _

/-- A FIX word holds the integer it was made of. -/
theorem fixI_fixW {i : Int} (h : inFix i = true) : fixI (fixW i) = i := by
  have hi := of_decide_eq_true h
  rw [fixI, fixW, pay_mkTag (by decide), Nat.mod_eq_of_lt (lowBits_lt 56 i), sx, lowBits]
  split_ifs <;> omega

end Sys2Proof.Machine
end

section
/-! PROOFS. A word that stands alone on its core: what its body may rest on, and what its completion leaves. -/

namespace Sys2Proof.Machine

open Sys2Proof.Claims

/-! ### A word under way

`t` has come from `s` while the current context of core `c` runs its word: nothing that the word's own fields read has changed. -/

structure State.Under (c : Nat) (s t : State) : Prop where
  up : (t.core c).up = (s.core c).up
  cur : (t.core c).cur = (s.core c).cur
  bank : (t.core c).bankOn = (s.core c).bankOn
  trap : (t.core c).trap = (s.core c).trap
  flow : (t.core c).me.flow = (s.core c).me.flow
  spec : (t.core c).me.spec = (s.core c).me.spec
  base : (t.core c).me.base = (s.core c).me.base

/-- Nothing that a program sees but the current context's own fields has changed. -/
structure State.Beside (c : Nat) (s t : State) : Prop where
  mem : t.mem = s.mem
  regs : t.regs = s.regs
  rf : (t.core c).rf = (s.core c).rf
  mult : (t.core c).me.mult = (s.core c).me.mult
  storeQ : (t.core c).me.storeQ = (s.core c).me.storeQ
  others : ∀ d, d ≠ c → t.core d = s.core d
  ctxs : ∀ j, j ≠ (s.core c).cur → t.ctx c j = s.ctx c j

theorem State.Under.refl (c : Nat) (s : State) : State.Under c s s := ⟨rfl, rfl, rfl, rfl, rfl, rfl, rfl⟩
theorem State.Beside.refl (c : Nat) (s : State) : State.Beside c s s := ⟨rfl, rfl, rfl, rfl, rfl, fun _ _ => rfl, fun _ _ => rfl⟩

/-- What a core's own change of fields that the running word does not read leaves. -/
theorem State.Under.of_core {c : Nat} {s t : State} {x : CoreSt} (h : t.core c = x) (hu : x.up = (s.core c).up)
    (hc : x.cur = (s.core c).cur) (hb : x.bankOn = (s.core c).bankOn) (ht : x.trap = (s.core c).trap)
    (hm : x.ctxs = (s.core c).ctxs) : State.Under c s t := by
  have me : (t.core c).me = (s.core c).me := by rw [h, CoreSt.me, CoreSt.me, CoreSt.ctx, CoreSt.ctx, hc, hm]
  subst h
  exact ⟨hu, hc, hb, ht, congrArg CtxSt.flow me, congrArg CtxSt.spec me, congrArg CtxSt.base me⟩

section
variable {c : Nat} {s t u : State} (h : State.Under c s t)
include h

theorem State.Under.trans (h' : State.Under c t u) : State.Under c s u :=
  ⟨h'.up.trans h.up, h'.cur.trans h.cur, h'.bank.trans h.bank, h'.trap.trans h.trap, h'.flow.trans h.flow,
    h'.spec.trans h.spec, h'.base.trans h.base⟩

variable (hb : (s.core c).bankOn = false) (ht : (s.core c).trap = none)
include hb ht

theorem State.Under.flowOf : t.flow c = s.flow c := by
  rw [State.flow, State.flow, CoreSt.flow_ctx (h.bank.trans hb) (h.trap.trans ht), CoreSt.flow_ctx hb ht, h.flow]
theorem State.Under.stOf : t.st c = s.st c := by
  rw [State.st, State.st, CoreSt.st_ctx (h.bank.trans hb) (h.trap.trans ht), CoreSt.st_ctx hb ht, h.spec]
theorem State.Under.supOf : t.sup c = s.sup c := by rw [State.sup, State.sup, h.stOf hb ht]
theorem State.Under.worldOf : t.world_ c = s.world_ c := by rw [State.world_, State.world_, h.stOf hb ht]

theorem State.Under.keyOf (r : Nat) : (t.core c).key r = (s.core c).key r := by
  have hst : (t.core c).st = (s.core c).st := h.stOf hb ht
  simp only [CoreSt.key, h.bank, h.trap, h.cur, h.base, hst]

theorem State.Under.rgetOf (hr : (t.core c).rf = (s.core c).rf) (r : Nat) : t.rget c r = s.rget c r := by
  simp only [State.rget, State.rf, h.keyOf hb ht, hr]

end

theorem State.Beside.trans {c : Nat} {s t u : State} (h : State.Beside c s t) (hc : (t.core c).cur = (s.core c).cur)
    (h' : State.Beside c t u) : State.Beside c s u :=
  ⟨h'.mem.trans h.mem, h'.regs.trans h.regs, h'.rf.trans h.rf, h'.mult.trans h.mult, h'.storeQ.trans h.storeQ,
    fun d hd => (h'.others d hd).trans (h.others d hd), fun j hj => (h'.ctxs j (hc ▸ hj)).trans (h.ctxs j hj)⟩

/-! ### Changes of the core's own fields -/

theorem State.under_spend (c n : Nat) (s : State) : State.Under c s (s.spend c n) := by
  obtain ⟨tick, sync, h⟩ := s.core_spend c n
  exact State.Under.of_core h rfl rfl rfl rfl rfl

theorem State.beside_spend (c n : Nat) (s : State) : State.Beside c s (s.spend c n) := by
  obtain ⟨tick, sync, h⟩ := s.core_spend c n
  refine ⟨rfl, rfl, by rw [h], by rw [h]; rfl, by rw [h]; rfl, fun d hd => ?_, fun j _ => ?_⟩
  · exact (State.core_setCore ..).trans (if_neg hd)
  · rw [State.ctx, h]; rfl

section
variable {c : Nat} {s : State} (hb : (s.core c).bankOn = false) (ht : (s.core c).trap = none)
include hb ht

theorem State.under_pruneMicro : State.Under c s (s.pruneMicro c) := by
  obtain ⟨l, h⟩ := State.core_pruneMicro hb ht
  have hc : (s.pruneMicro c).core c = (s.core c).setCtx (s.core c).cur { (s.core c).me with micro := l } := by
    rw [h, State.core_setMe]
  have me : ((s.pruneMicro c).core c).me = { (s.core c).me with micro := l } := by rw [hc, CoreSt.me_setCtx_cur]
  exact ⟨by rw [hc]; rfl, by rw [hc]; rfl, by rw [hc]; rfl, by rw [hc]; rfl, by rw [me], by rw [me], by rw [me]⟩

theorem State.beside_pruneMicro : State.Beside c s (s.pruneMicro c) := by
  obtain ⟨l, h⟩ := State.core_pruneMicro hb ht
  rw [h]
  refine ⟨rfl, rfl, ?_, ?_, ?_, fun d hd => ?_, fun j hj => ?_⟩
  · rw [State.core_setMe]; rfl
  · rw [State.core_setMe, CoreSt.me_setCtx_cur]
  · rw [State.core_setMe, CoreSt.me_setCtx_cur]
  · exact (State.core_setCore ..).trans (if_neg hd)
  · rw [State.ctx, State.core_setMe]
    exact (CoreSt.ctx_setCtx ..).trans (if_neg hj)

end

/-! ### Completion

`s` is `t`, in which core `c` runs a context, with another flow of that context. -/

structure State.InWord (c : Nat) (f : Flow) (t s : State) : Prop where
  rest : ∃ cores, s = { t with cores }
  others : ∀ d, d ≠ c → s.core d = t.core d
  ctxs : ∀ j, j ≠ (t.core c).cur → s.ctx c j = t.ctx c j
  core : ∃ ctxs tick sync bankGap, s.core c = { t.core c with ctxs, tick, sync, bankGap }
  me : (s.core c).me = { (t.core c).me with flow := f }

section
variable {c : Nat} {f : Flow} {t s : State} (h : State.InWord c f t s)
include h

theorem State.InWord.cur : (s.core c).cur = (t.core c).cur := by
  obtain ⟨_, _, _, _, e⟩ := h.core
  rw [e]

theorem State.InWord.rf : (s.core c).rf = (t.core c).rf := by
  obtain ⟨_, _, _, _, e⟩ := h.core
  rw [e]

theorem State.InWord.bank : (s.core c).bankOn = (t.core c).bankOn := by
  obtain ⟨_, _, _, _, e⟩ := h.core
  rw [e]

theorem State.InWord.trap : (s.core c).trap = (t.core c).trap := by
  obtain ⟨_, _, _, _, e⟩ := h.core
  rw [e]

theorem State.InWord.setMe (g : Flow) : State.InWord c g t (s.setMe c { (s.core c).me with flow := g }) := by
  have hc := s.core_setMe c { (s.core c).me with flow := g }
  refine ⟨?_, fun d hd => ?_, fun j hj => ?_, ?_, ?_⟩
  · obtain ⟨cores, e⟩ := h.rest
    exact ⟨_, by rw [e]; rfl⟩
  · exact ((State.core_setCore ..).trans (if_neg hd)).trans (h.others d hd)
  · rw [← h.ctxs j hj, State.ctx, State.ctx, hc]
    exact (CoreSt.ctx_setCtx ..).trans (if_neg (h.cur ▸ hj))
  · obtain ⟨ctxs, tick, sync, gap, e⟩ := h.core
    exact ⟨_, tick, sync, gap, by rw [hc, e]; rfl⟩
  · rw [hc, CoreSt.me_setCtx_cur, h.me]

theorem State.InWord.noGap : State.InWord c f t (s.setCore c { s.core c with bankGap := false }) := by
  have hc : (s.setCore c { s.core c with bankGap := false }).core c = { s.core c with bankGap := false } :=
    (s.core_setCore c c _).trans (if_pos rfl)
  refine ⟨?_, fun d hd => ?_, fun j hj => ?_, ?_, ?_⟩
  · obtain ⟨cores, e⟩ := h.rest
    exact ⟨_, by rw [e]; rfl⟩
  · exact ((State.core_setCore ..).trans (if_neg hd)).trans (h.others d hd)
  · rw [← h.ctxs j hj, State.ctx, State.ctx, hc]
    rfl
  · obtain ⟨ctxs, tick, sync, gap, e⟩ := h.core
    exact ⟨ctxs, tick, sync, false, by rw [hc, e]⟩
  · rw [hc]
    exact h.me

theorem State.InWord.spec : (s.core c).me.spec = (t.core c).me.spec := by rw [h.me]
theorem State.InWord.flow : (s.core c).me.flow = f := by rw [h.me]

variable (hb : (t.core c).bankOn = false)
include hb

/-- Special registers written as they were. -/
theorem State.InWord.setSpec : State.InWord c f t (s.setSpec c (s.core c).me.spec) := by
  have e : s.setSpec c (s.core c).me.spec = s.setMe c { (s.core c).me with flow := f } := by
    simp [State.setSpec, CoreSt.setSpec, State.setMe, h.bank, hb, ← h.flow]
  rw [e]
  exact h.setMe f

variable (ht : (t.core c).trap = none)
include ht

theorem State.InWord.flowOf : s.flow c = f :=
  (CoreSt.flow_ctx (h.bank.trans hb) (h.trap.trans ht)).trans (h.flow)

theorem State.InWord.setFlow (g : Flow) : State.InWord c g t (s.setFlow c g) := by
  have e : s.setFlow c g = s.setMe c { (s.core c).me with flow := g } := by
    simp [State.setFlow, CoreSt.setFlow, State.setMe, h.bank, h.trap, hb, ht]
  rw [e]
  exact h.setMe g

/-- ST written as it was. -/
theorem State.InWord.setSt : State.InWord c f t (s.setSt c (s.core c).me.spec.st) := by
  have e : s.setSt c (s.core c).me.spec.st = s.setMe c { (s.core c).me with flow := f } := by
    simp [State.setSt, CoreSt.setSt, State.setMe, h.bank, h.trap, hb, ht, ← h.flow]
  rw [e]
  exact h.setMe f

theorem State.InWord.showLoads (hp : f.pend = []) (ha : f.aLoads = []) :
    State.InWord c { f with pend := [], aLoads := [] } t (s.showLoads c) := by
  have hf := h.flowOf hb ht
  rw [State.showLoads_nil (by rw [hf]; exact hp) (by rw [hf]; exact ha), hf]
  exact h.setFlow hb ht _

theorem State.InWord.inSeq (hl : stLdep (t.core c).me.spec.st = 0) (pc : Nat) (g : Flow) :
    State.InWord c { g with pc := (pc + 4) % 2 ^ 47 } t (s.inSeq c pc g) := by
  have hspec : (s.core c).spec = (s.core c).me.spec := CoreSt.spec_ctx (h.bank.trans hb)
  have hst : (s.core c).st = (s.core c).me.spec.st := CoreSt.st_ctx (h.bank.trans hb) (h.trap.trans ht)
  have hme := h.spec
  have hput : State.InWord c f t ((s.setSpec c (s.core c).me.spec).setSt c (s.core c).me.spec.st) := by
    have h1 := h.setSpec hb
    have h2 := h1.setSt hb ht
    rwa [h1.spec, ← hme] at h2
  rw [State.inSeq, State.spec, hspec, hst]
  dsimp only
  rw [SpecSt.loopEnd_zero _ _ _ _ (by rw [hme]; exact hl)]
  exact hput.setFlow hb ht _

/-- A word in sequence completes: the flow of its context goes on behind it, with what it has loaded, and nothing else changes. -/
theorem State.InWord.complete (hl : stLdep (t.core c).me.spec.st = 0) (hp : f.pend = []) (ha : f.aLoads = []) (hbr : f.branch = none)
    (hr : f.rep = none) (loads : List (Nat × Word)) :
    ∃ g : Flow, g.pc = (f.pc + 4) % 2 ^ 47 ∧ g.pend = loads ∧ State.InWord c g t (s.complete c .seq loads) := by
  unfold State.complete
  rw [h.flowOf hb ht]
  extract_lets f' loads' s1 x s2 st put g
  have h1 : State.InWord c { f with pend := [], aLoads := [] } t s1 := (h.setFlow hb ht { f with aLoads := [] }).showLoads hb ht hp rfl
  have h2 : State.InWord c { f with pend := [], aLoads := [] } t s2 := by
    have e : s2 = s1.setCore c { s1.core c with bankGap := false } := if_neg (ne_true_of_eq_false (h1.bank.trans hb))
    rw [e]
    exact h1.noGap
  rw [show f'.branch = none from hbr, show f'.rep = none from hr]
  exact ⟨{ g with pc := (f.pc + 4) % 2 ^ 47 }, rfl, by simp [g, loads', f', ha], h2.inSeq hb ht hl f.pc g⟩

end

theorem State.inWord_spend (c n : Nat) (t : State) : State.InWord c (t.core c).me.flow t (t.spend c n) := by
  obtain ⟨tick, sync, h⟩ := t.core_spend c n
  refine ⟨⟨_, rfl⟩, fun d hd => (State.core_setCore ..).trans (if_neg hd), fun j _ => ?_, ⟨(t.core c).ctxs, tick, sync, _, h⟩, ?_⟩
  · rw [State.ctx, h]; rfl
  · rw [h]; rfl

/-! ### Registers that a word writes -/

theorem State.apply_frame (t : State) (c : Nat) (e : Eff) : (∃ cores, t.apply c e = { t with cores }) ∧
    (∀ d, d ≠ c → (t.apply c e).core d = t.core d) ∧
    (t.apply c e).core c = { t.core c with rf := e.writes.foldl (fun l w => sset 0 w.1 w.2 l) (t.core c).rf } := by
  obtain ⟨ws, loads⟩ := e
  unfold State.apply
  dsimp only
  induction ws generalizing t with
  | nil => exact ⟨⟨t.cores, rfl⟩, fun _ _ => rfl, rfl⟩
  | cons w ws ih =>
    obtain ⟨⟨cores, h1⟩, h2, h3⟩ := ih (t.rput c w.1 w.2)
    have hc : (t.rput c w.1 w.2).core c = { t.core c with rf := sset 0 w.1 w.2 (t.core c).rf } :=
      (t.core_setCore c c _).trans (if_pos rfl)
    refine ⟨⟨cores, h1⟩, fun d hd => (h2 d hd).trans ((State.core_setCore ..).trans (if_neg hd)), ?_⟩
    rw [List.foldl_cons, h3, hc]
    rfl

/-! ### The word and its completion -/

section
variable {c : Nat} {s t : State} {e : TlbEnt} (h : Claims.Steady s c e)
include h

theorem steady_bank : (s.core c).bankOn = false := h.1.2.1
theorem steady_trap : (s.core c).trap = none := h.1.2.2.1
theorem steady_up : (s.core c).up = true := by
  have := h.1.1
  simp only [State.runs, CoreSt.live, Bool.and_eq_true] at this
  exact this.1.1.1

theorem steady_flow : (s.core c).me.flow = s.flow c := (CoreSt.flow_ctx (steady_bank h) (steady_trap h)).symm
theorem steady_st : (s.core c).me.spec.st = s.st c := (CoreSt.st_ctx (steady_bank h) (steady_trap h)).symm

theorem steady_pruned : State.Under c s (s.pruneMicro c) := State.under_pruneMicro (steady_bank h) (steady_trap h)

/-- A word that is one operation does its work and completes. -/
theorem State.issueOp_ok {legal : Bool} {uses : List Reg5} {n : Nat} {body : State → Op} {eff : Eff} (hl : legal = true)
    (hb : body (s.pruneMicro c) = .ok t eff) (ht : State.Under c s t) :
    ∃ g : Flow, g.pc = nextPc s c ∧ g.pend = eff.loads ∧ State.InWord c g (t.apply c eff) (s.issueOp c legal uses n body) := by
  have hbank := steady_bank h
  have htrap := steady_trap h
  have hup := steady_up h
  have hflow := steady_flow h
  have hst := steady_st h
  have hp := steady_pruned h
  have hpb := State.beside_pruneMicro hbank htrap
  obtain ⟨⟨hrun, -, -, -, hups, hr0, hal, htlb, hallow, hl1⟩, hpend, hready, hbr, hrep, -, hldep, hmult⟩ := h
  have pf := hp.flowOf hbank htrap
  have pst := hp.stOf hbank htrap
  have fetch := State.fetch_hit hbank htrap htlb hallow hups hl1
  have issued : s.issueOp c legal uses n body = act c n ((body (s.pruneMicro c)).toRes c) := by
    rw [State.issueOp, State.issue_alone _ _ _ hrun hr0 fetch (by rw [pf, hready]) (by rw [hpb.mult, hmult]) (by rw [pf, hbr])
      (by rw [pf, hrep]) (by rw [pst, hldep]) (State.badNext_plain rfl rfl), if_pos hl]
  obtain ⟨-, -, hc⟩ := t.apply_frame c eff
  have tflow : ((t.apply c eff).core c).me.flow = s.flow c := by rw [hc, ← hflow, ← ht.flow]; rfl
  have tst : ((t.apply c eff).core c).me.spec.st = s.st c := by rw [hc, ← hst, ← ht.spec]; rfl
  have done := (State.inWord_spend c n (t.apply c eff)).complete (by rw [hc]; exact ht.bank.trans hbank)
    (by rw [hc]; exact ht.trap.trans htrap) (by rw [tst]; exact hldep) (by rw [tflow]; exact hpend) (by rw [tflow]; exact hal)
    (by rw [tflow]; exact hbr) (by rw [tflow]; exact hrep) eff.loads
  rw [issued, hb, Op.toRes, act, if_pos (by rw [hc]; exact ht.up.trans hup)]
  rw [tflow] at done
  exact done

end

end Sys2Proof.Machine
end

section
/-! PROOFS. What a completed word leaves: registers, special registers, the next address. -/

namespace Sys2Proof.Machine

open Sys2Proof.Claims

/-! ### Lists of register writes -/

theorem sget_writes_other {k : Nat} (ws : List (Nat × Word)) (l : Sparse Word) (h : ∀ w ∈ ws, w.1 ≠ k) :
    sget 0 k (ws.foldl (fun l w => sset 0 w.1 w.2 l) l) = sget 0 k l := by
  induction ws generalizing l with
  | nil => rfl
  | cons w ws ih =>
    rw [List.foldl_cons, ih _ fun w' hw => h w' (List.mem_cons_of_mem _ hw), sget_sset,
      if_neg fun e => h w List.mem_cons_self e.symm]

/-! ### Specifiers -/

/-- A register that a program names has a physical register. -/
theorem CoreSt.key_named {x : CoreSt} (hb : x.bankOn = false) (ht : x.trap = none) {r : Nat} (hr : r < 24) : ∃ k, x.key r = some k := by
  rw [CoreSt.key, if_neg (Nat.not_le.mpr hr), if_neg (ne_true_of_eq_false hb), ht]
  by_cases hg : 16 ≤ r
  · exact ⟨_, if_pos hg⟩
  · exact ⟨_, if_neg hg⟩

/-- No two specifiers of a program name one register when one of them is a global. -/
theorem CoreSt.key_ne_glob {x : CoreSt} (hb : x.bankOn = false) (ht : x.trap = none) {r g k : Nat} (hg : 16 ≤ g) (hg' : g < 24)
    (hr : r ≠ g) (hk : x.key g = some k) : x.key r ≠ some k := by
  rw [CoreSt.key, if_neg (Nat.not_le.mpr hg'), if_neg (ne_true_of_eq_false hb), if_pos hg, Option.some.injEq, globKey] at hk
  rw [CoreSt.key, if_neg (ne_true_of_eq_false hb), ht]
  dsimp only
  split_ifs with h24 h16
  · exact Option.some_ne_none _ |>.symm
  · rw [globKey, ne_eq, Option.some.injEq]
    omega
  · rw [winKey, ne_eq, Option.some.injEq]
    omega

section
variable {c : Nat} {s : State} {e : TlbEnt} (h : Claims.Steady s c e)
include h

theorem steady_key {r : Reg5} (hr : named r) : ∃ k, (s.core c).key r.toNat = some k :=
  CoreSt.key_named (steady_bank h) (steady_trap h) hr

/-! ### After completion -/

section
variable {t u : State} {g : Flow} {eff : Eff} (ht : State.Under c s t) (hu : State.InWord c g (t.apply c eff) u)
include ht hu

theorem ended_bank : (u.core c).bankOn = false := by
  rw [hu.bank, (t.apply_frame c eff).2.2]
  exact ht.bank.trans (steady_bank h)

theorem ended_trap : (u.core c).trap = none := by
  rw [hu.trap, (t.apply_frame c eff).2.2]
  exact ht.trap.trans (steady_trap h)

theorem ended_flow : u.flow c = g := by
  rw [State.flow, CoreSt.flow_ctx (ended_bank h ht hu) (ended_trap h ht hu), hu.flow]

omit h ht in
theorem ended_rf (k : Nat) : u.rf c k = sget 0 k (eff.writes.foldl (fun l w => sset 0 w.1 w.2 l) (t.core c).rf) := by
  rw [State.rf, hu.rf, (t.apply_frame c eff).2.2]

omit h ht in
theorem ended_me : (u.core c).me = { (t.core c).me with flow := g } := by
  rw [hu.me, (t.apply_frame c eff).2.2]
  rfl

omit h in
theorem ended_cur : (u.core c).cur = (s.core c).cur := by
  rw [hu.cur, (t.apply_frame c eff).2.2]
  exact ht.cur

omit h in
theorem ended_spec : (u.core c).me.spec = (s.core c).me.spec := by
  rw [ended_me hu]
  exact ht.spec

theorem ended_key (r : Nat) : (u.core c).key r = (s.core c).key r := by
  have hb : (u.core c).me.base = (s.core c).me.base := by
    rw [ended_me hu]
    exact ht.base
  have hst : (u.core c).st = (s.core c).st := by
    rw [CoreSt.st_ctx (ended_bank h ht hu) (ended_trap h ht hu), CoreSt.st_ctx (steady_bank h) (steady_trap h), ended_spec ht hu]
  simp only [CoreSt.key, ended_bank h ht hu, ended_trap h ht hu, steady_bank h, steady_trap h, ended_cur ht hu, hb, hst]

/-- No register changes but those that the body and the effect write. -/
theorem ended_passes {dst : List Nat} (hg : g.pc = nextPc s c) (hw : ∀ w ∈ eff.writes, ∃ r ∈ dst, (s.core c).key r = some w.1)
    (hrf : ∀ k, (∀ r ∈ dst, (s.core c).key r ≠ some k) → t.rf c k = s.rf c k) : Passes s u c dst (nextPc s c) := by
  refine ⟨fun k hk => ?_, ended_spec ht hu, ended_cur ht hu, by rw [ended_flow h ht hu, hg]⟩
  rw [ended_rf hu, sget_writes_other]
  · exact hrf k hk
  · intro w hm e
    obtain ⟨r, hr, e'⟩ := hw w hm
    exact hk r hr (e ▸ e')

omit h ht in
theorem ended_rest : ∃ cores, u = { t with cores } := by
  obtain ⟨cores, e⟩ := hu.rest
  obtain ⟨cores', e'⟩ := (t.apply_frame c eff).1
  exact ⟨cores, by rw [e, e']⟩

omit h ht in
theorem ended_mem : u.mem = t.mem := by
  obtain ⟨cores, e⟩ := ended_rest hu
  rw [e]

omit h ht in
theorem ended_regs : u.regs = t.regs := by
  obtain ⟨cores, e⟩ := ended_rest hu
  rw [e]

omit h ht in
theorem ended_others {d : Nat} (hd : d ≠ c) : u.core d = t.core d := (hu.others d hd).trans ((t.apply_frame c eff).2.1 d hd)

omit h in
theorem ended_ctxs {j : Nat} (hj : j ≠ (s.core c).cur) : u.ctx c j = t.ctx c j := by
  have hc := (t.apply_frame c eff).2.2
  rw [hu.ctxs j (by rw [hc]; exact ht.cur ▸ hj), State.ctx, State.ctx, hc]
  rfl

end

/-! ### A word with one result -/

section
variable {t : State} {legal : Bool} {uses : List Reg5} {n : Nat} {body : State → Op} {rd : Reg5} {w : Word}

/-- The result is written, and the word goes on. -/
theorem result_passes (hl : legal = true) (hr : named rd) (hb : body (s.pruneMicro c) = t.result c rd.toNat w) (ht : State.Under c s t)
    (dst : List Nat) (hrf : ∀ k, (∀ r ∈ rd.toNat :: dst, (s.core c).key r ≠ some k) → t.rf c k = s.rf c k) :
    ∃ g eff, State.InWord c g (t.apply c eff) (s.issueOp c legal uses n body) ∧
      Passes s (s.issueOp c legal uses n body) c (rd.toNat :: dst) (nextPc s c) ∧
      (s.issueOp c legal uses n body).rget c rd.toNat = w ∧
      (∀ r, (s.core c).key r ≠ (s.core c).key rd.toNat → (s.issueOp c legal uses n body).rget c r = t.rget c r) := by
  obtain ⟨k, hk⟩ := steady_key h hr
  have hkt := fun r => ht.keyOf (steady_bank h) (steady_trap h) r
  rw [State.result, hkt, hk] at hb
  obtain ⟨g, hg, -, hu⟩ := State.issueOp_ok (uses := uses) (n := n) h hl hb ht
  refine ⟨g, _, hu, ended_passes h ht hu hg ?_ hrf, ?_, fun r hne => ?_⟩
  · intro x hx
    obtain rfl := List.mem_singleton.mp hx
    exact ⟨rd.toNat, List.mem_cons_self, hk⟩
  · rw [State.rget, ended_key h ht hu, hk]
    show State.rf _ c k = w
    rw [ended_rf hu]
    exact (sget_sset ..).trans (if_pos rfl)
  · rw [State.rget, State.rget, ended_key h ht hu, hkt]
    cases hkr : (s.core c).key r with
    | none => rfl
    | some k' =>
      show State.rf _ c k' = t.rf c k'
      rw [ended_rf hu]
      exact (sget_sset ..).trans (if_neg fun e => hne (by rw [hkr, hk, e]))

/-- A word whose body leaves the state as it was but for the core's cycles and records. -/
theorem result_steps (hl : legal = true) (hr : named rd) (hb : body (s.pruneMicro c) = t.result c rd.toNat w) (ht : State.Under c s t)
    (hbs : State.Beside c s t) : Steps s (s.issueOp c legal uses n body) c rd w := by
  obtain ⟨g, eff, hu, hp, hv, -⟩ := result_passes (uses := uses) (n := n) h hl hr hb ht [] fun k _ => by rw [State.rf, State.rf, hbs.rf]
  refine ⟨hp, hv, (ended_mem hu).trans hbs.mem, (ended_regs hu).trans hbs.regs, ?_, ?_, fun d hd => (ended_others hu hd).trans (hbs.others d hd),
    fun j hj => (ended_ctxs ht hu hj).trans (hbs.ctxs j hj)⟩
  · rw [ended_me hu]; exact hbs.mult
  · rw [ended_me hu]; exact hbs.storeQ

end

end

theorem Claims.named.regsOk {l : List Reg5} (h : ∀ r ∈ l, named r) : regsOk l = true := List.all_eq_true.mpr fun r hr => decide_eq_true (h r hr)

end Sys2Proof.Machine
end

section
/-! PROOFS. Generic operations on FIX words and times (O25). -/

namespace Sys2Proof.Machine

open Sys2Proof.Claims

/-! ### Numbers and tags -/

theorem sgn_natAbs (i : Int) : sgn (decide (i < 0)) i.natAbs = i := by
  by_cases h : i < 0
  · rw [decide_eq_true h]
    exact (Int.eq_neg_comm.mp (Int.ofNat_natAbs_of_nonpos h.le)).symm
  · rw [decide_eq_false h]
    exact Int.natAbs_of_nonneg (not_lt.mp h)

/-- Integers compare as they are. -/
theorem numCmp_int (i j : Int) (p q : Bool) : numCmp (.int i p) (.int j q) = some (cmpInt i j) := by
  have h : ∀ k : Int, sgn (decide (k < 0)) (k.natAbs * 2 ^ ((0 : Int) - min 0 0).toNat) = k := fun k => by
    simpa using sgn_natAbs k
  show some (if sgn (decide (i < 0)) _ < sgn (decide (j < 0)) _ then _ else _) = _
  rw [h i, h j, cmpInt]

/-- Tags of the operands that the generic operations on numbers and times take. -/
def operandTags : List Nat := [tFix, tHit, tSpike, tTime, tSpan, tSflt]

theorem operandTags_plain {t : Nat} (h : t ∈ operandTags) :
    isReserved t = false ∧ t ≠ tUninit ∧ isCustomer t = false ∧ t ≠ tFwd := by
  revert t
  decide

theorem genericCause_none {a b : Word} (ha : tagOf a ∈ operandTags) (hb : tagOf b ∈ operandTags) (ma : malformed a = false)
    (mb : malformed b = false) : genericCause a b = none := by
  obtain ⟨a1, a2, a3, a4⟩ := operandTags_plain ha
  obtain ⟨b1, b2, b3, b4⟩ := operandTags_plain hb
  simp [genericCause, a1, a2, a3, a4, b1, b2, b3, b4, ma, mb]

theorem tagOf_isFix {w : Word} (h : isFix w = true) : tagOf w = tFix := by simpa [isFix] using h

/-- Every payload of a FIX word is well formed. -/
theorem malformed_fix {w : Word} (h : tagOf w = tFix) : malformed w = false := by
  simp [malformed, h, tFix, tNil, tTrue, tSym, tChan, tRegion, tSpan, tCons, tVec, tBox, tCode, tFwd]

theorem isPoint_tags {w : Word} (h : isPoint w = true) : tagOf w = tHit ∨ tagOf w = tSpike ∨ tagOf w = tTime := by
  simpa [isPoint, or_assoc] using h

theorem isPoint_operand {w : Word} (h : isPoint w = true) : tagOf w ∈ operandTags := by
  rcases isPoint_tags h with h | h | h <;> rw [h] <;> decide

theorem isPoint_not_num {w : Word} (h : isPoint w = true) : isNum w = false := by
  rcases isPoint_tags h with h | h | h <;> simp only [isNum, h] <;> decide

/-! ### One generic operation -/

section
variable {s : State} {c op rd : Nat} {a b : Word} (hr : s.resumable c false = false)
include hr

section
variable (ha : tagOf a = tFix) (hb : tagOf b = tFix)
include ha hb

/-- The hardware path on FIX words. -/
theorem State.generic_fix (ho : op < 6) (hs : slowNum c op a b = false) :
    s.generic c op rd 0 a b = opOf c rd (s.numResult c op a b (.int (fixI a) false) (.int (fixI b) false)) := by
  have hc : genericCause a b = none :=
    genericCause_none (by rw [ha]; decide) (by rw [hb]; decide) (malformed_fix ha) (malformed_fix hb)
  have hn : ∀ {w : Word}, tagOf w = tFix → isNum w = true := fun h => by simp [isNum, h]
  have hx : s.slowOps c op a b = (s, .inr (.int (fixI a) false, .int (fixI b) false)) := by
    simp only [State.slowOps, State.readNum, ha, hb, if_true, if_neg (Nat.not_le.mpr ho)]
  rw [State.generic, show decide ((0 : Nat) = 2) = false from rfl, hr, hc]
  simp only [hn ha, hn hb, hs, hx]
  rfl

omit hr in
theorem slowNum_fix (h : op < 3 → ∀ i, numOp op (.int (fixI a) false) (.int (fixI b) false) = .int i → inFix i = true) :
    slowNum c op a b = false := by
  have hf : ¬ (tagOf a = tSflt ∨ tagOf b = tSflt) := by rw [ha, hb]; decide
  have hbox : (tagOf a = tBox) = False ∧ (tagOf b = tBox) = False := by rw [ha, hb]; decide
  by_cases h3 : op < 3
  · simp [slowNum, hf, hbox, h3, numOp, h h3 _ rfl]
  · simp [slowNum, hf, hbox, h3]

/-- ADD, SUB and MUL of FIX words with a result in FIX range. -/
theorem State.generic_arith (ho : op < 3) {i : Int} (hi : numOp op (.int (fixI a) false) (.int (fixI b) false) = .int i)
    (hin : inFix i = true) : s.generic c op rd 0 a b = s.result c rd (fixW i) := by
  have hs : slowNum c op a b = false := slowNum_fix ha hb fun _ j hj => by
    rw [hi] at hj
    injection hj with hj
    exact hj ▸ hin
  rw [State.generic_fix hr ha hb (by omega) hs, State.numResult, if_pos ho, hi, State.numWord, if_pos hin]
  rfl

/-- CMP, MIN and MAX of FIX words. -/
theorem State.generic_order (h3 : 3 ≤ op) (h6 : op < 6) : s.generic c op rd 0 a b =
    s.result c rd (if op = 3 then fixW (cmpInt (fixI a) (fixI b)) else pick op a b (some (cmpInt (fixI a) (fixI b)))) := by
  rw [State.generic_fix hr ha hb h6 (slowNum_fix ha hb fun h => absurd h (by omega)), State.numResult,
    if_neg (by omega), numCmp_int]
  rfl

end

/-- Operands that are not both numbers. -/
theorem State.generic_time {w : Word} (ha : tagOf a ∈ operandTags) (hb : tagOf b ∈ operandTags) (ma : malformed a = false)
    (mb : malformed b = false) (hn : isNum a = false ∨ isNum b = false) (hw : timeGeneric op a b = .inl w) :
    s.generic c op rd 0 a b = s.result c rd w := by
  rw [State.generic, show decide ((0 : Nat) = 2) = false from rfl, hr, genericCause_none ha hb ma mb]
  simp only [Bool.false_eq_true, if_false, hw]
  rw [if_neg]
  rcases hn with h | h <;> simp [h]

end

/-! ### MIN and MAX (R138) -/

theorem pick_min (a b : Word) (i j : Int) : pick 4 a b (some (cmpInt i j)) = if i ≤ j then a else b := by
  rcases lt_trichotomy i j with h | h | h
  · simp [pick, cmpInt, h, h.le]
  · simp [pick, cmpInt, h]
  · simp [pick, cmpInt, h.not_gt, h.ne', h.not_ge]

theorem pick_max (a b : Word) (i j : Int) : pick 5 a b (some (cmpInt i j)) = if j ≤ i then a else b := by
  rcases lt_trichotomy i j with h | h | h
  · simp [pick, cmpInt, h, h.not_ge]
  · simp [pick, cmpInt, h]
  · simp [pick, cmpInt, h.not_gt, h.ne', h.le]

/-! ### The word -/

theorem State.micro_pruneMicro {s : State} {c : Nat} (hb : (s.core c).bankOn = false) (ht : (s.core c).trap = none)
    (hm : (s.core c).me.micro = []) : ((s.pruneMicro c).core c).me.micro = [] := by
  unfold State.pruneMicro
  dsimp only
  rw [if_neg (by simp [hb, ht]), State.core_setMe, CoreSt.me_setCtx_cur, hm]
  rfl

section
variable {c : Nat} {s : State} {e : TlbEnt} (h : Claims.Steady s c e)
include h

theorem pruned_rget (r : Nat) : (s.pruneMicro c).rget c r = s.rget c r :=
  (steady_pruned h).rgetOf (steady_bank h) (steady_trap h) (State.beside_pruneMicro (steady_bank h) (steady_trap h)).rf r

/-- No routine of the word stands anywhere. -/
theorem pruned_resumable (ply : Bool) : (s.pruneMicro c).resumable c ply = false := by
  have hrun : (s.flow c).run = none := h.1.2.2.2.2.2.1
  have hm := State.micro_pruneMicro (steady_bank h) (steady_trap h) h.1.2.2.2.1
  simp [State.resumable, State.recordHere, (steady_pruned h).flowOf (steady_bank h) (steady_trap h), hrun, hm]

/-- A word whose body gives its result at once. -/
theorem pruned_steps {legal : Bool} {uses : List Reg5} {n : Nat} {body : State → Op} {rd : Reg5} {w : Word} (hl : legal = true)
    (hr : named rd) (hb : body (s.pruneMicro c) = (s.pruneMicro c).result c rd.toNat w) :
    Steps s (s.issueOp c legal uses n body) c rd w :=
  result_steps h hl hr hb (steady_pruned h) (State.beside_pruneMicro (steady_bank h) (steady_trap h))

variable {rd ra rb : Reg5} (hd : named rd) (ha : named ra) (hb : named rb)
include hd ha hb

theorem gen3_steps {op hw : Nat} {w : Word}
    (hg : ∀ t : State, t.resumable c false = false →
      t.generic c op rd.toNat 0 (s.rget c ra.toNat) (s.rget c rb.toNat) = t.result c rd.toNat w) :
    Steps s (s.gen3 c op hw rd ra rb) c rd w := by
  refine pruned_steps h (Claims.named.regsOk (by simp [hd, ha, hb])) hd ?_
  rw [pruned_rget h, pruned_rget h]
  exact hg _ (pruned_resumable h false)

end

/-! ### Times -/

theorem bf_lt_28 (w : Word) : bf w 27 0 < 2 ^ 28 := Nat.mod_lt _ (by decide)

/-- A point plus a FIX (Table 4.6). -/
theorem timeArith_add_point_fix {a b : Word} (ha : isPoint a = true) (hb : tagOf b = tFix) :
    timeArith 0 a b = timeRes (timeOf a + fixI b) := by
  have hf : ¬ (tagOf a = tFix ∧ isPoint b = true) := fun h => by
    rcases isPoint_tags ha with h' | h' | h' <;> rw [h'] at h <;> exact absurd h.1 (by decide)
  simp only [timeArith, if_true, if_neg hf, ha, hb, and_self]

/-- Two HITs (Table 4.7). -/
theorem timeArith_sub_hits {a b : Word} (ha : tagOf a = tHit) (hb : tagOf b = tHit) : timeArith 1 a b = .inl
    (mkTag tSpan (min (bf a 27 0) (bf b 27 0) * 2 ^ 28 + (max (bf a 27 0) (bf b 27 0) - min (bf a 27 0) (bf b 27 0)))) := by
  have hx := bf_lt_28 a
  have hy := bf_lt_28 b
  simp only [timeArith, ha, hb, if_true, and_self, if_false, Nat.one_ne_zero]
  rw [if_neg (fun h => absurd h.2 (by decide)), spanRes, if_pos (by omega), spanW, Int.toNat_natCast]

/-- Two points that are not both HITs (Table 4.7). -/
theorem timeArith_sub_points {a b : Word} (ha : isPoint a = true) (hb : isPoint b = true) (h : ¬ (tagOf a = tHit ∧ tagOf b = tHit)) :
    timeArith 1 a b = timeRes (timeOf a - timeOf b) := by
  have hf : tagOf b ≠ tFix := by rcases isPoint_tags hb with h | h | h <;> rw [h] <;> decide
  simp only [timeArith, Nat.one_ne_zero, if_false, if_true, ha, hb, hf, h, and_false, and_self]

/-- A FIX times a TIME (Table 4.8). -/
theorem timeArith_mul_time {a b : Word} (ha : tagOf a = tFix) (hb : tagOf b = tTime) :
    timeArith 2 a b = timeRes (fixI b * fixI a) := by
  simp [timeArith, ha, hb]

/-- A point and a SPAN (Table 4.9). -/
theorem timeCmp_point_span {a b : Word} (ha : isPoint a = true) (hb : tagOf b = tSpan) : timeCmp a b = some (inSpan a b) := by
  have hp : isPoint b = false := by simp only [isPoint, hb]; decide
  simp only [timeCmp, hp, ha, hb, and_true, Bool.false_eq_true, and_false, if_false, if_true]

theorem timeGeneric_arith {op : Nat} (h : op < 3) (a b : Word) : timeGeneric op a b = timeArith op a b := if_pos h

/-- CMP is the comparison's sign as a FIX word. -/
theorem timeGeneric_cmp {a b : Word} {i : Int} (h : timeCmp a b = some i) : timeGeneric 3 a b = .inl (fixW i) := by
  rw [timeGeneric, h]
  rfl

theorem inSpan_eq (p sp : Word) : inSpan p sp =
    if timeOf p < (bf sp 55 28 * 16 : Nat) then -1 else if timeOf p < ((bf sp 55 28 + bf sp 27 0) * 16 : Nat) then 0 else 1 := rfl

theorem timeRes_inFix {i : Int} (h : inFix i = true) : timeRes i = .inl (mkTag tTime (lowBits 56 i)) := if_pos h

theorem fixI_immW (imm : BitVec 15) : fixI (immW imm) = imm.toInt ∧ tagOf (immW imm) = tFix := by
  have h : inFix imm.toInt = true := decide_eq_true (by have := imm.toInt_lt; have := imm.le_toInt; omega)
  exact ⟨fixI_fixW h, tagOf_fixW _⟩

/-- Settles O25, by the branch that a generic operation takes on these operands. -/
theorem genericOperations : Obligations.GenericOperations := by
  unfold Obligations.GenericOperations
  refine ⟨fun c rd ra rb s e h hd ha hb fa fb => ?_, fun c rd ra rb s e a b h hd ha hb ea eb ma mb => ?_⟩
  · have ta := tagOf_isFix fa
    have tb := tagOf_isFix fb
    refine ⟨fun hi => ⟨_, rfl, ?_⟩, fun hi => ⟨_, rfl, ?_⟩, fun hi => ⟨_, rfl, ?_⟩,
      fun imm hi => ⟨_, rfl, ?_⟩, ⟨_, rfl, ?_⟩, ⟨_, rfl, ?_⟩,
      ⟨_, rfl, ?_⟩⟩
    · exact gen3_steps h hd ha hb fun t hr => State.generic_arith hr ta tb (by decide) rfl hi
    · exact gen3_steps h hd ha hb fun t hr => State.generic_arith hr ta tb (by decide) rfl hi
    · exact gen3_steps h hd ha hb fun t hr => State.generic_arith hr ta tb (by decide) rfl hi
    · obtain ⟨vi, ti⟩ := fixI_immW imm
      refine pruned_steps h (Claims.named.regsOk (by simp [hd, ha])) hd ?_
      rw [pruned_rget h]
      exact State.generic_arith (pruned_resumable h false) ta ti (by decide) (by rw [vi]; rfl) hi
    · exact gen3_steps h hd ha hb fun t hr => State.generic_order hr ta tb (by decide) (by decide)
    · exact gen3_steps h hd ha hb fun t hr => (State.generic_order hr ta tb (by decide) (by decide)).trans
        (congrArg _ (pick_min ..))
    · exact gen3_steps h hd ha hb fun t hr => (State.generic_order hr ta tb (by decide) (by decide)).trans
        (congrArg _ (pick_max ..))
  · subst ea eb
    have ok : ∀ {t : Nat}, t ∈ operandTags → ∀ {w : Word}, tagOf w = t → tagOf w ∈ operandTags := fun h _ e => e ▸ h
    have num : ∀ {w : Word}, tagOf w = tHit ∨ tagOf w = tTime → isNum w = false := fun h => by
      rcases h with h | h <;> simp only [isNum, h] <;> decide
    refine ⟨fun pa tb hi => ⟨_, rfl, ?_⟩, fun pa pb hh hi => ⟨_, rfl, ?_⟩, fun ta tb => ⟨_, rfl, ?_⟩, fun ta tb hi => ⟨_, rfl, ?_⟩,
      fun pa tb => ⟨_, rfl, ?_⟩⟩
    · exact gen3_steps h hd ha hb fun t hr => State.generic_time hr (isPoint_operand pa) (ok (by decide) tb) ma mb
        (.inl (isPoint_not_num pa)) ((timeGeneric_arith (by decide) ..).trans ((timeArith_add_point_fix pa tb).trans (timeRes_inFix hi)))
    · exact gen3_steps h hd ha hb fun t hr => State.generic_time hr (isPoint_operand pa) (isPoint_operand pb) ma mb
        (.inl (isPoint_not_num pa)) ((timeGeneric_arith (by decide) ..).trans ((timeArith_sub_points pa pb hh).trans (timeRes_inFix hi)))
    · exact gen3_steps h hd ha hb fun t hr => State.generic_time hr (ok (by decide) ta) (ok (by decide) tb) ma mb
        (.inl (num (.inl ta))) ((timeGeneric_arith (by decide) ..).trans (timeArith_sub_hits ta tb))
    · exact gen3_steps h hd ha hb fun t hr => State.generic_time hr (ok (by decide) ta) (ok (by decide) tb) ma mb
        (.inr (num (.inr tb))) ((timeGeneric_arith (by decide) ..).trans ((timeArith_mul_time ta tb).trans (timeRes_inFix hi)))
    · refine gen3_steps h hd ha hb fun t hr => State.generic_time hr (isPoint_operand pa) (ok (by decide) tb) ma mb
        (.inl (isPoint_not_num pa)) ?_
      rw [timeGeneric_cmp (timeCmp_point_span pa tb), inSpan_eq]

end Sys2Proof.Machine
end

section
/-! PROOFS. RETAG, FLD and the conversions (O27). -/

namespace Sys2Proof.Machine

open Sys2Proof.Claims

/-! ### Operand checks (R204) -/

theorem readCause_fix {w : Word} (h : tagOf w = tFix) : readCause w = none := by
  simp only [readCause, h]
  decide

theorem srcCause_ok {ok : Word → Bool} {w : Word} (hr : readCause w = none) (hok : ok w = true) (hm : malformed w = false) :
    srcCause ok w = none := by
  simp [srcCause, hr, hok, hm]

theorem srcCause_isFix {w : Word} (h : isFix w = true) : srcCause isFix w = none :=
  srcCause_ok (readCause_fix (tagOf_isFix h)) h (malformed_fix (tagOf_isFix h))

theorem checked_one {s : State} {ok : Word → Bool} {w : Word} (k : Op) (h : srcCause ok w = none) : checked s [(ok, w)] k = k := by
  simp [checked, h]

theorem checked_two {s : State} {ok ok' : Word → Bool} {w w' : Word} (k : Op) (h : srcCause ok w = none) (h' : srcCause ok' w' = none) :
    checked s [(ok, w), (ok', w')] k = k := by
  simp [checked, h, h']

/-! ### FLD (Table 6.3) -/

theorem fldField_fields {f : Nat × Nat × Nat × Nat} (hf : f ∈ fields) {w : Word} (hw : tagOf w = f.2.1) :
    fldField (BitVec.ofNat 15 f.1).toNat w = some (true, fixN (bf w f.2.2.1 f.2.2.2)) := by
  simp only [fields, List.mem_cons, List.not_mem_nil, or_false] at hf
  rcases hf with rfl | rfl | rfl | rfl | rfl | rfl | rfl | rfl | rfl | rfl | rfl | rfl | rfl <;> simp [fldField, hw, pay]

/-! ### Conversions (R131, R209) -/

/-- The rounded value of no number is a NaN. -/
theorem fdec_fround_ne_nan (neg : Bool) (m : Nat) (e : Int) : fdec (fround neg m e) ≠ .nan := by
  have key : ∀ b : Nat, (b / 2 ^ 52 % 2048 = 2047 → b % 2 ^ 52 = 0) → fdec b ≠ .nan := fun b hb => by
    unfold fdec
    dsimp only
    by_cases h : b / 2 ^ 52 % 2048 = 2047
    · rw [if_pos h, if_pos (hb h)]
      exact fun e => by cases e
    · rw [if_neg h]
      split_ifs <;> exact fun e => by cases e
  have hsign : signBit neg = 0 ∨ signBit neg = 2 ^ 63 := by cases neg <;> simp [signBit]
  apply key
  unfold fround infBits
  extract_lets q mag bits
  split_ifs <;> omega

/-- An integer as a binary64 value is a number. -/
theorem fofInt_ne_nan (i : Int) : fofInt i ≠ .nan := fdec_fround_ne_nan _ _ _

theorem State.bits64_num (s : State) {v : FVal} (h : v ≠ .nan) : s.bits64 v = (s, fbits v) := if_neg h

section
variable (t : State) (c rd : Nat)

/-- CVTF of a FIX word. -/
theorem State.slowWork_cvtf {a : Word} (ha : tagOf a = tFix) :
    t.slowWork c 6 rd a 0 = t.result c rd (mkTag tSflt (sfltPay (fbits (fofInt (fixI a))))) := by
  simp only [State.slowWork, State.slowOps, State.readNum, ha, if_true, if_pos (show (6 : Nat) ≤ 6 from le_rfl), State.convert,
    State.numWord, State.sfltW, Num.val, State.bits64_num t (fofInt_ne_nan _)]
  rfl

/-- CVTI of an SFLT word with an integer in FIX range, and of one with none. -/
theorem State.slowWork_cvti {a : Word} (ha : tagOf a = tSflt) {i : Int} (hi : ftrunc (fdec (pay a * 256)) = some i) (hin : inFix i = true) :
    t.slowWork c 7 rd a 0 = t.result c rd (fixW i) := by
  have hne : ¬ tagOf a = tFix := by rw [ha]; decide
  simp only [State.slowWork, State.slowOps, State.readNum, if_neg hne, if_pos ha, if_pos (show (6 : Nat) ≤ 7 by decide), State.convert,
    if_neg (show ¬ (7 : Nat) = 6 by decide), hi, State.numWord, if_pos hin]
  rfl

theorem State.slowWork_cvti_nil {a : Word} (ha : tagOf a = tSflt) (hi : ftrunc (fdec (pay a * 256)) = none) :
    t.slowWork c 7 rd a 0 = t.result c rd nilW := by
  have hne : ¬ tagOf a = tFix := by rw [ha]; decide
  simp only [State.slowWork, State.slowOps, State.readNum, if_neg hne, if_pos ha, if_pos (show (6 : Nat) ≤ 7 by decide), State.convert,
    if_neg (show ¬ (7 : Nat) = 6 by decide), hi]
  rfl

/-- A conversion of a FIX or an SFLT takes 18 cycles on a general core (Table 13.3). -/
theorem State.slowCycles_convert {c op : Nat} {a : Word} (ha : tagOf a = tFix ∨ tagOf a = tSflt) (hop : 6 ≤ op) (hf : isFit c = false) :
    t.slowCycles c op a 0 = (t, .inr 18) := by
  have h6 : ¬ op < 6 := Nat.not_lt.mpr hop
  rcases ha with ha | ha
  · simp only [State.slowCycles, State.slowOps, State.readNum, ha, if_true, if_pos hop, if_neg h6, hf, Bool.false_eq_true, if_false]
  · have hne : ¬ tagOf a = tFix := by rw [ha]; decide
    simp only [State.slowCycles, State.slowOps, State.readNum, if_neg hne, if_pos ha, if_pos hop, if_neg h6, hf, Bool.false_eq_true,
      if_false]

end

/-! ### A routine that starts (R415, R416) -/

section
variable {t : State} {c : Nat} {ply : Bool} (hr : t.resumable c ply = false)
include hr

/-- No record and no stretch of the word: its routine starts. -/
theorem State.resumeHere_fresh : t.resumeHere c ply = .fresh := by
  simp only [State.resumable, Bool.or_eq_false_iff, Option.isSome_eq_false_iff, Option.isNone_iff_eq_none] at hr
  simp only [State.resumeHere, hr.1, hr.2]

theorem State.routine_fresh (ops : List Word) (go : State → MicroRec → Leg) :
    t.routine c ply ops go = (go (t.bump (oUcs 0x100)) (t.freshRec c 0 ply ops)).toOp c (t.freshRec c 0 ply ops) := by
  rw [State.routine, State.resumeHere_fresh hr]

end

/-- A cost of one stretch is paid at once. -/
theorem State.paid_once {t u : State} {c n : Nat} {r : MicroRec} {cost : State → State × (Flt ⊕ Nat)} (work : State → Op)
    (hl : r.left = 0) (hc : cost t = (u, .inr n)) (hn : n ≤ 256) : t.paid c r cost work = .fin (work (u.spend c n)) := by
  rw [State.paid, if_pos hl, hc]
  exact if_pos hn

/-- A conversion by routine: counted, paid at once, and done. -/
theorem State.slowRoutine_convert {t : State} {c rd op : Nat} {a : Word} (hr : t.resumable c false = false)
    (ha : tagOf a = tFix ∨ tagOf a = tSflt) (hop : 6 ≤ op) (hf : isFit c = false) {w : Word}
    (hw : ∀ u : State, u.slowWork c op rd a 0 = u.result c rd w) :
    t.slowRoutine c op rd false a 0 = ((t.bump (oUcs 0x100)).spend c 18).result c rd w := by
  rw [State.slowRoutine, State.routine_fresh hr]
  dsimp only
  rw [State.paid_once _ rfl (State.slowCycles_convert _ ha hop hf) (by decide)]
  show Op.keepS6 c _ (State.slowWork _ c op rd a 0) = _
  rw [hw]
  rfl

/-! ### CVTF and CVTI -/

section
variable {t : State} {c rd op : Nat} {a : Word} (hr : t.resumable c false = false) (hc : readCause a = none) (hm : malformed a = false)
include hr hc hm

/-- On a fit core the hardware converts (R131). -/
theorem State.opConvert_fit (hf : isFit c = true) (ha : op = 6 ∧ tagOf a = tFix ∨ op = 7 ∧ tagOf a = tSflt ∧
    ∀ i, ftrunc (fdec (pay a * 256)) = some i → inFix i = true) :
    t.opConvert c op rd a = (t.spend c 1).slowWork c op rd a 0 := by
  have hbox : tagOf a ≠ tBox := by rcases ha with ⟨-, e⟩ | ⟨-, e, -⟩ <;> rw [e] <;> decide
  rw [State.opConvert]
  dsimp only
  rw [hr, if_neg Bool.false_ne_true, checked_one]
  · rw [if_neg]
    rintro (h | h | h)
    · rw [hf] at h; cases h
    · exact hbox h
    · rcases ha with ⟨rfl, -⟩ | ⟨rfl, e, hi⟩
      · simp at h
      · cases hv : ftrunc (fdec (pay a * 256)) with
        | none => simp [hv] at h
        | some i => simp [hv, hi i hv] at h
  · refine srcCause_ok hc ?_ hm
    rcases ha with ⟨rfl, e⟩ | ⟨rfl, e, -⟩ <;> simp [isNum, e]

/-- On a general core a routine does (R131). -/
theorem State.opConvert_general (hf : isFit c = false) (hh : t.haOn 7 0 = false)
    (ha : op = 6 ∧ tagOf a = tFix ∨ op = 7 ∧ tagOf a = tSflt) {w : Word}
    (hw : ∀ u : State, u.slowWork c op rd a 0 = u.result c rd w) :
    t.opConvert c op rd a = ((t.bump (oUcs 0x100)).spend c 18).result c rd w := by
  rw [State.opConvert]
  dsimp only
  rw [hr, if_neg Bool.false_ne_true, checked_one, if_pos (.inl hf), State.slowPath, hh, if_neg Bool.false_ne_true]
  · refine State.slowRoutine_convert hr ?_ ?_ hf hw
    · exact ha.imp And.right And.right
    · omega
  · refine srcCause_ok hc ?_ hm
    rcases ha with ⟨rfl, e⟩ | ⟨rfl, e⟩ <;> simp [isNum, e]

end

/-! ### A word whose routine answers -/

theorem State.under_bump (c o : Nat) (s : State) : State.Under c s (s.bump o) := State.Under.of_core rfl rfl rfl rfl rfl rfl

section
variable {c : Nat} {s : State} {e : TlbEnt} (h : Claims.Steady s c e)
include h

theorem result_answers {t : State} {legal : Bool} {uses : List Reg5} {n : Nat} {body : State → Op} {rd : Reg5} {w : Word}
    (hl : legal = true) (hr : named rd) (hb : body (s.pruneMicro c) = t.result c rd.toNat w) (ht : State.Under c s t)
    (hrf : (t.core c).rf = (s.core c).rf) (hmem : t.mem = s.mem) (hregs : SameRegs (· = oUcs 0x100) s t) :
    Answers s (s.issueOp c legal uses n body) c rd w := by
  obtain ⟨g, eff, hu, hp, hv, -⟩ := result_passes (uses := uses) (n := n) h hl hr hb ht [] fun k _ => by rw [State.rf, State.rf, hrf]
  refine ⟨hp, hv, (ended_mem hu).trans hmem, fun o ho => ?_⟩
  rw [← hregs o ho, State.reg, State.reg, ended_regs hu]

/-- The routine counts itself, spends its cycles and gives its result. -/
theorem pruned_answers {legal : Bool} {uses : List Reg5} {n m : Nat} {body : State → Op} {rd : Reg5} {w : Word} (hl : legal = true)
    (hr : named rd) (hb : body (s.pruneMicro c) = (((s.pruneMicro c).bump (oUcs 0x100)).spend c m).result c rd.toNat w) :
    Answers s (s.issueOp c legal uses n body) c rd w := by
  have hp := State.beside_pruneMicro (steady_bank h) (steady_trap h)
  have hs := State.beside_spend c m ((s.pruneMicro c).bump (oUcs 0x100))
  refine result_answers h hl hr hb ?_ (hs.rf.trans hp.rf) (hs.mem.trans hp.mem) fun o ho => ?_
  · exact ((steady_pruned h).trans (State.under_bump c _ _)).trans (State.under_spend c m _)
  · rw [State.reg, hs.regs]
    show ((s.pruneMicro c).bump (oUcs 0x100)).reg o = s.reg o
    rw [State.bump, State.reg_bumpN, if_neg ho, State.reg, State.reg, hp.regs]

/-- A word that spends cycles of its own and gives its result. -/
theorem pruned_spend_steps {legal : Bool} {uses : List Reg5} {n m : Nat} {body : State → Op} {rd : Reg5} {w : Word} (hl : legal = true)
    (hr : named rd) (hb : body (s.pruneMicro c) = ((s.pruneMicro c).spend c m).result c rd.toNat w) :
    Steps s (s.issueOp c legal uses n body) c rd w := by
  have hp := State.beside_pruneMicro (steady_bank h) (steady_trap h)
  exact result_steps h hl hr hb ((steady_pruned h).trans (State.under_spend c m _))
    (hp.trans (steady_pruned h).cur (State.beside_spend c m _))

end

/-! ### RETAG (R210) -/

theorem State.opRetag_ok {t : State} {c rd : Nat} {a b : Word} (hc : readCause a = none) (hm : malformed a = false) (hb : isFix b = true)
    (hlt : pay b < 256) (hu : pay b ≠ tUninit) (hf : pay b ≠ tFwd) (hr : isReserved (pay b) = false)
    (hs : isObject (pay b) = true → t.sup c = true) : t.opRetag c rd a b = t.result c rd (mkTag (pay b) (pay a)) := by
  have h1 : ¬ (isFix b = true ∧ isObject (pay b) = true ∧ t.sup c = false) := fun ⟨_, h, h'⟩ => by
    rw [hs h] at h'
    cases h'
  have h2 : ¬ (isFix b = true ∧ (255 < pay b ∨ pay b = tUninit ∨ pay b = tFwd ∨ isReserved (pay b) = true)) := by
    rintro ⟨-, h | h | h | h⟩
    · omega
    · exact hu h
    · exact hf h
    · rw [hr] at h
      cases h
  rw [State.opRetag, if_neg h1, if_neg h2, checked_two _ (srcCause_ok hc rfl hm) (srcCause_isFix hb)]

theorem State.opFld_ok {t : State} {c rd sel : Nat} {a v : Word} (hf : fldField sel a = some (true, v)) (hc : readCause a = none)
    (hm : malformed a = false) : t.opFld c rd sel a = t.result c rd v := by
  rw [State.opFld, hf]
  exact checked_one _ (srcCause_ok hc rfl hm)

/-- Settles O27, by the operand checks that pass and the routine that a general core runs. -/
theorem tagsFieldsAndConversions : Obligations.TagsFieldsAndConversions := by
  unfold Obligations.TagsFieldsAndConversions
  intro c rd ra rb s e a h hd ha hb ea hc hm
  have hp := steady_pruned h
  have ea' : (s.pruneMicro c).rget c ra.toNat = a := (pruned_rget h _).trans ea.symm
  have fresh := pruned_resumable h false
  have ok2 : regsOk [rd, ra] = true := Claims.named.regsOk (by simp [hd, ha])
  have ok3 : (regsOk [rd, ra] && true) = true := by rw [ok2]; rfl
  have haOn : (s.pruneMicro c).haOn 7 0 = s.haOn 7 0 := by
    simp only [State.haOn, State.field, State.reg, (State.beside_pruneMicro (steady_bank h) (steady_trap h)).regs]
  refine ⟨fun fb t et ht hu hf hr hs => ⟨_, rfl, ?_⟩, fun f hf ht => ⟨_, rfl, ?_⟩, ⟨_, rfl, ?_⟩, fun fit ta => ⟨_, rfl, ?_⟩,
    fun fit hh => ⟨fun ta => ⟨_, rfl, ?_⟩, fun i ta hi hin => ⟨_, rfl, ?_⟩, fun ta hi => ⟨_, rfl, ?_⟩⟩,
    fun fit ta => ⟨fun i hi hin => ⟨_, rfl, ?_⟩, fun hi => ⟨_, rfl, ?_⟩⟩⟩
  · subst et
    refine pruned_steps h (Claims.named.regsOk (by simp [hd, ha, hb])) hd ?_
    rw [ea', pruned_rget h]
    exact State.opRetag_ok hc hm fb ht hu hf hr fun ho => by
      rw [hp.supOf (steady_bank h) (steady_trap h)]
      exact hs ho
  · refine pruned_steps h ok3 hd ?_
    rw [ea']
    exact State.opFld_ok (fldField_fields hf ht) hc hm
  · refine pruned_steps h ok3 hd ?_
    rw [ea']
    exact State.opFld_ok (sel := 7) rfl hc hm
  · refine pruned_spend_steps h (m := 1) ok2 hd ?_
    rw [ea', State.opConvert_fit fresh hc hm fit (.inl ⟨rfl, ta⟩), State.slowWork_cvtf _ _ _ ta]
  · refine pruned_answers h (m := 18) ok2 hd ?_
    rw [ea', State.opConvert_general fresh hc hm fit (haOn.trans hh) (.inl ⟨rfl, ta⟩) fun u => u.slowWork_cvtf c _ ta]
  · refine pruned_answers h (m := 18) ok2 hd ?_
    rw [ea', State.opConvert_general fresh hc hm fit (haOn.trans hh) (.inr ⟨rfl, ta⟩) fun u => u.slowWork_cvti c _ ta hi hin]
  · refine pruned_answers h (m := 18) ok2 hd ?_
    rw [ea', State.opConvert_general fresh hc hm fit (haOn.trans hh) (.inr ⟨rfl, ta⟩) fun u => u.slowWork_cvti_nil c _ ta hi]
  · refine pruned_spend_steps h (m := 1) ok2 hd ?_
    rw [ea', State.opConvert_fit fresh hc hm fit (.inr ⟨rfl, ta, fun j hj => by rw [hi, Option.some.injEq] at hj; exact hj ▸ hin⟩),
      State.slowWork_cvti _ _ _ ta hi hin]
  · refine pruned_spend_steps h (m := 1) ok2 hd ?_
    rw [ea', State.opConvert_fit fresh hc hm fit (.inr ⟨rfl, ta, fun j hj => by rw [hi] at hj; cases hj⟩),
      State.slowWork_cvti_nil _ _ _ ta hi]

end Sys2Proof.Machine
end

section
/-! PROOFS. Stores wait in the queue of their context (O30, first part). -/

namespace Sys2Proof.Machine

open Sys2Proof.Claims

/-! ### The fetched state -/

section
variable {c : Nat} {s : State} {e : TlbEnt} (h : Claims.Steady s c e)
include h

theorem pruned_core : ∃ ctxs, (s.pruneMicro c).core c = { s.core c with ctxs } := by
  obtain ⟨l, hp⟩ := State.core_pruneMicro (steady_bank h) (steady_trap h)
  exact ⟨_, by rw [hp, State.core_setMe]; rfl⟩

theorem pruned_rest : ∃ cores, s.pruneMicro c = { s with cores } := by
  obtain ⟨l, hp⟩ := State.core_pruneMicro (steady_bank h) (steady_trap h)
  exact ⟨_, hp⟩

theorem pruned_bank : ((s.pruneMicro c).core c).bankOn = false := (steady_pruned h).bank.trans (steady_bank h)
theorem pruned_trap : ((s.pruneMicro c).core c).trap = none := (steady_pruned h).trap.trans (steady_trap h)
theorem pruned_st : (s.pruneMicro c).st c = s.st c := (steady_pruned h).stOf (steady_bank h) (steady_trap h)
theorem pruned_sup : (s.pruneMicro c).sup c = s.sup c := (steady_pruned h).supOf (steady_bank h) (steady_trap h)
theorem pruned_world : (s.pruneMicro c).world_ c = s.world_ c := (steady_pruned h).worldOf (steady_bank h) (steady_trap h)
theorem pruned_key (r : Nat) : ((s.pruneMicro c).core c).key r = (s.core c).key r := (steady_pruned h).keyOf (steady_bank h) (steady_trap h) r

theorem pruned_mem : (s.pruneMicro c).mem = s.mem := (State.beside_pruneMicro (steady_bank h) (steady_trap h)).mem
theorem pruned_regs : (s.pruneMicro c).regs = s.regs := (State.beside_pruneMicro (steady_bank h) (steady_trap h)).regs
theorem pruned_rf : ((s.pruneMicro c).core c).rf = (s.core c).rf := (State.beside_pruneMicro (steady_bank h) (steady_trap h)).rf
theorem pruned_storeQ : ((s.pruneMicro c).core c).me.storeQ = (s.core c).me.storeQ :=
  (State.beside_pruneMicro (steady_bank h) (steady_trap h)).storeQ

theorem pruned_stacks : (s.pruneMicro c).stacks = s.stacks := by
  obtain ⟨cores, e⟩ := pruned_rest h
  rw [e]
  rfl

theorem pruned_seen (pa : Nat) : (s.pruneMicro c).seen c pa = s.seen c pa := by
  simp only [State.seen, pruned_storeQ h, pruned_mem h]

/-- What a store finds, and the header that an object mode reads, the fetched state shows too. -/
theorem pruned_storeFinds {va pa : Nat} (hf : StoreFinds s c va pa) : StoreFinds (s.pruneMicro c) c va pa := by
  obtain ⟨ctxs, hc⟩ := pruned_core h
  obtain ⟨a, h1, h2, h3, h4, h5, h6, h7⟩ := hf
  refine ⟨a, ?_, ?_, h3, ?_, ?_, ?_, ?_⟩
  · rw [pruned_world h, hc]; exact h1
  · rw [pruned_sup h]; exact h2
  · rw [pruned_stacks h]; exact h4
  · rw [pruned_seen h]; exact h5
  · rw [pruned_st h]; exact h6
  · rw [pruned_storeQ h]; exact h7

end

/-! ### A load that the data cache answers -/

/-- A load that finds its line in the data cache, with no store queued: the word, and the state as it was. -/
theorem State.loadW_cached {s : State} {c va pa : Nat} {w : Word} (hc : Cached s c va pa w) (hu : (s.core c).upset = []) :
    s.loadW c va = (s, .inr w) := by
  obtain ⟨⟨e, he, ha, rfl, hpa, hq, hbl, -, rfl, hf⟩, hl⟩ := hc
  have hdev : isDevice ((e.pa + (va - e.va)) % 2 ^ 46) = false := decide_eq_false (by omega)
  have hload : s.load1 c va = (s, .inr (mrdW ((e.pa + (va - e.va)) % 2 ^ 46) s.mem)) := by
    simp only [State.load1, State.loadAt, State.translate_hit (acc := .load) he ha, State.unblock, hbl, hdev, hq, State.l1Check, hu,
      State.l1dHas, State.l1dLoad, hl, List.any_nil, List.contains_nil, Bool.true_or, Bool.false_eq_true, if_false, if_true]
  rw [State.loadW, State.loadFwd, hload]
  exact if_neg hf

/-- The header of an object in the data cache. -/
theorem State.header_cached {s : State} {c : Nat} {p w : Word} (hp : HeadAt s c p w) (hu : (s.core c).upset = []) :
    s.header c p = (s, .inr w) := by
  obtain ⟨-, ⟨pa, hc⟩, hok⟩ := hp
  rw [State.header, State.loadW_cached hc hu]
  dsimp only
  rw [if_pos hok]

section
variable {c : Nat} {s : State} {e : TlbEnt} (h : Claims.Steady s c e)
include h

theorem pruned_header {p w : Word} (hp : HeadAt s c p w) : (s.pruneMicro c).header c p = (s.pruneMicro c, .inr w) := by
  obtain ⟨ctxs, hc⟩ := pruned_core h
  obtain ⟨hm, ⟨pa, ⟨a, h1, h2, h3, h4, h5, h6, h7, h8, h9⟩, hl⟩, hok⟩ := hp
  have hl' : l1Has (pa / 64) ((s.pruneMicro c).core c).l1d = true := by rw [hc]; exact hl
  refine State.header_cached ⟨hm, ⟨pa, ⟨a, ?_, ?_, h3, h4, ?_, ?_, .inl ?_, ?_, h9⟩, hl'⟩, hok⟩ ?_
  · rw [pruned_world h, hc]; exact h1
  · rw [pruned_sup h]; exact h2
  · rw [pruned_storeQ h]; exact h5
  · rw [hc]; exact h6
  · rw [State.l1dHas, hl']; rfl
  · rw [pruned_mem h]; exact h8
  · rw [hc]; exact h.1.2.2.2.2.1

end

/-! ### A store that may be made -/

theorem stacks_le (s : State) : s.stacks ≤ 4 := by
  unfold State.stacks
  split_ifs <;> omega

theorem isDevice_memory {s : State} {pa : Nat} (h : pa < s.stacks * stackSize) : isDevice pa = false := by
  have := stacks_le s
  have : pa < 4 * 0xC00000000 := lt_of_lt_of_le h (Nat.mul_le_mul_right _ this)
  exact decide_eq_false (by omega)

theorem State.storeTarget_found {s : State} {c va pa : Nat} (h : StoreFinds s c va pa) :
    s.storeTarget c va 8 = (s, .inr (va, pa)) := by
  obtain ⟨a, h1, h2, rfl, h4, h5, -⟩ := h
  have hin : ¬ ((a.pa + (va - a.va)) % 2 ^ 46 < 0x100000000000 ∧ s.stacks * stackSize ≤ (a.pa + (va - a.va)) % 2 ^ 46) := fun h =>
    absurd h4 (Nat.not_lt.mpr h.2)
  have hop : s.storeHop c va = (s, .inr (.inr (va, (a.pa + (va - a.va)) % 2 ^ 46))) := by
    simp only [State.storeHop, State.translate_hit (acc := .store) h1 h2, isDevice_memory h4, if_neg hin, Bool.false_eq_true, if_false]
    exact if_neg fun hc => h5 hc.1
  rw [State.storeTarget, hop]

theorem State.storeW_found {s : State} {c va pa : Nat} {w : Word} (h : StoreFinds s c va pa) (hw : mayStore w va) :
    s.storeW c va w = (s.enqueue c pa w, .ok) := by
  obtain ⟨-, -, -, -, -, -, hprov, -⟩ := id h
  have hprom : ¬ (isObject (tagOf w) && isFrameVa (pay w) && isHoldVa va) = true := by
    have := hw.2
    simp only [Bool.and_eq_true]
    tauto
  rw [State.storeW, State.storeTarget_found h]
  dsimp only
  rw [if_neg (fun hc => by rw [hprov] at hc; exact absurd hc.1 (by decide)), if_neg hprom]

/-! ### The queue -/

theorem State.unblock_frame (s : State) (c : Nat) : (∃ cores free, s.unblock c = { s with cores, free }) ∧
    (∃ l1d blocked side, (s.unblock c).core c = { s.core c with l1d, blocked, side }) ∧ ∀ d, d ≠ c → (s.unblock c).core d = s.core d := by
  have same : (∃ cores free, s = { s with cores, free }) ∧
      (∃ l1d blocked side, s.core c = { s.core c with l1d, blocked, side }) ∧ ∀ d, d ≠ c → s.core d = s.core d :=
    ⟨⟨_, _, rfl⟩, ⟨_, _, _, rfl⟩, fun _ _ => rfl⟩
  have put : ∀ (l1d : Sparse Nat) (blocked : Option Nat) (side : List Nat) (n : Nat), ∀ t : State,
      t = { s.setCore c { s.core c with l1d, blocked, side } with free := n } → (∃ cores free, t = { s with cores, free }) ∧
      (∃ l1d blocked side, t.core c = { s.core c with l1d, blocked, side }) ∧ ∀ d, d ≠ c → t.core d = s.core d := by
    rintro l1d blocked side n _ rfl
    exact ⟨⟨_, _, rfl⟩, ⟨l1d, blocked, side, (State.core_setCore ..).trans (if_pos rfl)⟩,
      fun d hd => (State.core_setCore ..).trans (if_neg hd)⟩
  unfold State.unblock
  split
  · unfold State.l1dFill
    dsimp only
    split_ifs
    · exact put _ _ _ s.free _ rfl
    · exact put _ _ _ _ _ rfl
  · exact same

/-- A queue with room takes the store at its end, and no byte of memory changes. -/
theorem State.enqueue_room {s : State} {c pa : Nat} {w : Word} (hd : isDevice pa = false) (hr : (s.core c).me.storeQ.length < 16) :
    State.Under c s (s.enqueue c pa w) ∧ (s.enqueue c pa w).mem = s.mem ∧ (s.enqueue c pa w).regs = s.regs ∧
      ((s.enqueue c pa w).core c).rf = (s.core c).rf ∧ ((s.enqueue c pa w).core c).me.storeQ = (s.core c).me.storeQ ++ [(pa, w)] := by
  obtain ⟨⟨cores, free, hs⟩, ⟨l1d, blocked, side, hc⟩, -⟩ := s.unblock_frame c
  unfold State.enqueue
  generalize s.unblock c = u at hs hc
  have hq : u.ctx c (u.core c).cur = (s.core c).me := by rw [State.ctx, hc]; rfl
  dsimp only
  rw [hd, if_neg Bool.false_ne_true, hq, if_neg (Nat.not_le.mpr hr), hq]
  have hcore : (u.setCtx c (u.core c).cur { (s.core c).me with storeQ := (s.core c).me.storeQ ++ [(pa, w)] }).core c =
      (u.core c).setCtx (u.core c).cur { (s.core c).me with storeQ := (s.core c).me.storeQ ++ [(pa, w)] } :=
    (State.core_setCore ..).trans (if_pos rfl)
  have hme := congrArg CoreSt.me hcore
  rw [CoreSt.me_setCtx_cur] at hme
  refine ⟨⟨?_, ?_, ?_, ?_, by rw [hme], by rw [hme], by rw [hme]⟩, ?_, ?_, ?_, by rw [hme]⟩
  · rw [hcore, hc]; rfl
  · rw [hcore, hc]; rfl
  · rw [hcore, hc]; rfl
  · rw [hcore, hc]; rfl
  · rw [hs]; rfl
  · rw [hs]; rfl
  · rw [hcore, hc]; rfl

/-! ### The word -/

section
variable {c : Nat} {s : State} {e : TlbEnt} (h : Claims.Steady s c e)
include h

/-- A word whose body puts its store into the queue; `also` are the registers that it writes. -/
theorem issueOp_stores {legal : Bool} {uses : List Reg5} {n va pa : Nat} {body : State → Op} {w : Word} {also : List (Nat × Word)}
    {dst : List Nat} (hl : legal = true) (hf : StoreFinds s c va pa)
    (hb : body (s.pruneMicro c) = .ok ((s.pruneMicro c).enqueue c pa w) { writes := also, loads := [] })
    (hw : ∀ x ∈ also, ∃ r ∈ dst, (s.core c).key r = some x.1) :
    Stores s (s.issueOp c legal uses n body) c pa w dst ∧
      ∀ r k v, also = [(k, v)] → (s.core c).key r = some k → (s.issueOp c legal uses n body).rget c r = v := by
  obtain ⟨-, -, -, -, hpa, -, -, hroom⟩ := hf
  obtain ⟨hq, hmem, hregs, hrf, hsq⟩ := State.enqueue_room (w := w) (isDevice_memory hpa)
    ((congrArg List.length (pruned_storeQ h)).trans_lt hroom)
  have ht := (steady_pruned h).trans hq
  obtain ⟨g, hg, -, hu⟩ := State.issueOp_ok (uses := uses) (n := n) h hl hb ht
  refine ⟨⟨ended_passes h ht hu hg hw fun k _ => ?_, ?_, ?_, ?_⟩, fun r k v ha hk => ?_⟩
  · rw [State.rf, State.rf, hrf, pruned_rf h]
  · rw [ended_me hu, ← pruned_storeQ h]
    exact hsq
  · rw [ended_mem hu, hmem, pruned_mem h]
  · rw [ended_regs hu, hregs, pruned_regs h]
  · subst ha
    rw [State.rget, ended_key h ht hu, hk]
    show State.rf _ c k = v
    rw [ended_rf hu]
    exact (sget_sset ..).trans (if_pos rfl)

theorem issueOp_stores_plain {legal : Bool} {uses : List Reg5} {n va pa : Nat} {body : State → Op} {w : Word} (hl : legal = true)
    (hf : StoreFinds s c va pa)
    (hb : body (s.pruneMicro c) = .ok ((s.pruneMicro c).enqueue c pa w) { writes := [], loads := [] }) :
    Stores s (s.issueOp c legal uses n body) c pa w [] :=
  (issueOp_stores h hl hf hb fun _ hx => absurd hx List.not_mem_nil).1

/-- A store that moves its base register. -/
theorem issueOp_stores_move {legal : Bool} {uses : List Reg5} {n va pa : Nat} {body : State → Op} {w v : Word} {ra : Reg5} (hl : legal = true)
    (hf : StoreFinds s c va pa) (ha : named ra)
    (hb : body (s.pruneMicro c) = .ok ((s.pruneMicro c).enqueue c pa w) { writes := (s.pruneMicro c).wr c ra.toNat v, loads := [] }) :
    Stores s (s.issueOp c legal uses n body) c pa w [ra.toNat] ∧ (s.issueOp c legal uses n body).rget c ra.toNat = v := by
  obtain ⟨k, hk⟩ := steady_key h ha
  rw [State.wr, pruned_key h, hk] at hb
  obtain ⟨hs, hr⟩ := issueOp_stores (uses := uses) (n := n) (dst := [ra.toNat]) h hl hf hb fun x hx => by
    obtain rfl := List.mem_singleton.mp hx
    exact ⟨_, List.mem_singleton.mpr rfl, hk⟩
  exact ⟨hs, hr _ k v rfl hk⟩

variable {va pa : Nat} {w : Word} {rs : Reg5} (hw : w = s.rget c rs.toNat) (hm : mayStore w va)
include hw hm

/-- The source word passes its checks. -/
theorem pruned_srcBad : (s.pruneMicro c).srcBad c rs.toNat = none := by
  have hx : (s.pruneMicro c).exempt c rs.toNat = false := by simp [State.exempt, pruned_trap h]
  rw [State.srcBad, hx, pruned_rget h, ← hw, hm.1]
  rfl

theorem pruned_storeTo (hf : StoreFinds s c va pa) (also : List (Nat × Word)) :
    (s.pruneMicro c).storeTo c va 0 ((s.pruneMicro c).rget c rs.toNat) also =
    .ok ((s.pruneMicro c).enqueue c pa w) { writes := also, loads := [] } := by
  rw [State.storeTo, pruned_rget h, ← hw, State.storeW_found (pruned_storeFinds h hf) hm]

end

/-- A word with no routine under way does its store's work. -/
theorem State.storing_fresh {s : State} {c : Nat} (h : s.resumable c false = false) (work : State → Op) : s.storing c false work = work s := by
  rw [State.storing, h, if_neg Bool.false_ne_true]

/-! ### Addresses -/

theorem rawAddr_ok {st : Bool} {base a : Int} {va : Nat} (h : rawOk base a) (hv : (va : Int) = a) : rawAddr st base a = .inr va := by
  obtain ⟨h8, hb, hb', ha, ha'⟩ := h
  subst hv
  have hlow : lowBits 47 (va : Int) = va := lowBits_natCast 47 va (by omega)
  rw [rawAddr, if_neg (not_not.mpr h8), if_neg (by omega), hlow]

theorem readCause_object {w : Word} (h : isObject (tagOf w) = true) : readCause w = none := by
  have ht := of_decide_eq_true h
  have : tagOf w = tCons ∨ tagOf w = tVec ∨ tagOf w = tBox ∨ tagOf w = tCode := by
    simp only [tCons, tVec, tBox, tCode] at ht ⊢
    omega
  rcases this with e | e | e | e <;> simp only [readCause, e] <;> decide

/-- A raw address, with the base as it will be. -/
theorem State.memAddr_raw {s : State} {c va : Nat} {st post : Bool} {b : Word} {ofs : Int} (hb : isFix b = true)
    (hr : rawOk (fixI b) (if post then fixI b else fixI b + ofs * 8)) (hv : (va : Int) = if post then fixI b else fixI b + ofs * 8) :
    s.memAddr c st post b ofs = (s, .inr (va, if post then some (fixW (fixI b + ofs * 8)) else none)) := by
  have hno : isObject (tagOf b) = false := by rw [tagOf_isFix hb]; decide
  have hsrc : srcCause (fun w => isFix w || isObject (tagOf w)) b = none :=
    srcCause_ok (readCause_fix (tagOf_isFix hb)) (by simp [hb]) (malformed_fix (tagOf_isFix hb))
  rw [State.memAddr, if_neg (by rw [hno]; exact fun h => Bool.false_ne_true h.1), hsrc]
  dsimp only
  rw [if_pos hb, rawAddr_ok hr hv]

/-- The address of a word of a VEC, BOX or CODE object. -/
theorem State.memAddr_object {s : State} {c va : Nat} {b h : Word} {k : Int} (ht : tagOf b = tVec ∨ tagOf b = tBox ∨ tagOf b = tCode)
    (hm : malformed b = false) (hh : s.header c b = (s, .inr h)) (h0 : 0 < k) (hk : k ≤ bf h 31 0) (hv : (va : Int) = pay b + 8 * k) :
    s.memAddr c true false b k = (s, .inr (va, none)) := by
  have hobj : isObject (tagOf b) = true ∧ isFix b = false ∧ tagOf b ≠ tCons := by
    rcases ht with e | e | e <;> simp only [isFix, e] <;> decide
  have hsrc : srcCause (fun w => isFix w || isObject (tagOf w)) b = none :=
    srcCause_ok (readCause_object hobj.1) (by simp [hobj.1]) hm
  have hva : pay b + 8 * k.toNat = va := by omega
  have haddr : s.objAddr c true b k = (s, .inr va) := by
    rw [State.objAddr, if_neg hobj.2.2, hh]
    dsimp only
    rw [if_pos ⟨h0.le, hk, .inr h0.ne'⟩, hva]
  rw [State.memAddr, if_neg (fun h => Bool.false_ne_true h.2), hsrc]
  dsimp only
  rw [if_neg (by rw [hobj.2.1]; exact Bool.false_ne_true), haddr]

/-- The address of an element of a VEC. -/
theorem State.vecElem_ok {s : State} {c va : Nat} {a i h : Word} (ht : tagOf a = tVec) (hm : malformed a = false)
    (hh : s.header c a = (s, .inr h)) (hi : isFix i = true) (h0 : 0 ≤ fixI i) (hlt : fixI i < bf h 31 0)
    (hv : va = pay a + 8 * ((fixI i).toNat + 1)) : s.vecElem c a i = (s, .inr va) := by
  have hp : pay i = (fixI i).toNat := by
    have : pay i < 2 ^ 56 := bf_lt i 55 0
    unfold fixI sx at h0 ⊢
    split_ifs at h0 ⊢ <;> omega
  have hsrc : srcCause isVec a = none :=
    srcCause_ok (readCause_object (by rw [ht]; decide)) (by simp [isVec, ht]) hm
  rw [State.vecElem, hsrc]
  dsimp only
  rw [hh]
  dsimp only
  rw [srcCause_isFix hi]
  dsimp only
  rw [if_pos ⟨h0, hlt⟩, hp, ← hv]

/-! ### The instructions -/

section
variable {c : CoreId} {s : State} {e : TlbEnt} {va pa : Nat} {w : Word} {ra rb rs : Reg5} (h : Claims.Steady s c e)
  (ha : named ra) (hs : named rs) (hf : StoreFinds s c va pa) (hw : w = s.rget c rs.toNat) (hm : mayStore w va)
include h ha hs hf hw hm

/-- ST without POST by the address that it goes to. -/
theorem st_stores {ofs : BitVec 14}
    (had : (s.pruneMicro c).memAddr c true false ((s.pruneMicro c).rget c ra.toNat) ofs.toInt = (s.pruneMicro c, .inr (va, none))) :
    Completes (.st c rs ra false ofs) s fun u => Stores s u c pa w [] := by
  refine ⟨_, rfl, issueOp_stores_plain h (Claims.named.regsOk (by simp [hs, ha])) hf ?_⟩
  rw [State.opSt, State.storing_fresh (pruned_resumable h false)]
  dsimp only
  rw [if_neg (fun h => Bool.false_ne_true h.2), pruned_srcBad h hw hm]
  dsimp only
  rw [had]
  exact pruned_storeTo h hw hm hf []

theorem st_post_stores {ofs : BitVec 14} (fa : holdsFix s c ra) (hr : rawOk (int s c ra) (int s c ra)) (hv : (va : Int) = int s c ra) :
    Completes (.st c rs ra true ofs) s fun u =>
      Stores s u c pa w [ra.toNat] ∧ u.rget c ra.toNat = fixW (int s c ra + ofs.toInt * 8) := by
  have hno : isObject (tagOf (s.rget c ra.toNat)) = false := by rw [tagOf_isFix fa]; decide
  refine ⟨_, rfl, issueOp_stores_move h (Claims.named.regsOk (by simp [hs, ha])) hf ha ?_⟩
  rw [State.opSt, State.storing_fresh (pruned_resumable h false)]
  dsimp only
  rw [pruned_rget h, hno, if_neg (fun h => Bool.false_ne_true h.1), pruned_srcBad h hw hm]
  dsimp only
  rw [State.memAddr_raw (st := true) (post := true) fa hr hv]
  exact pruned_storeTo h hw hm hf _

theorem stp_stores (fa : holdsFix s c ra) (hr : rawOk (int s c ra) (int s c ra)) (hv : (va : Int) = int s c ra) :
    Completes (.stp c rs ra) s fun u => Stores s u c pa w [ra.toNat] ∧ u.rget c ra.toNat = fixW (int s c ra + 8) := by
  refine ⟨_, rfl, issueOp_stores_move h (Claims.named.regsOk (by simp [hs, ha])) hf ha ?_⟩
  rw [State.opStp, show decide ((0 : Nat) = 2) = false from rfl, State.storing_fresh (pruned_resumable h false)]
  dsimp only
  rw [pruned_srcBad h hw hm]
  dsimp only
  have addr : rawAddr true (fixI (s.rget c ra.toNat)) (fixI (s.rget c ra.toNat)) = .inr va := rawAddr_ok hr hv
  rw [pruned_rget h, checked_one _ (srcCause_isFix fa), addr]
  exact pruned_storeTo h hw hm hf _

omit ha in
theorem sta_stores {abs : BitVec 20} (hv : va = bf (s.core c).me.spec.bank 46 20 * 2 ^ 20 + abs.toNat) (h8 : va % 8 = 0) :
    Completes (.sta c rs abs) s fun u => Stores s u c pa w [] := by
  have hbank : bf (s.core c).me.spec.bank 46 20 < 2 ^ 27 := bf_lt _ 46 20
  have habs : abs.toNat < 2 ^ 20 := abs.isLt
  have haddr : (s.pruneMicro c).absAddr c abs = va := by
    rw [State.absAddr, State.spec, CoreSt.spec_ctx (pruned_bank h), (steady_pruned h).spec, hv]
  have hraw : rawOk 0 (va : Int) := ⟨by omega, by decide, by decide, by omega, by omega⟩
  refine ⟨_, rfl, issueOp_stores_plain h (Claims.named.regsOk (by simp [hs])) hf ?_⟩
  rw [State.storing_fresh (pruned_resumable h false), pruned_srcBad h hw hm, haddr, rawAddr_ok hraw rfl]
  exact pruned_storeTo h hw hm hf []

theorem setCar_stores {k : Nat} (ht : holds s c ra tCons) (hv : va = pay (s.rget c ra.toNat) + 8 * k) :
    Stores s (s.issueOp c (regsOk [ra, rs]) [ra, rs] 1 fun s => s.opSetCar c k rs.toNat (s.rget c ra.toNat)) c pa w [] := by
  have hsrc : srcCause (fun w => tagOf w == tCons) (s.rget c ra.toNat) = none :=
    srcCause_ok (readCause_object (by rw [ht.1]; decide)) (by simp [ht.1]) ht.2
  refine issueOp_stores_plain h (Claims.named.regsOk (by simp [hs, ha])) hf ?_
  rw [State.opSetCar, State.storing_fresh (pruned_resumable h false), pruned_rget h, checked_one _ hsrc, pruned_srcBad h hw hm]
  dsimp only
  rw [← hv]
  exact pruned_storeTo h hw hm hf []

theorem vst_stores {hd : Word} (hb : named rb) (ht : holds s c ra tVec) (fb : holdsFix s c rb) (hh : HeadAt s c (s.rget c ra.toNat) hd)
    (h0 : 0 ≤ int s c rb) (hlt : int s c rb < bf hd 31 0) (hv : va = pay (s.rget c ra.toNat) + 8 * ((int s c rb).toNat + 1)) :
    Completes (.vst c rs ra rb) s fun u => Stores s u c pa w [] := by
  refine ⟨_, rfl, issueOp_stores_plain h (Claims.named.regsOk (by simp [hs, ha, hb])) hf ?_⟩
  rw [State.opVst, State.storing_fresh (pruned_resumable h false), pruned_srcBad h hw hm]
  dsimp only
  rw [pruned_rget h, pruned_rget h, State.vecElem_ok ht.1 ht.2 (pruned_header h hh) fb h0 hlt hv]
  exact pruned_storeTo h hw hm hf []

end

end Sys2Proof.Machine
end

section
/-! PROOFS. What a store that reaches the L2 leaves: the work of caches and controllers, seen from programs. -/

namespace Sys2Proof.Machine

open Sys2Proof.Claims

/-! ### Traffic of stores

Caches and controllers write their own state, counts and logs. Memory, heaps and worlds, and of the cores all but the lines that they
hold, stay as they are; so do the registers `P`, which lie outside those of the controllers `C`, and no controller goes OFF. -/

structure Spared (P C : Nat → Prop) : Prop where
  high : ∀ o, P o → 0x80000 ≤ o
  clu : ∀ k o, o < 0x8000 → ¬ P (oClu k o)
  ctl : ∀ m, C m → ∀ o, o < 0x4000 → o ≠ 8 → ¬ P (oMem m o)
  low : ∀ m, m < 4 → C m

structure State.Kept (P : Nat → Prop) (s₀ s : State) : Prop where
  mem : s.mem = s₀.mem
  small : s.small = s₀.small
  world : s.world = s₀.world
  gc : s.gc = s₀.gc
  reg : ∀ o, P o → s.reg o = s₀.reg o
  power : ∀ m, m < 4 → (s.domain (80 + m) == 0) = (s₀.domain (80 + m) == 0)
  core : ∀ c, ∃ l1i l1d side blocked upset, s.core c = { s₀.core c with l1i, l1d, side, blocked, upset }

section
variable {P C : Nat → Prop} {s₀ s u : State} {α : Type}

theorem State.Kept.refl (P : Nat → Prop) (s : State) : State.Kept P s s :=
  ⟨rfl, rfl, rfl, rfl, fun _ _ => rfl, fun _ _ => rfl, fun _ => ⟨_, _, _, _, _, rfl⟩⟩

theorem State.Kept.trans (h : State.Kept P s₀ s) (h' : State.Kept P s u) : State.Kept P s₀ u := by
  refine ⟨h'.mem.trans h.mem, h'.small.trans h.small, h'.world.trans h.world, h'.gc.trans h.gc,
    fun o ho => (h'.reg o ho).trans (h.reg o ho), fun m hm => (h'.power m hm).trans (h.power m hm), fun c => ?_⟩
  obtain ⟨_, _, _, _, _, e⟩ := h.core c
  obtain ⟨l1i, l1d, side, blocked, upset, e'⟩ := h'.core c
  exact ⟨l1i, l1d, side, blocked, upset, by rw [e', e]⟩

theorem State.Kept.same (h : State.Kept P s₀ s) {free raised errs errNum flips suspect decodes bad merges filter hostLines clus pwr} :
    State.Kept P s₀ { s with free, raised, errs, errNum, flips, suspect, decodes, bad, merges, filter, hostLines, clus, pwr } :=
  ⟨h.mem, h.small, h.world, h.gc, h.reg, h.power, h.core⟩

/-- The same memory written. -/
theorem State.Kept.setMem (h : State.Kept P s₀ s) (m : List Host.Cell) : State.Kept P { s₀ with mem := m } { s with mem := m } :=
  ⟨rfl, h.small, h.world, h.gc, h.reg, h.power, h.core⟩

theorem State.Kept.andThen {R : Prop} (h : State.Kept P s₀ s) (f : State.Kept P s₀ s → R) : R := f h

theorem State.Kept.ite {c : Prop} {_ : Decidable c} {a b : State} (ha : State.Kept P s₀ a) (hb : State.Kept P s₀ b) :
    State.Kept P s₀ (if c then a else b) := by split <;> assumption

theorem State.Kept.iteFst {c : Prop} {_ : Decidable c} {a b : State × α} (ha : State.Kept P s₀ a.1) (hb : State.Kept P s₀ b.1) :
    State.Kept P s₀ (if c then a else b).1 := by split <;> assumption

theorem State.Kept.foldl {f : State → α → State} {l : List α} (h : State.Kept P s₀ s)
    (hf : ∀ s a, State.Kept P s₀ s → State.Kept P s₀ (f s a)) : State.Kept P s₀ (l.foldl f s) :=
  List.foldlRecOn l f h fun s h a _ => hf s a h

/-- A register outside those that stay. -/
theorem State.Kept.putReg (h : State.Kept P s₀ s) {o : Nat} {v : Word} (hp : ¬ P o)
    (hd : ∀ m, m < 4 → ((s.setReg o v).domain (80 + m) == 0) = (s.domain (80 + m) == 0)) : State.Kept P s₀ (s.setReg o v) := by
  refine ⟨h.mem, h.small, h.world, h.gc, fun j hj => ?_, fun m hm => (hd m hm).trans (h.power m hm), h.core⟩
  rw [State.reg_setReg, if_neg (fun e : j = o => hp (e ▸ hj)), h.reg j hj]

theorem State.Kept.setReg (h : State.Kept P s₀ s) {o : Nat} {v : Word} (ho : 0x80000 ≤ o) (hp : ¬ P o) :
    State.Kept P s₀ (s.setReg o v) := h.putReg hp fun m hm => by
  rw [State.domain, State.field, State.reg_setReg, if_neg (by unfold oPwr; omega)]
  rfl

theorem State.Kept.setCore (h : State.Kept P s₀ s) (c : Nat) {l1i l1d : Sparse Nat} {side upset : List Nat} {blocked : Option Nat} :
    State.Kept P s₀ (s.setCore c { s.core c with l1i, l1d, side, blocked, upset }) := by
  refine ⟨h.mem, h.small, h.world, h.gc, h.reg, h.power, fun d => ?_⟩
  by_cases hd : d = c
  · subst hd
    obtain ⟨_, _, _, _, _, e⟩ := h.core d
    exact ⟨l1i, l1d, side, blocked, upset, by rw [State.core_setCore, if_pos rfl, e]⟩
  · obtain ⟨a, b, x, y, z, e⟩ := h.core d
    exact ⟨a, b, x, y, z, by rw [State.core_setCore, if_neg hd, e]⟩

end

/-! ### The log of a controller -/

theorem State.logFind_lt {s : State} {m kind pa i : Nat} (h : s.logFind m kind pa = some i) : i < 256 :=
  List.mem_range.mp (List.mem_of_find?_eq_some h)

theorem State.logVictim_lt {s : State} {m i : Nat} (h : s.logVictim m = some i) : i < 256 := by
  have all : ∀ j ∈ s.logVictim m, j < 256 := by
    unfold State.logVictim
    refine List.foldlRecOn _ _ (motive := fun a : Option Nat => ∀ j ∈ a, j < 256) (fun j hj => absurd hj (by simp)) ?_
    intro a ha i hi
    have hi : i < 256 := List.mem_range.mp (List.mem_of_mem_filter hi)
    cases a with
    | none => simpa using hi
    | some k =>
      dsimp only
      split
      · simpa using hi
      · exact ha
  exact all i h

theorem State.logSlot_lt {s : State} {m kind i : Nat} (h : s.logSlot m kind = some i) : i < 256 := by
  rcases Option.or_eq_some_iff.mp h with h | ⟨-, h⟩
  · exact List.mem_range.mp (List.mem_of_find?_eq_some h)
  · split at h
    · exact State.logVictim_lt h
    · cases h

/-! ### Controllers -/

section
variable {P C : Nat → Prop} (hP : Spared P C) {s₀ s : State}

section
variable {m : Nat} (hm : C m) {o hi lo n pa kind mask src unit v : Nat} (h : State.Kept P s₀ s)
include hP hm h

theorem State.Kept.memReg {w : Word} (ho : o < 0x4000) (ho' : o ≠ 8) : State.Kept P s₀ (s.setReg (oMem m o) w) :=
  h.setReg (by unfold oMem; omega) (hP.ctl m hm o ho ho')

theorem State.Kept.memField (ho : o < 0x4000) (ho' : o ≠ 8) : State.Kept P s₀ (s.setField (oMem m o) hi lo v) := h.memReg hP hm ho ho'
theorem State.Kept.memBump (ho : o < 0x4000) (ho' : o ≠ 8) : State.Kept P s₀ (s.bumpN (oMem m o) n) := h.memReg hP hm ho ho'

theorem State.Kept.logShow {newest : Nat} : State.Kept P s₀ (s.logShow m newest) :=
  (h.memField hP hm (by decide) (by decide)).memField hP hm (by decide) (by decide)

omit hP hm in
theorem State.Kept.logErr {cause : Nat} : State.Kept P s₀ (s.logErr m kind pa cause) := .ite (.ite h.same h) h.same

section
variable {i : Nat} (hn : i < 256)
include hn

theorem State.Kept.logReg {w : Nat} (hw : w < 4) {x : Word} : State.Kept P s₀ (s.setReg (oLog m i w) x) :=
  h.memReg hP hm (o := 0x2000 + i * 0x20 + w * 8) (by omega) (by omega)

theorem State.Kept.logMerge : State.Kept P s₀ (s.logMerge m i mask) :=
  (((h.logReg hP hm hn (w := 0) (by decide)).logReg hP hm hn (w := 0) (by decide)).logReg hP hm hn (w := 3) (by decide)).logShow hP hm

theorem State.Kept.logCreate : State.Kept P s₀ (s.logCreate m i kind pa mask src unit) := by
  have h0 := (h.logReg hP hm hn (w := 0) (x := s.logWord0 kind mask src unit) (by decide)).logReg hP hm hn (w := 0)
    (x := setBf ((s.setReg (oLog m i 0) (s.logWord0 kind mask src unit)).reg (oLog m i 0)) 63 63 1) (by decide)
  have h1 : State.Kept P s₀ ((s.setReg (oLog m i 0) (s.logWord0 kind mask src unit)).raiseBit (oLog m i 0) 63) := h0.same
  have h2 := (h1.logReg hP hm hn (w := 1) (x := BitVec.ofNat 64 (pa / 64 * 64)) (by decide)).logReg hP hm hn (w := 2)
    (x := (((s.setReg (oLog m i 0) (s.logWord0 kind mask src unit)).raiseBit (oLog m i 0) 63).setReg (oLog m i 1)
      (BitVec.ofNat 64 (pa / 64 * 64))).logWord2 pa) (by decide)
  exact ((h2.same).logReg hP hm hn (w := 3) (by decide)).logShow hP hm

end

theorem State.Kept.memLog {cause : Nat} : State.Kept P s₀ (s.memLog m kind pa mask src unit cause) := by
  unfold State.memLog
  split
  · exact h
  · split
    next hf => exact h.logMerge hP hm (State.logFind_lt hf)
    · split
      · exact (h.memField hP hm (by decide) (by decide)).logErr
      next hs => exact (h.logCreate hP hm (State.logSlot_lt hs)).logErr

omit hP hm in
theorem State.Kept.wrongWords {line : Nat} : State.Kept P s₀ (s.wrongWords line).1 :=
  .iteFst h (.iteFst h (.iteFst (.iteFst h.same h.same) h))

theorem State.Kept.corrected : State.Kept P s₀ (s.corrected m pa mask src unit) :=
  .ite h ((h.same.memBump hP hm (by decide) (by decide)).memLog hP hm)

theorem State.Kept.decodeEnd {fits : Bool} : State.Kept P s₀ (s.decodeEnd m pa fits src unit) := by
  unfold State.decodeEnd
  extract_lets page mine mask first u r v rest
  have hv : State.Kept P s₀ v := ((h.same.memBump hP hm (o := 0x118) (by decide) (by decide)).wrongWords).corrected hP hm
  exact .ite ((hv.same.memBump hP hm (by decide) (by decide)).memLog hP hm) hv.same

omit hP hm in
theorem State.Kept.decodeAsk : State.Kept P s₀ (s.decodeAsk m pa mask) := .ite h.same h.same.same

theorem State.Kept.flipHook : State.Kept P s₀ (s.flipHook m pa) := .ite (h.same.memField hP hm (by decide) (by decide)) h

end

section
variable {pa : Nat} (hm : C (ctlOf pa)) {mask src unit : Nat} (h : State.Kept P s₀ s)
include hP hm h

theorem State.Kept.awaitPage : State.Kept P s₀ (s.awaitPage pa) := .ite (h.decodeEnd hP hm).same h

theorem State.Kept.scan : State.Kept P s₀ (s.scan pa src unit) := by
  unfold State.scan
  extract_lets m u r v
  have hv : State.Kept P s₀ v := ((h.awaitPage hP hm).wrongWords).corrected hP hm
  exact .ite hv (.ite (hv.decodeAsk.decodeEnd hP hm).same hv.same)

theorem State.Kept.checkFold : State.Kept P s₀ (s.checkFold pa src unit) := by
  unfold State.checkFold
  extract_lets m b r u
  have hu : State.Kept P s₀ u := h.wrongWords.corrected hP hm
  exact .ite hu ((hu.same.memBump hP hm (by decide) (by decide)).memLog hP hm)

theorem State.Kept.lineWrite : State.Kept P s₀ (s.lineWrite pa mask src unit) := by
  unfold State.lineWrite
  extract_lets m line u1 u2 was u3 u4 left u5 u6 u7
  have h2 : State.Kept P s₀ u2 := .ite ((h.awaitPage hP hm).scan hP hm) (h.awaitPage hP hm)
  have h3 : State.Kept P s₀ u3 := h2.same
  have h4 : State.Kept P s₀ u4 := .ite (h3.checkFold hP hm) h3
  have h5 : State.Kept P s₀ u5 := h4.same
  have h6 : State.Kept P s₀ u6 := .ite h5 (h5.memLog hP hm)
  have h7 : State.Kept P s₀ u7 :=
    .ite h4 (.ite (.ite h4.same (h4.same.memLog hP hm)) (.ite ((h6.memBump hP hm (by decide) (by decide)).memLog hP hm) h6))
  exact h7.flipHook hP hm

end

section
variable {m line : Nat} (hm : C m) (hl : C (ctlOf (line * 64))) (h : State.Kept P s₀ s)
include hP hm hl h

theorem State.Kept.mergeDone : State.Kept P s₀ (s.mergeDone m line) := by
  unfold State.mergeDone
  extract_lets
  split
  · exact h
  · exact State.Kept.andThen (.ite h.same (h.same.memBump hP hm (by decide) (by decide))) fun h => h.lineWrite hP hl

theorem State.Kept.mergeFull : State.Kept P s₀ (s.mergeFull m line) := .ite (h.mergeDone hP hm hl) h

end

include hP

/-- An entry whose line may be that of any controller is completed when the buffer is full. -/
theorem State.Kept.mergePut {m line mask : Nat} (hC : ∀ m, C m) (h : State.Kept P s₀ s) : State.Kept P s₀ (s.mergePut m line mask) := by
  unfold State.mergePut
  extract_lets u l
  have hu : State.Kept P s₀ u := h.awaitPage hP (hC _)
  split
  · exact hu.same
  · exact State.Kept.andThen (.ite (hu.mergeDone hP (hC _) (hC _)) hu) fun h => h.same

/-- A controller that wakes goes from WARM to HOT (R500): it was not OFF and is not. -/
theorem State.Kept.wake {m : Nat} (h : State.Kept P s₀ s) (hm : m < 1024) (hw : s.domain (80 + m) = 1) :
    State.Kept P s₀ (s.setField (oPwr (0x100 + (80 + m) * 8)) 61 60 2) := by
  refine State.Kept.putReg h (fun hp => ?_) fun i hi => ?_
  · have := hP.high _ hp
    unfold oPwr at this
    omega
  · show ((s.setField (oPwr (0x100 + (80 + m) * 8)) 61 60 2).domain (80 + i) == 0) = (s.domain (80 + i) == 0)
    by_cases e : i = m
    · subst e
      refine Eq.trans ?_ (congrArg (· == 0) hw.symm)
      rw [State.domain, State.field_setField_self _ _ _ (by decide) (by decide)]
      rfl
    · rw [State.domain, State.domain, State.field_setField_ne _ _ _ _ _ _ (by unfold oPwr; omega)]

theorem State.Kept.touchMem {pa : Nat} (h : State.Kept P s₀ s) : State.Kept P s₀ (s.touchMem pa) := by
  unfold State.touchMem
  split
  · exact h
  next hpa =>
    have hm : ctlOf pa < 1024 := by unfold ctlOf stackSize; omega
    extract_lets m p u
    have hu : State.Kept P s₀ u := h.same
    split
    next hw => exact State.Kept.wake hP hu hm hw
    · exact hu

/-- A line write from an L2 reaches an installed controller alone. -/
theorem State.Kept.acceptLine {x : L2Line} (h : State.Kept P s₀ s) : State.Kept P s₀ (s.acceptLine x) := by
  unfold State.acceptLine
  extract_lets pa m u
  split
  · exact h
  next hs =>
    have hm : C m := hP.low m (by
      have := stacks_le s
      by_contra hn
      exact hs (.inl (by omega)))
    exact State.Kept.andThen ((h.touchMem hP).mergeDone hP hm hm |>.lineWrite hP hm) fun h => .ite h (h.same.memLog hP hm)

/-- A controller reads a line. -/
theorem State.Kept.ctlRead {pa src unit : Nat} (h : State.Kept P s₀ s) : State.Kept P s₀ (s.ctlRead pa src unit) := by
  unfold State.ctlRead
  extract_lets m
  split
  · exact h
  next hs =>
    have hm : C m := hP.low m (by
      have := stacks_le s
      by_contra hn
      exact hs (.inr (.inl (by omega))))
    have hl : C (ctlOf (pa / 64 * 64)) := by
      rwa [show ctlOf (pa / 64 * 64) = m by show ctlOf _ = ctlOf pa; unfold ctlOf stackSize; omega]
    exact (((h.touchMem hP).mergeDone hP hm hl).scan hP hm)

/-! ### Caches -/

section
variable {k line : Nat} (h : State.Kept P s₀ s)
omit hP
include h

theorem State.Kept.setClu {x : CluSt} : State.Kept P s₀ (s.setClu k x) := h.same
theorem State.Kept.l2Set {w : Nat} {x : Option L2Line} : State.Kept P s₀ (s.l2Set k line w x) := h.same

theorem State.Kept.l1Drop {keep : Option Nat} : State.Kept P s₀ (s.l1Drop k line keep) :=
  h.foldl fun s i h => by
    dsimp only
    split
    · exact h.setCore _
    · exact h.setCore _

include hP

theorem State.Kept.cluBump {o : Nat} (ho : o < 0x8000) : State.Kept P s₀ (s.bump (oCnt k o)) :=
  h.setReg (by unfold oCnt oClu; omega) (hP.clu k o ho)

theorem State.Kept.cacheErr : State.Kept P s₀ (s.cacheErr k line) := (h.cluBump hP (by decide)).same

theorem State.Kept.evictLine {v : L2Line} : State.Kept P s₀ (s.evictLine k v) := by
  unfold State.evictLine
  extract_lets u x
  have hu : State.Kept P s₀ u := h.cluBump hP (by decide)
  split
  · exact hu.setClu
  · exact hu.setClu

theorem State.Kept.evictAccept {bank : Nat} : State.Kept P s₀ (s.evictAccept k bank) := by
  unfold State.evictAccept
  extract_lets x
  split
  · exact h
  · exact h.setClu.acceptLine hP

theorem State.Kept.awaitEvict {n : Nat} : State.Kept P s₀ (s.awaitEvict k line n) := by
  induction n generalizing s with
  | zero => exact h
  | succ n ih => exact .ite (ih (h.evictAccept hP)) h

theorem State.Kept.l2Drop {store : Bool} : State.Kept P s₀ (s.l2Drop k line store) := by
  unfold State.l2Drop
  split
  · exact h
  · exact State.Kept.andThen (.ite (h.cluBump hP (by decide)) h) fun h => h.l2Set.l1Drop

theorem State.Kept.track : State.Kept P s₀ (s.track line) := by
  have drop : ∀ old : Nat, State.Kept P s₀ ((List.range 32).foldl (fun s k =>
      match s.l2Find k old with
      | none => s
      | some w =>
        let s := match s.l2At k old w with
          | some x => if x.dirty then s.acceptLine x else s
          | none => s
        (s.l2Drop k old false).bump (oCnt k 0x4130)) s) := fun old => h.foldl fun s k h => by
    split
    · exact h
    · refine State.Kept.cluBump hP (State.Kept.l2Drop hP ?_) (by decide)
      split
      · exact .ite (h.acceptLine hP) h
      · exact h
  exact .ite h.same (.ite h.same (State.Kept.andThen (.ite (drop _).same h) fun h => h.same))

theorem State.Kept.snoopLine {write : Bool} : State.Kept P s₀ (s.snoopLine k line write) := by
  unfold State.snoopLine
  split
  · exact h
  · exact State.Kept.andThen (.ite (h.acceptLine hP) h) fun h => .ite (h.l2Drop hP) h.l2Set

theorem State.Kept.snoopOthers {write : Bool} : State.Kept P s₀ (s.snoopOthers k line write) :=
  State.Kept.andThen (h.foldl fun _ _ h => .ite h (h.snoopLine hP)) fun h => .ite h.same (.ite h.same h)

theorem State.Kept.l2Miss {write : Bool} : State.Kept P s₀ (s.l2Miss k line write) :=
  (((h.touchMem hP).cluBump hP (by decide)).snoopOthers hP).awaitEvict hP

theorem State.Kept.l2Alloc {dirty : Bool} : State.Kept P s₀ (s.l2Alloc k line dirty) := by
  have put : ∀ {t : State}, State.Kept P s₀ t → ∀ w x, State.Kept P s₀
      (if line * 64 < 0x100000000000 then (t.l2Set k line w x).track line else t.l2Set k line w x) :=
    fun ht _ _ => .ite (ht.l2Set.track hP) ht.l2Set
  unfold State.l2Alloc
  dsimp only
  split
  · exact put h _ _
  · exact h
  · split
    · exact put h.same _ _
    · exact State.Kept.andThen h.same.l2Set.l1Drop fun h => .ite (put (h.evictLine hP) _ _) (put h _ _)

theorem State.Kept.l2Read : State.Kept P s₀ (s.l2Read k line) := by
  unfold State.l2Read
  split
  · split
    · exact h.awaitEvict hP
    · exact h
  · exact (h.l2Miss hP).l2Alloc hP

end

end

/-! ### The store -/

/-- The state in which a store finds the line: other copies are gone, and a miss has been filled where it can be. -/
def State.storeLine (s : State) (c pa : Nat) : State :=
  let k := cluOf c
  let line := pa / 64
  let s := (s.awaitEvict k line (s.evictions k)).snoopOthers k line true
  let s :=
    if (s.l2Find k line).isSome then s.l2Read k line
    else
      let s := (s.l2Miss k line true).ctlRead pa 0 k
      if (s.fillErr k pa).isSome then s else s.l2Alloc k line true
  s.l1Drop k line (some c)

theorem State.storeOut_line (s : State) (c pa : Nat) (w : Word) : s.storeOut c pa w =
    match (s.storeLine c pa).l2Find (cluOf c) (pa / 64) with
    | some way =>
      { (s.storeLine c pa).l2Set (cluOf c) (pa / 64) way
          (((s.storeLine c pa).l2At (cluOf c) (pa / 64) way).map fun x => x.written (pa / 8 % 8)) with
        mem := mwrW pa w (s.storeLine c pa).mem }
    | none =>
      if 0x100000000000 ≤ pa then { s.storeLine c pa with mem := mwrW pa w (s.storeLine c pa).mem }
      else if (s.storeLine c pa).memDead pa || (s.storeLine c pa).isCheck pa then s.storeLine c pa
      else (({ s.storeLine c pa with mem := mwrW pa w (s.storeLine c pa).mem }).mergePut (ctlOf pa) (pa / 64)
        (1 <<< (pa / 8 % 8))).mergeFull (ctlOf pa) (pa / 64) := rfl

/-- Memory takes a word as long as its controller is installed and answers. -/
theorem takes_of {s t : State} {pa : Nat} (hsmall : t.small = s.small) (hreg : ∀ m, m < 4 → t.reg (oMem m 8) = s.reg (oMem m 8))
    (hpow : ∀ m, m < 4 → (t.domain (80 + m) == 0) = (s.domain (80 + m) == 0)) (ht : Takes s pa) : Takes t pa := by
  obtain ⟨hin, hcheck, hdead⟩ := ht
  have hn : t.stacks = s.stacks := by unfold State.stacks; rw [hsmall]
  have hm : ctlOf pa < 4 := by
    have := stacks_le s
    unfold ctlOf
    exact (Nat.div_lt_iff_lt_mul (by decide)).mpr (hin.trans_le (Nat.mul_le_mul_right _ this))
  have hf : ∀ b, t.field (oMem (ctlOf pa) 8) b b = s.field (oMem (ctlOf pa) 8) b b := fun b => by
    rw [State.field, State.field, hreg _ hm]
  refine ⟨by rwa [hn], ?_, ?_⟩
  · rw [← hcheck, State.isCheck, State.isCheck, hsmall]
  · rw [← hdead, State.memDead, State.memDead, State.memFailed, State.memFailed, State.memFilling, State.memFilling, hn, hf, hf,
      hpow _ hm]

theorem takes_setMem {s : State} {pa : Nat} (h : Takes s pa) (m : List Host.Cell) : Takes { s with mem := m } pa :=
  takes_of rfl (fun _ _ => rfl) (fun _ _ => rfl) h

section
variable {P C : Nat → Prop} (hP : Spared P C) {s₀ s : State} {c pa : Nat}

include hP in
theorem State.Kept.storeLine (h : State.Kept P s₀ s) : State.Kept P s₀ (s.storeLine c pa) := by
  unfold State.storeLine
  extract_lets k line s1 s2 s3
  have h1 : State.Kept P s₀ s1 := (h.awaitEvict hP).snoopOthers hP
  have h2 : State.Kept P s₀ s2 := (h1.l2Miss hP).ctlRead hP
  have h3 : State.Kept P s₀ s3 := .ite (h1.l2Read hP) (.ite h2 (h2.l2Alloc hP))
  exact h3.l1Drop

theorem State.Kept.takes (hs : ∀ m, m < 4 → P (oMem m 8)) (h : State.Kept P s₀ s) (ht : Takes s₀ pa) : Takes s pa :=
  takes_of h.small (fun m hm => h.reg _ (hs m hm)) h.power ht

/-- A store to memory that takes it writes its word and no other byte; `P` may hold no register of any controller but the status. -/
theorem State.storeOut_kept (hP : Spared P C) (hC : ∀ m, C m) (hs : ∀ m, m < 4 → P (oMem m 8)) (w : Word) (ht : Takes s pa) :
    State.Kept P { s with mem := mwrW pa w s.mem } (s.storeOut c pa w) := by
  have hu : State.Kept P s (s.storeLine c pa) := (State.Kept.refl P s).storeLine hP
  obtain ⟨-, hcheck, hdead⟩ := hu.takes hs ht
  rw [State.storeOut_line, hcheck, hdead, hu.mem]
  generalize s.storeLine c pa = u at hu
  have hw := hu.setMem (mwrW pa w s.mem)
  split
  · exact hu.l2Set.setMem _
  · exact .ite hw ((hw.mergePut hP hC).mergeFull hP (hC _) (hC _))

end

/-- The status registers of the installed controllers. -/
def isStatus (o : Nat) : Prop := ∃ m, m < 4 ∧ o = oMem m 8

theorem spared_status : Spared isStatus fun _ => True where
  high o ho := by
    obtain ⟨m, -, rfl⟩ := ho
    unfold oMem
    omega
  clu k o ho h := by
    obtain ⟨m, hm, e⟩ := h
    unfold oMem oClu at e
    omega
  ctl m _ o ho ho' h := by
    obtain ⟨i, hi, e⟩ := h
    unfold oMem at e
    omega
  low _ _ := trivial

theorem isStatus_of_lt (m : Nat) (hm : m < 4) : isStatus (oMem m 8) := ⟨m, hm, rfl⟩

theorem State.storeOut_status {s : State} {pa : Nat} (c : Nat) (w : Word) (ht : Takes s pa) :
    State.Kept isStatus { s with mem := mwrW pa w s.mem } (s.storeOut c pa w) :=
  State.storeOut_kept spared_status (fun _ => trivial) isStatus_of_lt w ht

end Sys2Proof.Machine
end

section
/-! PROOFS. Stores wait in their context's queue and reach memory when they are released (O30). -/

namespace Sys2Proof.Machine

open Sys2Proof.Claims

section
variable {P : Nat → Prop} {s₀ s : State} (h : State.Kept P s₀ s)
include h

theorem State.Kept.rf (c : Nat) : (s.core c).rf = (s₀.core c).rf := by
  obtain ⟨_, _, _, _, _, e⟩ := h.core c
  rw [e]

theorem State.Kept.ctx (c j : Nat) : s.ctx c j = s₀.ctx c j := by
  obtain ⟨_, _, _, _, _, e⟩ := h.core c
  rw [State.ctx, e]
  rfl

end

/-- The oldest store of a queue goes to its address in memory. -/
theorem State.releaseAny_memory {s : State} {c j pa : Nat} {w : Word} {rest : List (Nat × Word)} (hq : (s.ctx c j).storeQ = (pa, w) :: rest)
    (hd : isDevice pa = false) (hf : tagOf (mrdW pa s.mem) ≠ tFwd) :
    s.releaseAny c j = (s.setCtx c j { s.ctx c j with storeQ := rest }).storeOut c pa w := by
  have hfinal : s.finalPa (stWorld (s.ctx c j).spec.st) pa 8 = pa := by
    rw [State.finalPa]
    exact if_neg fun h => hf h.1
  simp only [State.releaseAny, State.release1, hq, hd, hfinal, Bool.false_eq_true, if_false]

theorem storeRelease_writes (c : CoreId) (j : CtxId) {s : State} {pa : Nat} {w : Word} {rest : List (Nat × Word)}
    (hq : (s.ctx c j).storeQ = (pa, w) :: rest) (ht : Takes s pa) (hf : tagOf (mrdW pa s.mem) ≠ tFwd) :
    Completes (.storeRelease c j) s fun u =>
      (u.ctx c j).storeQ = rest ∧ mrdW pa u.mem = w ∧ onlyAt s u pa 8 ∧ (u.core c).rf = (s.core c).rf := by
  obtain ⟨v, hv⟩ : ∃ v, v = s.setCtx c j { s.ctx c j with storeQ := rest } := ⟨_, rfl⟩
  have hmem : v.mem = s.mem := by rw [hv]; rfl
  have hcore : v.core c = (s.core c).setCtx j { s.ctx c j with storeQ := rest } := by
    rw [hv]
    exact (State.core_setCore ..).trans (if_pos rfl)
  have htv : Takes v pa := by rw [hv]; exact ht
  have hk := State.storeOut_status c w htv
  have e : exec (.storeRelease c j) s = .next (v.storeOut c pa w) := by
    show execStoreRelease c j s = _
    rw [execStoreRelease, State.releaseAny_memory hq (isDevice_memory ht.1) hf, hv]
  refine ⟨_, e, ?_, ?_, fun b hb => ?_, ?_⟩
  · rw [hk.ctx]
    show ((v.core c).ctx j).storeQ = rest
    rw [hcore, CoreSt.ctx_setCtx, if_pos rfl]
  · rw [hk.mem]
    exact mrdW_mwrW_self ..
  · rw [hk.mem]
    show mrd b (mwrW pa w v.mem) = _
    rw [mrd_mwrW, if_neg (by omega), hmem]
  · rw [hk.rf]
    show (v.core c).rf = _
    rw [hcore]
    rfl

/-- Settles O30: a store whose checks pass goes to the end of its queue; a release is the store's way through the L2. -/
theorem storesWaitAndAreReleased : Obligations.StoresWaitAndAreReleased := by
  unfold Obligations.StoresWaitAndAreReleased
  refine ⟨fun c ra rb rs s e va pa w h ha hb hs hf hw hm => ⟨fun ofs fa hr hv => ?_, fun ofs fa hr hv => ?_, fun abs hv h8 => ?_,
    fun fa hr hv => ?_, fun ht => ⟨fun hv => ⟨_, rfl, ?_⟩, fun hv => ⟨_, rfl, ?_⟩⟩, fun k hd ht hh h0 hk hv => ?_,
    fun hd ht fb hh h0 hlt hv => ?_⟩, fun c j s pa w rest hq ht hf => ?_⟩
  · refine st_stores h ha hs hf hw hm ?_
    rw [pruned_rget h]
    exact State.memAddr_raw (post := false) fa hr hv
  · exact st_post_stores h ha hs hf hw hm fa hr hv
  · exact sta_stores h hs hf hw hm hv h8
  · exact stp_stores h ha hs hf hw hm fa hr hv
  · exact setCar_stores h ha hs hf hw hm (k := 0) ht hv
  · exact setCar_stores h ha hs hf hw hm (k := 1) ht hv
  · refine st_stores h ha hs hf hw hm ?_
    rw [pruned_rget h]
    exact State.memAddr_object ht hh.1 (pruned_header h hh) h0 hk hv
  · exact vst_stores h ha hs hf hw hm hb ht fb hh h0 hlt hv
  · exact storeRelease_writes c j hq ht hf

end Sys2Proof.Machine
end

section
/-! PROOFS. Allocation in the frame heap (O32, first part). -/

namespace Sys2Proof.Machine

open Sys2Proof.Claims

/-! ### The running word and the traffic of its stores -/

section
variable {P : Nat → Prop} {s₀ s : State} (h : State.Kept P s₀ s)
include h

/-- Traffic changes nothing that the running word reads. -/
theorem State.Kept.under (c : Nat) : State.Under c s₀ s := by
  obtain ⟨_, _, _, _, _, e⟩ := h.core c
  exact State.Under.of_core e rfl rfl rfl rfl rfl

end

theorem State.Under.of_setMem {c : Nat} {s t : State} {m : List Host.Cell} (h : State.Under c { s with mem := m } t) : State.Under c s t :=
  ⟨h.up, h.cur, h.bank, h.trap, h.flow, h.spec, h.base⟩

theorem State.under_rput (c k : Nat) (v : Word) (s : State) : State.Under c s (s.rput c k v) :=
  State.Under.of_core ((State.core_setCore ..).trans (if_pos rfl)) rfl rfl rfl rfl rfl

theorem State.rf_rput (c k i : Nat) (v : Word) (s : State) : (s.rput c k v).rf c i = if i = k then v else s.rf c i := by
  rw [State.rf, State.rput, State.core_setCore, if_pos rfl]
  exact sget_sset ..

theorem State.rset_key {s : State} {c r k : Nat} (h : (s.core c).key r = some k) (v : Word) : s.rset c r v = s.rput c k v := by
  rw [State.rset, h]

/-! ### Words of a header -/

/-- The header of a VEC (Table 4.10). -/
theorem headW_vec {n : Nat} (hn : n < 2 ^ 32) : headW 1 0 n = mkTag 0 (2 ^ 52 + n) := by
  apply BitVec.eq_of_toNat_eq
  rw [mkTag_toNat (by decide), headW, setBf_toNat _ _ (by decide) (by decide), setBf_toNat _ _ (by decide) (by decide),
    setBf_toNat _ _ (by decide) (by decide)]
  rw [show BitVec.toNat (0 : Word) = 0 from rfl]
  omega

/-- A FIX word that holds a count has it as its payload. -/
theorem pay_of_fixI {w : Word} {n : Nat} (h : fixI w = n) : pay w = n := by
  have : pay w < 2 ^ 56 := bf_lt w 55 0
  unfold fixI sx at h
  split_ifs at h <;> omega

/-! ### Allocation in the running chunk (R146, R147) -/

/-- The chunk has room: the object begins at s6, which goes up by its size. -/
theorem State.alloc_room {s : State} {c n m bytes pa : Nat} (h : HeapRoom s c n bytes pa) (hm : (m + 1) / 2 * 16 = bytes) (h0 : 0 < bytes) :
    s.alloc c m = (s.rset c 22 (fixN (n + bytes)), .inr n) := by
  obtain ⟨h22, hn, h16, hchunk, hroom, hlo, hhi, -, -⟩ := h
  have hpay : pay (s.rget c 22) = n := by rw [h22, pay_mkTag (by decide)]; omega
  have htag : tagOf (s.rget c 22) = tFix := by rw [h22]; exact tagOf_mkTag (by decide) n
  have hok : s.s6Ok c = true := by
    simp only [State.s6Ok, hpay, htag, h16, decide_eq_true (⟨hlo, by omega⟩ : _ ∧ n < frameVa (cluOf c) + s.frameSize (cluOf c) (s.world_ c))]
    rfl
  rw [State.alloc, hok, if_neg (by decide), if_neg (by omega), hpay, hm, State.allocAt, if_neg (by omega), if_pos ⟨by simp [hchunk], hroom⟩]

section
variable {c : Nat} {s : State} {e : TlbEnt} (h : Claims.Steady s c e)
include h

theorem pruned_takes {pa : Nat} (ht : Takes s pa) : Takes (s.pruneMicro c) pa := by
  obtain ⟨cores, e⟩ := pruned_rest h
  rw [e]
  exact ht

theorem pruned_frame : (∀ k w, (s.pruneMicro c).frameSize k w = s.frameSize k w) ∧
    ∀ k w n, (s.pruneMicro c).framePa k w n = s.framePa k w n := by
  obtain ⟨cores, e⟩ := pruned_rest h
  rw [e]
  exact ⟨fun _ _ => rfl, fun _ _ _ => rfl⟩

theorem pruned_heapRoom {n bytes pa : Nat} (hr : HeapRoom s c n bytes pa) : HeapRoom (s.pruneMicro c) c n bytes pa := by
  obtain ⟨h22, hn, h16, hchunk, hroom, hlo, hhi, hpa, ht⟩ := hr
  obtain ⟨f1, f2⟩ := pruned_frame h
  exact ⟨(pruned_rget h 22).trans h22, hn, h16, hchunk, hroom, hlo, by rwa [pruned_world h, f1], by rw [pruned_world h, f2]; exact hpa,
    fun i hi => pruned_takes h (ht i hi)⟩

/-- A word that allocates: `t` has the object in memory, s6 moved, and the rest as the fetched state. -/
theorem alloc_passes {t : State} {legal : Bool} {uses : List Reg5} {n k : Nat} {body : State → Op} {rd : Reg5} {w v : Word}
    (hl : legal = true) (hd : named rd) (hb : body (s.pruneMicro c) = t.result c rd.toNat w) (hk : (s.core c).key 22 = some k)
    (ht : State.Under c s t) (hrf : ∀ i, t.rf c i = if i = k then v else s.rf c i) :
    Passes s (s.issueOp c legal uses n body) c [rd.toNat, 22] (nextPc s c) ∧ (s.issueOp c legal uses n body).rget c rd.toNat = w ∧
      (rd.toNat ≠ 22 → (s.issueOp c legal uses n body).rget c 22 = v) ∧ (s.issueOp c legal uses n body).mem = t.mem := by
  obtain ⟨g, eff, hu, hp, hv, hother⟩ := result_passes (uses := uses) (n := n) h hl hd hb ht [22] fun i hi => by
    rw [hrf, if_neg (fun e : i = k => hi 22 (by simp) (e ▸ hk))]
  refine ⟨hp, hv, fun hne => ?_, ended_mem hu⟩
  have hkey : (s.core c).key 22 ≠ (s.core c).key rd.toNat := fun e =>
    CoreSt.key_ne_glob (steady_bank h) (steady_trap h) (by decide) (by decide) hne hk (e ▸ hk)
  rw [hother 22 hkey, State.rget, ht.keyOf (steady_bank h) (steady_trap h), hk]
  exact (hrf k).trans (if_pos rfl)

end

/-- Two words stored one after the other. -/
theorem State.storeOut_two {s : State} {pa : Nat} (c : Nat) (a b : Word) (ha : Takes s pa) (hb : Takes s (pa + 8)) :
    State.Kept isStatus { s with mem := mwrW (pa + 8) b (mwrW pa a s.mem) } ((s.storeOut c pa a).storeOut c (pa + 8) b) := by
  have h1 := State.storeOut_status c a ha
  have h2 := State.storeOut_status c b (h1.takes isStatus_of_lt (takes_setMem hb (mwrW pa a s.mem)))
  have h1' := h1.setMem (mwrW (pa + 8) b (mwrW pa a s.mem))
  rw [h1.mem] at h2
  exact h1'.trans h2

section
variable {c : CoreId} {rd ra rb : Reg5} {s : State} {e : TlbEnt} {n pa : Nat} (h : Claims.Steady s c e) (hd : named rd) (ha : named ra)
include h hd ha

omit hd ha in
/-- s6 as it is moved, and the object's words stored after it. -/
theorem movedS6 (v : Word) : ∃ k, (s.core c).key 22 = some k ∧ (s.pruneMicro c).rset c 22 v = (s.pruneMicro c).rput c k v ∧
    State.Under c s ((s.pruneMicro c).rput c k v) ∧ ∀ i, ((s.pruneMicro c).rput c k v).rf c i = if i = k then v else s.rf c i := by
  obtain ⟨k, hk⟩ := CoreSt.key_named (steady_bank h) (steady_trap h) (show 22 < 24 by decide)
  refine ⟨k, hk, State.rset_key ((pruned_key h 22).trans hk) v, (steady_pruned h).trans (State.under_rput c k v _), fun i => ?_⟩
  rw [State.rf_rput, State.rf, pruned_rf h]
  rfl

theorem cons_makes (hb : named rb) {a b : Word} (ea : a = s.rget c ra.toNat) (eb : b = s.rget c rb.toNat)
    (sa : srcCause notFwd a = none) (sb : srcCause notFwd b = none) (hr : HeapRoom s c n 16 pa) :
    Completes (.cons c rd ra rb) s fun u =>
      Passes s u c [rd.toNat, 22] (nextPc s c) ∧ u.rget c rd.toNat = mkTag tCons n ∧
      (rd.toNat ≠ 22 → u.rget c 22 = mkTag 0 (n + 16)) ∧ mrdW pa u.mem = a ∧ mrdW (pa + 8) u.mem = b ∧ onlyAt s u pa 16 := by
  obtain ⟨k, hk, hset, hv, hvrf⟩ := movedS6 h (fixN (n + 16))
  obtain ⟨-, -, -, -, -, -, -, hpa, htakes⟩ := id hr
  have hroom := pruned_heapRoom h hr
  generalize hve : (s.pruneMicro c).rput c k (fixN (n + 16)) = v at hset hv hvrf
  have hvmem : v.mem = s.mem := by rw [← hve]; exact pruned_mem h
  have hvt : ∀ {q : Nat}, Takes s q → Takes v q := fun ht => by rw [← hve]; exact pruned_takes h ht
  have hvpa : v.framePa (cluOf c) (v.world_ c) n = pa := by
    rw [hv.worldOf (steady_bank h) (steady_trap h), hpa, ← hve]
    exact (pruned_frame h).2 ..
  have hobj : v.putObj c n [a, b] = (v.storeOut c pa a).storeOut c (pa + 8) b := by
    rw [State.putObj, hvpa]
    rfl
  have ht0 : Takes v pa := hvt (htakes 0 (by decide))
  have ht1 : Takes v (pa + 8) := hvt (htakes 1 (by decide))
  have hkept := State.storeOut_two c a b ht0 ht1
  have hbody : (s.pruneMicro c).opCons c rd.toNat ((s.pruneMicro c).rget c ra.toNat) ((s.pruneMicro c).rget c rb.toNat) =
      ((v.storeOut c pa a).storeOut c (pa + 8) b).result c rd.toNat (mkTag tCons n) := by
    rw [pruned_rget h, pruned_rget h, ← ea, ← eb, State.opCons, checked_two _ sa sb, State.newObj,
      State.alloc_room (m := [a, b].length) hroom (by simp) (by decide)]
    dsimp only
    rw [hset, hobj]
    rfl
  obtain ⟨hp, hw, h22, hmem⟩ := alloc_passes (uses := [ra, rb]) (n := 1)
    (body := fun s => s.opCons c rd.toNat (s.rget c ra.toNat) (s.rget c rb.toNat)) h
    (Claims.named.regsOk (by simp [hd, ha, hb] : ∀ r ∈ [rd, ra, rb], named r)) hd hbody hk (hv.trans (hkept.under c).of_setMem)
    fun i => (congrArg (sget 0 i) (hkept.rf c)).trans (hvrf i)
  rw [hkept.mem] at hmem
  refine ⟨_, rfl, hp, hw, h22, ?_, ?_, fun x hx => ?_⟩
  · exact (congrArg _ hmem).trans ((mrdW_mwrW_disjoint (by omega) ..).trans (mrdW_mwrW_self ..))
  · exact (congrArg _ hmem).trans (mrdW_mwrW_self ..)
  · refine (congrArg _ hmem).trans ?_
    rw [mrd_mwrW, if_neg (by omega), mrd_mwrW, if_neg (by omega), hvmem]

theorem allocv_makes {m : Nat} (fa : holdsFix s c ra) (hm : int s c ra = m) (hr : HeapRoom s c n ((m + 2) / 2 * 16) pa) :
    Completes (.allocv c rd ra) s fun u =>
      Passes s u c [rd.toNat, 22] (nextPc s c) ∧ u.rget c rd.toNat = mkTag tVec n ∧
      (rd.toNat ≠ 22 → u.rget c 22 = mkTag 0 (n + (m + 2) / 2 * 16)) ∧ mrdW pa u.mem = mkTag 0 (2 ^ 52 + m) ∧ onlyAt s u pa 8 := by
  obtain ⟨k, hk, hset, hv, hvrf⟩ := movedS6 h (fixN (n + (m + 2) / 2 * 16))
  obtain ⟨-, -, -, -, hfit, -, -, hpa, htakes⟩ := id hr
  have hroom := pruned_heapRoom h hr
  have hpay : pay (s.rget c ra.toNat) = m := pay_of_fixI hm
  have hhead : headW 1 0 m = mkTag 0 (2 ^ 52 + m) := headW_vec (by omega)
  generalize hve : (s.pruneMicro c).rput c k (fixN (n + (m + 2) / 2 * 16)) = v at hset hv hvrf
  have hvmem : v.mem = s.mem := by rw [← hve]; exact pruned_mem h
  have hvt : Takes v pa := by rw [← hve]; exact pruned_takes h (htakes 0 (by omega))
  have hvpa : v.framePa (cluOf c) (v.world_ c) n = pa := by
    rw [hv.worldOf (steady_bank h) (steady_trap h), hpa, ← hve]
    exact (pruned_frame h).2 ..
  have hobj : v.putObj c n [mkTag 0 (2 ^ 52 + m)] = v.storeOut c pa (mkTag 0 (2 ^ 52 + m)) := by
    rw [State.putObj, hvpa]
    rfl
  have hkept := State.storeOut_status c (mkTag 0 (2 ^ 52 + m)) hvt
  have hbody : (s.pruneMicro c).opAllocv c rd.toNat ((s.pruneMicro c).rget c ra.toNat) =
      (v.storeOut c pa (mkTag 0 (2 ^ 52 + m))).result c rd.toNat (mkTag tVec n) := by
    rw [pruned_rget h, State.opAllocv, checked_one _ (srcCause_isFix fa), if_neg (by rw [show fixI _ = (m : Int) from hm]; omega), hpay,
      State.alloc_room hroom (by omega) (by omega)]
    dsimp only
    rw [hset, hhead, hobj]
    rfl
  have hl : (regsOk [rd, ra] && true) = true := by rw [Claims.named.regsOk (by simp [hd, ha])]; rfl
  obtain ⟨hp, hw, h22, hmem⟩ := alloc_passes (uses := [ra]) (n := 1)
    (body := fun s => s.opAllocv c rd.toNat (s.rget c ra.toNat)) h hl hd hbody hk (hv.trans (hkept.under c).of_setMem)
    fun i => (congrArg (sget 0 i) (hkept.rf c)).trans (hvrf i)
  rw [hkept.mem] at hmem
  refine ⟨_, rfl, hp, hw, h22, (congrArg _ hmem).trans (mrdW_mwrW_self ..), fun x hx => ?_⟩
  refine (congrArg _ hmem).trans ?_
  rw [mrd_mwrW, if_neg (by omega), hvmem]

end

end Sys2Proof.Machine
end

section
/-! PROOFS. The hold heap: HALLOC and HGC (O32, second part). -/

namespace Sys2Proof.Machine

open Sys2Proof.Claims

/-! ### Words that the L2 holds -/

/-- Microcode reads a word whose line the L2 holds without an error: the word of memory, and nothing changes. -/
theorem State.coreGet_l2 {s : State} {c pa : Nat} (h : InL2 s (cluOf c) pa) (va : Nat) : s.coreGet c pa va = (s, .inr (mrdW pa s.mem)) := by
  obtain ⟨way, x, hw, hx, h1, h2, h3, -⟩ := h
  have hcheck : s.l2Check (cluOf c) (pa / 64) = s := by
    simp only [State.l2Check, hw, hx]
    exact if_pos ⟨h1, h2⟩
  have hprobe : s.probe (cluOf c) pa 0 (cluOf c) = s := by
    rw [State.probe, hcheck]
    exact if_pos (by rw [hw]; rfl)
  have herr : s.fillErr (cluOf c) pa = none := by
    rw [State.fillErr]
    simp only [hw, Option.bind_some, hx]
    exact if_pos h3
  rw [State.coreGet, hprobe, herr]

theorem State.metaGet_l2 {s : State} {c w o : Nat} (h : InL2 s (cluOf c) (s.holdPa w o)) : s.metaGet c w o = (s, .inr (s.metaW w o)) :=
  State.coreGet_l2 h _

/-! ### The state in which a routine's work is done -/

section
variable {c : Nat} {s : State} {e : TlbEnt} (h : Claims.Steady s c e) (n : Nat)
include h

/-- The routine has been counted and has taken `n` cycles; the core's context and the registers that a program sees are as before. -/
theorem routine_state {q : State} (hq : q = ((s.pruneMicro c).bump (oUcs 0x100)).spend c n) : (∃ cores regs, q = { s with cores, regs }) ∧
    State.Under c s q ∧ (q.core c).rf = (s.core c).rf ∧ (q.core c).me.storeQ = (s.core c).me.storeQ ∧ SameRegs (· = oUcs 0x100) s q := by
  have hs := State.beside_spend c n ((s.pruneMicro c).bump (oUcs 0x100))
  rw [← hq] at hs
  obtain ⟨cores, e⟩ := pruned_rest h
  refine ⟨⟨_, _, by rw [hq, e]; rfl⟩, ?_, hs.rf.trans (pruned_rf h), hs.storeQ.trans (pruned_storeQ h), fun o ho => ?_⟩
  · rw [hq]
    exact ((steady_pruned h).trans (State.under_bump c _ _)).trans (State.under_spend c n _)
  · rw [State.reg, hs.regs]
    show ((s.pruneMicro c).bump (oUcs 0x100)).reg o = s.reg o
    rw [State.bump, State.reg_bumpN, if_neg ho, State.reg, State.reg, pruned_regs h]

theorem routine_takes {q : State} {pa : Nat} (hq : q = ((s.pruneMicro c).bump (oUcs 0x100)).spend c n) (ht : Takes s pa) : Takes q pa := by
  obtain ⟨⟨cores, regs, e⟩, -, -, -, hregs⟩ := routine_state h n hq
  refine takes_of (by rw [e]) (fun m hm => hregs _ (by unfold oMem oUcs; omega)) (fun m hm => ?_) ht
  rw [State.domain, State.domain, State.field, State.field, hregs _ (by unfold oPwr oUcs; omega)]

/-- A routine word whose checks pass and whose routine gives its result in one stretch. -/
theorem listOp_result {t : State} {legal : Bool} {uses : List Reg5} {ops : State → List Word} {pre : State → List Word → Option Flt}
    {go : State → MicroRec → Leg} {rd : Nat} {w : Word} (hpre : pre (s.pruneMicro c) (ops (s.pruneMicro c)) = none)
    (hgo : go ((s.pruneMicro c).bump (oUcs 0x100)) ((s.pruneMicro c).freshRec c 0 false (ops (s.pruneMicro c))) = .fin (t.result c rd w)) :
    ∃ body, s.listOp c legal uses ops pre go = s.issueOp c legal uses 0 body ∧ body (s.pruneMicro c) = t.result c rd w := by
  refine ⟨_, rfl, ?_⟩
  rw [pruned_resumable h, if_neg Bool.false_ne_true, hpre]
  dsimp only
  rw [State.routine_fresh (pruned_resumable h false), hgo]
  rfl

end

/-! ### An object in the open block (R151) -/

/-- Memory with the block word of an open block, and the open word of cluster `k` at `n`. -/
def State.placedMem (s : State) (w k blk n : Nat) : List Host.Cell :=
  mwrW (s.holdPa w (0x100 + k * 8)) (fixN n) (mwrW (s.holdPa w (blockOff blk)) (setBf (s.metaW w (blockOff blk)) 55 52 1) s.mem)

section
variable {s : State} {c w blk o bytes : Nat} (h : OpenBlock s w (cluOf c) blk o bytes)
include h

/-- The open block takes the object at its offset, and the open word moves behind it. -/
theorem State.holdAlloc_open : s.holdAlloc c w bytes =
    ((s.setBlock c w blk 1).metaPut c w (0x100 + cluOf c * 8) (fixN (blk * 2 ^ 25 + o + bytes)), .inr (some (holdVa (blk * 2 ^ 25 + o)))) := by
  obtain ⟨hn, hblk, ho, h0, hst, hfit, ⟨hl2, -⟩, hl2', -⟩ := h
  rw [State.holdAlloc, if_neg (fun e => e.elim hn fun e => by unfold blockSize at e; omega), State.metaGet_l2 hl2]
  dsimp only
  rw [hblk, ho, if_neg h0, State.metaGet_l2 hl2']
  dsimp only
  have hopen : (blk != 0 && bf (s.metaW w (blockOff blk)) 55 52 == 1) = true := by simp [h0, hst]
  rw [if_pos ⟨hopen, by unfold blockSize; omega⟩, State.openAt, if_pos (by unfold blockSize; omega),
    show blockSize = 2 ^ 25 from rfl]

/-- Two metadata words are written, and no other byte. -/
theorem State.holdAlloc_kept : State.Kept isStatus
    { s with mem := s.placedMem w (cluOf c) blk (blk * 2 ^ 25 + o + bytes) } (s.holdAlloc c w bytes).1 := by
  rw [State.holdAlloc_open h]
  obtain ⟨-, -, -, -, -, -, ⟨-, hopen⟩, -, hblock⟩ := h
  have h1 := State.storeOut_status c (setBf (s.metaW w (blockOff blk)) 55 52 1) hblock
  have hpa : (s.storeOut c (s.holdPa w (blockOff blk)) (setBf (s.metaW w (blockOff blk)) 55 52 1)).holdPa w (0x100 + cluOf c * 8) =
      s.holdPa w (0x100 + cluOf c * 8) := by
    rw [State.holdPa, h1.world]
    rfl
  have hopen' := h1.takes isStatus_of_lt
    (takes_setMem hopen (mwrW (s.holdPa w (blockOff blk)) (setBf (s.metaW w (blockOff blk)) 55 52 1) s.mem))
  have h2 := State.storeOut_status c (fixN (blk * 2 ^ 25 + o + bytes)) hopen'
  dsimp only
  rw [State.setBlock, State.metaPut, State.metaPut, hpa, State.placedMem]
  refine (h1.setMem _).trans ?_
  rw [h1.mem] at h2
  exact h2

end

/-- What a placed object leaves in memory: the open word, and every byte outside the two metadata words. -/
theorem State.placedMem_open (s : State) (w k blk n : Nat) : mrdW (s.holdPa w (0x100 + k * 8)) (s.placedMem w k blk n) = fixN n :=
  mrdW_mwrW_self ..

theorem State.placedMem_other (s : State) {w k blk n x : Nat} (h1 : x < s.holdPa w (0x100 + k * 8) ∨ s.holdPa w (0x100 + k * 8) + 8 ≤ x)
    (h2 : x < s.holdPa w (blockOff blk) ∨ s.holdPa w (blockOff blk) + 8 ≤ x) : mrd x (s.placedMem w k blk n) = mrd x s.mem := by
  rw [State.placedMem, mrd_mwrW, if_neg (by omega), mrd_mwrW, if_neg (by omega)]

/-! ### HALLOC (R219) -/

section
variable {t q : State} {c rd : Nat} {a : Word} (hq : q = t.spend c 40) (hprov : stProv (q.st c) = 0)
  (hsq : (q.core c).me.storeQ = [])
include hq hprov

/-- A size that is none. -/
theorem State.opHalloc_nil (h : fixI a < 0 ∨ 4194303 < fixI a) : t.opHalloc c rd false a = q.result c rd nilW := by
  rw [State.opHalloc, ← hq, if_neg (by rw [hprov]; decide), if_pos ⟨rfl, h⟩]

include hsq

omit hq hprov in
theorem State.drainAll_empty : q.drainAll c (q.core c).cur = q := by
  rw [State.drainAll, show (q.ctx c (q.core c).cur).storeQ = [] from hsq]
  rfl

theorem State.opHalloc_cons {blk o : Nat} (h : OpenBlock q (q.world_ c) (cluOf c) blk o 16) :
    t.opHalloc c rd true a = (q.holdAlloc c (q.world_ c) 16).1.result c rd (mkTag tCons (0x500000000000 + blk * 2 ^ 25 + o)) := by
  rw [State.opHalloc, ← hq, if_neg (by rw [hprov]; decide), if_neg (fun e => Bool.noConfusion e.1), State.drainAll_empty hsq, if_pos rfl,
    show objBytes 2 = 16 from rfl, State.holdAlloc_open h]
  dsimp only
  rw [if_pos rfl, ptrW, holdVa, ← Nat.add_assoc]

theorem State.opHalloc_vec {n blk o : Nat} (ha : fixI a = n) (hn : n ≤ 4194303)
    (h : OpenBlock q (q.world_ c) (cluOf c) blk o ((n + 2) / 2 * 16)) :
    t.opHalloc c rd false a = ((q.holdAlloc c (q.world_ c) ((n + 2) / 2 * 16)).1.storeOut c
      (q.holdPa (q.world_ c) (blk * 2 ^ 25 + o)) (mkTag 0 (2 ^ 52 + n))).result c rd
        (mkTag tVec (0x500000000000 + blk * 2 ^ 25 + o)) := by
  have hpa : ((q.holdAlloc c (q.world_ c) ((n + 2) / 2 * 16)).1).holdPa (q.world_ c) (blk * 2 ^ 25 + o) =
      q.holdPa (q.world_ c) (blk * 2 ^ 25 + o) := by
    rw [State.holdPa, State.holdPa, (State.holdAlloc_kept h).world]
  rw [State.holdAlloc_open h] at hpa ⊢
  rw [State.opHalloc, ← hq]
  dsimp only at hpa ⊢
  rw [if_neg (by rw [hprov]; decide), if_neg (fun e => by omega), State.drainAll_empty hsq, if_neg Bool.false_ne_true,
    pay_of_fixI ha, show objBytes (n + 1) = (n + 2) / 2 * 16 from rfl, State.holdAlloc_open h]
  dsimp only
  rw [if_neg Bool.false_ne_true, headW_vec (by omega), show holdVa (blk * 2 ^ 25 + o) - holdVa 0 = blk * 2 ^ 25 + o by unfold holdVa; omega,
    hpa, ptrW, holdVa, ← Nat.add_assoc]

end

/-! ### The routine words -/

section
variable {c : Nat} {s q : State} {e : TlbEnt} (h : Claims.Steady s c e) {n : Nat} (hq : q = ((s.pruneMicro c).bump (oUcs 0x100)).spend c n)
include h hq

theorem routine_openBlock {w blk o bytes : Nat} (hb : OpenBlock s w (cluOf c) blk o bytes) : OpenBlock q w (cluOf c) blk o bytes := by
  have ht : ∀ {pa : Nat}, Takes s pa → Takes q pa := routine_takes h n hq
  obtain ⟨⟨cores, regs, e⟩, -⟩ := routine_state h n hq
  obtain ⟨h1, h2, h3, h4, h5, h6, ⟨h7, h8⟩, h9, h10⟩ := hb
  have t8 := ht h8
  have t10 := ht h10
  rw [e] at t8 t10 ⊢
  exact ⟨h1, h2, h3, h4, h5, h6, ⟨h7, t8⟩, h9, t10⟩

theorem routine_metadata : q.mem = s.mem ∧ (∀ w o, q.holdPa w o = s.holdPa w o) ∧
    ∀ w k blk m, q.placedMem w k blk m = s.placedMem w k blk m := by
  obtain ⟨⟨cores, regs, e⟩, -⟩ := routine_state h n hq
  rw [e]
  exact ⟨rfl, fun _ _ => rfl, fun _ _ _ _ => rfl⟩

/-- A routine that has written memory and gives its result. -/
theorem routine_passes {t : State} {m : List Host.Cell} {legal : Bool} {uses : List Reg5} {body : State → Op} {rd : Reg5} {v : Word}
    (hl : legal = true) (hd : named rd) (hb : body (s.pruneMicro c) = t.result c rd.toNat v)
    (hk : State.Kept isStatus { q with mem := m } t) :
    Passes s (s.issueOp c legal uses 0 body) c [rd.toNat] (nextPc s c) ∧ (s.issueOp c legal uses 0 body).rget c rd.toNat = v ∧
      (s.issueOp c legal uses 0 body).mem = m ∧ ∀ w o, (s.issueOp c legal uses 0 body).holdPa w o = s.holdPa w o := by
  obtain ⟨⟨cores, regs, e⟩, hu, hrf, -⟩ := routine_state h n hq
  have ht := hu.trans (hk.under c).of_setMem
  obtain ⟨g, eff, hw, hp, hv, -⟩ := result_passes (uses := uses) (n := 0) h hl hd hb ht [] fun k _ =>
    congrArg (sget 0 k) ((hk.rf c).trans hrf)
  obtain ⟨cores', e'⟩ := ended_rest hw
  refine ⟨hp, hv, (ended_mem hw).trans hk.mem, fun w o => ?_⟩
  rw [e', State.holdPa, State.holdPa]
  show sget 0 w t.world.holdBase + o = _
  rw [hk.world, e]

end

/-- The work of HALLOC on its operand is the word's. -/
theorem halloc_body {c : CoreId} {rd ra : Reg5} {s t : State} {e : TlbEnt} {mode : BitVec 4} {v : Word} (h : Claims.Steady s c e)
    (hm : mode = 1 ∨ holdsFix s c ra)
    (hgo : ((s.pruneMicro c).bump (oUcs 0x100)).opHalloc c rd.toNat (mode == 1) (s.rget c ra.toNat) = t.result c rd.toNat v) :
    ∃ uses body, exec (.halloc c rd ra mode) s =
      .next (s.issueOp c (regsOk [rd, ra] && decide (mode.toNat < 2)) uses 0 body) ∧ body (s.pruneMicro c) = t.result c rd.toNat v := by
  have arg : (s.pruneMicro c).rget c ra.toNat = s.rget c ra.toNat := pruned_rget h _
  rw [← arg] at hgo
  obtain ⟨body, hbody, hres⟩ := listOp_result (legal := regsOk [rd, ra] && decide (mode.toNat < 2)) (uses := if mode = 1 then [] else [ra])
    (ops := fun s => [s.rget c ra.toNat]) (pre := fun _ l => if mode = 1 then none else firstBad [(isFix, l.getD 0 0)])
    (go := fun s r => .fin (s.opHalloc c rd.toNat (mode == 1) (r.operands.getD 0 0))) h (t := t) (rd := rd.toNat) (w := v)
    (by
      by_cases e : mode = 1
      · exact if_pos e
      · have fa : isFix (s.rget c ra.toNat) = true := hm.resolve_left e
        rw [if_neg e, arg]
        simp [firstBad, srcCause_isFix fa])
    (congrArg Leg.fin hgo)
  exact ⟨_, body, congrArg Host.Outcome.next hbody, hres⟩

theorem halloc_legal {rd ra : Reg5} (hd : named rd) (ha : named ra) {mode : BitVec 4} (hm : mode.toNat < 2) :
    (regsOk [rd, ra] && decide (mode.toNat < 2)) = true := by
  rw [Claims.named.regsOk (by simp [hd, ha]), decide_eq_true hm]
  rfl

section
variable {c : CoreId} {rd ra : Reg5} {s : State} {e : TlbEnt} {w blk o : Nat} (h : Claims.Steady s c e)
  (hw : w = s.world_ c) (hprov : stProv (s.st c) = 0) (hsq : (s.core c).me.storeQ = [])
include h hw hprov hsq

/-- What the work of HALLOC may rest on. -/
theorem halloc_state {q : State} (hq : q = ((s.pruneMicro c).bump (oUcs 0x100)).spend c 40) :
    stProv (q.st c) = 0 ∧ (q.core c).me.storeQ = [] ∧ q.world_ c = w := by
  obtain ⟨-, hu, -, hs, -⟩ := routine_state h 40 hq
  exact ⟨by rw [hu.stOf (steady_bank h) (steady_trap h)]; exact hprov, hs.trans hsq,
    (hu.worldOf (steady_bank h) (steady_trap h)).trans hw.symm⟩

variable (hd : named rd) (ha : named ra)
include hd ha

theorem halloc_cons (hb : OpenBlock s w (cluOf c) blk o 16) :
    Completes (.halloc c rd ra 1) s fun u =>
      Passes s u c [rd.toNat] (nextPc s c) ∧ u.rget c rd.toNat = mkTag tCons (0x500000000000 + blk * 2 ^ 25 + o) ∧
      u.metaW w (0x100 + cluOf c * 8) = mkTag 0 (blk * 2 ^ 25 + o + 16) ∧ holdOnly s u w (cluOf c) blk 0 0 := by
  obtain ⟨q, hq⟩ : ∃ q, q = ((s.pruneMicro c).bump (oUcs 0x100)).spend c 40 := ⟨_, rfl⟩
  obtain ⟨qprov, qsq, qw⟩ := halloc_state h hw hprov hsq hq
  have qb := routine_openBlock h hq hb
  have hk := State.holdAlloc_kept qb
  obtain ⟨-, -, hmem⟩ := routine_metadata h hq
  rw [hmem] at hk
  rw [← qw] at qb
  obtain ⟨uses, body, hexec, hres⟩ := halloc_body (mode := 1) h (.inl rfl) (State.opHalloc_cons hq qprov qsq qb)
  rw [qw] at hres
  obtain ⟨hp, hv, hm, hu⟩ := routine_passes (uses := uses) h hq (halloc_legal (mode := 1) hd ha (by decide)) hd hres hk
  refine ⟨_, hexec, hp, hv, ?_, fun x h1 h2 _ => ?_⟩
  · rw [State.metaW, hu, hm]
    exact State.placedMem_open ..
  · rw [hm]
    exact State.placedMem_other s h1 h2

theorem halloc_vec {n : Nat} (fa : holdsFix s c ra) (hn : int s c ra = n) (hmax : n ≤ 4194303)
    (hb : OpenBlock s w (cluOf c) blk o ((n + 2) / 2 * 16)) (ht : Takes s (s.holdPa w (blk * 2 ^ 25 + o))) :
    Completes (.halloc c rd ra 0) s fun u =>
      Passes s u c [rd.toNat] (nextPc s c) ∧ u.rget c rd.toNat = mkTag tVec (0x500000000000 + blk * 2 ^ 25 + o) ∧
      mrdW (s.holdPa w (blk * 2 ^ 25 + o)) u.mem = mkTag 0 (2 ^ 52 + n) ∧ holdOnly s u w (cluOf c) blk (blk * 2 ^ 25 + o) 8 := by
  obtain ⟨q, hq⟩ : ∃ q, q = ((s.pruneMicro c).bump (oUcs 0x100)).spend c 40 := ⟨_, rfl⟩
  obtain ⟨qprov, qsq, qw⟩ := halloc_state h hw hprov hsq hq
  have qb := routine_openBlock h hq hb
  have hk := State.holdAlloc_kept qb
  obtain ⟨-, hpa, hmem⟩ := routine_metadata h hq
  rw [hmem] at hk
  have hk2 := State.storeOut_status c (mkTag 0 (2 ^ 52 + n)) (hk.takes isStatus_of_lt (takes_setMem (routine_takes h 40 hq ht) _))
  rw [hk.mem] at hk2
  have hk3 := (hk.setMem _).trans hk2
  rw [← qw] at qb
  obtain ⟨uses, body, hexec, hres⟩ := halloc_body (mode := 0) h (.inr fa) (State.opHalloc_vec hq qprov qsq hn hmax qb)
  rw [qw, hpa] at hres
  obtain ⟨hp, hv, hm, -⟩ := routine_passes (uses := uses) h hq (halloc_legal (mode := 0) hd ha (by decide)) hd hres hk3
  refine ⟨_, hexec, hp, hv, ?_, fun x h1 h2 h3 => ?_⟩
  · rw [hm]
    exact mrdW_mwrW_self ..
  · rw [hm, mrd_mwrW, if_neg (by omega)]
    exact State.placedMem_other s h1 h2

theorem halloc_nil (fa : holdsFix s c ra) (hn : int s c ra < 0 ∨ 4194303 < int s c ra) :
    Completes (.halloc c rd ra 0) s fun u => Answers s u c rd nilW := by
  obtain ⟨q, hq⟩ : ∃ q, q = ((s.pruneMicro c).bump (oUcs 0x100)).spend c 40 := ⟨_, rfl⟩
  obtain ⟨qprov, -, -⟩ := halloc_state h hw hprov hsq hq
  obtain ⟨uses, body, hexec, hres⟩ := halloc_body (mode := 0) h (.inr fa) (State.opHalloc_nil hq qprov hn)
  rw [hq] at hres
  exact ⟨_, hexec, pruned_answers h (halloc_legal (mode := 0) hd ha (by decide)) hd hres⟩

end

/-! ### HGC (R205) -/

/-- HGC asks for a cycle and answers the EPOCH. -/
theorem hgc_asks {c : CoreId} {rd : Reg5} {s : State} {e : TlbEnt} (h : Claims.Steady s c e) (hd : named rd) (hs : s.sup c = true)
    (hh : s.haOn 4 0 = false) (hn : s.holdBlocks (s.world_ c) ≠ 0) (hl : InL2 s (cluOf c) (s.holdPa (s.world_ c) 0x10)) :
    Completes (.hgc c rd) s fun u => Answers s u c rd (mkTag 0 (bf (s.metaW (s.world_ c) 0x10) 55 0)) ∧
      sget 0 (s.world_ c) u.gc = c.val * 4 + (s.core c).cur + 1 := by
  obtain ⟨q, hq⟩ : ∃ q, q = ((s.pruneMicro c).bump (oUcs 0x100)).spend c 20 := ⟨_, rfl⟩
  obtain ⟨⟨cores, regs, e⟩, hu, hrf, -, hregs⟩ := routine_state h 20 hq
  have qw : q.world_ c = s.world_ c := hu.worldOf (steady_bank h) (steady_trap h)
  have qha : q.haOn 4 0 = false := by
    rw [← hh, State.haOn, State.haOn, State.field, State.field, State.field, State.field, hregs _ (by decide)]
  have qn : q.holdBlocks (s.world_ c) ≠ 0 := by rw [e]; exact hn
  have ql : InL2 q (cluOf c) (q.holdPa (s.world_ c) 0x10) := by rw [e]; exact hl
  have qm : q.metaW (s.world_ c) 0x10 = s.metaW (s.world_ c) 0x10 := by rw [e]; rfl
  obtain ⟨t, ht⟩ : ∃ t, t = { q with gc := sset 0 (s.world_ c) (c.val * 4 + (s.core c).cur + 1) q.gc } := ⟨_, rfl⟩
  have hop : ((s.pruneMicro c).bump (oUcs 0x100)).opHgc c rd.toNat =
      t.result c rd.toNat (mkTag 0 (bf (s.metaW (s.world_ c) 0x10) 55 0)) := by
    rw [State.opHgc, ← hq, qha, if_neg Bool.false_ne_true, State.epoch, qw, if_neg qn, State.metaGet_l2 ql]
    dsimp only
    rw [hu.cur, qm, ht]
    rfl
  obtain ⟨body, hbody, hres⟩ := listOp_result (legal := regsOk [rd]) (uses := []) (ops := fun _ => [])
    (pre := fun s _ => if s.sup c then none else some (flt xPrivileged 0)) (go := fun s _ => .fin (s.opHgc c rd.toNat)) h
    (if_pos ((pruned_sup h).trans hs)) (congrArg Leg.fin hop)
  have hl : regsOk [rd] = true := Claims.named.regsOk (by simp [hd])
  have tu : State.Under c s t := by
    rw [ht]
    exact hu.trans (State.Under.of_core rfl rfl rfl rfl rfl rfl)
  refine ⟨_, congrArg Host.Outcome.next hbody, ?_, ?_⟩
  · refine result_answers h hl hd hres tu ?_ ?_ fun o ho => ?_
    · rw [ht]; exact hrf
    · rw [ht, e]
    · rw [ht]; exact hregs o ho
  · obtain ⟨g, eff, hw, -⟩ := result_passes (uses := []) (n := 0) h hl hd hres tu [] fun k _ => by
      rw [ht]
      exact congrArg (sget 0 k) hrf
    obtain ⟨cores', e'⟩ := ended_rest hw
    have hgc : t.gc = sset 0 (s.world_ c) (c.val * 4 + (s.core c).cur + 1) q.gc := by rw [ht]
    rw [e']
    show sget 0 (s.world_ c) t.gc = _
    rw [hgc]
    exact (sget_sset ..).trans (if_pos rfl)

end Sys2Proof.Machine
end

section
/-! PROOFS. The lines that an L2 holds stay while a store reaches one of them (O32, collection cycle). -/

namespace Sys2Proof.Machine

open Sys2Proof.Claims

/-! ### The lines of one L2 -/

/-- A line without an error whose data has come. -/
def L2Line.good (x : L2Line) : Prop := x.one = 0 ∧ x.two = 0 ∧ x.lost = 0 ∧ x.behind = none

/-- A way holds the line that it held, and a good one stays good. -/
def sameWay (a b : Option L2Line) : Prop := Option.Rel (fun x y => y.line = x.line ∧ (x.good → y.good)) a b

/-- Every way does. -/
def CluSt.SameLines (x y : CluSt) : Prop := ∀ i, sameWay (sget none i x.l2) (sget none i y.l2)

theorem sameWay_refl (a : Option L2Line) : sameWay a a := by
  cases a with
  | none => exact .none
  | some x => exact .some ⟨rfl, id⟩

theorem sameWay_trans {a b c : Option L2Line} (h : sameWay a b) (h' : sameWay b c) : sameWay a c := by
  cases h with
  | none => exact h'
  | some h => cases h' with
    | some h' => exact .some ⟨h'.1.trans h.1, fun hg => h'.2 (h.2 hg)⟩

theorem CluSt.SameLines.refl (x : CluSt) : x.SameLines x := fun _ => sameWay_refl _
theorem CluSt.SameLines.trans {x y z : CluSt} (h : x.SameLines y) (h' : y.SameLines z) : x.SameLines z := fun i => sameWay_trans (h i) (h' i)

theorem sget_mapSnd {α : Type} {f : Option α → Option α} (hf : f none = none) (i : Nat) (l : Sparse (Option α)) :
    sget none i (l.map fun e => (e.1, f e.2)) = f (sget none i l) := by
  induction l with
  | nil => exact hf.symm
  | cons e l ih =>
    obtain ⟨j, v⟩ := e
    simp only [List.map_cons, sget]
    split_ifs
    · rfl
    · exact ih

/-- The data of a line that waited for the eviction of `line` come. -/
def L2Line.arrived (line : Nat) (x : L2Line) : L2Line := if x.behind = some line then { x with behind := none } else x

theorem L2Line.arrived_line (line : Nat) (x : L2Line) : (x.arrived line).line = x.line := by
  unfold L2Line.arrived
  split_ifs <;> rfl

theorem L2Line.arrived_good {x : L2Line} (h : x.good) (line : Nat) : (x.arrived line).good := by
  unfold L2Line.arrived
  split_ifs
  · exact ⟨h.1, h.2.1, h.2.2.1, rfl⟩
  · exact h

theorem CluSt.unblock_l2 (x : CluSt) (line : Nat) : (x.unblock line).l2 = x.l2.map fun e => (e.1, e.2.map (L2Line.arrived line)) := rfl

/-- Lines that waited for no eviction stay. -/
theorem CluSt.sameLines_unblock (x : CluSt) (line : Nat) : x.SameLines (x.unblock line) := fun i => by
  rw [CluSt.unblock_l2, sget_mapSnd (f := Option.map (L2Line.arrived line)) rfl]
  cases sget none i x.l2 with
  | none => exact .none
  | some l => exact .some ⟨l.arrived_line line, fun hg => L2Line.arrived_good hg line⟩

section
variable {s u : State} {k : Nat} (h : (s.clu k).SameLines (u.clu k))
include h

theorem State.l2Find_sameLines (line : Nat) : u.l2Find k line = s.l2Find k line := by
  unfold State.l2Find
  congr 1
  funext w
  have hw := h (line % 4096 * 16 + w)
  revert hw
  generalize sget none (line % 4096 * 16 + w) (s.clu k).l2 = a
  generalize sget none (line % 4096 * 16 + w) (u.clu k).l2 = b
  intro hw
  cases hw with
  | none => rfl
  | some hw => exact congrArg (· == line) hw.1

/-- What the L2 holds without an error it holds so still. -/
theorem inL2_sameLines {pa : Nat} (hin : InL2 s k pa) : InL2 u k pa := by
  obtain ⟨way, x, hf, hx, hgood⟩ := hin
  have hw := h (pa / 64 % 4096 * 16 + way)
  rw [show sget none (pa / 64 % 4096 * 16 + way) (s.clu k).l2 = some x from hx] at hw
  generalize hb : sget none (pa / 64 % 4096 * 16 + way) (u.clu k).l2 = b at hw
  cases hw with
  | some hw => exact ⟨way, _, (State.l2Find_sameLines h _).trans hf, hb, hw.2 hgood⟩

end

/-! ### What a store to a held line does to the lines of its cluster -/

section
variable (s : State) (k : Nat)

theorem State.clu_bump (o : Nat) : (s.bump o).clu k = s.clu k := rfl

theorem State.clu_acceptLine (v : L2Line) : (s.acceptLine v).clu k = s.clu k := by
  rw [State.clu, State.clu, (State.Aside.refl s).acceptLine.clus]

theorem State.sameLines_evictAccept (bank : Nat) : (s.clu k).SameLines ((s.evictAccept k bank).clu k) := by
  unfold State.evictAccept
  extract_lets x
  split
  · exact .refl _
  · rw [State.clu_acceptLine, State.clu_setClu, if_pos rfl]
    exact CluSt.sameLines_unblock _ _

theorem State.sameLines_awaitEvict (line n : Nat) : (s.clu k).SameLines ((s.awaitEvict k line n).clu k) := by
  induction n generalizing s with
  | zero => exact .refl _
  | succ n ih =>
    rw [State.awaitEvict]
    split_ifs
    · exact (s.sameLines_evictAccept k _).trans (ih _)
    · exact .refl _

theorem State.clu_l1Drop (i line : Nat) (keep : Option Nat) : (s.l1Drop i line keep).clu k = s.clu k := by
  have h : (s.l1Drop i line keep).clus = s.clus := foldl_keeps State.clus (fun s _ => s.setCore_clus _ _) _ _
  rw [State.clu, State.clu, h]

theorem State.clu_snoopLine {h : Nat} (hk : k ≠ h) (line : Nat) (write : Bool) : (s.snoopLine h line write).clu k = s.clu k := by
  have accepted : ∀ x : L2Line, (if x.dirty then s.acceptLine x else s).clu k = s.clu k := fun x => by
    split_ifs
    · exact s.clu_acceptLine k x
    · rfl
  have dropped : ∀ t : State, (t.l2Drop h line true).clu k = t.clu k := fun t => by
    unfold State.l2Drop
    split
    · rfl
    · dsimp only
      rw [State.clu_l1Drop, State.l2Set, State.clu_setClu, if_neg hk]
      split_ifs
      · exact t.clu_bump k _
      · rfl
  unfold State.snoopLine
  split
  · rfl
  next w x _ =>
    dsimp only
    split_ifs <;> simp only [dropped, State.l2Set, State.clu_setClu, if_neg hk, State.clu_acceptLine]

theorem State.clu_snoopOthers (line : Nat) (write : Bool) : (s.snoopOthers k line write).clu k = s.clu k := by
  have step : ∀ (t : State) (h : Nat), (if h = k then t else t.snoopLine h line write).clu k = t.clu k := fun t h => by
    split_ifs with e
    · rfl
    · exact t.clu_snoopLine k (Ne.symm e) line write
  have all := foldl_keeps (fun s => s.clu k) step (List.range 32) s
  unfold State.snoopOthers
  extract_lets v
  have hv : v.clu k = s.clu k := all
  split_ifs <;> exact hv

end

theorem L2Line.good_written {x : L2Line} (h : x.good) (i : Nat) : (x.written i).good := by
  obtain ⟨h1, h2, h3, h4⟩ := h
  have clear : clearBit 0 i = 0 := by simp [clearBit, bit]
  exact ⟨by rw [L2Line.written, h1, clear], by rw [L2Line.written, h2, clear], by rw [L2Line.written, h3, clear], h4⟩

/-- A line that takes a word stays, and no other changes. -/
theorem State.sameLines_written {s : State} {k line way : Nat} {x : L2Line} (hx : s.l2At k line way = some x) (i : Nat) :
    (s.clu k).SameLines ((s.l2Set k line way (some (x.written i))).clu k) := fun j => by
  rw [State.l2Set, State.clu_setClu, if_pos rfl]
  dsimp only
  rw [sget_sset]
  split_ifs with hj
  · rw [hj, show sget none (line % 4096 * 16 + way) (s.clu k).l2 = some x from hx]
    exact .some ⟨rfl, fun hg => L2Line.good_written hg _⟩
  · exact sameWay_refl _

section
variable {s : State} {c pa : Nat} (h : InL2 s (cluOf c) pa)
include h

/-- A store to a line that the L2 holds finds it there. -/
theorem State.sameLines_storeLine : (s.clu (cluOf c)).SameLines ((s.storeLine c pa).clu (cluOf c)) := by
  obtain ⟨t, ht⟩ : ∃ t, t = (s.awaitEvict (cluOf c) (pa / 64) (s.evictions (cluOf c))).snoopOthers (cluOf c) (pa / 64) true := ⟨_, rfl⟩
  have h1 : (s.clu (cluOf c)).SameLines (t.clu (cluOf c)) := by
    rw [ht, State.clu_snoopOthers]
    exact s.sameLines_awaitEvict _ _ _
  obtain ⟨way, x, hf, hx, -, -, -, hb⟩ := inL2_sameLines h1 h
  have found : (t.l2Find (cluOf c) (pa / 64)).isSome = true := by rw [hf]; rfl
  have read : t.l2Read (cluOf c) (pa / 64) = t := by
    rw [State.l2Read, hf]
    simp only [Option.bind_some, hx, hb]
  have line : s.storeLine c pa = t.l1Drop (cluOf c) (pa / 64) (some c) := by
    unfold State.storeLine
    simp only [← ht, found, if_true, read]
  rw [line, State.clu_l1Drop]
  exact h1

theorem State.sameLines_storeOut (w : Word) : (s.clu (cluOf c)).SameLines ((s.storeOut c pa w).clu (cluOf c)) := by
  have hs := State.sameLines_storeLine h
  obtain ⟨way, x, hf, hx, -⟩ := inL2_sameLines hs h
  have hw := State.sameLines_written hx (pa / 8 % 8)
  rw [State.storeOut_line, hf]
  generalize s.storeLine c pa = u at hs hx hw ⊢
  simp only [hx, Option.map_some]
  exact hs.trans hw

/-- Nor does it write any register but those of the traffic to installed controllers. -/
theorem State.storeOut_held {P C : Nat → Prop} (hP : Spared P C) (w : Word) :
    State.Kept P { s with mem := mwrW pa w s.mem } (s.storeOut c pa w) := by
  obtain ⟨way, x, hf, -⟩ := inL2_sameLines (State.sameLines_storeLine h) h
  have hu : State.Kept P s (s.storeLine c pa) := (State.Kept.refl P s).storeLine hP
  rw [State.storeOut_line, hf, hu.mem]
  exact hu.l2Set.setMem _

end

end Sys2Proof.Machine
end

section
/-! PROOFS. The collection cycle of a world without a root, and O32 settled. -/

namespace Sys2Proof.Machine

open Sys2Proof.Claims

/-! ### Metadata that the L2 holds, written word by word -/

/-- Status registers of controllers, and the registers of cores in the clusters' windows. -/
def coreOrStatus (o : Nat) : Prop := isStatus o ∨ (0x400000 ≤ o ∧ 0x8000 ≤ o % 0x10000)

theorem spared_coreOrStatus : Spared coreOrStatus (· < 4) where
  high o ho := ho.elim (spared_status.high o) fun h => by omega
  clu k o ho h := h.elim (spared_status.clu k o ho) fun h => by
    unfold oClu at h
    omega
  ctl m hm o ho ho' h := h.elim (spared_status.ctl m trivial o ho ho') fun h => by
    unfold oMem at h
    omega
  low _ hm := hm

theorem coreOrStatus_spill (d j w : Nat) (hj : j < 4) (hw : w ≤ 1) : coreOrStatus (oSpill d j w) := .inr (by
  unfold oSpill oCore oClu
  omega)

/-- Memory has become `m`, and the L2 of cluster `k` holds the lines that it held: what a program and its heap rest on is as before. -/
structure State.Wrote (k : Nat) (m : List Host.Cell) (s u : State) : Prop where
  kept : State.Kept coreOrStatus { s with mem := m } u
  held : ∀ q, InL2 s k q → InL2 u k q

section
variable {k c w o : Nat} {m : List Host.Cell} {s u : State}

theorem State.Wrote.refl (k : Nat) (s : State) : State.Wrote k s.mem s s := ⟨.refl _ s, fun _ => id⟩

theorem State.Wrote.useFree (h : State.Wrote k m s u) : State.Wrote k m s u.useFree := ⟨h.kept.same, h.held⟩

theorem State.Wrote.holdPa (h : State.Wrote k m s u) (w o : Nat) : u.holdPa w o = s.holdPa w o := by
  rw [State.holdPa, h.kept.world]
  rfl

theorem State.Wrote.metaW (h : State.Wrote k m s u) (w o : Nat) : u.metaW w o = mrdW (s.holdPa w o) m := by
  rw [State.metaW, h.holdPa, h.kept.mem]

theorem State.Wrote.metaPut (h : State.Wrote (cluOf c) m s u) (hl : InL2 s (cluOf c) (s.holdPa w o)) (v : Word) :
    State.Wrote (cluOf c) (mwrW (s.holdPa w o) v m) s (u.metaPut c w o v) := by
  have hl := h.held _ hl
  rw [State.metaPut, h.holdPa]
  refine ⟨?_, fun q hq => inL2_sameLines (State.sameLines_storeOut hl v) (h.held q hq)⟩
  have hs := State.storeOut_held hl spared_coreOrStatus v
  rw [h.kept.mem] at hs
  exact (h.kept.setMem _).trans hs

/-- No root appears. -/
theorem State.Wrote.noRoots (h : State.Wrote k m s u) (hw : w ≤ 1) (hr : mrdW (s.holdPa w 0x18) m = s.metaW w 0x18) (hs : NoRoots s w) :
    NoRoots u w := by
  obtain ⟨hblocks, htable, hregs, hspill⟩ := hs
  refine ⟨?_, ?_, fun d hd i => ?_, fun d hd j hj => ?_⟩
  · rw [State.holdBlocks, h.kept.world]
    exact hblocks
  · rw [h.metaW, hr, htable]
  · rw [State.rf, h.kept.rf]
    exact hregs d hd i
  · rw [h.kept.reg _ (coreOrStatus_spill d j w hj hw)]
    exact hspill d hd j hj

end

/-! ### The trace -/

/-- Registers without an object pointer are visited, as many as the fuel allows, and nothing else happens. -/
theorem State.traceAll_registers {s : State} (c w : Nat) (t : Traced) {todo : List Loc}
    (h : ∀ l ∈ todo, ∃ i k, l = .reg i k ∧ isObject (tagOf (s.rf i k)) = false) (fuel : Nat) :
    ∃ rest, s.traceAll c w fuel t todo = (s, .inr (t, rest)) := by
  induction fuel generalizing todo with
  | zero => exact ⟨todo, by cases todo <;> rfl⟩
  | succ fuel ih =>
    cases todo with
    | nil => exact ⟨[], rfl⟩
    | cons l rest =>
      obtain ⟨⟨i, k, rfl, hr⟩, hrest⟩ := List.forall_mem_cons.mp h
      have visited : s.visit c w t (.reg i k) = (s, .inr (t, [])) := by
        simp [State.visit, State.locGet, hr]
      obtain ⟨left, hleft⟩ := ih hrest
      exact ⟨left, by rw [State.traceAll, visited]; exact hleft⟩

/-- Without a spilled window the roots of a core are registers of it. -/
theorem State.mem_coreRoots {s : State} {d w : Nat} (h : ∀ j, j < 4 → bf (s.reg (oSpill d j w)) 63 48 = 0) {l : Loc}
    (hl : l ∈ s.coreRoots d w) : ∃ k, l = .reg d k := by
  rcases List.mem_append.mp hl with hl | hl
  · split_ifs at hl
    · obtain ⟨i, -, rfl⟩ := List.mem_map.mp hl
      exact ⟨_, rfl⟩
    · cases hl
  · obtain ⟨j, hj, hl⟩ := List.mem_flatMap.mp hl
    unfold State.ctxRoots at hl
    simp only [h j (List.mem_range.mp hj), Nat.zero_mul, List.range_zero, List.filterMap_nil, List.append_nil] at hl
    rcases List.mem_append.mp hl with hl | hl
    · obtain ⟨i, -, hi⟩ := List.mem_filterMap.mp hl
      split_ifs at hi
      exact ⟨_, (Option.some.inj hi).symm⟩
    · obtain ⟨i, -, rfl⟩ := List.mem_map.mp hl
      exact ⟨_, rfl⟩

/-- What a trace that reached no object ends with. -/
def untraced : Traced := { seen := [], live := [], stuck := false }

/-- Where a cycle's trace begins. -/
def State.cycleRoots (s : State) (w n : Nat) : List Loc := s.rootTable w n ++ (List.range 512).flatMap fun i => s.coreRoots i w

theorem State.cycleRoots_registers {s : State} {w : Nat} (h : NoRoots s w) :
    ∀ l ∈ s.cycleRoots w 0, ∃ i k, l = .reg i k ∧ isObject (tagOf (s.rf i k)) = false := by
  obtain ⟨-, -, hregs, hspill⟩ := h
  intro l hl
  rcases List.mem_append.mp hl with hl | hl
  · cases hl
  · obtain ⟨d, hd, hl⟩ := List.mem_flatMap.mp hl
    have hd := List.mem_range.mp hd
    obtain ⟨k, rfl⟩ := State.mem_coreRoots (hspill d hd) hl
    exact ⟨d, k, rfl, hregs d hd k⟩

/-- A cycle whose trace meets no object ends when no word is left, and else stays unfinished. -/
theorem State.gcRun_untraced {s : State} {c w fuel : Nat} {e : Word} {rest : List Loc} (hg : s.metaGet c w 0x18 = (s, .inr e))
    (ht : s.traceAll c w fuel untraced (s.cycleRoots w (bf e 55 0)) = (s, .inr (untraced, rest))) :
    s.gcRun c w fuel = if rest = [] then s.gcEnd c w untraced else (s, none) := by
  unfold untraced State.cycleRoots at ht
  rw [State.gcRun, hg]
  dsimp only
  rw [ht]
  cases rest with
  | nil => rw [if_pos rfl, untraced]
  | cons l rest => rw [if_neg (List.cons_ne_nil l rest)]

theorem State.gcRun_noRoots {s : State} {c w : Nat} (h : NoRoots s w) (hl : InL2 s (cluOf c) (s.holdPa w 0x18)) (fuel : Nat) :
    s.gcRun c w fuel = s.gcEnd c w untraced ∨ s.gcRun c w fuel = (s, none) := by
  obtain ⟨rest, hrest⟩ := State.traceAll_registers c w untraced (State.cycleRoots_registers h) fuel
  obtain ⟨-, htable, -⟩ := h
  rw [State.gcRun_untraced (State.metaGet_l2 hl) (htable ▸ hrest)]
  exact ite_eq_or_eq ..

/-- With one block of hold heap the block table is empty. -/
theorem State.gcEnd_oneBlock {s : State} {w : Nat} (h : s.holdBlocks w = 1) (c : Nat) (t : Traced) : s.gcEnd c w t =
    ({ (s.metaPut c w 0x10 (fixN (bf (s.metaW w 0x10) 55 0 + 1))).metaPut c w 0x20 0 with
      gc := sset 0 w 0 (s.metaPut c w 0x10 (fixN (bf (s.metaW w 0x10) 55 0 + 1))).gc }, none) := by
  rw [State.gcEnd, h]
  rfl

/-- EPOCH advances, and the request ends. -/
theorem State.Wrote.gcEnd {s b : State} {c w : Nat} {m : List Host.Cell} (hb : State.Wrote (cluOf c) m s b) (hn : b.holdBlocks w = 1)
    (h10 : InL2 s (cluOf c) (s.holdPa w 0x10)) (h20 : InL2 s (cluOf c) (s.holdPa w 0x20)) (t : Traced) :
    ∃ u, b.gcEnd c w t = (u, none) ∧ sget 0 w u.gc = 0 ∧ u.metaW w 0x20 = 0 ∧ u.metaW w 0x10 = fixN (bf (b.metaW w 0x10) 55 0 + 1) := by
  rw [State.gcEnd_oneBlock hn]
  have h1 := hb.metaPut h10 (fixN (bf (b.metaW w 0x10) 55 0 + 1))
  generalize b.metaPut c w 0x10 _ = v at h1 ⊢
  have h2 := h1.metaPut h20 0
  generalize v.metaPut c w 0x20 0 = u at h2 ⊢
  refine ⟨_, rfl, ?_, (h2.metaW w 0x20).trans (mrdW_mwrW_self ..), (h2.metaW w 0x10).trans ?_⟩
  · dsimp only
    rw [sget_sset, if_pos rfl]
  · rw [mrdW_mwrW_disjoint (by unfold State.holdPa; omega), mrdW_mwrW_self]

/-! ### The cycle -/

/-- The state in which a cycle begins: it is marked running, and a restart is counted. -/
def State.gcBegun (s : State) (c w : Nat) : State :=
  (if bf (s.metaW w 0x20) 55 0 = 2 then s.metaPut c w 0x28 (fixN (bf (s.metaW w 0x28) 55 0 + 1)) else s).metaPut c w 0x20 (fixN 1)

/-- How far the trace comes, an open choice. -/
def State.gcFuel (s : State) : Nat := if bit s.freeVal.toNat 0 then 1000000000000 else s.freeVal.toNat / 2

theorem State.wrote_gcBegun {s : State} {c w : Nat} (h : ∀ o, o ∈ [0x10, 0x18, 0x20, 0x28] → InL2 s (cluOf c) (s.holdPa w o)) :
    ∃ m, State.Wrote (cluOf c) m s (s.gcBegun c w) ∧ mrdW (s.holdPa w 0x20) m = fixN 1 ∧
      ∀ o, o = 0x10 ∨ o = 0x18 → mrdW (s.holdPa w o) m = s.metaW w o := by
  have counted : ∃ m, State.Wrote (cluOf c) m s
        (if bf (s.metaW w 0x20) 55 0 = 2 then s.metaPut c w 0x28 (fixN (bf (s.metaW w 0x28) 55 0 + 1)) else s) ∧
      ∀ o, o = 0x10 ∨ o = 0x18 → mrdW (s.holdPa w o) m = s.metaW w o := by
    split_ifs
    · refine ⟨_, (State.Wrote.refl _ s).metaPut (h 0x28 (by simp)) _, fun o ho => mrdW_mwrW_disjoint ?_ ..⟩
      unfold State.holdPa
      omega
    · exact ⟨_, .refl _ s, fun _ _ => rfl⟩
  obtain ⟨m, hm, hold⟩ := counted
  refine ⟨_, hm.metaPut (h 0x20 (by simp)) (fixN 1), mrdW_mwrW_self .., fun o ho => ?_⟩
  rw [mrdW_mwrW_disjoint (by unfold State.holdPa; omega), hold o ho]

section
variable {s : State} {t : Time} {c : CoreId} {j : CtxId} {w : Nat}

theorem State.collectionCycle_traced (hw : w = 0 ∨ w = 1 ∧ sget 0 0 s.gc ≠ c.val * 4 + j.val + 1)
    (hgc : sget 0 w s.gc = c.val * 4 + j.val + 1) (hgap : (s.at t).inGap = true) (hha : s.haOn 4 0 = false) (hn : s.holdBlocks w ≠ 0)
    (hfree : s.ctxFree c = true) {u : State}
    (hu : ((s.at t).gcBegun c w).useFree.gcRun c w ((s.at t).gcBegun c w).gcFuel = (u, none)) :
    exec (.collectionCycle t c j) s = .next u := by
  have world : (if sget 0 0 (s.at t).gc = c.val * 4 + j.val + 1 then 0 else 1) = w := by
    rcases hw with rfl | ⟨rfl, h⟩
    · exact if_pos hgc
    · exact if_neg h
  have guard : ¬ (sget 0 w (s.at t).gc ≠ c.val * 4 + j.val + 1 ∨ (s.at t).inGap = false ∨ (s.at t).haOn 4 0 = true ∨
      (s.at t).holdBlocks w = 0 ∨ (s.at t).ctxFree c = false) := by
    rintro (h | h | h | h | h)
    · exact h hgc
    · exact Bool.noConfusion (hgap.symm.trans h)
    · exact Bool.noConfusion (hha.symm.trans h)
    · exact hn h
    · exact Bool.noConfusion (hfree.symm.trans h)
  show execCollectionCycle t c j s = .next u
  unfold State.gcBegun State.gcFuel at hu
  unfold execCollectionCycle
  dsimp only
  rw [world, if_neg guard, hu]

theorem collectionCycle_noRoots (hw : w = 0 ∨ w = 1 ∧ sget 0 0 s.gc ≠ c.val * 4 + j.val + 1)
    (hgc : sget 0 w s.gc = c.val * 4 + j.val + 1) (hgap : (s.at t).inGap = true) (hha : s.haOn 4 0 = false) (hr : NoRoots s w)
    (hfree : s.ctxFree c = true) (hl : ∀ o, o ∈ [0x10, 0x18, 0x20, 0x28] → MetaHere s w (cluOf c) o) :
    Completes (.collectionCycle t c j) s fun u =>
      (sget 0 w u.gc = 0 ∧ u.metaW w 0x20 = 0 ∧ u.metaW w 0x10 = fixN (bf (s.metaW w 0x10) 55 0 + 1)) ∨
        (u.gc = s.gc ∧ u.metaW w 0x20 = mkTag 0 1 ∧ u.metaW w 0x10 = s.metaW w 0x10) := by
  have hmeta : ∀ o, o ∈ [0x10, 0x18, 0x20, 0x28] → InL2 s (cluOf c) (s.holdPa w o) := fun o ho => (hl o ho).1
  have hle : w ≤ 1 := by omega
  have hn : s.holdBlocks w ≠ 0 := by rw [hr.1]; decide
  obtain ⟨m, hb, hrun, hold⟩ := State.wrote_gcBegun (s := s.at t) hmeta
  have hb := hb.useFree
  have traced := @State.collectionCycle_traced s t c j w hw hgc hgap hha hn hfree
  generalize (s.at t).gcBegun c w = b at hb traced
  have roots := hb.noRoots hle (hold 0x18 (.inr rfl)) hr
  rcases State.gcRun_noRoots roots (hb.holdPa w 0x18 ▸ hb.held _ (hmeta 0x18 (by simp))) b.gcFuel with h | h
  · obtain ⟨u, hu, hgc, h20, h10⟩ := hb.gcEnd roots.1 (hmeta 0x10 (by simp)) (hmeta 0x20 (by simp)) untraced
    rw [hb.metaW, hold 0x10 (.inl rfl)] at h10
    exact ⟨u, traced (h.trans hu), .inl ⟨hgc, h20, h10⟩⟩
  · exact ⟨_, traced h, .inr ⟨hb.kept.gc, (hb.metaW w 0x20).trans hrun, (hb.metaW w 0x10).trans (hold 0x10 (.inl rfl))⟩⟩

end

/-- Settles O32: the words of the local heap make a cell and a VEC at s6, HALLOC places its object in the open block or answers NIL, HGC
asks for a cycle, and a cycle without roots has nothing to trace but registers. -/
theorem heapsAllocateAndCollect : Obligations.HeapsAllocateAndCollect := by
  unfold Obligations.HeapsAllocateAndCollect
  refine ⟨fun c rd ra rb s e n pa h hd ha hb => ⟨fun a b ea eb sa sb hr => ?_, fun k fa hk hr => ?_⟩,
    fun c rd ra s e w k blk o h hd ha hw hk hprov hsq => ?_, fun c rd s e h hd hs hh hn hl => ?_,
    fun t c j s w hw hgc hgap hha hr hfree hl => ?_⟩
  · exact cons_makes h hd ha hb ea eb sa sb hr
  · exact allocv_makes h hd ha fa hk hr
  · subst hk
    exact ⟨halloc_cons h hw hprov hsq hd ha, fun n fa hn hmax hb ht => halloc_vec h hw hprov hsq hd ha fa hn hmax hb ht,
      halloc_nil h hw hprov hsq hd ha⟩
  · exact hgc_asks h hd hs hh hn hl
  · exact collectionCycle_noRoots hw hgc hgap hha hr hfree hl

end Sys2Proof.Machine
end
